-- ==== Sys2Proof/Word.lean ====
section
/-! DEFINITION. The words of the PB4264: what the manual treats as bits (R4, R5, R11). -/
namespace Sys2Proof

/-- A byte of an envelope, a frame or a memory. -/
abbrev Byte := BitVec 8
/-- A steward register, a scalar station, a little-endian u32 field. -/
abbrev Word := BitVec 32
/-- A vector register or a vector station: 64 lanes of 4 bits. -/
abbrev Vec := BitVec 256
/-- A predicate register: bit i governs lane i. -/
abbrev Pred := BitVec 64

end Sys2Proof
end

