-- ==== Sys2Proof/Syntax.lean ====
section
/-! DEFINITION. The commands of the PB4264 block: one constructor of `Instr` for each row of
spec/opcode_table.json, with the data its environment hands it.  A time operand `t` counts units of 312.5 ps
(R213) since the reset; a steward operand `k` is the steward that executes the instruction. -/
namespace Sys2Proof

/-- A port's link: Round East, Round West, or the twin link, which uses the same framing (R96, R337). -/
inductive Link where
  | east
  | west
  | twin
deriving DecidableEq, Repr

/-- The two link sequence spaces of a hop direction (R98). -/
inductive Space where
  | ordinary
  | express
deriving DecidableEq, Repr

/-- The envelope header (R107); reserved bits are ignored (R10).  `west` says on which port the envelope arrived,
which is not part of the header bytes.  Its LEN is the length of the payload beside it. -/
structure Env where
  west : Bool            -- arrived on port West (else East)
  dest : Byte
  src : Byte
  cls : BitVec 2
  stream : BitVec 4
  kind : Byte
  seq : Word
  hops : Byte
  retx : Bool
  wrapped : Bool
  first : Bool
  last : Bool
  bad : Bool
  aux : Word
deriving DecidableEq, Repr

/-- A frame on a hop: START fields, envelope, END fields (R98). `blocks` is the number of data blocks between
START and END, which R108 checks against the length. -/
structure Frame where
  lseq : BitVec 12
  space : Space
  env : Env
  payload : List Byte
  crc : Word
  pad : BitVec 3
  blocks : Nat
  okBlocks : Bool        -- every control block inside the frame had a listed type byte (R98)
deriving DecidableEq, Repr

/-- What training reads from the DRAM parts (R429, R430, R441). -/
structure DramPart where
  density : Fin 3        -- 0 16 Gbit, 1 32 Gbit, 2 64 Gbit
  ranks2 : Bool          -- two ranks per channel
  rfm : Bool             -- the part asks for refresh management
deriving DecidableEq, Repr

/-- What the block has measured since the last evaluation of the slack loop (R44, R173, R296). -/
structure SlackMeas where
  work : List (Fin 24 × Nat)   -- pod and work time, in ps, of each line that its screening engine has completed
  lanes : List Nat             -- the share of its capacity that each decoder lane has used, in 1/1024
  compCap : Nat                -- samples/s the compressor encodes at the present voltage and temperature
  pipeCap : Nat                -- pixels/s a Sight pipeline processes at the present voltage and temperature
deriving DecidableEq, Repr

/-- A feed frame (R134) with the checks of its coding layer: the CRC of its END block and whether its length in
data blocks, less PAD, is 16 + LEN. -/
structure FeedFrame where
  jobId : Word
  ftype : Byte
  rsv : Byte
  slot : BitVec 16
  number : Word
  len : Word
  payload : List Byte
  crc : Word
  lenOk : Bool
  okBlocks : Bool        -- every control block between its START and its END had a listed type byte (R133)
  full : Bool            -- the compressor's input buffer had no room for it (R174)
deriving DecidableEq, Repr

/-- A postcard of the twin (R332). -/
structure Postcard where
  pairPos : Bool         -- the sender's PAIR_POS
  role : BitVec 2
  joined : Bool
  eligible : Bool
  release : Bool
  hbSeen : Bool
  notElig : BitVec 16
  epoch : Word
  hseq : Word
  bseq : Word
  pcseq : Word
  tbPress : Word
  pair : Byte
  version : Word
deriving DecidableEq, Repr

/-- An upstream STATUS frame of a pod (R250). -/
structure PodStatus where
  eacc : Word
  follow : BitVec 2
  hv : Bool
  inhibit : Bool
  coasting : Bool
  scanning : Bool
  lost : Bool
  temp : BitVec 16
  coast : Word
  drops : Word
  crcErr : BitVec 16
  seqErr : BitVec 16
  stale : BitVec 16
  lastLine : Word
deriving DecidableEq, Repr

/-- A job declaration (R137), as its 48 bytes give it. -/
structure Decl where
  jobId : Nat
  xres : Nat
  yres : Nat
  depth : Nat
  ratio : Nat
  samples : Nat
  firstCol : Nat
  maxRate : Nat
  storeBase : Nat
  storeRows : Nat
  flags : Nat
  libBase : Nat
  libSlotRows : Nat
  libSlots : Nat
deriving DecidableEq, Repr

/-- A claim record (R92). -/
structure Claim where
  kind : Nat
  excl : Bool
  first : Nat
  count : Nat
deriving DecidableEq, Repr

/-- A loaded program image of a customer steward (R91). -/
structure Image where
  steward : Nat
  claims : List Claim
  entry : Nat
  code : List Byte
  data : List Byte
  zeroed : Nat
deriving DecidableEq, Repr

/-- One placed page of the running job, or one waiting for its place (R143, R225). `p` is its first print line
once placed. `slot` is the library slot of a replayed page; `recorded` says that it holds a page record. -/
structure Page where
  number : Nat
  first : Nat            -- first contone line
  count : Nat            -- real contone lines
  slot : Option Nat
  recorded : Bool
  p : Option Nat
deriving DecidableEq, Repr

/-- A line-qualified write (R75, R76) or a conditional health write (R318). -/
inductive LqData where
  | scalar (addr : Nat) (v : Word)
  | vector (addr : Nat) (v : Vec)
  | health (entry : Nat) (fromState : Nat) (toState : Nat) (gain : Option (BitVec 8)) (reason : Nat) (camera : Nat)
      (d : Int) (frame : Nat)
  | reset (entry : Nat) (toState : Nat) (zeroGain : Bool)
deriving DecidableEq, Repr

/-- An entry of the line-qualified queue: its named line, its write, and the steward that armed it, if one did. -/
structure LqEntry where
  line : Nat
  data : LqData
  steward : Option (Fin 8)
deriving DecidableEq, Repr

/-- One axis as the MOTION section carries it (R426). -/
structure AxisSnap where
  mode : Nat             -- 0 idle, 1 target, 2 segments, 3 retract, 4 braking to rest
  p : Int                -- s48 with 16 fraction bits
  v : Int
  target : Int
  seg : Nat
  segP0 : Int
  segV0 : Int
  segE : Nat
  qlog : Nat
  k : Nat                -- place of K on its ramp to K_HOLD, 0 to 16 (R415)
  idle : Nat
  encPos : Int
  count : Int
  faults : Nat
  cmpArmed : Bool
  cmpHeld : Bool
deriving DecidableEq, Repr

/-- The placement fields that a hamper and the snapshot carry (R236): grid anchors, Wmax, each row's next unfired line,
class credits and H, the pages with their places, and the requests in flight: the armed compare, whether W has been
below its point, and W of the last accepted cue mark. -/
structure PlaceSnap where
  anchors : List (Nat × Int)
  wmax : Int
  nextLine : List Nat
  credits : List Nat
  hist : List (List Nat)
  pages : List Page
  cmp : Option Int
  cmpBelow : Bool
  cueW : Option Int
deriving DecidableEq, Repr

/-- The changes of a pair-address stream that a letter made (R122), with the outcome recorded. -/
structure Outcome where
  seq : Word
  repeatable : Bool
  code : Byte
  detail : BitVec 16
  aux : Word
  line : Word
  epoch : Word
  data : List Byte
  mode : Byte            -- class of the receipt
  due : Bool             -- its receipt leaves from the new active (R352)
deriving DecidableEq, Repr

/-- One entry of a hamper's sections (R338). -/
inductive JEntry where
  | place (line : Nat) (time : Nat) (x : PlaceSnap)
  | skip (line : Nat) (classes : List Nat)
  | stn (addr : Nat) (v : Word)
  | vstn (addr : Nat) (v : Vec)
  | lq (line : Nat) (addr : Nat) (v : Word)
  | vlq (line : Nat) (addr : Nat) (v : Vec)
  | mapAct (named : Nat) (effective : Nat)
  | mapRet (line : Nat)
  | hlt (e : LqEntry)
  | round (src : Byte) (stream : BitVec 4) (isOpen : Bool) (expected : Word) (o : Option Outcome)
  | scratch (steward : Fin 8) (chunk : Nat) (v : Vec)
  | motion (axes : List AxisSnap) (retract : Bool) (liftLock : Bool)
  | power (hvEn : BitVec 24) (hvFault : BitVec 24) (inhibit : BitVec 24)
  | jobDecl (d : Decl)
  | jobEnd (reason : Nat)
  | ctxCommit (n : Fin 4) (tag : BitVec 16)
  | expGo (n : Fin 4) (tag : BitVec 16)
  | pods (p : Fin 24) (coast : Word) (eacc : Word)
  | load (im : Image)
  | unload (k : Fin 8)
  | halt (k : Fin 8)
  | restart (k : Fin 8)
  | bulk (src : Byte) (stream : BitVec 4) (seq : Word)
deriving DecidableEq, Repr

/-- A hamper (R338). -/
structure Hamper where
  final : Bool
  timed : Bool
  early : Bool
  hseq : Word
  epoch : Word
  line : Word
  tbPress : Word
  horizon : Word
  pend : Word
  jobId : Word
  bytes : Nat            -- its size on the link
  entries : List JEntry
deriving DecidableEq, Repr

/-- A job as the snapshot carries it: its declaration, its page records and how far its announcements have come. -/
structure JobSnap where
  decl : Decl
  pages : List Page
  nextFirst : Nat
  lastPage : Option Nat
  records : Nat
  jobEnd : Option Nat
  lastLine : Option Nat
deriving DecidableEq, Repr

/-- A committed Sight set of a camera (R303). -/
structure SightSet where
  camera : Fin 4
  tag : BitVec 16
  words : List (Nat × Word)
  tabs : List (Nat × Vec)
deriving DecidableEq, Repr

/-- An accepted exposure set of a camera (R303). -/
structure SightExp where
  camera : Fin 4
  ns : Nat
  gain : Word
  tag : BitVec 16
deriving DecidableEq, Repr

/-- A bulk frame of the twin link (R342, R359, R360, R525). -/
inductive Bulk where
  | dram (addr : Nat) (data : List Byte)                 -- bytes of a mirrored DRAM_WRITE or of the snapshot
  | firmware (image : List Byte)                         -- the image of a FIRMWARE letter to the pair
  | peerWrite (writes : List (Nat × Word))               -- R525
  | stations (words : List (Nat × Word)) (vecs : List (Nat × Vec))   -- snapshot: mirrored groups, tables
  | mapCopy (kept : List (Nat × BitVec 16)) (slots : List (Nat × BitVec 8))   -- snapshot: live copy of the nozzle map
  | version (named x : Nat) (kept : List (Nat × BitVec 16)) (slots : List (Nat × BitVec 8)) (stn : List (Nat × Word))
  | queue (es : List LqEntry)                            -- snapshot: line-qualified queue
  | streams (rs : List JEntry)                           -- snapshot: pair-address streams, mirrored scratch, skip decisions
  | jobs (running next : Option JobSnap) (place : Option PlaceSnap)   -- snapshot: jobs, and the placement state as in PLACE
  | sight (sets : List SightSet) (exps : List SightExp)  -- snapshot: committed Sight sets, newest exposure sets
  | image (im : Image)                                   -- a loaded program
  | libRow (slot row : Nat) (data : List Byte)           -- R360: a library block row
  | ranges (rs : List (Nat × Nat))                       -- R342: tracked DRAM ranges
  | snapshotEnd                                          -- the last frame of the snapshot
deriving DecidableEq, Repr

/-- How a camera line arrived (R287): whole, or with a packet fault. -/
structure CamLine where
  stream : Byte          -- its stream ID (R280)
  pixels : List Nat      -- raw samples, one per pixel
  good : Bool            -- no CRC error, no missing packet tag, width as declared
deriving DecidableEq, Repr

/-- One command: a row of spec/opcode_table.json with its operands. -/
inductive Instr where
  -- scalar steward instructions (R67)
  | add (k : Fin 8) (d a b : Fin 32)
  | sub (k : Fin 8) (d a b : Fin 32)
  | and (k : Fin 8) (d a b : Fin 32)
  | or (k : Fin 8) (d a b : Fin 32)
  | xor (k : Fin 8) (d a b : Fin 32)
  | sll (k : Fin 8) (d a b : Fin 32)
  | srl (k : Fin 8) (d a b : Fin 32)
  | sra (k : Fin 8) (d a b : Fin 32)
  | slt (k : Fin 8) (d a b : Fin 32)
  | sltu (k : Fin 8) (d a b : Fin 32)
  | min (k : Fin 8) (d a b : Fin 32)
  | max (k : Fin 8) (d a b : Fin 32)
  | minu (k : Fin 8) (d a b : Fin 32)
  | maxu (k : Fin 8) (d a b : Fin 32)
  | mul (k : Fin 8) (d a b : Fin 32)
  | mulh (k : Fin 8) (d a b : Fin 32)
  | mulhu (k : Fin 8) (d a b : Fin 32)
  | slli (k : Fin 8) (d a : Fin 32) (n : Fin 32)
  | srli (k : Fin 8) (d a : Fin 32) (n : Fin 32)
  | srai (k : Fin 8) (d a : Fin 32) (n : Fin 32)
  | clz (k : Fin 8) (d a : Fin 32)
  | popc (k : Fin 8) (d a : Fin 32)
  | addss (k : Fin 8) (d a b : Fin 32)
  | subss (k : Fin 8) (d a b : Fin 32)
  | addi (k : Fin 8) (d a : Fin 32) (imm : BitVec 16)
  | andi (k : Fin 8) (d a : Fin 32) (imm : BitVec 16)
  | ori (k : Fin 8) (d a : Fin 32) (imm : BitVec 16)
  | xori (k : Fin 8) (d a : Fin 32) (imm : BitVec 16)
  | slti (k : Fin 8) (d a : Fin 32) (imm : BitVec 16)
  | sltiu (k : Fin 8) (d a : Fin 32) (imm : BitVec 16)
  | lui (k : Fin 8) (d : Fin 32) (imm : BitVec 21)
  | lw (k : Fin 8) (d a : Fin 32) (imm : BitVec 16) (parity : Bool)   -- parity: the local data fail their parity check (R87)
  | lh (k : Fin 8) (d a : Fin 32) (imm : BitVec 16) (parity : Bool)
  | lhu (k : Fin 8) (d a : Fin 32) (imm : BitVec 16) (parity : Bool)
  | lb (k : Fin 8) (d a : Fin 32) (imm : BitVec 16) (parity : Bool)
  | lbu (k : Fin 8) (d a : Fin 32) (imm : BitVec 16) (parity : Bool)
  | sw (k : Fin 8) (d a : Fin 32) (imm : BitVec 16)
  | sh (k : Fin 8) (d a : Fin 32) (imm : BitVec 16)
  | sb (k : Fin 8) (d a : Fin 32) (imm : BitVec 16)
  | loadDataReturn (k : Fin 8) (ecc : Fin 3)   -- ecc: 0 no new error, 1 a single-bit, 2 a double-bit error in the data
  | amoswap (k : Fin 8) (d a b : Fin 32) (parity : Bool)
  | amoadd (k : Fin 8) (d a b : Fin 32) (parity : Bool)
  | amoand (k : Fin 8) (d a b : Fin 32) (parity : Bool)
  | amoor (k : Fin 8) (d a b : Fin 32) (parity : Bool)
  | amocas (k : Fin 8) (d a b : Fin 32) (parity : Bool)
  | beq (k : Fin 8) (a b : Fin 32) (off : BitVec 16)
  | bne (k : Fin 8) (a b : Fin 32) (off : BitVec 16)
  | blt (k : Fin 8) (a b : Fin 32) (off : BitVec 16)
  | bge (k : Fin 8) (a b : Fin 32) (off : BitVec 16)
  | bltu (k : Fin 8) (a b : Fin 32) (off : BitVec 16)
  | bgeu (k : Fin 8) (a b : Fin 32) (off : BitVec 16)
  | bpany (k : Fin 8) (p : Fin 8) (off : BitVec 16)
  | bpnone (k : Fin 8) (p : Fin 8) (off : BitVec 16)
  | j (k : Fin 8) (off : BitVec 26)
  | jal (k : Fin 8) (off : BitVec 26)
  | jalr (k : Fin 8) (d a : Fin 32)
  | halt (k : Fin 8)
  | brk (k : Fin 8) (imm : BitVec 16)
  | illegal (k : Fin 8) (w : Word) (parity : Bool)   -- parity: the fetched word fails its parity check (R87)
  -- nibble-vector instructions (R70 to R72)
  | vadd (k : Fin 8) (vd va vb : Fin 16) (pg : Fin 8)
  | vadds (k : Fin 8) (vd va vb : Fin 16) (pg : Fin 8)
  | vsubs (k : Fin 8) (vd va vb : Fin 16) (pg : Fin 8)
  | vand (k : Fin 8) (vd va vb : Fin 16) (pg : Fin 8)
  | vor (k : Fin 8) (vd va vb : Fin 16) (pg : Fin 8)
  | vxor (k : Fin 8) (vd va vb : Fin 16) (pg : Fin 8)
  | vmin (k : Fin 8) (vd va vb : Fin 16) (pg : Fin 8)
  | vmax (k : Fin 8) (vd va vb : Fin 16) (pg : Fin 8)
  | vsel (k : Fin 8) (vd va vb : Fin 16) (pg : Fin 8)
  | vlut (k : Fin 8) (vd va vb : Fin 16) (pg : Fin 8)
  | vsplat (k : Fin 8) (vd : Fin 16) (imm : BitVec 4) (pg : Fin 8)
  | vslu (k : Fin 8) (vd va : Fin 16) (n : Fin 32) (pg : Fin 8)
  | vsldLanes (k : Fin 8) (vd va : Fin 16) (n : Fin 32) (pg : Fin 8)
  | vceq (k : Fin 8) (pd : Fin 8) (va vb : Fin 16) (pg : Fin 8)
  | vclt (k : Fin 8) (pd : Fin 8) (va vb : Fin 16) (pg : Fin 8)
  | vceqi (k : Fin 8) (pd : Fin 8) (va : Fin 16) (imm : BitVec 4) (pg : Fin 8)
  | vclti (k : Fin 8) (pd : Fin 8) (va : Fin 16) (imm : BitVec 4) (pg : Fin 8)
  | pand (k : Fin 8) (pd pa pb : Fin 8)
  | por (k : Fin 8) (pd pa pb : Fin 8)
  | pxor (k : Fin 8) (pd pa pb : Fin 8)
  | pandn (k : Fin 8) (pd pa pb : Fin 8)
  | vext (k : Fin 8) (g : Fin 32) (v : Fin 16) (lane : Fin 64)
  | vins (k : Fin 8) (g : Fin 32) (v : Fin 16) (lane : Fin 64)
  | prdlo (k : Fin 8) (g : Fin 32) (p : Fin 8)
  | prdhi (k : Fin 8) (g : Fin 32) (p : Fin 8)
  | pwrlo (k : Fin 8) (g : Fin 32) (p : Fin 8)
  | pwrhi (k : Fin 8) (g : Fin 32) (p : Fin 8)
  | pcnt (k : Fin 8) (g : Fin 32) (p : Fin 8)
  | pfirst (k : Fin 8) (g : Fin 32) (p : Fin 8)
  | vsum (k : Fin 8) (g : Fin 32) (v : Fin 16) (p : Fin 8)
  | vld (k : Fin 8) (vd : Fin 16) (a : Fin 32) (imm : BitVec 16) (parity : Bool)
  | vst (k : Fin 8) (vd : Fin 16) (a : Fin 32) (imm : BitVec 16)
  -- station instructions (R73 to R77), control registers (R78), fence (R85), events and mailboxes (R80)
  | sld (k : Fin 8) (d a : Fin 32) (imm : BitVec 16)
  | sst (k : Fin 8) (d a : Fin 32) (imm : BitVec 16)
  | ssq (k : Fin 8) (d a b : Fin 32)
  | vsld (k : Fin 8) (vd : Fin 16) (a : Fin 32) (imm : BitVec 16)
  | vsst (k : Fin 8) (vd : Fin 16) (a : Fin 32) (imm : BitVec 16)
  | vssq (k : Fin 8) (vd : Fin 16) (a c : Fin 32)
  | lqQueueRoom (k : Fin 8)
  | scr (k : Fin 8) (d : Fin 32) (n : BitVec 16)
  | scw (k : Fin 8) (d : Fin 32) (n : BitVec 16)
  | fence (k : Fin 8) (imm : BitVec 16)
  | wait (k : Fin 8) (d : Fin 32)
  | waitt (k : Fin 8) (d a : Fin 32)
  | evpoll (k : Fin 8) (d : Fin 32)
  | evsig (k : Fin 8) (a b : Fin 32)
  | msend (k : Fin 8) (d a b : Fin 32)
  | mrecv (k : Fin 8) (d b : Fin 32)
  | stewardWake (k : Fin 8)
  | waittTimeout (k : Fin 8)
  | watchdogExpiry (k : Fin 8)
  -- Round and twin hops (R98 to R106)
  | roundFrame (l : Link) (f : Frame) (parity : Bool)   -- parity: the stream state of the letter it brings fails its parity check
  | nak (l : Link) (sp : Space) (lseq : BitVec 12)
  | acknowledgement (l : Link) (ackO ackX : BitVec 12)
  | nakRepeat (l : Link) (sp : Space)
  | retryTimeout (l : Link) (sp : Space)
  | linkDown (l : Link)
  | linkTrained (l : Link)
  | unwrap (west : Bool)
  | parcelEnvelope (e : Env) (pl : List Byte)
  | parcelTimeout (dest : Byte) (src : Byte) (stream : BitVec 4)
  -- letters (R116)
  | write (e : Env) (pl : List Byte)
  | arm (e : Env) (pl : List Byte)
  | vwrite (e : Env) (pl : List Byte)
  | varm (e : Env) (pl : List Byte)
  | read (e : Env) (pl : List Byte)
  | vread (e : Env) (pl : List Byte)
  | inbox (e : Env) (pl : List Byte)
  | load (e : Env) (pl : List Byte)
  | unload (e : Env) (pl : List Byte)
  | restart (e : Env) (pl : List Byte)
  | haltSteward (e : Env) (pl : List Byte)
  | dramWrite (e : Env) (pl : List Byte)
  | dramRead (e : Env) (pl : List Byte)
  | job (e : Env) (pl : List Byte)
  | longDramRetrain (e : Env)
  | longPodScan (e : Env)
  | longThermosCommit (e : Env)
  | longLaneRetune (e : Env)
  | longOperationEnd (okMask : BitVec 42)
  | firmware (e : Env) (pl : List Byte)
  | handoverNow (e : Env)
  | handoverArm (e : Env)
  | handoverCancel (e : Env)
  | deadRead (e : Env) (pl : List Byte)
  | deadClear (e : Env) (pl : List Byte)
  | streamOpen (e : Env) (pl : List Byte)
  | enumerate (e : Env) (pl : List Byte)
  | assign (e : Env) (pl : List Byte)
  | linkStatus (e : Env) (pl : List Byte)
  | status (e : Env) (pl : List Byte)
  | sync (e : Env) (pl : List Byte) (t : Nat) (inc : Word)   -- t: its START block at ingress; inc: what the loop's filter gives
  | delayReq (e : Env) (pl : List Byte) (t2 t3 : Nat)        -- START blocks: the request's at ingress, the answer's at egress
  | delayResp (e : Env) (pl : List Byte) (t4 : Nat)          -- START block at ingress
  | delayReqSend (t1East t1West : Nat)                       -- START blocks at egress
  | camRead (e : Env) (args : List Word)
  | camWrite (e : Env) (args : List Word)
  | camRoutineTimeout (n : Fin 4)
  | hltScanApply (e : Env) (args : List Word)
  | hltReset (e : Env) (args : List Word)
  | claimRead (e : Env) (args : List Word)
  | keyEnroll (e : Env) (args : List Word)
  | keyRevoke (e : Env) (args : List Word)
  | pairRestart (e : Env) (args : List Word)
  | peerWrite (e : Env) (args : List Word)
  | peerWriteTimeout
  -- feed and Packer (R132 to R174)
  | feedLine (f : FeedFrame) (mismatches : Fin 3)
  | feedPage (f : FeedFrame)
  | feedReplay (f : FeedFrame)
  | feedLib (f : FeedFrame)
  | feedJobEnd (f : FeedFrame)
  | feedDeadline (c : Nat) (tie : Bool)
  | pkrCompress (v : Word)
  | pkrDecompress (v : Word)
  | pkrJobStop (bad : List (Nat × Bool))   -- records of this run, from 0, whose first encoding fails its verification, and whether the second fails too
  -- screening and placement (R175 to R239)
  | rowLineDecision (p : Fin 24) (r : Fin 8) (l : Nat) (parity : List Nat) (thrParity : List Nat)   -- map entries and threshold cells (65536 n + 256 y + x) whose parity fails
  | webEdge (a b : Bool) (heldA heldB : Nat) (t : Nat)   -- levels at tick t, and for how many consecutive samples each input has held its level (R214)
  | illegalTransition (t : Nat)
  | extrapolationEnd (t : Nat)
  | webIndexEdge (t : Nat)
  | webStop (t : Nat)
  | fireLineBoundary (t : Nat) (m : SlackMeas) (replica : Int)
  | rowTrigger (p : Fin 24) (r : Fin 8) (t : Nat)
  | cueMark (probe : Fin 4) (falling : Bool) (t : Nat)
  | pagecmpArm (v : Word)
  | pageCompareFire (t : Nat)
  | lineSyncPulse (t : Nat)
  | syncPulseMissing
  -- pod links (R240 to R276)
  | lineDataSend (p : Fin 24) (r : Fin 8) (l : Nat) (n : Nat) (parityBad : Option Nat)   -- n: segments that leave now
  | fireSend (p : Fin 24) (r : Fin 8) (l : Nat) (t : Nat)
  | podUnderrun (p : Fin 24) (r : Fin 8) (l : Nat) (t : Nat)
  | podlEnable (p : Fin 24)
  | podBringupTimeout (p : Fin 24)
  | podBringupRetry (p : Fin 24)
  | podStatus (p : Fin 24) (st : PodStatus) (bad : Bool)   -- bad, here and below: a check of R248 fails
  | readResp (p : Fin 24) (tag : BitVec 16) (addr : BitVec 16) (v : Word) (bad : Bool)
  | echoResp (p : Fin 24) (tag : BitVec 16) (turn : Word) (t : Nat) (bad : Bool)
  | echoMeasure (p : Fin 24) (t : Nat)
  | rscanData (p : Fin 24) (row : Fin 8) (seg : Fin 256) (bytes : List Byte) (bad : Bool)
  | rscanDone (p : Fin 24) (aborted : Bool) (bad : Bool)
  | scanTimeout
  | podLinkLost (p : Fin 24)
  | podStatusSilence (p : Fin 24)
  | podlPurgeGo (v : Word)
  -- cameras and Sight (R277 to R306)
  | camEnable (n : Fin 4)
  | camBringupRetry (n : Fin 4)
  | camControlAck (n : Fin 4) (ok : Bool) (v : Word)
  | triggerSlot (n : Fin 4) (l : Nat) (t : Nat)
  | cameraLine (n : Fin 4) (ln : CamLine)
  | frameTimeout (n : Fin 4)
  | spoolFrameStart
  | frameProcessed (n : Fin 4)
  | ctxCommit (n : Fin 4)
  | expGo (n : Fin 4)
  -- health (R307 to R326)
  | healthFrameScore (n : Fin 4)
  | healthBatchIssue
  | mapJournal
  | journalFold
  -- twin (R327 to R361)
  | electWaitExpiry
  | peerResetWaitEnd
  | peerRstRelease
  | postcardSend
  | postcardReceive (c : Postcard)
  | hamperTimedClose
  | hamperReceive (h : Hamper) (whole : Bool)
  | twinBulkReceive (b : Bulk) (i n : Nat)   -- frame i, from 0, of the n frames of one piece of bulk content
  | resyncEnd
  | resyncTimeout
  | resyncRetry
  | twinSilence (arrived : Bool)
  | twinPathSilent (pin : Bool) (arrived : Bool)
  | activeTwinSilence (arrived : Bool)
  | hamperAckTimeout (arrived : Bool)
  | hamperTimeout (arrived : Bool)
  | handoverLaneIdle
  | clearHidden
  -- mailbag and time (R372 to R402)
  | mailbagPass
  | mbClearSlot (v : Word)
  | mbClearAll
  | trGo (k : Fin 8) (tag : BitVec 16)
  | compareUnitFire (u : Fin 8) (t : Nat)
  | housekeepingRoundEnd (codes : List (BitVec 12)) (dieT : List Int)
  | tmcArm (u : Fin 8) (v : Word)
  | tmcDisarm (u : Fin 8)
  | tbStep (b : Fin 4) (v : Word)
  | tbAnchorUpdate
  | syncHoldover
  | holdoverAlarm
  -- bar motion (R403 to R428)
  | motTarget (x : Fin 4) (v : Word)
  | segGo (x : Fin 4) (v : Word)
  | motStop (mask : BitVec 4)
  | motRetract
  | spliceEdge (falling : Bool) (held : Nat)   -- and for how many consecutive ticks it has held (R420)
  | retractRelease
  | setPos (x : Fin 4) (v : Word)
  | liftLockWrite (v : Word)
  | axisCmpArm (x : Fin 4) (v : Word)
  | axisCmpDisarm (x : Fin 4)
  | axisEncoderEdge (x : Fin 4) (a b : Bool) (heldA heldB : Nat)   -- levels, and for how many consecutive samples each input has held its level (R407, R214)
  | axisIndexEdge (x : Fin 4)
  | probeEdge (n : Fin 4) (falling : Bool)
  | holdDelayExpiry (x : Fin 4)
  -- DRAM (R429 to R445)
  | dramScrub (addr : Nat) (ecc : Fin 3)
  | dramRefresh (ch : Fin 4) (bank : Fin 16)
  | dramMr4Poll (ch : Fin 4) (hot : Bool) (rate : BitVec 5)
  | dramDriftTrack (ch : Fin 4) (up : Option Bool)
  | dramFreqGo (v : Word)
  | dramFreqDone
  -- DMA (R446 to R461)
  | dmaHeadWrite (c : Fin 16) (v : Word)
  | dmaRun (c : Fin 16)
  | dmaAbort (c : Fin 16)
  | dmaPause (c : Fin 16)
  | dmaResume (c : Fin 16)
  | dmaSwreq (v : Word)
  | dmaBurst (c : Fin 16) (withdrawn : Bool)   -- withdrawn: a level request went away between the grant and the burst's end
  | dmaRequestTimeout (c : Fin 16)
  | dmaDescriptorEnd (c : Fin 16)
  -- lanes (R462 to R480)
  | laneLos (l : Fin 42)
  | laneLol (l : Fin 42)
  | laneLosRelease (l : Fin 42)
  | laneSettled (l : Fin 42)
  | laneTest (l : Fin 42) (v : Word)
  | laneChk (l : Fin 42)
  -- power and thermal (R481 to R496)
  | slackTimer (m : SlackMeas) (replica : Int)   -- replica: below 0 when the express replica's margin is below its low mark
  | vfloorFall
  | phaseOvercurrent (n : Fin 8) (current : Nat)
  | coreUndervoltage (mv : Nat)
  | coreOvervoltage (mv : Nat)
  | hvEnWrite (v : Word)
  | hvSequenceStep
  | hvOkTimeout (p : Fin 24)
  | thermalModelStep (vcore icore : Nat)   -- VDD_CORE in mV and the summed phase current in 10 mA, as measured
  -- start-up, reset, thermos (R497 to R517)
  | powerOnReset (pairPos : Bool)
  | pinResetAssert
  | pinResetRelease
  | restartReset
  | fallbackReset
  | powerLoss
  | readiness (trained : BitVec 4) (fastOk : BitVec 4) (part : DramPart)
  | thermosSettingsCommit (wear : BitVec 16) (swapped : Nat)   -- the highest page count by now, and pages swapped since the last commit (R503)
  | thermosCounterWrite
  -- board manager and JTAG (R547 to R550)
  | i2cStatusRead
  | tapReset
  | extest
  | idcode
  | samplePreload (cells : List Bool)
  | extestPulse
  | extestTrain
  | clamp
  | highz
  | imageLoad
  | imageLoadUpdate (w : Word)
  | imageCommit
  | imageStatus
  | bypass (code : Byte)
  -- rows the table lists last
  | stationStore (k : Option (Fin 8)) (addr : Word) (v : Word)
  | long (e : Env) (pl : List Byte)
  | handover (e : Env) (pl : List Byte)
  | call (e : Env) (pl : List Byte)
  | unknownLetterKind (e : Env) (pl : List Byte)
  | hbInEdge
  | laneLolRelease (l : Fin 42)
  | groupAligned (g : Fin 4)
  | groupAlignmentLost (g : Fin 4)
  | dmaPauseDrained (c : Fin 16)
  | podRateSwitch (p : Fin 24)
deriving DecidableEq, Repr

end Sys2Proof
end

