-- ==== Sys2Proof/Decode.lean ====
section
/-! DEFINITION. Decoding.  The opcode table gives no row any bits, so no word spells a command
(`decodeTableWord`).  The 32-bit words of the stewards' own instructions are recognised by `gyenoLegal`, from the
tables of R66 to R80; an ILLEGAL command names a word, and only a word that is not legal faults. -/
namespace Sys2Proof

/-- The command a word spells by the table's bits: the table gives none. -/
def decodeTableWord (_nbits _w : Nat) : Option Instr := none

/-- Bits `lo + n - 1` to `lo` of a word. -/
def bitsOf (w : Word) (lo n : Nat) : Nat := w.toNat / 2 ^ lo % 2 ^ n

/-- A T-format word of major opcode 0x00: its function code is listed, and its unused fields are 0 (R66, R67). -/
def legalAlu (w : Word) : Bool :=
  let fn := bitsOf w 0 11
  let b := bitsOf w 11 5
  decide (fn ≤ 0x0D) || (decide (0x10 ≤ fn) && decide (fn ≤ 0x12)) || (decide (0x15 ≤ fn) && decide (fn ≤ 0x17))
    || ((fn == 0x18 || fn == 0x19) && b == 0) || fn == 0x1A || fn == 0x1B

/-- A V-format word of major opcode 0x28 (R70). R70 does not show every unused field as 0: the model takes a non-zero
imm5 of the operations 0x00 to 0x09, 0x10 and 0x11, and a non-zero vb of VSLU and VSLD, as ILLEGAL too (DESIGN CHOICE,
log entry 94). -/
def legalV (w : Word) : Bool :=
  let vd := bitsOf w 22 4
  let va := bitsOf w 18 4
  let vb := bitsOf w 14 4
  let pg := bitsOf w 11 3
  let fn := bitsOf w 5 6
  let imm := bitsOf w 0 5
  if fn ≤ 0x09 then imm == 0
  else if fn = 0x0A then va == 0 && vb == 0 && decide (imm < 16)
  else if fn = 0x0B ∨ fn = 0x0C then vb == 0
  else if fn = 0x10 ∨ fn = 0x11 then decide (vd < 8) && imm == 0
  else if fn = 0x12 ∨ fn = 0x13 then decide (vd < 8) && vb == 0 && decide (imm < 16)
  else if 0x18 ≤ fn ∧ fn ≤ 0x1B then
    decide (vd < 8) && decide (va < 8) && decide (vb < 8) && pg == 0 && imm == 0
  else false

/-- A VX-format word of major opcode 0x29 (R71). -/
def legalVX (w : Word) : Bool :=
  let v := bitsOf w 17 4
  let p := bitsOf w 14 3
  let z := bitsOf w 12 2
  let l := bitsOf w 6 6
  let fn := bitsOf w 0 6
  z == 0 &&
    (if fn ≤ 1 then p == 0
     else if fn ≤ 7 then v == 0 && l == 0
     else if fn = 8 then l == 0
     else false)

/-- The registers SCR can read (R78). -/
def scrListed (n : Nat) : Bool := decide (n ≤ 0x0B) || (decide (0x10 ≤ n) && decide (n ≤ 0x13)) || n == 0x20
/-- The registers SCW can write: those of access RW (R78). -/
def scwListed (n : Nat) : Bool := n == 0x05 || n == 0x07 || n == 0x09

/-- An event or mailbox word of major opcode 0x3B: unused fields 0 (R80). -/
def legalEv (w : Word) : Bool :=
  let d := bitsOf w 21 5
  let a := bitsOf w 16 5
  let b := bitsOf w 11 5
  let fn := bitsOf w 0 11
  if fn = 0 ∨ fn = 2 then a == 0 && b == 0
  else if fn = 1 then b == 0
  else if fn = 3 then d == 0
  else if fn = 4 then true
  else if fn = 5 then a == 0
  else false

/-- The word is an instruction the tables of R66 to R80 and R85 list: opcode and function listed, fields shown as 0
are 0, fields within their range.  All other words raise ILLEGAL (R66). -/
def gyenoLegal (w : Word) : Bool :=
  let op := bitsOf w 26 6
  let d := bitsOf w 21 5
  let a := bitsOf w 16 5
  let b := bitsOf w 11 5
  let fn := bitsOf w 0 11
  let imm := bitsOf w 0 16
  if op = 0x00 then legalAlu w
  else if 0x01 ≤ op ∧ op ≤ 0x0F then true
  else if op = 0x10 ∨ op = 0x11 then bitsOf w 21 1 == 0
  else if op = 0x12 then decide (fn ≤ 4)
  else if 0x18 ≤ op ∧ op ≤ 0x1D then true
  else if op = 0x1E ∨ op = 0x1F then decide (d < 8) && a == 0
  else if op = 0x20 ∨ op = 0x21 then true
  else if op = 0x22 then b == 0 && fn == 0
  else if op = 0x28 then legalV w
  else if op = 0x29 then legalVX w
  else if op = 0x30 ∨ op = 0x31 then true
  else if op = 0x32 then fn == 0
  else if op = 0x33 ∨ op = 0x34 then bitsOf w 21 1 == 0
  else if op = 0x35 then bitsOf w 21 1 == 0 && fn == 0
  else if op = 0x38 then a == 0 && scrListed imm
  else if op = 0x39 then a == 0 && scwListed imm
  else if op = 0x3A then d == 0 && a == 0 && decide (imm < 8) && imm != 0
  else if op = 0x3B then legalEv w
  else if op = 0x3D then d == 0 && a == 0 && imm == 0
  else if op = 0x3E then d == 0 && a == 0
  else false

end Sys2Proof
end

