-- ==== Sys2Proof/Config.lean ====
section
/-! DEFINITION. What the manual leaves to the implementation: free values.  Each is opaque, so that nothing can be
proved of its value; the notes of notes/assumptions/ say where each is used. -/
namespace Sys2Proof.Config

/-- The time in ns between a happening and the resident's postmark of it (R391); the argument counts the uses. -/
opaque postmarkDelay : Nat → Nat

/-- A 32-bit value the manual leaves open; the argument counts the uses. -/
opaque freeWord : Nat → Word

/-- The token body the compressor chooses for a piece after a history (R164: not specified), as bytes. -/
opaque exactTokens : List Byte → List Byte → List Byte

/-- An entry of the sine table of R414 is rounded up: no rule gives its rounding. -/
opaque sineUp : Nat → Bool

/-- The bytes an entry takes in a hamper section of this kind, where R338 states no layout. -/
opaque entryLen : Nat → Nat

/-- Content of the twin link whose layout no rule states. -/
opaque layoutByte : Nat → Byte

end Sys2Proof.Config
end

