-- ==== Sys2Proof/Machine/State.lean ====
section
/-! DEFINITION. The state of the block, as plain data: every register, memory, queue and mode the spec gives the
PB4264.  The scalar stations live in one sparse store (`stn`), the vector stations in another (`vstn`); what the
chapters describe beside their stations lies in the structures below, one per engine. -/
namespace Sys2Proof.Machine
open Sys2Proof

/-- Why the machine stops with a fault. -/
inductive Fault where
  /-- Raised by no meaning: every command of the table has its effect in every state.  Kept so that the type is
  inhabited; safe. -/
  | none
deriving DecidableEq, Repr

/-- Why the machine refuses a command. -/
inductive Refusal where
  /-- Raised by an arm of `exec` whose command has no meaning yet; safe. -/
  | notModelled (mnemonic : String)
deriving DecidableEq, Repr

/-! ## Stewards (chapter 03) -/

/-- What a steward is doing. -/
inductive Run where
  | halted
  | running
  | sleeping (d : Fin 32) (timed : Bool)          -- in WAIT or WAITT, result register d (R80)
  | loading (vec : Bool) (d : Fin 32) (kind : Nat) (addr : Nat)   -- DRAM-window load under way: kind 0 LW, 1 LH, 2 LHU, 3 LB, 4 LBU, 5 VLD; addr is the usable DRAM byte
  | queueing (e : LqEntry)                        -- SSQ or VSSQ waiting for room (R75)
deriving DecidableEq, Repr

/-- The bank of trace stations of one steward and its gap account (R379, R380). -/
structure TraceBank where
  pmLo : Word
  pmHi : Word
  d0 : Word
  d1 : Word
  d2 : Word
  dropped : Nat
  firstPm : BitVec 64
  lastPm : BitVec 64
deriving DecidableEq, Repr

/-- One steward (R59 to R90). -/
structure Steward where
  g : Vector Word 32
  v : Vector Vec 16
  p : Vector Pred 8
  pc : Word
  run : Run
  prog : Option Image          -- the loaded image of stewards 0 to 5
  fault : Word                 -- SC_FAULT
  epc : Word
  faddr : Word
  evmask : Word
  evpend : Word
  wdog : Word                  -- SC_WDOG as last loaded, µs; 0 is off
  wdogAt : Nat                 -- `clk.ns` at that load (R90)
  latewin : Word
  dwin : Word
  instret : Word
  start : Word
  imem : List Host.Cell
  dmem : List Host.Cell
  mbox : List (Word × Fin 8)
  trace : TraceBank
deriving DecidableEq, Repr

/-! ## Time (chapter 14) -/

/-- The time bases and the Round synchronisation (R384 to R395). -/
structure Clk where
  now : Nat                    -- 312.5 ps units since reset (R213)
  acc : Vector (BitVec 60) 4   -- 32 integer and 28 fraction bits of ns
  step : Vector Word 4         -- steps that apply at the next tick (R386)
  ns : Nat                     -- ns that TB-PRESS has counted since reset, its steps left out
  big : Nat                    -- consecutive offsets with |o| > 200 ns
  good : Nat                   -- consecutive offsets with |o| < 100 ns
  acquired : Bool              -- the first acquisition after reset has been made
  lastSync : Nat               -- `now` at the last SYNC taken
  period : Word                -- PERIOD of the last SYNC, ns
  ext : BitVec 64              -- extended TB-PRESS of the resident (R389)
  reqEast : Option Int         -- egress latch t1 of the DELAY_REQ under way, 2^-16 ns
  reqWest : Option Int
  held : BitVec 8              -- compare units armed behind their target under LATE_HOLD (R400)
  delayEast : Int              -- link delay, 2^-16 ns (R131)
  delayWest : Int
deriving DecidableEq, Repr

/-! ## The Round (chapter 04) -/

/-- A frame in a replay buffer, or waiting to enter one (R101). -/
structure TxFrame where
  lseq : BitVec 12
  env : Env
  payload : List Byte
deriving DecidableEq, Repr

/-- One link sequence space of one port, both directions (R98, R101). -/
structure HopSpace where
  expected : BitVec 12         -- receiver: next LSEQ
  missing : Bool               -- a NAK is out and the frame is still missing
  next : BitVec 12             -- transmitter: LSEQ of the next frame
  replay : List TxFrame        -- sent and not acknowledged, oldest first
  waiting : List TxFrame       -- not sent yet: the replay buffer has no room, or the link is down
  resends : Nat                -- resends of the oldest frame without progress (R102)
  share : Nat                  -- express frames sent since the last express alarm, while one waits (R114)
deriving DecidableEq, Repr

/-- A port: Round East, Round West or the twin link. -/
structure Port where
  up : Bool
  wrapped : Bool
  ord : HopSpace
  exp : HopSpace
deriving DecidableEq, Repr

/-- The state of one stream of an address (R119). -/
structure Stream where
  pair : Bool                  -- a stream of the pair address, else of the device address
  src : Byte
  stream : BitVec 4
  isOpen : Bool
  expected : Word
  record : List Outcome        -- the last 16 outcomes of non-repeatable letters, oldest first
deriving DecidableEq, Repr

/-- An unfinished parcel (R118). -/
structure Parcel where
  dest : Byte
  src : Byte
  stream : BitVec 4
  seq : Word
  kind : Byte
  aux : Nat                    -- offset the next envelope must have
  data : List Byte
  sent : Bool                  -- the data of every envelope so far have gone to the twin as they arrived (R342)
deriving DecidableEq, Repr

/-- An entry of the dead-letter queue (R126). -/
structure DeadEntry where
  env : Env
  len : Nat
  code : Byte
  detail : BitVec 16
  pm : Word
  head : List Byte             -- first 40 payload bytes, zero-filled
deriving DecidableEq, Repr

/-- A receipt held until the standby acknowledges hamper `hseq` (R57). -/
structure HeldReceipt where
  hseq : Word
  bseq : Word                  -- bulk frame that must be acknowledged too (R342)
  named : Bool                 -- a hamper's BULK section names its letter, or none needs to
  west : Bool
  env : Env
  payload : List Byte
deriving DecidableEq, Repr

/-- A long operation under way (R127). -/
structure Busy where
  op : Nat
  letter : Option Env          -- the starting letter, whose outcome leaves at the end
  image : List Byte            -- operation 4: the firmware image
  start : Nat                  -- time of its acceptance
deriving DecidableEq, Repr

/-- The Round interface. -/
structure Round where
  east : Port
  west : Port
  streams : List Stream
  parcels : List Parcel
  dead : List DeadEntry
  busy : Option Busy
  held : List HeldReceipt
  bcast : List (Byte × Word)   -- last broadcast SEQ taken from each source (R109)
  hostWest : Bool              -- port of the latest envelope from the host adapter (R115)
  inbox : List (Env × List Byte)   -- envelopes taken and not executed yet
  calls : List (Env × Nat × List Word)   -- routines that wait, oldest first: letter, routine number and arguments
deriving DecidableEq, Repr

/-! ## The mailbag (chapter 13) -/

/-- One alarm slot (R376). -/
structure Slot where
  isOpen : Bool
  count : Word
  first : BitVec 64
  last : BitVec 64
  epoch : Word
  line : Word
  detail : List Word           -- four words of the first occurrence
  sent : Word                  -- COUNT at the last record
  sentAt : Nat                 -- time of the last record, ns of extended TB-PRESS
  lastAt : Nat                 -- time of the last occurrence
deriving DecidableEq, Repr

/-- A queued record of stream 1: its slot, its MSEQ (0 before one is taken, R373), whether it is the FIRST, and, for
a record that a close made FINAL, the slot as it stood at its close (R377). -/
structure QRec where
  slot : Nat
  mseq : Word
  first : Bool
  final : Option Slot
deriving DecidableEq, Repr

/-- A record of the mailbag that waits to leave: stream, MSEQ and its bytes (R373 to R380). -/
structure MRec where
  stream : Nat
  mseq : Word
  bytes : List Byte
deriving DecidableEq, Repr

/-- The mailbag (R372 to R381). -/
structure Mbx where
  slots : List (Nat × Slot)    -- slots that are not as after reset, by slot number, rising
  queue : List QRec            -- records of stream 1 that wait to leave, in queueing order
  express : List MRec          -- stream 0, at most 256
  ring : List MRec             -- trace ring, oldest first
  mseq : Vector Word 16        -- next MSEQ of each stream
  started : Bool               -- device-started has taken its MSEQ
deriving DecidableEq, Repr

/-! ## The twin (chapter 12) -/

/-- The role of R361. -/
inductive Role where
  | electing
  | active
  | standby
  | none
deriving DecidableEq, Repr

/-- How far a voluntary hand-over has come on the device that gives the bar (R353). -/
inductive Handover where
  | no
  | due                        -- waits for the next fire line boundary
  | final                      -- FINAL hamper closed, waits for its acknowledgement
  | released                   -- ACTIVE_OUT dropped, pod lanes idle with the old epoch
deriving DecidableEq, Repr

/-- How far the assertion of PEER_RST_OUT has come (R19, R30). -/
inductive PeerRst where
  | low
  | high                       -- asserted, its 1 µs not over
  | waited                     -- asserted, 1 µs over
deriving DecidableEq, Repr

/-- The twin unit. -/
structure Twin where
  role : Role
  epoch : Word
  port : Port
  hbSeen : Bool                -- an edge of HB_IN has arrived since readiness
  pinLive : Bool
  pcLive : Bool
  peer : Option Postcard       -- last good postcard
  pcseq : Word
  joined : Bool
  notElig : BitVec 16          -- this device's reasons (R345)
  pageErr : Option Nat         -- when the last uncorrectable error in the page store was found (R345, bit 10)
  blank : Bool                 -- joined by resync in the running job, whose feed it had not taken from the start (R360)
  roleAt : Nat                 -- time of the last change of role (R361)
  peerRst : PeerRst
  rstFor : Nat                 -- what the reset is for: 0 nothing, 1 election, 2 take-over, 3 twin reset, 4 PAIR_RESTART
  yielded : Bool               -- this electing device has sent RELEASE (R328)
  hseq : Word                  -- last hamper closed (active) or accepted (standby)
  acked : Word                 -- last hamper the standby acknowledged
  sent : List Hamper           -- closed and not acknowledged, oldest first
  fill : List JEntry           -- effects of the hamper that is filling, oldest first
  fillX : Nat                  -- bytes of its express reserve in use
  bseqOut : Word
  bseqIn : Word
  bseqAck : Word
  buffered : List Hamper       -- hampers that wait for the snapshot (R359)
  snapshot : Bool              -- active: the twin follows though not joined yet; joining device: the snapshot's last frame has been applied
  ranges : List (Nat × Nat)    -- ranges of mirrored DRAM_WRITE letters, start and length (R342)
deriving DecidableEq, Repr

/-- The rest of the twin unit: hand-overs and the bar they hand. -/
structure TwinHo where
  ho : Handover
  armed : Bool                 -- MODE 1 (R352)
  letters : List Env           -- HANDOVER letters whose receipts leave after the hand-over
  stopped : Bool               -- the active stopped for a hand-over (R353 step 1)
  ran : List (Fin 8)           -- customer stewards that the stop halted; they go on if the twin is lost before the bar is given (R335)
  since : Option Nat           -- time this device took the bar by hand-over, while R357 watches
  handedBack : Bool            -- the last hand-over was a hand-back (R357)
  wasUp : List Nat             -- pods whose link was UP on the old active, axes 24 to 27, cameras 28 to 31 that were well
  finalHseq : Word
deriving DecidableEq, Repr

/-! ## Start-up and the thermos (chapter 20) -/

/-- The phase of the device (R497, R516). -/
inductive Phase where
  | unpowered
  | inReset                    -- reset input asserted
  | starting
  | noFirmware                 -- no slot holds a valid image (R513)
  | ready
  | shut                       -- thermal latch set (R494, R498)
deriving DecidableEq, Repr

/-- A firmware slot (R509). -/
structure FwSlot where
  version : Word
  svn : Word
  valid : Bool                 -- R510 at the time it was written
  csDigest : List Byte         -- digest of its countersigning key, empty when none
  image : List Byte
deriving DecidableEq, Repr

/-- One settings bank (R504): the small part as kept station words, and what else it restores. -/
structure SetBank where
  seq : Word
  bulkBank : Fin 2
  pairPos : Bool
  small : List (Nat × Word)
  dramTuned : Vector (BitVec 5) 4 -- rates of each channel's training results (R441)
  ranks2 : Bool                   -- the rank count of the fingerprint
  lanesTuned : List (Nat × Nat)   -- lane and rate
  podIds : List (Nat × Word)      -- PD_ID of each pod as last tuned (R503, R514)
deriving DecidableEq, Repr

/-- The thermos: everything that outlives power (R501, R502). -/
structure Therm where
  devAddr : Option (BitVec 8)  -- as held now (R112)
  pair : Option (BitVec 8)
  keptAddr : Option (BitVec 8) -- as the counters hold it (R502, R514)
  keptPair : Option (BitVec 8)
  epoch : Word                 -- as the counter holds it
  bootSlot : Fin 2
  pending : Option (Fin 2)
  tries : Nat
  slots : Vector (Option FwSlot) 2
  keyState : Vector (Fin 3) 4  -- 0 empty, 1 valid, 2 revoked
  keyDigest : Vector (List Byte) 4
  csRequired : Bool
  floor : Word
  dieId : BitVec 64
  banks : Vector (Option SetBank) 2
  newest : Fin 2
  bulks : Vector (List (Nat × Vec)) 2
  ckpt : Vector (List (Nat × BitVec 16)) 2   -- checkpoint copies: kept middle words that are not 0
  ckptSel : Fin 2
  ckptGood : Vector Bool 2
  journal : List (Nat × BitVec 16)           -- records not folded yet, oldest first (R508)
  powerS : Word
  resets : BitVec 24
  wear : BitVec 16
  spares : Nat
  dirty : Bool                 -- a kept value has changed since the last commit
deriving DecidableEq, Repr

/-- The boot state of this power cycle. -/
structure Boot where
  phase : Phase
  kind : Nat                   -- last reset kind (R498)
  strap : Bool                 -- PAIR_POS
  slot : Fin 2                 -- slot of the running image
  pendingBoot : Bool           -- the running image is the pending one (R513)
  thermalLatch : Bool
  ovHold : Bool
  restartDue : Option Nat      -- PAIR_RESTART under way: 0 this device, 1 both (R511)
deriving DecidableEq, Repr

/-! ## Feed, page store and jobs (chapter 05) -/

/-- Why a job ended. -/
inductive EndReason where
  | normal
  | geometry                   -- R177
  | feedLate                   -- R146
  | encoder                    -- R230
deriving DecidableEq, Repr

/-- The running job and what has been fed for it. -/
structure JobRun where
  decl : Decl
  pages : List Page            -- announced pages, in order
  nextFirst : Nat              -- first contone line the next page must name (R143)
  lastPage : Option Nat        -- number of the previous PAGE or REPLAY
  records : Nat                -- page records in use (R142, R143)
  jobEnd : Option Nat          -- count of the JOB_END taken
  lastLine : Option Nat        -- E, once known (R224)
  taken : List Nat             -- contone lines whose first good copy was taken (R136)
  held : List (Nat × List Nat) -- taken lines whose partner has not come, with their samples
  ring : List (Nat × Nat)      -- ring entry and the line pair it holds, by entry, rising (R145)
  firstPair : Option Nat       -- the first contone line pair this device wrote complete (R360)
  decided : List Nat           -- contone lines whose deadline has passed (R146)
  late : List Nat              -- contone lines decided late
  halt : Option Nat            -- LATE_HALT: the first print line that no row fires (R146)
  startW : Int
deriving DecidableEq, Repr

/-- Jobs and the library. -/
structure Jobs where
  running : Option JobRun
  next : Option JobRun         -- the declared next job, with what was fed for it
  ended : Option EndReason     -- how the last job ended
  lib : Option Decl            -- the declaration the library slots belong to (R151)
  libRows : List (Nat × Nat)   -- written block rows, slot and row
  libBad : List Nat            -- slots marked bad (R148)
deriving DecidableEq, Repr

/-! ## The Packer's exact-mode slot (chapter 06) -/

/-- The parameters latched at GO (R165). -/
structure PkrJob where
  dir : Bool                   -- true decompresses
  save : Bool
  final : Bool
  src : Nat
  srcLen : Nat
  dst : Nat
  dstLen : Nat
  stateAt : Nat
  hist : List Byte             -- newest last, at most 4,096
  inTotal : BitVec 64
  outTotal : BitVec 64
  finalSeen : Bool
deriving DecidableEq, Repr

/-- The customer job slot. -/
structure Pkr where
  run : Option PkrJob
  stopped : Option PkrJob
deriving DecidableEq, Repr

/-! ## Screening (chapter 07) -/

/-- One copy of the nozzle map (R183): the kept fields (bits 23 to 8) that are not 0, and the SLOT and LIVE
nibbles that differ from the canonical numbering with every nozzle in rotation. -/
structure MapCopy where
  kept : List (Nat × BitVec 16)
  slots : List (Nat × BitVec 8)
deriving DecidableEq, Repr

/-- The active version (R201): its named and effective line, its map and its pending station values. -/
structure Version where
  named : Nat
  x : Nat
  map : MapCopy
  stn : List (Nat × Word)
deriving DecidableEq, Repr

/-- What a retired version replaced, for lines before its own that a row may still decide or trigger (R350): its
effective line, the map before it and the station values before it. -/
structure OldCopy where
  x : Nat
  map : MapCopy
  stn : List (Nat × Word)
deriving DecidableEq, Repr

/-- A decided row-line in a pod transmitter's line buffer, or in the pod's line register (R254, R257). -/
structure RowLine where
  p : Fin 24
  r : Fin 8
  l : Nat
  codes : List (Nat × BitVec 4)   -- nozzle and code, codes that are not 0
  sentSegs : Nat               -- how many of its nonzero segments have been sent, in rising order
  trig : Option Nat            -- trigger time, once placement has issued it
  cancel : Bool                -- its FIRE copies carry CANCEL (R222, R234, R363)
  done : Bool                  -- its FIRE copies have been sent
deriving DecidableEq, Repr

/-- The screening engines and the map unit. -/
structure Scr where
  live : MapCopy
  version : Option Version
  olds : List OldCopy          -- what retired versions of this job replaced, oldest first
  idle : List (Nat × Byte)     -- IDLE of entries where it is not 0
  lq : List LqEntry            -- the line-qualified queue, oldest first (R75)
  credit : Vector Nat 192      -- class (p, m) at 8 p + m - 1 (R233)
  hist : Vector (List Nat) 192 -- H of each class, newest first, at most 8
  skipped : List (Nat × Nat)   -- line and class, every skip of this job
  decidedTo : Vector Nat 192   -- row (p, r) at 8 p + r: the next line it decides
  leadLine : Nat               -- the next line the leading row begins
  spitT : Vector Nat 192       -- Tm of class (p, m) (R196)
deriving DecidableEq, Repr

/-! ## Placement (chapter 08) -/

/-- How W runs on from its reference point. -/
inductive WMode where
  | edge                       -- interpolated from the last counted edge (R217)
  | restart                    -- after a stop, until AVG + 1 edges (R218)
  | stopped                    -- W holds (R218)
  | frozen                     -- at the frozen S after an illegal transition (R229, R230)
deriving DecidableEq, Repr

/-- The placement engine. -/
structure Plc where
  a : Bool
  b : Bool
  count : Int
  times : List Nat             -- times of the most recent counted edges, newest first
  dirs : List Bool             -- their directions, true forward
  clean : Nat                  -- counted edges since the last illegal transition or stop
  afterStop : Nat              -- counted edges since the last stop (R218)
  mode : WMode
  refT : Nat
  refW : Int                   -- W at refT, in 2^-32 sub-lines
  span : Nat                   -- the last counted interval
  speed : Int                  -- S, 32 fraction bits, per 312.5 ps (R216)
  slip : Int
  align : Int
  illegal : Nat                -- illegal transitions since the last counted edge
  encFault : Bool              -- an encoder fault holds (R230, R554)
  encAlarmed : Bool            -- outside a job, once between two job starts (R554)
  wmax : Option Int
  anchors : List (Nat × Int)   -- grid: from this line on T runs from this value, newest first (R220, R228)
  boundary : Nat               -- the next line whose boundary passes
  scLine : Option Nat
deriving DecidableEq, Repr

/-- The rest of the placement engine: page starts, fires, the follower and the standby's alignment. -/
structure Plc2 where
  cueW : Option Int            -- W of the last accepted cue mark
  cmp : Option Int             -- Wp of the armed compare (R227)
  cmpBelow : Bool              -- LATE_HOLD: W has been below the point since
  nextFire : Vector Nat 192    -- next unfired line of each row
  trig : List (Nat × Nat × Nat)   -- row, line and time of each trigger of this job (R234)
  noFire : Bool                -- R230: no row fires again
  lockCount : Nat              -- consecutive pulses with |e| <= 2 (R238)
  twinErr : Nat                -- consecutive hampers with |e| > 32 (R236)
  firstHamper : Bool           -- the next hamper sets ALIGN outright
  skipLine : Option Nat        -- last line in which a counted class skipped (R235)
  debtHigh : Bool              -- the reverse debt stands above REV_ALARM (R232)
deriving DecidableEq, Repr

/-! ## Pod links (chapter 09) -/

/-- The wait a bring-up is in (R242). -/
inductive BringUp where
  | idle                       -- none under way, or done
  | statusAtRate               -- step 1
  | statusAtZero               -- step 2
  | readId (k : Nat)           -- step 3, identity register k asked for
  | rateWritten                -- step 3, PD_RATE written, 10 us running
  | statusAtNew                -- step 3, the new rate
  | echo (k : Nat)             -- step 5, k delay measurements taken
  | abandoned                  -- tried again every 100 ms
deriving DecidableEq, Repr

/-- One pod link (R242 to R275). -/
structure PodLink where
  step : BringUp
  quick : Bool                 -- at a take-over or hand-over, step 4 is left out
  rate : Nat                   -- rate code of this device's lane
  tag : BitVec 16              -- tag of the next READ_REG or ECHO
  echo : Option (BitVec 16 × Nat)   -- the ECHO under way: tag, and when its comma left
  meas : List Int              -- the measurements in use, newest first: round trip less TURN
  answered : Option Nat        -- when the first answered ECHO of this role reached the pod
  coast0 : Option Word         -- COAST of the last hamper, until the first STATUS of this role (R273)
  fired : List (Nat × Nat)     -- trigger time of the last FIRE of each row and parity, at 2 r + parity
  scanning : Bool              -- its RSCAN_DONE is awaited (R266)
  bad : Nat                    -- consecutive upstream frames discarded (R247)
  firedOnce : Bool             -- a FIRE has gone to the pod in this role (R278)
  coasts : Option Word         -- the rise of COAST over the take-over, reported as coast fires (R273)
  accepted : Bool              -- the pod has shown or answered that it accepts frames of this device in this role (R329)
deriving DecidableEq, Repr

/-- The pod links and the transmit line buffers (R257). -/
structure Pods where
  links : Vector PodLink 24
  lines : List RowLine         -- decided row-lines whose trigger has not passed, in decision order
  forced : Bool                -- the role was taken by a forced take-over: fences hold (R348)
deriving DecidableEq, Repr

/-! ## Cameras and Sight (chapter 10) -/

/-- A control command to a camera (R282, R284, R299). -/
inductive CamOp where
  | discover                   -- bring-up step 1
  | config                     -- bring-up step 2
  | retrain                    -- bring-up step 3
  | setup (e : Nat)            -- bring-up step 4
  | upExp                      -- bring-up step 5
  | upGain
  | expNs                      -- an accepted exposure set
  | gain
  | backExp                    -- read-back
  | backGain
  | routine (read : Bool) (addr : Word) (v : Word)
deriving DecidableEq, Repr

/-- An exposure set. -/
structure ExpSet where
  ns : Nat
  gain : Word
  tag : BitVec 16
deriving DecidableEq, Repr

/-- A context set: the stations and the tables of a context as they stood at a commit (R298). -/
structure CtxSet where
  tag : BitVec 16
  words : List (Nat × Word)
  tabs : List (Nat × Vec)
deriving DecidableEq, Repr

/-- How a frame closed (R287). -/
inductive Close where
  | running
  | complete
  | incomplete
  | short
  | discarded
deriving DecidableEq, Repr

/-- A frame of a camera (R286, R287). -/
structure CamFrame where
  number : Nat
  job : Nat                    -- number of its job among the jobs run
  jobId : Nat
  recStart : Nat               -- record slot of the job's line 0
  trigs : List Nat             -- the trigger log: print line of each trigger
  byCompare : Bool             -- triggers of a compare unit (R288)
  lines : List (List Nat)      -- raw samples of the lines received; of a spooled frame they lie in its spool slot
  slot : Nat                   -- its slot of the spool ring (R293)
  pm : Word                    -- frame-start postmark, TB-SIGHT
  expTag : BitVec 16
  expUnknown : Bool
  close : Close
  dropped : Bool               -- its spool ring was full (R295)
  ctx : Option CtxSet          -- the context in force, once its first pixel has entered a pipeline
deriving DecidableEq, Repr

/-- One camera. -/
structure Camera where
  ctl : List CamOp             -- control commands, the one outstanding first
  frameNo : Nat                -- number of the next frame
  cur : Option CamFrame        -- the frame that triggers, or lines of its triggers, still belong to
  late : List CamFrame         -- earlier frames whose lines have not all come, oldest first
  closed : List CamFrame       -- closed and not processed; in a spool also before its close
  gap : Nat                    -- slots of the gap still to pass without a trigger
  gapOpen : Bool               -- between a frame's last line and the next first trigger
  lastTrig : Option Nat
  onJob : Nat                  -- number of the job on whose grid it triggers
  nextSlot : Nat               -- lines below it have passed as slots
  fromW : Int                  -- W as its link came up: slots before it have passed
  newest : Option ExpSet       -- newest accepted set
  toWrite : Option ExpSet      -- accepted and not yet sent to the camera
  writing : Option ExpSet      -- sent, not fully acknowledged
  writeAge : Nat               -- frames started since the write began
  failed : Bool                -- the camera refused it: read back in the gap after the next frame
  back : List (Nat × Word)     -- read-back values so far: 0 exposure, 1 gain
  acked : Option ExpSet        -- last acknowledged set
  ackedExp : Option Word       -- last acknowledged register values
  ackedGain : Option Word
  unknown : Bool               -- exposure unknown (R299)
  pendCtx : Option CtxSet      -- committed, not in force yet
  ctx : Option CtxSet          -- in force
  profNext : Nat               -- the next slot of the profile ring
  spoolNext : Nat              -- the next slot of the spool ring
deriving DecidableEq, Repr

/-- A generation of the map: the line from which it holds and what the column tables keep of it (R291). -/
structure Gen where
  x : Nat
  map : MapCopy
  stitch : Word
  toff : Word
  attrib : Bool                -- its slot log section holds every renumbered column (R308)
  recs : Nat                   -- records in that section
deriving DecidableEq, Repr

/-- An ended job whose last lines have not passed every camera (R287). -/
structure SightJob where
  no : Nat                     -- its number among the jobs run
  jobId : Nat
  anchors : List (Nat × Int)
  last : Nat
  recStart : Nat
deriving DecidableEq, Repr

/-- The Sight pipelines and the print record. -/
structure Sight where
  cams : Vector Camera 4
  pipe1 : Option (Fin 4 × CamFrame)    -- the spooled frame in pipeline 1
  gens : List Gen              -- generations of the running job, newest first
  genCount : Nat               -- versions activated in this job
  recStart : Nat               -- record slot of the running job's line 0
  jobNo : Nat                  -- jobs started
  tails : List SightJob        -- oldest first
deriving DecidableEq, Repr

/-! ## Nozzle health (chapter 11) -/

/-- A profile part that waits to be scored (R302, R307). -/
structure HltPart where
  part : Nat
  gen : Nat
  trigs : List Nat             -- print lines of its camera lines, in order
  addr : Nat                   -- its profile slot
  c0 : Nat
  ncol : Nat
deriving DecidableEq, Repr

/-- A processed frame that waits to be scored. -/
structure HltFrame where
  camera : Fin 4
  number : Nat
  job : Nat                    -- number of its job among the jobs run
  jobId : Nat
  recStart : Nat
  skip : Bool                  -- EXP_UNKNOWN or CMP_OFF
  ctx : Option CtxSet
  parts : List HltPart
deriving DecidableEq, Repr

/-- The health unit beside its stations; scores, slot log and change log lie in its DRAM work area (R326). -/
structure Hlt where
  batch : List LqEntry         -- the open batch (R317)
  frames : List HltFrame
  changed : List Nat           -- entries whose kept fields a retired version changed, not journaled yet (R323)
  changedX : Option Nat
  geo : List (Nat × Nat × Nat) -- pod geometry of the previous job: POD_CFG, NPR, POD_ENTRY of each pod (R312)
  off : Bool                   -- R326: off for this job
  heldNoted : Bool             -- the job's first hold has raised its alarm (R314)
deriving DecidableEq, Repr

/-! ## What leaves the block -/

/-- What the block sends or drives, beside the Round and twin frames of the replay buffers: the model's own record
of its outputs, oldest first. -/
inductive Out where
  | pulse (pin : Nat) (t : Nat)                    -- 0 LINE_SYNC_OUT, 1 to 8 AUX0 to AUX7 (R237, R545)
  | pod (p : Fin 24) (frame : List Byte)           -- a downstream frame, before scrambling (R248)
  | camCtl (n : Fin 4) (op : CamOp) (addr v : Word)    -- a control command to a camera
  | camTrig (n : Fin 4) (t : Nat)                  -- a trigger packet
  | i2c (bytes : List Byte)
  | tdo (bits : List Bool)
  | broadcast (west : Bool) (e : Env) (pl : List Byte)   -- time letters and forwarded frames that take no LSEQ here
  | postcard (c : Postcard)                        -- contents of the twin frames (R332, R338, R342)
  | hamper (h : Hamper)
  | bulk (b : Bulk) (i n : Nat)                    -- frame i of the n frames of one piece of bulk content
  | nak (l : Link) (sp : Space) (lseq : BitVec 12)
  | ack (l : Link) (sp : Space) (lseq : BitVec 12)
deriving DecidableEq, Repr
/-! ## Bar motion (chapter 15) -/

/-- A station write that the next motion cycle applies (R405). -/
inductive MotWrite where
  | target (x : Fin 4) (v : Int)
  | segments (x : Fin 4) (first last : Nat)
deriving DecidableEq, Repr

/-- One axis (R403 to R424). Positions and velocities have 16 fraction bits (R406). -/
structure Axis where
  a : Bool                     -- accepted encoder levels
  b : Bool
  count : Int
  illegal : Nat                -- illegal transitions since the last counted edge
  p : Int
  v : Int
  mode : Nat                   -- 0 idle, 1 target, 2 segments, 3 retract
  brake : Bool                 -- brakes to rest and then idles
  target : Int                 -- the target in effect, microsteps
  seg : Nat
  segLast : Nat
  segP0 : Int
  segV0 : Int
  segE : Nat                   -- elapsed in the segment, ns
  qlog : Nat
  hold : Bool                  -- HOLD_DLY has passed
  ramp : Nat                   -- cycles of the ramp to K_HOLD, 0 to 16
  idle : Nat                   -- ns idle with v = 0
  stall : Nat                  -- consecutive cycles outside the stall window
  encOfs : Int
  dutyA : Int                  -- duty of phase A, negative on its N output
  dutyB : Int
  aligned : Nat                -- hampers in a row that showed v = 0 (R426)
deriving DecidableEq, Repr

/-- The motion engine. -/
structure Mot where
  axes : Vector Axis 4
  writes : List MotWrite       -- landed since the previous cycle
  stop : BitVec 4              -- MOT_CMD.STOP since the previous cycle
  retract : Bool               -- a retract starts at the next cycle
  last : Option Word           -- TB-MOTION at the previous cycle of this role
  mirror : List AxisSnap       -- axes of the last hamper applied (R426)
  parted : Bool                -- a fault has parted the lift pair, which comes to rest (R419)
deriving DecidableEq, Repr

/-! ## DRAM controller (chapter 16) -/

/-- A sector request: who asks, its fabric level (0 express, 1 line-critical, 2 normal, 3 bulk), and where it lies in its
channel (R432, R437). -/
structure SectorReq where
  who : Fin 8
  write : Bool
  level : Nat
  urgent : Bool                -- of an urgent pod (R258)
  sector : Nat                 -- 64-byte sector of the channel
  bank : Nat                   -- with the rank in bit 4
  row : Nat
deriving DecidableEq, Repr

/-- A DRAM channel (R437): what waits at its fabric arbiter, its two queues, oldest first, its open rows as (bank, row,
hits served in a row), and whether a write batch issues. -/
structure DramChan where
  arb : List SectorReq
  reads : List SectorReq
  writes : List SectorReq
  rows : List (Nat × Nat × Nat)
  batch : Bool
deriving DecidableEq, Repr

/-- What the controller holds beside its stations. -/
structure Drm where
  chans : Vector DramChan 4
  refreshes : Vector Nat 64    -- refreshes made, bank 16 k + b of channel k (R439)
  mr4 : Vector (BitVec 5) 4    -- refresh rate read from mode register 4
  drift : Vector Int 4         -- steps of the delays since training (R442)
  tuned : Vector (BitVec 5) 4  -- rates for which a channel holds training results (R441)
deriving DecidableEq, Repr

/-! ## DMA (chapter 17) -/

/-- The descriptor a channel runs (R450). -/
structure DmaDesc where
  src : Nat
  dst : Nat
  len : Nat
  ctrl : Word
  start : Word                 -- running register at its start
  left : Nat                   -- bytes not written
  result : Option Nat          -- set when it ends with a result other than OK
deriving DecidableEq, Repr

/-- The DMA engine. -/
structure Dma where
  cur : Vector (Option DmaDesc) 16
  lines : BitVec 13            -- latched request lines 0 to 12 (R455)
deriving DecidableEq, Repr

/-! ## Serial lanes (chapter 18) -/

/-- The lanes beside their stations. -/
structure Lanes where
  aligned : BitVec 4           -- groups: Round East, Round West, feed, twin (R471)
  stored : List (Nat × Nat)    -- lane and rate with results in the thermos (R478)
  podIds : List (Nat × Word)   -- PD_ID of each pod at its last tuning, by pod (R514)
deriving DecidableEq, Repr

/-! ## Power and heat (chapter 19) -/

/-- A thermal zone (R489): °C with 16 fraction bits, mW. -/
structure Zone where
  seen : Bool                  -- a first reading has come
  fresh : Bool                 -- a reading has come since the last housekeeping round
  t : Int
  amb : Int
  power : Int
  tm : Int
  warn : Bool                  -- levels reached (R490)
  throt : Bool
  shut : Bool
deriving DecidableEq, Repr

/-- The power manager. -/
structure Pwr where
  die : Zone
  podZ : Vector Zone 24
  down : Nat                   -- evaluations in a row with slack to spare (R483)
  off : BitVec 8               -- phases disabled until reset (R482)
  hvReq : BitVec 24            -- enables asked for and not raised (R485)
  hvLast : Option Nat          -- when an enable last rose
  overI : Vector Nat 24        -- rounds in a row above IMAX (R486)
  thrNoted : BitVec 24         -- pod-throttle raised since the throttle came into force (R491)
  dieTemp : Nat                -- DIE_TEMP of the I²C status word, °C (R548)
  hk : Bool                    -- a housekeeping round is running (R399, R488)
deriving DecidableEq, Repr

/-! ## JTAG (chapter 22) -/

/-- The test access port and the image staging area (R549, R550). -/
structure Jtag where
  ir : Byte                    -- the instruction loaded
  cells : List Bool            -- preloaded boundary cells
  staging : List Byte
  state : Nat                  -- IMAGE_STATUS.STATE
  overflow : Bool
deriving DecidableEq, Repr


/-! ## The whole -/

/-- Output pins (R36) and AUX balls. -/
structure Pins where
  activeOut : Bool
  lineSync : Bool
deriving DecidableEq, Repr

/-- The state of the block.  `pending` is the queue of the commands that wait, first in, first out; `out` and
`fresh` are the model's own: what left the block, and the count of free values used. -/
structure State where
  stewards : Vector Steward 8
  shared : List Host.Cell      -- steward shared memory, by offset from 0x2000_0000 (R63)
  dram : List Host.Cell        -- usable DRAM bytes (R64)
  single : List Nat            -- DRAM codewords stored with a single-bit error (R434)
  poison : List Nat            -- DRAM codewords that read as uncorrectable (R434, R435)
  stn : List (Nat × Word)      -- scalar stations that differ from their value after a reset
  vstn : List (Nat × Vec)      -- threshold and Sight table views that differ from their factory contents
  hiw : List (Nat × Word)      -- high words that wait to be read, by address: the low word beside each was read (R239, R389, R445, R458)
  clk : Clk
  round : Round
  mbx : Mbx
  twin : Twin
  tho : TwinHo
  therm : Therm
  boot : Boot
  jobs : Jobs
  pkr : Pkr
  scr : Scr
  plc : Plc
  plc2 : Plc2
  pods : Pods
  sight : Sight
  hlt : Hlt
  mot : Mot
  drm : Drm
  dma : Dma
  lanes : Lanes
  pwr : Pwr
  jtag : Jtag
  pins : Pins
  out : List Out
  fresh : Nat
  pending : List Instr
deriving DecidableEq, Repr

/-! ## After reset -/

/-- The trace bank after a reset (R383). -/
def TraceBank.init : TraceBank := ⟨0, 0, 0, 0, 0, 0, 0, 0⟩

/-- A steward after a reset: halted, no program, every register 0; P0 is all ones (R62, R78). -/
def Steward.init : Steward :=
  { g := Vector.replicate 32 0, v := Vector.replicate 16 0, p := (Vector.replicate 8 0).set 0 (BitVec.allOnes 64),
    pc := 0, run := .halted, prog := none, fault := 0, epc := 0, faddr := 0, evmask := 0, evpend := 0, wdog := 0,
    wdogAt := 0, latewin := 0, dwin := 0, instret := 0, start := 0, imem := [], dmem := [], mbox := [], trace := TraceBank.init }

/-- The time bases after a reset: every accumulator 0 (R384), synchronisation FREE (R394). -/
def Clk.init : Clk :=
  { now := 0, acc := Vector.replicate 4 0, step := Vector.replicate 4 0, ns := 0, big := 0, good := 0, acquired := false,
    lastSync := 0, period := 0, ext := 0, reqEast := none, reqWest := none, held := 0, delayEast := 0, delayWest := 0 }

/-- A hop space as the link trains (R101). -/
def HopSpace.init : HopSpace := ⟨0, false, 0, [], [], 0, 0⟩

/-- A port whose link is down. -/
def Port.init : Port := ⟨false, false, HopSpace.init, HopSpace.init⟩

/-- The Round interface after a reset: no stream open (R119). -/
def Round.init : Round :=
  { east := Port.init, west := Port.init, streams := [], parcels := [], dead := [], busy := none, held := [],
    bcast := [], hostWest := false, inbox := [], calls := [] }

/-- An idle alarm slot. -/
def Slot.init : Slot := ⟨false, 0, 0, 0, 0, 0, [], 0, 0, 0⟩

/-- The mailbag after a reset: MSEQ 1 next in each stream (R373). -/
def Mbx.init : Mbx := ⟨[], [], [], [], Vector.replicate 16 1, false⟩

/-- The twin unit after a reset. -/
def Twin.init : Twin :=
  { role := .electing, epoch := 0, port := Port.init, hbSeen := false, pinLive := false,
    pcLive := false, peer := none, pcseq := 0, joined := false, notElig := 1, pageErr := none, blank := false, roleAt := 0, peerRst := .low, rstFor := 0,
    yielded := false, hseq := 0, acked := 0, sent := [], fill := [], fillX := 0, bseqOut := 0, bseqIn := 0,
    bseqAck := 0, buffered := [], snapshot := false, ranges := [] }

/-- No hand-over. -/
def TwinHo.init : TwinHo := ⟨.no, false, [], false, [], none, false, [], 0⟩

/-- The thermos of a device fresh from the factory: no address, epoch 0, slot A holds the factory resident. -/
def Therm.init : Therm :=
  { devAddr := none, pair := none, keptAddr := none, keptPair := none, epoch := 0, bootSlot := 0, pending := none, tries := 0,
    slots := #v[some ⟨0, 0, true, [], []⟩, none], keyState := #v[1, 0, 0, 0], keyDigest := Vector.replicate 4 [],
    csRequired := false, floor := 0, dieId := 0, banks := #v[some ⟨1, 0, false, [], Vector.replicate 4 0, false, [], []⟩, none], newest := 0,
    bulks := Vector.replicate 2 [], ckpt := Vector.replicate 2 [], ckptSel := 0,
    ckptGood := Vector.replicate 2 true, journal := [], powerS := 0, resets := 0, wear := 0, spares := 94,
    dirty := false }

/-- Right after a power-on reset, the reset input asserted (R497, R498). -/
def Boot.init : Boot :=
  { phase := .inReset, kind := 0, strap := false, slot := 0, pendingBoot := false, thermalLatch := false,
    ovHold := false, restartDue := none }

def Jobs.init : Jobs := ⟨none, none, none, none, [], []⟩
def Pkr.init : Pkr := ⟨none, none⟩

/-- The screening engines after a reset. -/
def Scr.init : Scr :=
  { live := ⟨[], []⟩, version := none, olds := [], idle := [], lq := [], credit := Vector.replicate 192 0,
    hist := Vector.replicate 192 [], skipped := [], decidedTo := Vector.replicate 192 0, leadLine := 0,
    spitT := Vector.replicate 192 1 }

/-- The placement engine after a reset: COUNT 0, the web stopped. -/
def Plc.init : Plc :=
  { a := false, b := false, count := 0, times := [], dirs := [], clean := 0, afterStop := 0, mode := .stopped, refT := 0, refW := 0,
    span := 0, speed := 0, slip := 0, align := 0, illegal := 0, encFault := false, encAlarmed := false,
    wmax := none, anchors := [], boundary := 0, scLine := none }

def Plc2.init : Plc2 :=
  { cueW := none, cmp := none, cmpBelow := false, nextFire := Vector.replicate 192 0, trig := [], noFire := false,
    lockCount := 0, twinErr := 0, firstHamper := false, skipLine := none, debtHigh := false }

/-- A pod link with no bring-up made. -/
def PodLink.init : PodLink :=
  { step := .idle, quick := false, rate := 0, tag := 0, echo := none, meas := [], answered := none, coast0 := none,
    fired := [], scanning := false, bad := 0, firedOnce := false, coasts := none, accepted := false }

def Pods.init : Pods := ⟨Vector.replicate 24 PodLink.init, [], false⟩

/-- A camera before its bring-up: frame numbers start at 0 (R286). -/
def Camera.init : Camera :=
  { ctl := [], frameNo := 0, cur := none, late := [], closed := [], gap := 0, gapOpen := true, lastTrig := none, onJob := 0,
    nextSlot := 0, fromW := 0, newest := none, toWrite := none, writing := none, writeAge := 0, failed := false, back := [],
    acked := none, ackedExp := none, ackedGain := none, unknown := false, pendCtx := none, ctx := none, profNext := 0, spoolNext := 0 }

def Sight.init : Sight := ⟨Vector.replicate 4 Camera.init, none, [], 0, 0, 0, []⟩

def Hlt.init : Hlt := ⟨[], [], [], none, [], false, false⟩

/-- An axis after a reset (R425). -/
def Axis.init : Axis :=
  { a := false, b := false, count := 0, illegal := 0, p := 0, v := 0, mode := 0, brake := false, target := 0, seg := 0,
    segLast := 0, segP0 := 0, segV0 := 0, segE := 0, qlog := 0, hold := false, ramp := 0, idle := 0, stall := 0,
    encOfs := 0, dutyA := 0, dutyB := 0, aligned := 0 }

def Mot.init : Mot := ⟨Vector.replicate 4 Axis.init, [], 0, false, none, [], false⟩
def DramChan.init : DramChan := ⟨[], [], [], [], false⟩
def Drm.init : Drm :=
  ⟨Vector.replicate 4 DramChan.init, Vector.replicate 64 0, Vector.replicate 4 0, Vector.replicate 4 0, Vector.replicate 4 0⟩
def Dma.init : Dma := ⟨Vector.replicate 16 none, 0⟩
def Lanes.init : Lanes := ⟨0, [], []⟩
def Zone.init : Zone := ⟨false, false, 0, 0, 0, 0, false, false, false⟩
def Pwr.init : Pwr := ⟨Zone.init, Vector.replicate 24 Zone.init, 0, 0, 0, none, Vector.replicate 24 0, 0, 0, false⟩
/-- The port in reset: IDCODE is selected (R549). -/
def Jtag.init : Jtag := ⟨0x01, [], [], 0, false⟩

def Pins.init : Pins := ⟨false, false⟩

/-- The machine right after a power-on reset of a factory-fresh device (R498): every station at its Initial value,
kept fields at their factory values, no memory listed, no command waiting. -/
def State.reset : State :=
  { stewards := Vector.replicate 8 Steward.init, shared := [], dram := [], single := [], poison := [], stn := [], vstn := [], hiw := [],
    clk := Clk.init, round := Round.init, mbx := Mbx.init, twin := Twin.init, tho := TwinHo.init,
    therm := Therm.init, boot := Boot.init, jobs := Jobs.init, pkr := Pkr.init, scr := Scr.init, plc := Plc.init,
    plc2 := Plc2.init, pods := Pods.init, sight := Sight.init, hlt := Hlt.init, mot := Mot.init, drm := Drm.init,
    dma := Dma.init, lanes := Lanes.init, pwr := Pwr.init, jtag := Jtag.init, pins := Pins.init, out := [], fresh := 0, pending := [] }

end Sys2Proof.Machine
end

