-- ==== Sys2Proof/Machine/Stations.lean ====
section
/-! DEFINITION. The station map (spec/21_station_map.md, R518 to R529, and the field maps of the owning
chapters): where every scalar station lies, which of its bits are RW, WO, W1C, LQ and kept, what it holds after a
reset, its group, and the named fields the engines use.  The rows were laid out from the field maps of the
chapters; a field marked reserved is in no mask (R10). -/
namespace Sys2Proof.Machine

/-- One field of a station word: the word's address, its lowest bit and its width (R9). -/
structure Fld where
  addr : Nat
  lo : Nat
  w : Nat
deriving DecidableEq, Repr

/-- One row of the station map: every word `base + i * s1 + j * s2`, `i < n1`, `j < n2`, with its access masks
(R9), the mask of its kept bits (R514) and its value after a reset, the factory value where the field is kept. -/
structure StnRow where
  base : Nat
  n1 : Nat
  s1 : Nat
  n2 : Nat
  s2 : Nat
  rw : Nat
  wo : Nat
  w1c : Nat
  lq : Nat
  kept : Nat
  init : Nat
deriving DecidableEq, Repr

/-! The named fields.  Index arguments are the indices of the field maps. -/
namespace F
abbrev ROUND_RND_PORT_UP (e : Nat) : Fld := ⟨0x40000000 + e * 0x10, 0, 1⟩
abbrev ROUND_RND_PORT_WRAPPED (e : Nat) : Fld := ⟨0x40000000 + e * 0x10, 1, 1⟩
abbrev ROUND_RND_PORT_RESENDS (e : Nat) : Fld := ⟨0x40000004 + e * 0x10, 0, 32⟩
abbrev ROUND_RND_PORT_DISCARDS (e : Nat) : Fld := ⟨0x40000008 + e * 0x10, 0, 32⟩
abbrev ROUND_RND_ID_DEV_ADDR : Fld := ⟨0x40000020, 0, 8⟩
abbrev ROUND_RND_ID_PAIR : Fld := ⟨0x40000020, 8, 8⟩
abbrev ROUND_RND_DEAD_ENTRIES : Fld := ⟨0x40000024, 0, 7⟩
abbrev ROUND_RND_DEAD_OVERWRITES : Fld := ⟨0x40000024, 7, 16⟩
abbrev ROUND_BUSY_OP : Fld := ⟨0x40000028, 0, 16⟩
abbrev FEED_LOCK : Fld := ⟨0x41000000, 0, 4⟩
abbrev FEED_ALIGNED : Fld := ⟨0x41000000, 4, 1⟩
abbrev FEED_JOB : Fld := ⟨0x41000000, 5, 1⟩
abbrev FEED_NEXT : Fld := ⟨0x41000000, 6, 1⟩
abbrev FEED_HALTED : Fld := ⟨0x41000000, 7, 1⟩
abbrev FEED_WRITTEN : Fld := ⟨0x41000004, 0, 32⟩
abbrev FEED_LEAD : Fld := ⟨0x41000008, 0, 32⟩
abbrev FEED_LATE : Fld := ⟨0x4100000C, 0, 32⟩
abbrev FEED_CRC : Fld := ⟨0x41000010, 0, 16⟩
abbrev FEED_OTHER : Fld := ⟨0x41000010, 16, 16⟩
abbrev PKR_GO : Fld := ⟨0x42000000, 0, 1⟩
abbrev PKR_DIR : Fld := ⟨0x42000000, 1, 1⟩
abbrev PKR_CONT : Fld := ⟨0x42000000, 2, 1⟩
abbrev PKR_RESTORE : Fld := ⟨0x42000000, 3, 1⟩
abbrev PKR_SAVE : Fld := ⟨0x42000000, 4, 1⟩
abbrev PKR_FINAL : Fld := ⟨0x42000000, 5, 1⟩
abbrev PKR_STATE : Fld := ⟨0x42000004, 0, 2⟩
abbrev PKR_RESULT : Fld := ⟨0x42000004, 2, 4⟩
abbrev PKR_REJECT : Fld := ⟨0x42000004, 6, 1⟩
abbrev PKR_SRC_LO : Fld := ⟨0x42000008, 0, 32⟩
abbrev PKR_SRC_HI : Fld := ⟨0x4200000C, 0, 32⟩
abbrev PKR_DST_LO : Fld := ⟨0x42000010, 0, 32⟩
abbrev PKR_DST_HI : Fld := ⟨0x42000014, 0, 32⟩
abbrev PKR_SRC_LEN : Fld := ⟨0x42000018, 0, 32⟩
abbrev PKR_DST_LEN : Fld := ⟨0x4200001C, 0, 32⟩
abbrev PKR_IN_DONE : Fld := ⟨0x42000020, 0, 32⟩
abbrev PKR_OUT_DONE : Fld := ⟨0x42000024, 0, 32⟩
abbrev PKR_STATE_LO : Fld := ⟨0x42000028, 0, 32⟩
abbrev PKR_STATE_HI : Fld := ⟨0x4200002C, 0, 32⟩
abbrev PKR_COARSE : Fld := ⟨0x42000030, 0, 32⟩
abbrev PKR_VERIFY_RETRY : Fld := ⟨0x42000034, 0, 16⟩
abbrev PKR_VERIFY_FAULT : Fld := ⟨0x42000034, 16, 16⟩
abbrev PKR_CONCEAL : Fld := ⟨0x42000038, 0, 32⟩
abbrev SCR_CTL_INTERP_X : Fld := ⟨0x43000000, 0, 1⟩
abbrev SCR_CTL_INTERP_Y : Fld := ⟨0x43000000, 1, 1⟩
abbrev SCR_TOFF_XOFF : Fld := ⟨0x43000004, 0, 8⟩
abbrev SCR_TOFF_YOFF : Fld := ⟨0x43000004, 8, 8⟩
abbrev SCR_ORPH_ORPH_GAIN : Fld := ⟨0x43000008, 0, 8⟩
abbrev SCR_NOZMASK_NOZZLE : Fld := ⟨0x4300000C, 0, 19⟩
abbrev SCR_NOZMASK_MASK : Fld := ⟨0x4300000C, 31, 1⟩
abbrev SCR_STITCH_MODE : Fld := ⟨0x43000010, 0, 23⟩
abbrev SCR_HORIZON : Fld := ⟨0x43000014, 0, 32⟩
abbrev SCR_PEND : Fld := ⟨0x43000018, 0, 32⟩
abbrev SCR_GEOM_IGNORED : Fld := ⟨0x4300001C, 0, 1⟩
abbrev SCR_THR_IGNORED : Fld := ⟨0x4300001C, 1, 1⟩
abbrev SCR_LATE_LQ : Fld := ⟨0x43000020, 0, 32⟩
abbrev SCR_ORPHANS : Fld := ⟨0x43000024, 0, 32⟩
abbrev SCR_SPITS : Fld := ⟨0x43000028, 0, 32⟩
abbrev SCR_POD_CFG_FITTED (p : Nat) : Fld := ⟨0x43000100 + p * 0x40, 0, 1⟩
abbrev SCR_POD_CFG_ROT_DEPTH (p : Nat) : Fld := ⟨0x43000100 + p * 0x40, 1, 4⟩
abbrev SCR_POD_CFG_INTERLEAVE (p : Nat) : Fld := ⟨0x43000100 + p * 0x40, 5, 1⟩
abbrev SCR_POD_COLS_COL_BASE (p : Nat) : Fld := ⟨0x43000104 + p * 0x40, 0, 16⟩
abbrev SCR_POD_COLS_NPR (p : Nat) : Fld := ⟨0x43000104 + p * 0x40, 16, 15⟩
abbrev SCR_POD_FMAX (p : Nat) : Fld := ⟨0x43000108 + p * 0x40, 0, 17⟩
abbrev SCR_POD_GAIN (p : Nat) : Fld := ⟨0x4300010C + p * 0x40, 0, 13⟩
abbrev SCR_LEVEL_MAP0 (p : Nat) : Fld := ⟨0x43000110 + p * 0x40, 0, 32⟩
abbrev SCR_LEVEL_MAP1 (p : Nat) : Fld := ⟨0x43000114 + p * 0x40, 0, 16⟩
abbrev SCR_SPIT_US (p : Nat) : Fld := ⟨0x43000118 + p * 0x40, 0, 16⟩
abbrev SCR_SPIT_DITHER (p : Nat) : Fld := ⟨0x43000118 + p * 0x40, 16, 16⟩
abbrev SCR_POD_ENTRY (p : Nat) : Fld := ⟨0x4300011C + p * 0x40, 0, 19⟩
abbrev SCR_ROW_Y (p : Nat) (r : Nat) : Fld := ⟨0x43000120 + p * 0x40 + r * 0x4, 0, 24⟩
abbrev PLC_CTL_PAGE_MODE : Fld := ⟨0x45000000, 0, 2⟩
abbrev PLC_CTL_CUE_PROBE : Fld := ⟨0x45000000, 2, 2⟩
abbrev PLC_CTL_CUE_EDGE : Fld := ⟨0x45000000, 4, 1⟩
abbrev PLC_CTL_SYNC_MODE : Fld := ⟨0x45000000, 5, 2⟩
abbrev PLC_CTL_AVG : Fld := ⟨0x45000000, 7, 2⟩
abbrev PLC_CTL_FILTER : Fld := ⟨0x45000000, 9, 4⟩
abbrev PLC_CTL_DIR_INVERT : Fld := ⟨0x45000000, 13, 1⟩
abbrev PLC_NUM : Fld := ⟨0x45000004, 0, 32⟩
abbrev PLC_DEN : Fld := ⟨0x45000008, 0, 32⟩
abbrev PLC_CUE_DIST : Fld := ⟨0x4500000C, 0, 32⟩
abbrev PLC_CUE_OFS : Fld := ⟨0x45000010, 0, 32⟩
abbrev PLC_CUE_MIN : Fld := ⟨0x45000014, 0, 24⟩
abbrev PLC_REV_ALARM : Fld := ⟨0x45000014, 24, 8⟩
abbrev PLC_STOP_US : Fld := ⟨0x45000018, 0, 16⟩
abbrev PLC_SKIP_MARGIN : Fld := ⟨0x45000018, 16, 10⟩
abbrev PLC_PAGECMP_LO : Fld := ⟨0x4500001C, 0, 32⟩
abbrev PLC_PAGECMP_HI : Fld := ⟨0x45000020, 0, 16⟩
abbrev PLC_POLICY : Fld := ⟨0x45000020, 16, 1⟩
abbrev PLC_ARM : Fld := ⟨0x45000020, 17, 1⟩
abbrev PLC_SYNC_DLY : Fld := ⟨0x45000024, 0, 16⟩
abbrev PLC_STAT_MOTION : Fld := ⟨0x45000040, 0, 2⟩
abbrev PLC_STAT_SKIPPING : Fld := ⟨0x45000040, 2, 1⟩
abbrev PLC_STAT_SYNC_LOCK : Fld := ⟨0x45000040, 3, 1⟩
abbrev PLC_W_LO : Fld := ⟨0x45000044, 0, 32⟩
abbrev PLC_W_HI : Fld := ⟨0x45000048, 0, 16⟩
abbrev PLC_SPEED : Fld := ⟨0x4500004C, 0, 32⟩
abbrev PLC_INTERVAL : Fld := ⟨0x45000050, 0, 32⟩
abbrev PLC_DEBT : Fld := ⟨0x45000054, 0, 32⟩
abbrev PLC_ILLEGAL : Fld := ⟨0x45000058, 0, 32⟩
abbrev PLC_SKIPS : Fld := ⟨0x4500005C, 0, 32⟩
abbrev PLC_GUARD : Fld := ⟨0x45000060, 0, 16⟩
abbrev PLC_MISSED : Fld := ⟨0x45000060, 16, 16⟩
abbrev PLC_CUES_ACCEPTED : Fld := ⟨0x45000064, 0, 16⟩
abbrev PLC_CUES_UNUSED : Fld := ⟨0x45000064, 16, 16⟩
abbrev PLC_FAULT_ENC_FAULT : Fld := ⟨0x45000068, 0, 1⟩
abbrev PLC_FAULT_PAGE_LATE : Fld := ⟨0x45000068, 1, 1⟩
abbrev PLC_FAULT_SYNC_LOST : Fld := ⟨0x45000068, 2, 1⟩
abbrev PLC_FAULT_DEBT : Fld := ⟨0x45000068, 3, 1⟩
abbrev PLC_SLIP : Fld := ⟨0x4500006C, 0, 32⟩
abbrev PLC_TWIN_ERR : Fld := ⟨0x45000070, 0, 16⟩
abbrev PLC_INDEX_LO : Fld := ⟨0x45000074, 0, 32⟩
abbrev PLC_INDEX_HI : Fld := ⟨0x45000078, 0, 16⟩
abbrev PLC_OFS_F (p : Nat) : Fld := ⟨0x45000100 + p * 0x4, 0, 8⟩
abbrev PLC_OFS_R (p : Nat) : Fld := ⟨0x45000100 + p * 0x4, 8, 8⟩
abbrev PODL_CTL_ENABLE (p : Nat) : Fld := ⟨0x46000000 + p * 0x100, 0, 1⟩
abbrev PODL_CTL_RATE (p : Nat) : Fld := ⟨0x46000000 + p * 0x100, 1, 3⟩
abbrev PODL_CTL_WM (p : Nat) : Fld := ⟨0x46000000 + p * 0x100, 4, 7⟩
abbrev PODL_CTL_BG (p : Nat) : Fld := ⟨0x46000000 + p * 0x100, 11, 4⟩
abbrev PODL_CTL_TG (p : Nat) : Fld := ⟨0x46000000 + p * 0x100, 16, 16⟩
abbrev PODL_STAT_LOCK (p : Nat) : Fld := ⟨0x46000004 + p * 0x100, 0, 1⟩
abbrev PODL_STAT_UP (p : Nat) : Fld := ⟨0x46000004 + p * 0x100, 1, 1⟩
abbrev PODL_STAT_FOLLOW (p : Nat) : Fld := ⟨0x46000004 + p * 0x100, 2, 2⟩
abbrev PODL_STAT_OURS (p : Nat) : Fld := ⟨0x46000004 + p * 0x100, 4, 1⟩
abbrev PODL_STAT_HV (p : Nat) : Fld := ⟨0x46000004 + p * 0x100, 5, 1⟩
abbrev PODL_STAT_INHIBIT (p : Nat) : Fld := ⟨0x46000004 + p * 0x100, 6, 1⟩
abbrev PODL_STAT_COASTING (p : Nat) : Fld := ⟨0x46000004 + p * 0x100, 7, 1⟩
abbrev PODL_STAT_URGENT (p : Nat) : Fld := ⟨0x46000004 + p * 0x100, 8, 1⟩
abbrev PODL_STAT_FALLBACK (p : Nat) : Fld := ⟨0x46000004 + p * 0x100, 9, 1⟩
abbrev PODL_EPOCH (p : Nat) : Fld := ⟨0x46000008 + p * 0x100, 0, 32⟩
abbrev PODL_DELAY (p : Nat) : Fld := ⟨0x4600000C + p * 0x100, 0, 16⟩
abbrev PODL_FILL_FILL (p : Nat) : Fld := ⟨0x46000010 + p * 0x100, 0, 17⟩
abbrev PODL_FILL_LEAD (p : Nat) : Fld := ⟨0x46000010 + p * 0x100, 17, 7⟩
abbrev PODL_UNDERRUN (p : Nat) : Fld := ⟨0x46000014 + p * 0x100, 0, 16⟩
abbrev PODL_SEQ_ERR (p : Nat) : Fld := ⟨0x46000014 + p * 0x100, 16, 16⟩
abbrev PODL_COAST (p : Nat) : Fld := ⟨0x46000018 + p * 0x100, 0, 32⟩
abbrev PODL_RX_CRC (p : Nat) : Fld := ⟨0x4600001C + p * 0x100, 0, 16⟩
abbrev PODL_POD_CRC (p : Nat) : Fld := ⟨0x4600001C + p * 0x100, 16, 16⟩
abbrev PODL_DROPS (p : Nat) : Fld := ⟨0x46000020 + p * 0x100, 0, 32⟩
abbrev PODL_TEMP (p : Nat) : Fld := ⟨0x46000024 + p * 0x100, 0, 16⟩
abbrev PODL_STALE (p : Nat) : Fld := ⟨0x46000024 + p * 0x100, 16, 16⟩
abbrev PODL_WAVE (p : Nat) (n : Nat) : Fld := ⟨0x46000040 + p * 0x100 + n * 0x4, 0, 32⟩
abbrev PODL_ID (p : Nat) (k : Nat) : Fld := ⟨0x46000080 + p * 0x100 + k * 0x4, 0, 32⟩
abbrev PODL_SCAN_BASE_LO : Fld := ⟨0x46002000, 0, 32⟩
abbrev PODL_SCAN_BASE_HI : Fld := ⟨0x46002004, 0, 32⟩
abbrev PODL_PURGE_CFG_COUNT : Fld := ⟨0x46002008, 0, 16⟩
abbrev PODL_PURGE_CFG_PERIOD_US : Fld := ⟨0x46002008, 16, 16⟩
abbrev PODL_PURGE_GO_POD : Fld := ⟨0x4600200C, 0, 5⟩
abbrev PODL_PURGE_GO_ROWS : Fld := ⟨0x4600200C, 5, 8⟩
abbrev PODL_GSTAT_PURGE_IGNORED : Fld := ⟨0x46002010, 0, 1⟩
abbrev PODL_GSTAT_CFG_IGNORED : Fld := ⟨0x46002010, 1, 1⟩
abbrev SIGHT_CFG_MODE : Fld := ⟨0x47000000, 0, 1⟩
abbrev SIGHT_STAT_PIPE_ON : Fld := ⟨0x47000004, 0, 4⟩
abbrev SIGHT_STAT_CFG_IGNORED : Fld := ⟨0x47000004, 4, 1⟩
abbrev SIGHT_REC_BASE_LO : Fld := ⟨0x47000008, 0, 32⟩
abbrev SIGHT_REC_BASE_HI : Fld := ⟨0x4700000C, 0, 32⟩
abbrev SIGHT_REC_LINES : Fld := ⟨0x47000010, 0, 32⟩
abbrev SIGHT_CAM_CTL_ENABLE (n : Nat) : Fld := ⟨0x47000400 + n * 0x400, 0, 1⟩
abbrev SIGHT_CAM_CTL_SPEED (n : Nat) : Fld := ⟨0x47000400 + n * 0x400, 1, 1⟩
abbrev SIGHT_CAM_CTL_TWO_CONN (n : Nat) : Fld := ⟨0x47000400 + n * 0x400, 2, 1⟩
abbrev SIGHT_CAM_CTL_DEPTH (n : Nat) : Fld := ⟨0x47000400 + n * 0x400, 3, 2⟩
abbrev SIGHT_CAM_CTL_STREAM_ID (n : Nat) : Fld := ⟨0x47000400 + n * 0x400, 8, 8⟩
abbrev SIGHT_CAM_CTL_TRIG (n : Nat) : Fld := ⟨0x47000400 + n * 0x400, 16, 4⟩
abbrev SIGHT_WIDTH (n : Nat) : Fld := ⟨0x47000404 + n * 0x400, 0, 17⟩
abbrev SIGHT_CAM_COL0 (n : Nat) : Fld := ⟨0x47000408 + n * 0x400, 0, 32⟩
abbrev SIGHT_CAM_XSCALE (n : Nat) : Fld := ⟨0x4700040C + n * 0x400, 0, 32⟩
abbrev SIGHT_CAM_Y (n : Nat) : Fld := ⟨0x47000410 + n * 0x400, 0, 32⟩
abbrev SIGHT_YB (n : Nat) : Fld := ⟨0x47000414 + n * 0x400, 0, 8⟩
abbrev SIGHT_PHASE (n : Nat) : Fld := ⟨0x47000414 + n * 0x400, 8, 8⟩
abbrev SIGHT_FRAME_LINES (n : Nat) : Fld := ⟨0x47000414 + n * 0x400, 16, 16⟩
abbrev SIGHT_GAP_LINES (n : Nat) : Fld := ⟨0x47000418 + n * 0x400, 0, 8⟩
abbrev SIGHT_LMAX (n : Nat) : Fld := ⟨0x47000418 + n * 0x400, 8, 24⟩
abbrev SIGHT_CAM_LAT (n : Nat) : Fld := ⟨0x4700041C + n * 0x400, 0, 16⟩
abbrev SIGHT_FRAME_TMO (n : Nat) : Fld := ⟨0x4700041C + n * 0x400, 16, 16⟩
abbrev SIGHT_CAM_STAT_LINK (n : Nat) : Fld := ⟨0x47000420 + n * 0x400, 0, 2⟩
abbrev SIGHT_CAM_STAT_PAUSED (n : Nat) : Fld := ⟨0x47000420 + n * 0x400, 2, 1⟩
abbrev SIGHT_CAM_STAT_EXP_UNKNOWN (n : Nat) : Fld := ⟨0x47000420 + n * 0x400, 3, 1⟩
abbrev SIGHT_CAM_STAT_BUDGET (n : Nat) : Fld := ⟨0x47000420 + n * 0x400, 4, 1⟩
abbrev SIGHT_CAM_FRAME (n : Nat) : Fld := ⟨0x47000424 + n * 0x400, 0, 32⟩
abbrev SIGHT_DISCARDED (n : Nat) : Fld := ⟨0x47000428 + n * 0x400, 0, 16⟩
abbrev SIGHT_DROPPED (n : Nat) : Fld := ⟨0x47000428 + n * 0x400, 16, 16⟩
abbrev SIGHT_TRIG_SKIP (n : Nat) : Fld := ⟨0x4700042C + n * 0x400, 0, 16⟩
abbrev SIGHT_REC_MISS (n : Nat) : Fld := ⟨0x4700042C + n * 0x400, 16, 16⟩
abbrev SIGHT_NO_GEN (n : Nat) : Fld := ⟨0x47000430 + n * 0x400, 0, 32⟩
abbrev SIGHT_EXP_NS (n : Nat) : Fld := ⟨0x47000440 + n * 0x400, 0, 24⟩
abbrev SIGHT_GAIN (n : Nat) : Fld := ⟨0x47000444 + n * 0x400, 0, 32⟩
abbrev SIGHT_EXP_GO (n : Nat) : Fld := ⟨0x47000448 + n * 0x400, 0, 1⟩
abbrev SIGHT_EXP_TAG_IN_FORCE (n : Nat) : Fld := ⟨0x4700044C + n * 0x400, 0, 16⟩
abbrev SIGHT_EXP_TAG_ACCEPTED (n : Nat) : Fld := ⟨0x4700044C + n * 0x400, 16, 16⟩
abbrev SIGHT_REG_EXP (n : Nat) : Fld := ⟨0x47000450 + n * 0x400, 0, 32⟩
abbrev SIGHT_REG_GAIN (n : Nat) : Fld := ⟨0x47000454 + n * 0x400, 0, 32⟩
abbrev SIGHT_EXP_FMT (n : Nat) : Fld := ⟨0x47000458 + n * 0x400, 0, 1⟩
abbrev SIGHT_EXP_UNIT (n : Nat) : Fld := ⟨0x47000458 + n * 0x400, 16, 16⟩
abbrev SIGHT_STAT_BASE_LO (n : Nat) : Fld := ⟨0x47000460 + n * 0x400, 0, 32⟩
abbrev SIGHT_STAT_BASE_HI (n : Nat) : Fld := ⟨0x47000464 + n * 0x400, 0, 32⟩
abbrev SIGHT_STAT_SLOTS (n : Nat) : Fld := ⟨0x47000468 + n * 0x400, 0, 16⟩
abbrev SIGHT_PROF_SLOTS (n : Nat) : Fld := ⟨0x47000468 + n * 0x400, 16, 16⟩
abbrev SIGHT_PROF_BASE_LO (n : Nat) : Fld := ⟨0x4700046C + n * 0x400, 0, 32⟩
abbrev SIGHT_PROF_BASE_HI (n : Nat) : Fld := ⟨0x47000470 + n * 0x400, 0, 32⟩
abbrev SIGHT_PROF_STRIDE (n : Nat) : Fld := ⟨0x47000474 + n * 0x400, 0, 32⟩
abbrev SIGHT_SPOOL_BASE_LO (n : Nat) : Fld := ⟨0x47000478 + n * 0x400, 0, 32⟩
abbrev SIGHT_SPOOL_BASE_HI (n : Nat) : Fld := ⟨0x4700047C + n * 0x400, 0, 32⟩
abbrev SIGHT_SPOOL_FRAMES (n : Nat) : Fld := ⟨0x47000480 + n * 0x400, 0, 8⟩
abbrev SIGHT_INIT_ADDR (n : Nat) (e : Nat) : Fld := ⟨0x47000600 + n * 0x400 + e * 0x8, 0, 32⟩
abbrev SIGHT_INIT_VALUE (n : Nat) (e : Nat) : Fld := ⟨0x47000604 + n * 0x400 + e * 0x8, 0, 32⟩
abbrev SIGHT_DARK (n : Nat) : Fld := ⟨0x47002000 + n * 0x100, 0, 12⟩
abbrev SIGHT_MOS_P (n : Nat) : Fld := ⟨0x47002004 + n * 0x100, 0, 2⟩
abbrev SIGHT_PAT0 (n : Nat) : Fld := ⟨0x47002008 + n * 0x100, 0, 30⟩
abbrev SIGHT_PAT1 (n : Nat) : Fld := ⟨0x4700200C + n * 0x100, 0, 18⟩
abbrev SIGHT_PLANE_KIND (n : Nat) : Fld := ⟨0x47002010 + n * 0x100, 0, 12⟩
abbrev SIGHT_XT0_A (n : Nat) : Fld := ⟨0x47002014 + n * 0x100, 0, 12⟩
abbrev SIGHT_XT0_B (n : Nat) : Fld := ⟨0x47002014 + n * 0x100, 16, 12⟩
abbrev SIGHT_XT1_A (n : Nat) : Fld := ⟨0x47002018 + n * 0x100, 0, 12⟩
abbrev SIGHT_XT1_B (n : Nat) : Fld := ⟨0x47002018 + n * 0x100, 16, 12⟩
abbrev SIGHT_M_0 (n : Nat) (i : Nat) : Fld := ⟨0x47002020 + n * 0x100 + i * 0x8, 0, 16⟩
abbrev SIGHT_M_1 (n : Nat) (i : Nat) : Fld := ⟨0x47002020 + n * 0x100 + i * 0x8, 16, 16⟩
abbrev SIGHT_M_2 (n : Nat) (i : Nat) : Fld := ⟨0x47002024 + n * 0x100 + i * 0x8, 0, 16⟩
abbrev SIGHT_M_3 (n : Nat) (i : Nat) : Fld := ⟨0x47002024 + n * 0x100 + i * 0x8, 16, 16⟩
abbrev SIGHT_MOFS_0 (n : Nat) : Fld := ⟨0x47002040 + n * 0x100, 0, 16⟩
abbrev SIGHT_MOFS_1 (n : Nat) : Fld := ⟨0x47002040 + n * 0x100, 16, 16⟩
abbrev SIGHT_MOFS_2 (n : Nat) : Fld := ⟨0x47002044 + n * 0x100, 0, 16⟩
abbrev SIGHT_MOFS_3 (n : Nat) : Fld := ⟨0x47002044 + n * 0x100, 16, 16⟩
abbrev SIGHT_CMP_PLANE (n : Nat) : Fld := ⟨0x47002048 + n * 0x100, 0, 2⟩
abbrev SIGHT_CMP_EN (n : Nat) : Fld := ⟨0x47002048 + n * 0x100, 2, 1⟩
abbrev SIGHT_PRED_BASE (n : Nat) : Fld := ⟨0x47002048 + n * 0x100, 4, 12⟩
abbrev SIGHT_KER0 (n : Nat) : Fld := ⟨0x4700204C + n * 0x100, 0, 32⟩
abbrev SIGHT_KER1 (n : Nat) : Fld := ⟨0x47002050 + n * 0x100, 0, 32⟩
abbrev SIGHT_KER2 (n : Nat) : Fld := ⟨0x47002054 + n * 0x100, 0, 8⟩
abbrev SIGHT_DD_A (n : Nat) (k : Nat) : Fld := ⟨0x47002058 + n * 0x100 + k * 0x4, 0, 12⟩
abbrev SIGHT_DD_B (n : Nat) (k : Nat) : Fld := ⟨0x47002058 + n * 0x100 + k * 0x4, 16, 12⟩
abbrev SIGHT_CTX_COMMIT (n : Nat) : Fld := ⟨0x47002078 + n * 0x100, 0, 1⟩
abbrev SIGHT_CTX_TAG_IN_FORCE (n : Nat) : Fld := ⟨0x4700207C + n * 0x100, 0, 16⟩
abbrev SIGHT_CTX_TAG_COMMITTED (n : Nat) : Fld := ⟨0x4700207C + n * 0x100, 16, 16⟩
abbrev SIGHT_CTX_REFUSED (n : Nat) : Fld := ⟨0x47002080 + n * 0x100, 0, 1⟩
abbrev HLT_CTL_EN : Fld := ⟨0x48000000, 0, 1⟩
abbrev HLT_CTL_GAIN_EN : Fld := ⟨0x48000000, 1, 1⟩
abbrev HLT_CTL_MASK_EN : Fld := ⟨0x48000000, 2, 1⟩
abbrev HLT_CTL_MIN_LIVE : Fld := ⟨0x48000000, 3, 4⟩
abbrev HLT_CTL_FAST_N : Fld := ⟨0x48000000, 8, 4⟩
abbrev HLT_CTL_MIN_W : Fld := ⟨0x48000000, 12, 4⟩
abbrev HLT_CTL_ALPHA : Fld := ⟨0x48000000, 16, 8⟩
abbrev HLT_CTL_HLT_LEAD : Fld := ⟨0x48000000, 24, 8⟩
abbrev HLT_THR0_T_WATCH : Fld := ⟨0x48000004, 0, 8⟩
abbrev HLT_THR0_T_WEAK : Fld := ⟨0x48000004, 8, 8⟩
abbrev HLT_THR0_T_MASK : Fld := ⟨0x48000004, 16, 8⟩
abbrev HLT_THR0_HYST : Fld := ⟨0x48000004, 24, 8⟩
abbrev HLT_THR1_T_MISS : Fld := ⟨0x48000008, 0, 9⟩
abbrev HLT_THR1_GAIN_STEP : Fld := ⟨0x48000008, 16, 8⟩
abbrev HLT_MIN_MIN_CNT : Fld := ⟨0x4800000C, 0, 16⟩
abbrev HLT_MIN_MIN_INK : Fld := ⟨0x4800000C, 16, 12⟩
abbrev HLT_SUSPECT : Fld := ⟨0x48000010, 0, 16⟩
abbrev HLT_BASE_LO : Fld := ⟨0x48000014, 0, 32⟩
abbrev HLT_BASE_HI : Fld := ⟨0x48000018, 0, 32⟩
abbrev HLT_STAT_SCORING : Fld := ⟨0x4800001C, 0, 4⟩
abbrev HLT_STAT_BATCH_OPEN : Fld := ⟨0x4800001C, 4, 1⟩
abbrev HLT_STAT_BATCH_QUEUED : Fld := ⟨0x4800001C, 5, 1⟩
abbrev HLT_STAT_AREA_BAD : Fld := ⟨0x4800001C, 6, 1⟩
abbrev HLT_SAMPLES : Fld := ⟨0x48000020, 0, 32⟩
abbrev HLT_CHANGES_STATE_CHANGES : Fld := ⟨0x48000024, 0, 16⟩
abbrev HLT_CHANGES_GAIN_CHANGES : Fld := ⟨0x48000024, 16, 16⟩
abbrev HLT_CONFLICT : Fld := ⟨0x48000028, 0, 16⟩
abbrev HLT_HELD : Fld := ⟨0x48000028, 16, 16⟩
abbrev HLT_NOATTR : Fld := ⟨0x4800002C, 0, 16⟩
abbrev HLT_SUSPECT_PARTS : Fld := ⟨0x4800002C, 16, 16⟩
abbrev HLT_LOGIDX : Fld := ⟨0x48000030, 0, 32⟩
abbrev HLT_LASTX : Fld := ⟨0x48000034, 0, 32⟩
abbrev HLT_KEPT : Fld := ⟨0x48000038, 0, 32⟩
abbrev TWN_CFG_SILENCE_US : Fld := ⟨0x49000000, 0, 5⟩
abbrev TWN_CFG_ELIG_EN : Fld := ⟨0x49000000, 5, 1⟩
abbrev TWN_CFG_CLEAR_HIDDEN : Fld := ⟨0x49000000, 6, 1⟩
abbrev TWN_STAT_ROLE : Fld := ⟨0x49000004, 0, 2⟩
abbrev TWN_STAT_JOINED : Fld := ⟨0x49000004, 2, 1⟩
abbrev TWN_STAT_ELIGIBLE : Fld := ⟨0x49000004, 3, 1⟩
abbrev TWN_STAT_HB_LIVE : Fld := ⟨0x49000004, 4, 1⟩
abbrev TWN_STAT_PC_LIVE : Fld := ⟨0x49000004, 5, 1⟩
abbrev TWN_STAT_HANDOVER_ARMED : Fld := ⟨0x49000004, 6, 1⟩
abbrev TWN_STAT_SOLO : Fld := ⟨0x49000004, 7, 1⟩
abbrev TWN_STAT_NOT_ELIG : Fld := ⟨0x49000004, 8, 16⟩
abbrev TWN_EPOCH : Fld := ⟨0x49000008, 0, 32⟩
abbrev TWN_HSEQ : Fld := ⟨0x4900000C, 0, 32⟩
abbrev TWN_HLINE : Fld := ⟨0x49000010, 0, 32⟩
abbrev TWN_RT_LAST : Fld := ⟨0x49000014, 0, 16⟩
abbrev TWN_RT_MAX : Fld := ⟨0x49000014, 16, 16⟩
abbrev TWN_HSIZE_LAST : Fld := ⟨0x49000018, 0, 16⟩
abbrev TWN_HSIZE_MAX : Fld := ⟨0x49000018, 16, 16⟩
abbrev TWN_EVENTS_TAKEOVERS : Fld := ⟨0x4900001C, 0, 8⟩
abbrev TWN_EVENTS_HANDOVERS : Fld := ⟨0x4900001C, 8, 8⟩
abbrev TWN_EVENTS_PATH_FAULTS : Fld := ⟨0x4900001C, 16, 8⟩
abbrev TWN_EVENTS_DECLINED : Fld := ⟨0x4900001C, 24, 8⟩
abbrev TWN_LATEWIN : Fld := ⟨0x49000020, 0, 32⟩
abbrev TWN_ROLE_AGE : Fld := ⟨0x49000024, 0, 32⟩
abbrev TWN_LAST : Fld := ⟨0x49000028, 0, 32⟩
abbrev TWN_PEND_HELD : Fld := ⟨0x4900002C, 0, 16⟩
abbrev MBG_MB_CTL_HOLD_MS : Fld := ⟨0x4A000000, 0, 8⟩
abbrev MBG_MB_CTL_QUIET_S : Fld := ⟨0x4A000000, 8, 8⟩
abbrev MBG_MB_CTL_TRACE_EN : Fld := ⟨0x4A000000, 16, 8⟩
abbrev MBG_MB_CLEAR_SLOT : Fld := ⟨0x4A000004, 0, 9⟩
abbrev MBG_MB_CLEAR_ALL : Fld := ⟨0x4A000004, 31, 1⟩
abbrev MBG_MB_STAT_ALARMS_QUEUED : Fld := ⟨0x4A000008, 0, 16⟩
abbrev MBG_MB_STAT_TRACES_HELD : Fld := ⟨0x4A000008, 16, 16⟩
abbrev MBG_MB_TR_DROP : Fld := ⟨0x4A00000C, 0, 32⟩
abbrev MBG_MB_LATEWIN : Fld := ⟨0x4A000010, 0, 32⟩
abbrev MBG_MB_EXPRESS : Fld := ⟨0x4A000014, 0, 32⟩
abbrev MBG_TR_PM_LO : Fld := ⟨0x4A000040, 0, 32⟩
abbrev MBG_TR_PM_HI : Fld := ⟨0x4A000044, 0, 32⟩
abbrev MBG_TR_D0 : Fld := ⟨0x4A000048, 0, 32⟩
abbrev MBG_TR_D1 : Fld := ⟨0x4A00004C, 0, 32⟩
abbrev MBG_TR_D2 : Fld := ⟨0x4A000050, 0, 32⟩
abbrev MBG_TR_GO : Fld := ⟨0x4A000054, 0, 16⟩
abbrev MBG_MB_SLOT_W0 (s : Nat) : Fld := ⟨0x4A001000 + s * 0x40, 0, 32⟩
abbrev MBG_MB_SLOT_W1 (s : Nat) : Fld := ⟨0x4A001004 + s * 0x40, 0, 32⟩
abbrev MBG_MB_SLOT_W2 (s : Nat) : Fld := ⟨0x4A001008 + s * 0x40, 0, 32⟩
abbrev MBG_MB_SLOT_W3 (s : Nat) : Fld := ⟨0x4A00100C + s * 0x40, 0, 32⟩
abbrev MBG_MB_SLOT_W4 (s : Nat) : Fld := ⟨0x4A001010 + s * 0x40, 0, 32⟩
abbrev MBG_MB_SLOT_W5 (s : Nat) : Fld := ⟨0x4A001014 + s * 0x40, 0, 32⟩
abbrev MBG_MB_SLOT_W6 (s : Nat) : Fld := ⟨0x4A001018 + s * 0x40, 0, 32⟩
abbrev MBG_MB_SLOT_W7 (s : Nat) : Fld := ⟨0x4A00101C + s * 0x40, 0, 32⟩
abbrev MBG_MB_SLOT_W8 (s : Nat) : Fld := ⟨0x4A001020 + s * 0x40, 0, 32⟩
abbrev MBG_MB_SLOT_W9 (s : Nat) : Fld := ⟨0x4A001024 + s * 0x40, 0, 32⟩
abbrev MBG_MB_SLOT_W10 (s : Nat) : Fld := ⟨0x4A001028 + s * 0x40, 0, 32⟩
abbrev MBG_MB_SLOT_W11 (s : Nat) : Fld := ⟨0x4A00102C + s * 0x40, 0, 32⟩
abbrev MBG_SLOT_OPEN (s : Nat) : Fld := ⟨0x4A001030 + s * 0x40, 0, 1⟩
abbrev MBG_SLOT_QUEUED (s : Nat) : Fld := ⟨0x4A001030 + s * 0x40, 1, 1⟩
abbrev TIME_TB_CTL_FIRE_FOLLOW : Fld := ⟨0x4B000000, 0, 1⟩
abbrev TIME_TB_CTL_SIGHT_FOLLOW : Fld := ⟨0x4B000000, 1, 1⟩
abbrev TIME_TB_CTL_MOTION_FOLLOW : Fld := ⟨0x4B000000, 2, 1⟩
abbrev TIME_TB_INC_0 : Fld := ⟨0x4B000010, 0, 32⟩
abbrev TIME_TB_INC (b : Nat) : Fld := ⟨0x4B000010 + b * 0x4, 0, 32⟩
abbrev TIME_TB_VAL (b : Nat) : Fld := ⟨0x4B000020 + b * 0x4, 0, 32⟩
abbrev TIME_TB_STEP (b : Nat) : Fld := ⟨0x4B000030 + b * 0x4, 0, 32⟩
abbrev TIME_TB_SYNC_STAT_STATE : Fld := ⟨0x4B000040, 0, 2⟩
abbrev TIME_TB_SYNC_STAT_STEPS : Fld := ⟨0x4B000040, 16, 16⟩
abbrev TIME_TB_OFFSET : Fld := ⟨0x4B000044, 0, 32⟩
abbrev TIME_TB_ANCHOR_LO : Fld := ⟨0x4B000048, 0, 32⟩
abbrev TIME_TB_ANCHOR_HI : Fld := ⟨0x4B00004C, 0, 32⟩
abbrev TIME_TB_SYNC_AGE : Fld := ⟨0x4B000050, 0, 32⟩
abbrev TIME_TMC_OVERLAP_HK : Fld := ⟨0x4B000054, 0, 16⟩
abbrev TIME_TMC_OVERLAP_MOTION : Fld := ⟨0x4B000054, 16, 16⟩
abbrev TIME_TMC_CTL_BASE (k : Nat) : Fld := ⟨0x4B000100 + k * 0x20, 0, 2⟩
abbrev TIME_TMC_CTL_POLICY (k : Nat) : Fld := ⟨0x4B000100 + k * 0x20, 2, 1⟩
abbrev TIME_TMC_CTL_ARM (k : Nat) : Fld := ⟨0x4B000100 + k * 0x20, 3, 1⟩
abbrev TIME_TMC_CTL_HK (k : Nat) : Fld := ⟨0x4B000100 + k * 0x20, 4, 1⟩
abbrev TIME_TMC_CTL_MOTION (k : Nat) : Fld := ⟨0x4B000100 + k * 0x20, 5, 1⟩
abbrev TIME_TMC_CTL_DISARM (k : Nat) : Fld := ⟨0x4B000100 + k * 0x20, 6, 1⟩
abbrev TIME_TARGET (k : Nat) : Fld := ⟨0x4B000104 + k * 0x20, 0, 32⟩
abbrev TIME_PERIOD (k : Nat) : Fld := ⟨0x4B000108 + k * 0x20, 0, 32⟩
abbrev TIME_TMC_STAT_ARMED (k : Nat) : Fld := ⟨0x4B00010C + k * 0x20, 0, 1⟩
abbrev TIME_TMC_STAT_LATE (k : Nat) : Fld := ⟨0x4B00010C + k * 0x20, 1, 1⟩
abbrev TIME_TMC_STAT_MISSED (k : Nat) : Fld := ⟨0x4B00010C + k * 0x20, 16, 16⟩
abbrev TIME_FIRED (k : Nat) : Fld := ⟨0x4B000110 + k * 0x20, 0, 32⟩
abbrev TIME_TMC_LAST (k : Nat) : Fld := ⟨0x4B000114 + k * 0x20, 0, 32⟩
abbrev MOT_CTL_LIFT_LOCK : Fld := ⟨0x4C000000, 0, 1⟩
abbrev MOT_CTL_SPL_EN : Fld := ⟨0x4C000000, 1, 1⟩
abbrev MOT_CTL_SPL_EDGE : Fld := ⟨0x4C000000, 2, 1⟩
abbrev MOT_CTL_SPL_FILTER : Fld := ⟨0x4C000000, 3, 4⟩
abbrev MOT_CTL_CYCLE_US : Fld := ⟨0x4C000000, 7, 7⟩
abbrev MOT_CTL_PWM_KHZ : Fld := ⟨0x4C000000, 14, 7⟩
abbrev MOT_LOCK_OFS : Fld := ⟨0x4C000004, 0, 32⟩
abbrev MOT_RET_POS : Fld := ⟨0x4C000008, 0, 32⟩
abbrev MOT_RET_VMAX : Fld := ⟨0x4C00000C, 0, 32⟩
abbrev MOT_RET_AMAX : Fld := ⟨0x4C000010, 0, 32⟩
abbrev MOT_VBUS_VBUS_CH : Fld := ⟨0x4C000014, 0, 5⟩
abbrev MOT_VBUS_VBUS_LSB : Fld := ⟨0x4C000014, 5, 16⟩
abbrev MOT_CMD_STOP : Fld := ⟨0x4C000018, 0, 4⟩
abbrev MOT_CMD_RETRACT : Fld := ⟨0x4C000018, 4, 1⟩
abbrev MOT_GSTAT_RETRACT : Fld := ⟨0x4C00001C, 0, 1⟩
abbrev MOT_GSTAT_IGNORED : Fld := ⟨0x4C00001C, 1, 1⟩
abbrev MOT_GSTAT_SPLICES : Fld := ⟨0x4C00001C, 16, 16⟩
abbrev MOT_VBUS_MV : Fld := ⟨0x4C000020, 0, 16⟩
abbrev MOT_PRB_CTL_CHANNEL (n : Nat) : Fld := ⟨0x4C000080 + n * 0x10, 0, 3⟩
abbrev MOT_PRB_CTL_EDGE (n : Nat) : Fld := ⟨0x4C000080 + n * 0x10, 3, 1⟩
abbrev MOT_PRB_CTL_EN (n : Nat) : Fld := ⟨0x4C000080 + n * 0x10, 4, 1⟩
abbrev MOT_PRB_COUNT (n : Nat) : Fld := ⟨0x4C000084 + n * 0x10, 0, 32⟩
abbrev MOT_PRB_TIME (n : Nat) : Fld := ⟨0x4C000088 + n * 0x10, 0, 32⟩
abbrev MOT_PRB_STAT_NEW (n : Nat) : Fld := ⟨0x4C00008C + n * 0x10, 0, 1⟩
abbrev MOT_PRB_STAT_EDGES (n : Nat) : Fld := ⟨0x4C00008C + n * 0x10, 16, 16⟩
abbrev MOT_AX_CTL_ENABLE (k : Nat) : Fld := ⟨0x4C000100 + k * 0x80, 0, 1⟩
abbrev MOT_AX_CTL_MOT_INVERT (k : Nat) : Fld := ⟨0x4C000100 + k * 0x80, 1, 1⟩
abbrev MOT_AX_CTL_ENC_INVERT (k : Nat) : Fld := ⟨0x4C000100 + k * 0x80, 2, 1⟩
abbrev MOT_AX_CTL_STALL_EN (k : Nat) : Fld := ⟨0x4C000100 + k * 0x80, 3, 1⟩
abbrev MOT_AX_CTL_FILTER (k : Nat) : Fld := ⟨0x4C000100 + k * 0x80, 4, 4⟩
abbrev MOT_ENC_NUM (k : Nat) : Fld := ⟨0x4C000104 + k * 0x80, 0, 16⟩
abbrev MOT_ENC_DEN (k : Nat) : Fld := ⟨0x4C000104 + k * 0x80, 16, 16⟩
abbrev MOT_VMAX (k : Nat) : Fld := ⟨0x4C000108 + k * 0x80, 0, 32⟩
abbrev MOT_AMAX (k : Nat) : Fld := ⟨0x4C00010C + k * 0x80, 0, 32⟩
abbrev MOT_TARGET (k : Nat) : Fld := ⟨0x4C000110 + k * 0x80, 0, 32⟩
abbrev MOT_SOFT_MIN (k : Nat) : Fld := ⟨0x4C000114 + k * 0x80, 0, 32⟩
abbrev MOT_SOFT_MAX (k : Nat) : Fld := ⟨0x4C000118 + k * 0x80, 0, 32⟩
abbrev MOT_K_RUN (k : Nat) : Fld := ⟨0x4C00011C + k * 0x80, 0, 12⟩
abbrev MOT_K_HOLD (k : Nat) : Fld := ⟨0x4C00011C + k * 0x80, 16, 12⟩
abbrev MOT_K_BEMF (k : Nat) : Fld := ⟨0x4C000120 + k * 0x80, 0, 16⟩
abbrev MOT_HOLD_DLY (k : Nat) : Fld := ⟨0x4C000120 + k * 0x80, 16, 16⟩
abbrev MOT_STALL_WIN (k : Nat) : Fld := ⟨0x4C000124 + k * 0x80, 0, 16⟩
abbrev MOT_STALL_N (k : Nat) : Fld := ⟨0x4C000124 + k * 0x80, 16, 8⟩
abbrev MOT_MS_FULL (k : Nat) : Fld := ⟨0x4C000128 + k * 0x80, 0, 16⟩
abbrev MOT_SEG_CTL_FIRST (k : Nat) : Fld := ⟨0x4C00012C + k * 0x80, 0, 8⟩
abbrev MOT_SEG_CTL_LAST (k : Nat) : Fld := ⟨0x4C00012C + k * 0x80, 8, 8⟩
abbrev MOT_SEG_CTL_GO (k : Nat) : Fld := ⟨0x4C00012C + k * 0x80, 16, 1⟩
abbrev MOT_AX_STAT_MODE (k : Nat) : Fld := ⟨0x4C000130 + k * 0x80, 0, 2⟩
abbrev MOT_AX_STAT_MOVING (k : Nat) : Fld := ⟨0x4C000130 + k * 0x80, 2, 1⟩
abbrev MOT_AX_STAT_HOLD (k : Nat) : Fld := ⟨0x4C000130 + k * 0x80, 3, 1⟩
abbrev MOT_AX_STAT_FOLLOWER (k : Nat) : Fld := ⟨0x4C000130 + k * 0x80, 4, 1⟩
abbrev MOT_AX_STAT_QLOG (k : Nat) : Fld := ⟨0x4C000130 + k * 0x80, 5, 4⟩
abbrev MOT_AX_STAT_SEG (k : Nat) : Fld := ⟨0x4C000130 + k * 0x80, 16, 8⟩
abbrev MOT_STALL (k : Nat) : Fld := ⟨0x4C000134 + k * 0x80, 0, 1⟩
abbrev MOT_SOFT_LIMIT (k : Nat) : Fld := ⟨0x4C000134 + k * 0x80, 1, 1⟩
abbrev MOT_COUNTER (k : Nat) : Fld := ⟨0x4C000134 + k * 0x80, 2, 1⟩
abbrev MOT_ENCODER (k : Nat) : Fld := ⟨0x4C000134 + k * 0x80, 3, 1⟩
abbrev MOT_SEG_REFUSED (k : Nat) : Fld := ⟨0x4C000134 + k * 0x80, 4, 1⟩
abbrev MOT_IGNORED (k : Nat) : Fld := ⟨0x4C000134 + k * 0x80, 5, 1⟩
abbrev MOT_CMD_POS (k : Nat) : Fld := ⟨0x4C000138 + k * 0x80, 0, 32⟩
abbrev MOT_ENC_POS (k : Nat) : Fld := ⟨0x4C00013C + k * 0x80, 0, 32⟩
abbrev MOT_VEL (k : Nat) : Fld := ⟨0x4C000140 + k * 0x80, 0, 32⟩
abbrev MOT_SEG_VEL (k : Nat) (s : Nat) : Fld := ⟨0x4C001008 + k * 0x1000 + s * 0x10, 0, 32⟩
abbrev MOT_ILLEGAL (k : Nat) : Fld := ⟨0x4C000144 + k * 0x80, 0, 16⟩
abbrev MOT_STALLS (k : Nat) : Fld := ⟨0x4C000144 + k * 0x80, 16, 16⟩
abbrev MOT_SET_POS (k : Nat) : Fld := ⟨0x4C000148 + k * 0x80, 0, 32⟩
abbrev MOT_INDEX_CNT (k : Nat) : Fld := ⟨0x4C00014C + k * 0x80, 0, 32⟩
abbrev MOT_CMP_POS (k : Nat) : Fld := ⟨0x4C000150 + k * 0x80, 0, 32⟩
abbrev MOT_CMP_CTL_ARM (k : Nat) : Fld := ⟨0x4C000154 + k * 0x80, 0, 1⟩
abbrev MOT_CMP_CTL_POLICY (k : Nat) : Fld := ⟨0x4C000154 + k * 0x80, 1, 1⟩
abbrev MOT_CMP_CTL_DIR (k : Nat) : Fld := ⟨0x4C000154 + k * 0x80, 2, 2⟩
abbrev MOT_CMP_CTL_DISARM (k : Nat) : Fld := ⟨0x4C000154 + k * 0x80, 4, 1⟩
abbrev MOT_ARMED (k : Nat) : Fld := ⟨0x4C000158 + k * 0x80, 0, 1⟩
abbrev MOT_LATE (k : Nat) : Fld := ⟨0x4C000158 + k * 0x80, 1, 1⟩
abbrev MOT_HELD (k : Nat) : Fld := ⟨0x4C000158 + k * 0x80, 2, 1⟩
abbrev MOT_CMP_STAT_FIRED (k : Nat) : Fld := ⟨0x4C000158 + k * 0x80, 16, 16⟩
abbrev MOT_ENC_OFS (k : Nat) : Fld := ⟨0x4C00015C + k * 0x80, 0, 32⟩
abbrev MOT_SEG_DT (k : Nat) (s : Nat) : Fld := ⟨0x4C001000 + k * 0x1000 + s * 0x10, 0, 32⟩
abbrev MOT_SEG_POS (k : Nat) (s : Nat) : Fld := ⟨0x4C001004 + k * 0x1000 + s * 0x10, 0, 32⟩
abbrev MOT_SEG_EVENT (k : Nat) (s : Nat) : Fld := ⟨0x4C00100C + k * 0x1000 + s * 0x10, 0, 1⟩
abbrev DRAM_CFG_RATE : Fld := ⟨0x4D000000, 0, 3⟩
abbrev DRAM_CFG_RATE_MASK : Fld := ⟨0x4D000000, 3, 5⟩
abbrev DRAM_CFG_DENSITY : Fld := ⟨0x4D000000, 8, 2⟩
abbrev DRAM_CFG_RANKS2 : Fld := ⟨0x4D000000, 10, 1⟩
abbrev DRAM_FREQ_NEXT_RATE : Fld := ⟨0x4D000004, 0, 3⟩
abbrev DRAM_FREQ_USE_SHADOW : Fld := ⟨0x4D000004, 3, 1⟩
abbrev DRAM_FREQ_GO : Fld := ⟨0x4D000004, 4, 1⟩
abbrev DRAM_STAT_TRAINED : Fld := ⟨0x4D000008, 0, 4⟩
abbrev DRAM_STAT_FREQ_BUSY : Fld := ⟨0x4D000008, 4, 1⟩
abbrev DRAM_STAT_FREQ_IGNORED : Fld := ⟨0x4D000008, 5, 1⟩
abbrev DRAM_STAT_RFM_REQ : Fld := ⟨0x4D000008, 6, 1⟩
abbrev DRAM_STAT_HOT : Fld := ⟨0x4D000008, 7, 1⟩
abbrev DRAM_STAT_RETRAIN_FAIL : Fld := ⟨0x4D000008, 8, 4⟩
abbrev DRAM_SCRUB_SCRUB_H : Fld := ⟨0x4D00000C, 0, 8⟩
abbrev DRAM_tRCD_LIVE : Fld := ⟨0x4D000040, 0, 8⟩
abbrev DRAM_TIM0_tRP_LIVE : Fld := ⟨0x4D000040, 8, 8⟩
abbrev DRAM_tRAS_LIVE : Fld := ⟨0x4D000040, 16, 8⟩
abbrev DRAM_tWR_LIVE : Fld := ⟨0x4D000040, 24, 8⟩
abbrev DRAM_tRCD_SHADOW : Fld := ⟨0x4D000050, 0, 8⟩
abbrev DRAM_TIM0_tRP_SHADOW : Fld := ⟨0x4D000050, 8, 8⟩
abbrev DRAM_tRAS_SHADOW : Fld := ⟨0x4D000050, 16, 8⟩
abbrev DRAM_tWR_SHADOW : Fld := ⟨0x4D000050, 24, 8⟩
abbrev DRAM_tRRD_LIVE : Fld := ⟨0x4D000044, 0, 8⟩
abbrev DRAM_tFAW_LIVE : Fld := ⟨0x4D000044, 8, 8⟩
abbrev DRAM_tRFCpb_LIVE : Fld := ⟨0x4D000044, 16, 16⟩
abbrev DRAM_tRRD_SHADOW : Fld := ⟨0x4D000054, 0, 8⟩
abbrev DRAM_tFAW_SHADOW : Fld := ⟨0x4D000054, 8, 8⟩
abbrev DRAM_tRFCpb_SHADOW : Fld := ⟨0x4D000054, 16, 16⟩
abbrev DRAM_TIM2_tREFIpb_LIVE : Fld := ⟨0x4D000048, 0, 16⟩
abbrev DRAM_TIM2_tREFIpb_SHADOW : Fld := ⟨0x4D000058, 0, 16⟩
abbrev DRAM_CE_COUNT (k : Nat) : Fld := ⟨0x4D000080 + k * 0x10, 0, 32⟩
abbrev DRAM_UE_COUNT (k : Nat) : Fld := ⟨0x4D000084 + k * 0x10, 0, 16⟩
abbrev DRAM_LAST_UE_LO (k : Nat) : Fld := ⟨0x4D000088 + k * 0x10, 0, 32⟩
abbrev DRAM_LAST_UE_HI (k : Nat) : Fld := ⟨0x4D00008C + k * 0x10, 0, 32⟩
abbrev DMA_SWREQ : Fld := ⟨0x4E000000, 0, 3⟩
abbrev DMA_STAT_ACTIVE : Fld := ⟨0x4E000004, 0, 16⟩
abbrev DMA_CH_CTL_RUN (k : Nat) : Fld := ⟨0x4E000100 + k * 0x40, 0, 1⟩
abbrev DMA_CH_CTL_PAUSE (k : Nat) : Fld := ⟨0x4E000100 + k * 0x40, 1, 1⟩
abbrev DMA_CH_CTL_PACED (k : Nat) : Fld := ⟨0x4E000100 + k * 0x40, 2, 1⟩
abbrev DMA_CH_CTL_REQ (k : Nat) : Fld := ⟨0x4E000100 + k * 0x40, 3, 4⟩
abbrev DMA_CH_CTL_BURST_LOG (k : Nat) : Fld := ⟨0x4E000100 + k * 0x40, 7, 3⟩
abbrev DMA_CH_CTL_RING_LOG (k : Nat) : Fld := ⟨0x4E000100 + k * 0x40, 10, 4⟩
abbrev DMA_RING_BASE_LO (k : Nat) : Fld := ⟨0x4E000104 + k * 0x40, 0, 32⟩
abbrev DMA_RING_BASE_HI (k : Nat) : Fld := ⟨0x4E000108 + k * 0x40, 0, 32⟩
abbrev DMA_HEAD (k : Nat) : Fld := ⟨0x4E00010C + k * 0x40, 0, 16⟩
abbrev DMA_TAIL (k : Nat) : Fld := ⟨0x4E000110 + k * 0x40, 0, 16⟩
abbrev DMA_CH_STAT_STATE (k : Nat) : Fld := ⟨0x4E000114 + k * 0x40, 0, 3⟩
abbrev DMA_CH_STAT_HEAD_IGNORED (k : Nat) : Fld := ⟨0x4E000114 + k * 0x40, 3, 1⟩
abbrev DMA_CH_STAT_CFG_IGNORED (k : Nat) : Fld := ⟨0x4E000114 + k * 0x40, 4, 1⟩
abbrev DMA_CH_STAT_LAST_RESULT (k : Nat) : Fld := ⟨0x4E000114 + k * 0x40, 8, 8⟩
abbrev DMA_CUR_SRC_LO (k : Nat) : Fld := ⟨0x4E000118 + k * 0x40, 0, 32⟩
abbrev DMA_CUR_SRC_HI (k : Nat) : Fld := ⟨0x4E00011C + k * 0x40, 0, 32⟩
abbrev DMA_CUR_DST_LO (k : Nat) : Fld := ⟨0x4E000120 + k * 0x40, 0, 32⟩
abbrev DMA_CUR_DST_HI (k : Nat) : Fld := ⟨0x4E000124 + k * 0x40, 0, 32⟩
abbrev DMA_CUR_LEFT (k : Nat) : Fld := ⟨0x4E000128 + k * 0x40, 0, 32⟩
abbrev DMA_CUR_CRC (k : Nat) : Fld := ⟨0x4E00012C + k * 0x40, 0, 32⟩
abbrev DMA_BURSTS (k : Nat) : Fld := ⟨0x4E000130 + k * 0x40, 0, 16⟩
abbrev DMA_WITHDRAWN (k : Nat) : Fld := ⟨0x4E000130 + k * 0x40, 16, 16⟩
abbrev DMA_REQ_TMO (k : Nat) : Fld := ⟨0x4E000134 + k * 0x40, 0, 16⟩
abbrev DMA_COMPLETED (k : Nat) : Fld := ⟨0x4E000138 + k * 0x40, 0, 32⟩
abbrev LANE_GSTAT_H_LOCK : Fld := ⟨0x4F000000, 0, 1⟩
abbrev LANE_GSTAT_M_LOCK : Fld := ⟨0x4F000000, 1, 4⟩
abbrev LANE_CTL_TX_INV (l : Nat) : Fld := ⟨0x4F000100 + l * 0x40, 0, 1⟩
abbrev LANE_CTL_RX_INV (l : Nat) : Fld := ⟨0x4F000100 + l * 0x40, 1, 1⟩
abbrev LANE_CTL_TEST (l : Nat) : Fld := ⟨0x4F000100 + l * 0x40, 2, 1⟩
abbrev LANE_CTL_LOOP (l : Nat) : Fld := ⟨0x4F000100 + l * 0x40, 3, 2⟩
abbrev LANE_CTL_PRBS (l : Nat) : Fld := ⟨0x4F000100 + l * 0x40, 5, 2⟩
abbrev LANE_CTL_CHK (l : Nat) : Fld := ⟨0x4F000100 + l * 0x40, 7, 1⟩
abbrev LANE_TX_PRE (l : Nat) : Fld := ⟨0x4F000104 + l * 0x40, 0, 4⟩
abbrev LANE_TX_POST (l : Nat) : Fld := ⟨0x4F000104 + l * 0x40, 4, 5⟩
abbrev LANE_TX_SWING (l : Nat) : Fld := ⟨0x4F000104 + l * 0x40, 9, 3⟩
abbrev LANE_STAT_LOS (l : Nat) : Fld := ⟨0x4F000108 + l * 0x40, 0, 1⟩
abbrev LANE_STAT_LOL (l : Nat) : Fld := ⟨0x4F000108 + l * 0x40, 1, 1⟩
abbrev LANE_STAT_ALIGNED (l : Nat) : Fld := ⟨0x4F000108 + l * 0x40, 2, 1⟩
abbrev LANE_STAT_SETTLED (l : Nat) : Fld := ⟨0x4F000108 + l * 0x40, 3, 1⟩
abbrev LANE_STAT_SERVICE (l : Nat) : Fld := ⟨0x4F000108 + l * 0x40, 4, 1⟩
abbrev LANE_STAT_STORED (l : Nat) : Fld := ⟨0x4F000108 + l * 0x40, 5, 1⟩
abbrev LANE_STAT_TEST_IGNORED (l : Nat) : Fld := ⟨0x4F000108 + l * 0x40, 6, 1⟩
abbrev LANE_ERR (l : Nat) : Fld := ⟨0x4F00010C + l * 0x40, 0, 32⟩
abbrev LANE_MARGIN_EYE_H (l : Nat) : Fld := ⟨0x4F000110 + l * 0x40, 0, 12⟩
abbrev LANE_MARGIN_EYE_W (l : Nat) : Fld := ⟨0x4F000110 + l * 0x40, 12, 8⟩
abbrev LANE_EVENTS_LOS_COUNT (l : Nat) : Fld := ⟨0x4F000114 + l * 0x40, 0, 16⟩
abbrev LANE_EVENTS_LOL_COUNT (l : Nat) : Fld := ⟨0x4F000114 + l * 0x40, 16, 16⟩
abbrev PWR_SLACK_TARGET : Fld := ⟨0x50000000, 0, 5⟩
abbrev PWR_CFG_PH_N : Fld := ⟨0x50000004, 0, 4⟩
abbrev PWR_CFG_FSW : Fld := ⟨0x50000004, 4, 5⟩
abbrev PWR_CFG_STEP_UP : Fld := ⟨0x50000004, 9, 4⟩
abbrev PWR_CFG_STEP_MAX : Fld := ⟨0x50000004, 13, 4⟩
abbrev PWR_CFG_DOWN_N : Fld := ⟨0x50000004, 17, 5⟩
abbrev PWR_CFG_SLEW_UP : Fld := ⟨0x50000004, 22, 4⟩
abbrev PWR_PH_ILIM : Fld := ⟨0x50000008, 0, 8⟩
abbrev PWR_PH_SHED : Fld := ⟨0x50000008, 8, 8⟩
abbrev PWR_STAT_VSET : Fld := ⟨0x5000000C, 0, 9⟩
abbrev PWR_STAT_VFLOOR : Fld := ⟨0x5000000C, 9, 9⟩
abbrev PWR_STAT_PH_ON : Fld := ⟨0x5000000C, 18, 8⟩
abbrev PWR_STAT_WARN : Fld := ⟨0x5000000C, 26, 1⟩
abbrev PWR_STAT_THROTTLE : Fld := ⟨0x5000000C, 27, 1⟩
abbrev PWR_MEAS_VCORE : Fld := ⟨0x50000010, 0, 16⟩
abbrev PWR_MEAS_ICORE : Fld := ⟨0x50000010, 16, 16⟩
abbrev PWR_SLACK_MIN : Fld := ⟨0x50000014, 0, 16⟩
abbrev PWR_DIE_T : Fld := ⟨0x50000018, 0, 16⟩
abbrev PWR_DIE_TM : Fld := ⟨0x50000018, 16, 16⟩
abbrev PWR_DIE_RTH : Fld := ⟨0x5000001C, 0, 16⟩
abbrev PWR_DIE_POTHER : Fld := ⟨0x5000001C, 16, 16⟩
abbrev PWR_DIE_TAU : Fld := ⟨0x50000020, 0, 24⟩
abbrev PWR_ANCHOR : Fld := ⟨0x50000020, 24, 8⟩
abbrev PWR_HK_PERIOD : Fld := ⟨0x50000024, 0, 6⟩
abbrev PWR_RAIL_FAULT_PHASE : Fld := ⟨0x50000028, 0, 8⟩
abbrev PWR_RAIL_FAULT_UV : Fld := ⟨0x50000028, 8, 1⟩
abbrev PWR_HK_VAL (c : Nat) : Fld := ⟨0x50000100 + c * 0x4, 0, 12⟩
abbrev PODPWR_HV_EN : Fld := ⟨0x51000000, 0, 24⟩
abbrev PODPWR_HV_STAT : Fld := ⟨0x51000004, 0, 24⟩
abbrev PODPWR_HV_FAULT : Fld := ⟨0x51000008, 0, 24⟩
abbrev PODPWR_PZ_INHIBIT : Fld := ⟨0x5100000C, 0, 24⟩
abbrev PODPWR_PZ_THROT : Fld := ⟨0x51000010, 0, 24⟩
abbrev PODPWR_PZ_WARNED : Fld := ⟨0x51000014, 0, 24⟩
abbrev PODPWR_HV_GAP : Fld := ⟨0x51000018, 0, 14⟩
abbrev PODPWR_HV_OK_MS : Fld := ⟨0x51000018, 14, 16⟩
abbrev PODPWR_HV_SCALE : Fld := ⟨0x5100001C, 0, 16⟩
abbrev PODPWR_HV_CH : Fld := ⟨0x5100001C, 16, 5⟩
abbrev PODPWR_PTHR : Fld := ⟨0x5100001C, 24, 8⟩
abbrev PODPWR_WARN (p : Nat) : Fld := ⟨0x51000100 + p * 0x20, 0, 8⟩
abbrev PODPWR_THROT (p : Nat) : Fld := ⟨0x51000100 + p * 0x20, 8, 8⟩
abbrev PODPWR_SHUT (p : Nat) : Fld := ⟨0x51000100 + p * 0x20, 16, 8⟩
abbrev PODPWR_HYST (p : Nat) : Fld := ⟨0x51000100 + p * 0x20, 24, 4⟩
abbrev PODPWR_RTH (p : Nat) : Fld := ⟨0x51000104 + p * 0x20, 0, 16⟩
abbrev PODPWR_I_SCALE (p : Nat) : Fld := ⟨0x51000104 + p * 0x20, 16, 16⟩
abbrev PODPWR_TAU (p : Nat) : Fld := ⟨0x51000108 + p * 0x20, 0, 24⟩
abbrev PODPWR_I_CH (p : Nat) : Fld := ⟨0x51000108 + p * 0x20, 24, 5⟩
abbrev PODPWR_IMAX (p : Nat) : Fld := ⟨0x5100010C + p * 0x20, 0, 16⟩
abbrev PODPWR_PZ_T (p : Nat) : Fld := ⟨0x51000110 + p * 0x20, 0, 16⟩
abbrev PODPWR_PZ_P (p : Nat) : Fld := ⟨0x51000110 + p * 0x20, 16, 16⟩
abbrev PODPWR_PZ_I (p : Nat) : Fld := ⟨0x51000114 + p * 0x20, 0, 16⟩
abbrev THM_STAT_BOOT_SLOT : Fld := ⟨0x52000000, 0, 1⟩
abbrev THM_STAT_PENDING : Fld := ⟨0x52000000, 1, 2⟩
abbrev THM_STAT_FALLBACK : Fld := ⟨0x52000000, 3, 1⟩
abbrev THM_STAT_SETTINGS_OK : Fld := ⟨0x52000000, 4, 1⟩
abbrev THM_STAT_BULK_OK : Fld := ⟨0x52000000, 5, 1⟩
abbrev THM_STAT_MAP_OK : Fld := ⟨0x52000000, 6, 1⟩
abbrev THM_STAT_BULK_DIRTY : Fld := ⟨0x52000000, 7, 1⟩
abbrev THM_STAT_BANK : Fld := ⟨0x52000000, 8, 1⟩
abbrev THM_STAT_CS_REQUIRED : Fld := ⟨0x52000000, 9, 1⟩
abbrev THM_STAT_COMMIT_BUSY : Fld := ⟨0x52000000, 10, 1⟩
abbrev THM_SEQ : Fld := ⟨0x52000004, 0, 32⟩
abbrev THM_ID_LO : Fld := ⟨0x52000008, 0, 32⟩
abbrev THM_ID_HI : Fld := ⟨0x5200000C, 0, 32⟩
abbrev THM_KEYS : Fld := ⟨0x52000010, 0, 8⟩
abbrev THM_SVN_FLOOR : Fld := ⟨0x52000014, 0, 16⟩
abbrev THM_SVN_RUNNING : Fld := ⟨0x52000014, 16, 16⟩
abbrev THM_VERSION : Fld := ⟨0x52000018, 0, 32⟩
abbrev THM_VERSION_PEND : Fld := ⟨0x5200001C, 0, 32⟩
abbrev THM_WEAR_WEAR : Fld := ⟨0x52000020, 0, 16⟩
abbrev THM_WEAR_SPARES : Fld := ⟨0x52000020, 16, 8⟩
abbrev THM_POWER_S : Fld := ⟨0x52000024, 0, 32⟩
abbrev THM_RESETS_KIND : Fld := ⟨0x52000028, 0, 8⟩
abbrev THM_RESETS_COUNT : Fld := ⟨0x52000028, 8, 24⟩
abbrev THM_LAST_COMMIT : Fld := ⟨0x5200002C, 0, 32⟩
end F

def rowsROUND0 : List StnRow := [
  ⟨0x40000000, 2, 0x10, 1, 0x10, 0x0, 0x0, 0x0, 0x0, 0x0, 0x0⟩,
  ⟨0x40000004, 2, 0x10, 1, 0x10, 0x0, 0x0, 0x0, 0x0, 0x0, 0x0⟩,
  ⟨0x40000008, 2, 0x10, 1, 0x10, 0x0, 0x0, 0x0, 0x0, 0x0, 0x0⟩,
  ⟨0x40000020, 1, 0x1000000, 1, 0x1000000, 0x0, 0x0, 0x0, 0x0, 0xFFFF, 0x0⟩,
  ⟨0x40000024, 1, 0x1000000, 1, 0x1000000, 0x0, 0x0, 0x0, 0x0, 0x0, 0x0⟩,
  ⟨0x40000028, 1, 0x1000000, 1, 0x1000000, 0x0, 0x0, 0x0, 0x0, 0x0, 0x0⟩]
def rowsROUND : List StnRow := rowsROUND0

def rowsFEED0 : List StnRow := [
  ⟨0x41000000, 1, 0x1000000, 1, 0x1000000, 0x0, 0x0, 0x0, 0x0, 0x0, 0x0⟩,
  ⟨0x41000004, 1, 0x1000000, 1, 0x1000000, 0x0, 0x0, 0x0, 0x0, 0x0, 0xFFFFFFFF⟩,
  ⟨0x41000008, 1, 0x1000000, 1, 0x1000000, 0x0, 0x0, 0x0, 0x0, 0x0, 0x0⟩,
  ⟨0x4100000C, 1, 0x1000000, 1, 0x1000000, 0x0, 0x0, 0x0, 0x0, 0x0, 0x0⟩,
  ⟨0x41000010, 1, 0x1000000, 1, 0x1000000, 0x0, 0x0, 0x0, 0x0, 0x0, 0x0⟩]
def rowsFEED : List StnRow := rowsFEED0

def rowsPKR0 : List StnRow := [
  ⟨0x42000000, 1, 0x1000000, 1, 0x1000000, 0x3E, 0x1, 0x0, 0x0, 0x0, 0x0⟩,
  ⟨0x42000004, 1, 0x1000000, 1, 0x1000000, 0x0, 0x0, 0x40, 0x0, 0x0, 0x0⟩,
  ⟨0x42000008, 1, 0x1000000, 1, 0x1000000, 0xFFFFFFFF, 0x0, 0x0, 0x0, 0x0, 0x0⟩,
  ⟨0x4200000C, 1, 0x1000000, 1, 0x1000000, 0xFFFFFFFF, 0x0, 0x0, 0x0, 0x0, 0x0⟩,
  ⟨0x42000010, 1, 0x1000000, 1, 0x1000000, 0xFFFFFFFF, 0x0, 0x0, 0x0, 0x0, 0x0⟩,
  ⟨0x42000014, 1, 0x1000000, 1, 0x1000000, 0xFFFFFFFF, 0x0, 0x0, 0x0, 0x0, 0x0⟩,
  ⟨0x42000018, 1, 0x1000000, 1, 0x1000000, 0xFFFFFFFF, 0x0, 0x0, 0x0, 0x0, 0x0⟩,
  ⟨0x4200001C, 1, 0x1000000, 1, 0x1000000, 0xFFFFFFFF, 0x0, 0x0, 0x0, 0x0, 0x0⟩,
  ⟨0x42000020, 1, 0x1000000, 1, 0x1000000, 0x0, 0x0, 0x0, 0x0, 0x0, 0x0⟩,
  ⟨0x42000024, 1, 0x1000000, 1, 0x1000000, 0x0, 0x0, 0x0, 0x0, 0x0, 0x0⟩,
  ⟨0x42000028, 1, 0x1000000, 1, 0x1000000, 0xFFFFFFFF, 0x0, 0x0, 0x0, 0x0, 0x0⟩,
  ⟨0x4200002C, 1, 0x1000000, 1, 0x1000000, 0xFFFFFFFF, 0x0, 0x0, 0x0, 0x0, 0x0⟩,
  ⟨0x42000030, 1, 0x1000000, 1, 0x1000000, 0x0, 0x0, 0x0, 0x0, 0x0, 0x0⟩,
  ⟨0x42000034, 1, 0x1000000, 1, 0x1000000, 0x0, 0x0, 0x0, 0x0, 0x0, 0x0⟩,
  ⟨0x42000038, 1, 0x1000000, 1, 0x1000000, 0x0, 0x0, 0x0, 0x0, 0x0, 0x0⟩]
def rowsPKR : List StnRow := rowsPKR0

def rowsSCR0 : List StnRow := [
  ⟨0x43000000, 1, 0x1000000, 1, 0x1000000, 0x3, 0x0, 0x0, 0x0, 0x3, 0x0⟩,
  ⟨0x43000004, 1, 0x1000000, 1, 0x1000000, 0x0, 0x0, 0x0, 0xFFFF, 0xFFFF, 0x0⟩,
  ⟨0x43000008, 1, 0x1000000, 1, 0x1000000, 0x0, 0x0, 0x0, 0xFF, 0xFF, 0x80⟩,
  ⟨0x4300000C, 1, 0x1000000, 1, 0x1000000, 0x0, 0x0, 0x0, 0x8007FFFF, 0x0, 0x0⟩,
  ⟨0x43000010, 1, 0x1000000, 1, 0x1000000, 0x0, 0x0, 0x0, 0x7FFFFF, 0x7FFFFF, 0x0⟩,
  ⟨0x43000014, 1, 0x1000000, 1, 0x1000000, 0x0, 0x0, 0x0, 0x0, 0x0, 0xFFFFFFFF⟩,
  ⟨0x43000018, 1, 0x1000000, 1, 0x1000000, 0x0, 0x0, 0x0, 0x0, 0x0, 0xFFFFFFFF⟩,
  ⟨0x4300001C, 1, 0x1000000, 1, 0x1000000, 0x0, 0x0, 0x3, 0x0, 0x0, 0x0⟩,
  ⟨0x43000020, 1, 0x1000000, 1, 0x1000000, 0x0, 0x0, 0x0, 0x0, 0x0, 0x0⟩,
  ⟨0x43000024, 1, 0x1000000, 1, 0x1000000, 0x0, 0x0, 0x0, 0x0, 0x0, 0x0⟩,
  ⟨0x43000028, 1, 0x1000000, 1, 0x1000000, 0x0, 0x0, 0x0, 0x0, 0x0, 0x0⟩,
  ⟨0x43000100, 24, 0x40, 1, 0x40, 0x3F, 0x0, 0x0, 0x0, 0x3F, 0x0⟩,
  ⟨0x43000104, 24, 0x40, 1, 0x40, 0x7FFFFFFF, 0x0, 0x0, 0x0, 0x7FFFFFFF, 0x0⟩,
  ⟨0x43000108, 24, 0x40, 1, 0x40, 0x1FFFF, 0x0, 0x0, 0x0, 0x1FFFF, 0x0⟩,
  ⟨0x4300010C, 24, 0x40, 1, 0x40, 0x0, 0x0, 0x0, 0x1FFF, 0x1FFF, 0x1000⟩,
  ⟨0x43000110, 24, 0x40, 1, 0x40, 0x0, 0x0, 0x0, 0xFFFFFFFF, 0xFFFFFFFF, 0x87654321⟩,
  ⟨0x43000114, 24, 0x40, 1, 0x40, 0x0, 0x0, 0x0, 0xFFFF, 0xFFFF, 0xCBA9⟩,
  ⟨0x43000118, 24, 0x40, 1, 0x40, 0xFFFFFFFF, 0x0, 0x0, 0x0, 0xFFFFFFFF, 0x0⟩,
  ⟨0x4300011C, 24, 0x40, 1, 0x40, 0x0, 0x0, 0x0, 0x0, 0x0, 0x0⟩,
  ⟨0x43000120, 24, 0x40, 8, 0x4, 0xFFFFFF, 0x0, 0x0, 0x0, 0xFFFFFF, 0x0⟩]
def rowsSCR : List StnRow := rowsSCR0

def rowsPLC0 : List StnRow := [
  ⟨0x45000000, 1, 0x1000000, 1, 0x1000000, 0x3FFF, 0x0, 0x0, 0x0, 0x3FFF, 0x100⟩,
  ⟨0x45000004, 1, 0x1000000, 1, 0x1000000, 0xFFFFFFFF, 0x0, 0x0, 0x0, 0xFFFFFFFF, 0x0⟩,
  ⟨0x45000008, 1, 0x1000000, 1, 0x1000000, 0xFFFFFFFF, 0x0, 0x0, 0x0, 0xFFFFFFFF, 0x0⟩,
  ⟨0x4500000C, 1, 0x1000000, 1, 0x1000000, 0xFFFFFFFF, 0x0, 0x0, 0x0, 0xFFFFFFFF, 0x0⟩,
  ⟨0x45000010, 1, 0x1000000, 1, 0x1000000, 0xFFFFFFFF, 0x0, 0x0, 0x0, 0xFFFFFFFF, 0x0⟩,
  ⟨0x45000014, 1, 0x1000000, 1, 0x1000000, 0xFFFFFFFF, 0x0, 0x0, 0x0, 0xFFFFFFFF, 0x10000000⟩,
  ⟨0x45000018, 1, 0x1000000, 1, 0x1000000, 0x3FFFFFF, 0x0, 0x0, 0x0, 0x3FFFFFF, 0x403E8⟩,
  ⟨0x4500001C, 1, 0x1000000, 1, 0x1000000, 0xFFFFFFFF, 0x0, 0x0, 0x0, 0x0, 0x0⟩,
  ⟨0x45000020, 1, 0x1000000, 1, 0x1000000, 0x1FFFF, 0x20000, 0x0, 0x0, 0x0, 0x0⟩,
  ⟨0x45000024, 1, 0x1000000, 1, 0x1000000, 0xFFFF, 0x0, 0x0, 0x0, 0xFFFF, 0x0⟩,
  ⟨0x45000040, 1, 0x1000000, 1, 0x1000000, 0x0, 0x0, 0x0, 0x0, 0x0, 0x0⟩,
  ⟨0x45000044, 1, 0x1000000, 1, 0x1000000, 0x0, 0x0, 0x0, 0x0, 0x0, 0x0⟩,
  ⟨0x45000048, 1, 0x1000000, 1, 0x1000000, 0x0, 0x0, 0x0, 0x0, 0x0, 0x0⟩,
  ⟨0x4500004C, 1, 0x1000000, 1, 0x1000000, 0x0, 0x0, 0x0, 0x0, 0x0, 0x0⟩,
  ⟨0x45000050, 1, 0x1000000, 1, 0x1000000, 0x0, 0x0, 0x0, 0x0, 0x0, 0xFFFFFFFF⟩,
  ⟨0x45000054, 1, 0x1000000, 1, 0x1000000, 0x0, 0x0, 0x0, 0x0, 0x0, 0x0⟩,
  ⟨0x45000058, 1, 0x1000000, 1, 0x1000000, 0x0, 0x0, 0x0, 0x0, 0x0, 0x0⟩,
  ⟨0x4500005C, 1, 0x1000000, 1, 0x1000000, 0x0, 0x0, 0x0, 0x0, 0x0, 0x0⟩,
  ⟨0x45000060, 1, 0x1000000, 1, 0x1000000, 0x0, 0x0, 0x0, 0x0, 0x0, 0x0⟩,
  ⟨0x45000064, 1, 0x1000000, 1, 0x1000000, 0x0, 0x0, 0x0, 0x0, 0x0, 0x0⟩]
def rowsPLC1 : List StnRow := [
  ⟨0x45000068, 1, 0x1000000, 1, 0x1000000, 0x0, 0x0, 0xF, 0x0, 0x0, 0x0⟩,
  ⟨0x4500006C, 1, 0x1000000, 1, 0x1000000, 0x0, 0x0, 0x0, 0x0, 0x0, 0x0⟩,
  ⟨0x45000070, 1, 0x1000000, 1, 0x1000000, 0x0, 0x0, 0x0, 0x0, 0x0, 0x0⟩,
  ⟨0x45000074, 1, 0x1000000, 1, 0x1000000, 0x0, 0x0, 0x0, 0x0, 0x0, 0x0⟩,
  ⟨0x45000078, 1, 0x1000000, 1, 0x1000000, 0x0, 0x0, 0x0, 0x0, 0x0, 0x0⟩,
  ⟨0x45000100, 24, 0x4, 1, 0x4, 0xFFFF, 0x0, 0x0, 0x0, 0xFFFF, 0x0⟩]
def rowsPLC : List StnRow := rowsPLC0 ++ rowsPLC1

def rowsPODL0 : List StnRow := [
  ⟨0x46000000, 24, 0x100, 1, 0x100, 0xFFFF7FFF, 0x0, 0x0, 0x0, 0xFFFF7FFF, 0x320⟩,
  ⟨0x46000004, 24, 0x100, 1, 0x100, 0x0, 0x0, 0x0, 0x0, 0x0, 0x0⟩,
  ⟨0x46000008, 24, 0x100, 1, 0x100, 0x0, 0x0, 0x0, 0x0, 0x0, 0x0⟩,
  ⟨0x4600000C, 24, 0x100, 1, 0x100, 0x0, 0x0, 0x0, 0x0, 0x0, 0x0⟩,
  ⟨0x46000010, 24, 0x100, 1, 0x100, 0x0, 0x0, 0x0, 0x0, 0x0, 0x0⟩,
  ⟨0x46000014, 24, 0x100, 1, 0x100, 0x0, 0x0, 0x0, 0x0, 0x0, 0x0⟩,
  ⟨0x46000018, 24, 0x100, 1, 0x100, 0x0, 0x0, 0x0, 0x0, 0x0, 0x0⟩,
  ⟨0x4600001C, 24, 0x100, 1, 0x100, 0x0, 0x0, 0x0, 0x0, 0x0, 0x0⟩,
  ⟨0x46000020, 24, 0x100, 1, 0x100, 0x0, 0x0, 0x0, 0x0, 0x0, 0x0⟩,
  ⟨0x46000024, 24, 0x100, 1, 0x100, 0x0, 0x0, 0x0, 0x0, 0x0, 0x0⟩,
  ⟨0x46000044, 24, 0x100, 14, 0x4, 0xFFFFFFFF, 0x0, 0x0, 0x0, 0xFFFFFFFF, 0x0⟩,
  ⟨0x46000080, 24, 0x100, 7, 0x4, 0x0, 0x0, 0x0, 0x0, 0x0, 0x0⟩,
  ⟨0x46002000, 1, 0x1000000, 1, 0x1000000, 0xFFFFFFFF, 0x0, 0x0, 0x0, 0xFFFFFFFF, 0x0⟩,
  ⟨0x46002004, 1, 0x1000000, 1, 0x1000000, 0xFFFFFFFF, 0x0, 0x0, 0x0, 0xFFFFFFFF, 0x0⟩,
  ⟨0x46002008, 1, 0x1000000, 1, 0x1000000, 0xFFFFFFFF, 0x0, 0x0, 0x0, 0x0, 0x0⟩,
  ⟨0x4600200C, 1, 0x1000000, 1, 0x1000000, 0x0, 0x1FFF, 0x0, 0x0, 0x0, 0x0⟩,
  ⟨0x46002010, 1, 0x1000000, 1, 0x1000000, 0x0, 0x0, 0x3, 0x0, 0x0, 0x0⟩]
def rowsPODL : List StnRow := rowsPODL0

def rowsSIGHT0 : List StnRow := [
  ⟨0x47000000, 1, 0x1000000, 1, 0x1000000, 0x1, 0x0, 0x0, 0x0, 0x1, 0x0⟩,
  ⟨0x47000004, 1, 0x1000000, 1, 0x1000000, 0x0, 0x0, 0x10, 0x0, 0x0, 0x0⟩,
  ⟨0x47000008, 1, 0x1000000, 1, 0x1000000, 0xFFFFFFFF, 0x0, 0x0, 0x0, 0xFFFFFFFF, 0x0⟩,
  ⟨0x4700000C, 1, 0x1000000, 1, 0x1000000, 0xFFFFFFFF, 0x0, 0x0, 0x0, 0xFFFFFFFF, 0x0⟩,
  ⟨0x47000010, 1, 0x1000000, 1, 0x1000000, 0xFFFFFFFF, 0x0, 0x0, 0x0, 0xFFFFFFFF, 0x0⟩,
  ⟨0x47000400, 4, 0x400, 1, 0x400, 0xFFF1F, 0x0, 0x0, 0x0, 0xFFF1F, 0x0⟩,
  ⟨0x47000404, 4, 0x400, 1, 0x400, 0x1FFFF, 0x0, 0x0, 0x0, 0x1FFFF, 0x0⟩,
  ⟨0x47000408, 4, 0x400, 1, 0x400, 0xFFFFFFFF, 0x0, 0x0, 0x0, 0xFFFFFFFF, 0x0⟩,
  ⟨0x4700040C, 4, 0x400, 1, 0x400, 0xFFFFFFFF, 0x0, 0x0, 0x0, 0xFFFFFFFF, 0x0⟩,
  ⟨0x47000410, 4, 0x400, 1, 0x400, 0xFFFFFFFF, 0x0, 0x0, 0x0, 0xFFFFFFFF, 0x0⟩,
  ⟨0x47000414, 4, 0x400, 1, 0x400, 0xFFFFFFFF, 0x0, 0x0, 0x0, 0xFFFFFFFF, 0x0⟩,
  ⟨0x47000418, 4, 0x400, 1, 0x400, 0xFFFFFFFF, 0x0, 0x0, 0x0, 0xFFFFFFFF, 0x0⟩,
  ⟨0x4700041C, 4, 0x400, 1, 0x400, 0xFFFFFFFF, 0x0, 0x0, 0x0, 0xFFFFFFFF, 0x0⟩,
  ⟨0x47000420, 4, 0x400, 1, 0x400, 0x0, 0x0, 0x0, 0x0, 0x0, 0x4⟩,
  ⟨0x47000424, 4, 0x400, 1, 0x400, 0x0, 0x0, 0x0, 0x0, 0x0, 0xFFFFFFFF⟩,
  ⟨0x47000428, 4, 0x400, 1, 0x400, 0x0, 0x0, 0x0, 0x0, 0x0, 0x0⟩,
  ⟨0x4700042C, 4, 0x400, 1, 0x400, 0x0, 0x0, 0x0, 0x0, 0x0, 0x0⟩,
  ⟨0x47000430, 4, 0x400, 1, 0x400, 0x0, 0x0, 0x0, 0x0, 0x0, 0x0⟩,
  ⟨0x47000440, 4, 0x400, 1, 0x400, 0xFFFFFF, 0x0, 0x0, 0x0, 0xFFFFFF, 0x0⟩,
  ⟨0x47000444, 4, 0x400, 1, 0x400, 0xFFFFFFFF, 0x0, 0x0, 0x0, 0xFFFFFFFF, 0x0⟩]
def rowsSIGHT1 : List StnRow := [
  ⟨0x47000448, 4, 0x400, 1, 0x400, 0x0, 0x1, 0x0, 0x0, 0x0, 0x0⟩,
  ⟨0x4700044C, 4, 0x400, 1, 0x400, 0x0, 0x0, 0x0, 0x0, 0xFFFF0000, 0x0⟩,
  ⟨0x47000450, 4, 0x400, 1, 0x400, 0xFFFFFFFF, 0x0, 0x0, 0x0, 0xFFFFFFFF, 0x0⟩,
  ⟨0x47000454, 4, 0x400, 1, 0x400, 0xFFFFFFFF, 0x0, 0x0, 0x0, 0xFFFFFFFF, 0x0⟩,
  ⟨0x47000458, 4, 0x400, 1, 0x400, 0xFFFF0001, 0x0, 0x0, 0x0, 0xFFFF0001, 0x0⟩,
  ⟨0x47000460, 4, 0x400, 1, 0x400, 0xFFFFFFFF, 0x0, 0x0, 0x0, 0xFFFFFFFF, 0x0⟩,
  ⟨0x47000464, 4, 0x400, 1, 0x400, 0xFFFFFFFF, 0x0, 0x0, 0x0, 0xFFFFFFFF, 0x0⟩,
  ⟨0x47000468, 4, 0x400, 1, 0x400, 0xFFFFFFFF, 0x0, 0x0, 0x0, 0xFFFFFFFF, 0x0⟩,
  ⟨0x4700046C, 4, 0x400, 1, 0x400, 0xFFFFFFFF, 0x0, 0x0, 0x0, 0xFFFFFFFF, 0x0⟩,
  ⟨0x47000470, 4, 0x400, 1, 0x400, 0xFFFFFFFF, 0x0, 0x0, 0x0, 0xFFFFFFFF, 0x0⟩,
  ⟨0x47000474, 4, 0x400, 1, 0x400, 0x0, 0x0, 0x0, 0x0, 0x0, 0x0⟩,
  ⟨0x47000478, 4, 0x400, 1, 0x400, 0xFFFFFFFF, 0x0, 0x0, 0x0, 0xFFFFFFFF, 0x0⟩,
  ⟨0x4700047C, 4, 0x400, 1, 0x400, 0xFFFFFFFF, 0x0, 0x0, 0x0, 0xFFFFFFFF, 0x0⟩,
  ⟨0x47000480, 4, 0x400, 1, 0x400, 0xFF, 0x0, 0x0, 0x0, 0xFF, 0x0⟩,
  ⟨0x47000600, 4, 0x400, 64, 0x8, 0xFFFFFFFF, 0x0, 0x0, 0x0, 0xFFFFFFFF, 0x0⟩,
  ⟨0x47000604, 4, 0x400, 64, 0x8, 0xFFFFFFFF, 0x0, 0x0, 0x0, 0xFFFFFFFF, 0x0⟩,
  ⟨0x47002000, 4, 0x100, 1, 0x100, 0xFFF, 0x0, 0x0, 0x0, 0xFFF, 0x0⟩,
  ⟨0x47002004, 4, 0x100, 1, 0x100, 0x3, 0x0, 0x0, 0x0, 0x3, 0x0⟩,
  ⟨0x47002008, 4, 0x100, 1, 0x100, 0x3FFFFFFF, 0x0, 0x0, 0x0, 0x3FFFFFFF, 0x0⟩,
  ⟨0x4700200C, 4, 0x100, 1, 0x100, 0x3FFFF, 0x0, 0x0, 0x0, 0x3FFFF, 0x0⟩]
def rowsSIGHT2 : List StnRow := [
  ⟨0x47002010, 4, 0x100, 1, 0x100, 0xFFF, 0x0, 0x0, 0x0, 0xFFF, 0x0⟩,
  ⟨0x47002014, 4, 0x100, 1, 0x100, 0xFFF0FFF, 0x0, 0x0, 0x0, 0xFFF0FFF, 0x0⟩,
  ⟨0x47002018, 4, 0x100, 1, 0x100, 0xFFF0FFF, 0x0, 0x0, 0x0, 0xFFF0FFF, 0x0⟩,
  ⟨0x47002020, 4, 0x100, 4, 0x8, 0xFFFFFFFF, 0x0, 0x0, 0x0, 0xFFFFFFFF, 0x0⟩,
  ⟨0x47002024, 4, 0x100, 4, 0x8, 0xFFFFFFFF, 0x0, 0x0, 0x0, 0xFFFFFFFF, 0x0⟩,
  ⟨0x47002040, 4, 0x100, 1, 0x100, 0xFFFFFFFF, 0x0, 0x0, 0x0, 0xFFFFFFFF, 0x0⟩,
  ⟨0x47002044, 4, 0x100, 1, 0x100, 0xFFFFFFFF, 0x0, 0x0, 0x0, 0xFFFFFFFF, 0x0⟩,
  ⟨0x47002048, 4, 0x100, 1, 0x100, 0xFFF7, 0x0, 0x0, 0x0, 0xFFF7, 0x0⟩,
  ⟨0x4700204C, 4, 0x100, 1, 0x100, 0xFFFFFFFF, 0x0, 0x0, 0x0, 0xFFFFFFFF, 0x0⟩,
  ⟨0x47002050, 4, 0x100, 1, 0x100, 0xFFFFFFFF, 0x0, 0x0, 0x0, 0xFFFFFFFF, 0x0⟩,
  ⟨0x47002054, 4, 0x100, 1, 0x100, 0xFF, 0x0, 0x0, 0x0, 0xFF, 0x0⟩,
  ⟨0x47002058, 4, 0x100, 8, 0x4, 0xFFF0FFF, 0x0, 0x0, 0x0, 0xFFF0FFF, 0x0⟩,
  ⟨0x47002078, 4, 0x100, 1, 0x100, 0x0, 0x1, 0x0, 0x0, 0x0, 0x0⟩,
  ⟨0x4700207C, 4, 0x100, 1, 0x100, 0x0, 0x0, 0x0, 0x0, 0xFFFF0000, 0x0⟩,
  ⟨0x47002080, 4, 0x100, 1, 0x100, 0x0, 0x0, 0x1, 0x0, 0x0, 0x0⟩]
def rowsSIGHT : List StnRow := rowsSIGHT0 ++ rowsSIGHT1 ++ rowsSIGHT2

def rowsHLT0 : List StnRow := [
  ⟨0x48000000, 1, 0x1000000, 1, 0x1000000, 0xFFFFFF7F, 0x0, 0x0, 0x0, 0xFFFFFF7F, 0x10404207⟩,
  ⟨0x48000004, 1, 0x1000000, 1, 0x1000000, 0xFFFFFFFF, 0x0, 0x0, 0x0, 0xFFFFFFFF, 0x4501A0D⟩,
  ⟨0x48000008, 1, 0x1000000, 1, 0x1000000, 0xFF01FF, 0x0, 0x0, 0x0, 0xFF01FF, 0x400C0⟩,
  ⟨0x4800000C, 1, 0x1000000, 1, 0x1000000, 0xFFFFFFF, 0x0, 0x0, 0x0, 0xFFFFFFF, 0x660010⟩,
  ⟨0x48000010, 1, 0x1000000, 1, 0x1000000, 0xFFFF, 0x0, 0x0, 0x0, 0xFFFF, 0x20⟩,
  ⟨0x48000014, 1, 0x1000000, 1, 0x1000000, 0xFFFFFFFF, 0x0, 0x0, 0x0, 0xFFFFFFFF, 0x0⟩,
  ⟨0x48000018, 1, 0x1000000, 1, 0x1000000, 0xFFFFFFFF, 0x0, 0x0, 0x0, 0xFFFFFFFF, 0x0⟩,
  ⟨0x4800001C, 1, 0x1000000, 1, 0x1000000, 0x0, 0x0, 0x0, 0x0, 0x0, 0x0⟩,
  ⟨0x48000020, 1, 0x1000000, 1, 0x1000000, 0x0, 0x0, 0x0, 0x0, 0x0, 0x0⟩,
  ⟨0x48000024, 1, 0x1000000, 1, 0x1000000, 0x0, 0x0, 0x0, 0x0, 0x0, 0x0⟩,
  ⟨0x48000028, 1, 0x1000000, 1, 0x1000000, 0x0, 0x0, 0x0, 0x0, 0x0, 0x0⟩,
  ⟨0x4800002C, 1, 0x1000000, 1, 0x1000000, 0x0, 0x0, 0x0, 0x0, 0x0, 0x0⟩,
  ⟨0x48000030, 1, 0x1000000, 1, 0x1000000, 0x0, 0x0, 0x0, 0x0, 0x0, 0x0⟩,
  ⟨0x48000034, 1, 0x1000000, 1, 0x1000000, 0x0, 0x0, 0x0, 0x0, 0x0, 0xFFFFFFFF⟩,
  ⟨0x48000038, 1, 0x1000000, 1, 0x1000000, 0x0, 0x0, 0x0, 0x0, 0x0, 0xFFFFFFFF⟩]
def rowsHLT : List StnRow := rowsHLT0

def rowsTWN0 : List StnRow := [
  ⟨0x49000000, 1, 0x1000000, 1, 0x1000000, 0x3F, 0x40, 0x0, 0x0, 0x3F, 0x23⟩,
  ⟨0x49000004, 1, 0x1000000, 1, 0x1000000, 0x0, 0x0, 0x0, 0x0, 0x0, 0x0⟩,
  ⟨0x49000008, 1, 0x1000000, 1, 0x1000000, 0x0, 0x0, 0x0, 0x0, 0xFFFFFFFF, 0x0⟩,
  ⟨0x4900000C, 1, 0x1000000, 1, 0x1000000, 0x0, 0x0, 0x0, 0x0, 0x0, 0x0⟩,
  ⟨0x49000010, 1, 0x1000000, 1, 0x1000000, 0x0, 0x0, 0x0, 0x0, 0x0, 0xFFFFFFFF⟩,
  ⟨0x49000014, 1, 0x1000000, 1, 0x1000000, 0x0, 0x0, 0x0, 0x0, 0x0, 0x0⟩,
  ⟨0x49000018, 1, 0x1000000, 1, 0x1000000, 0x0, 0x0, 0x0, 0x0, 0x0, 0x0⟩,
  ⟨0x4900001C, 1, 0x1000000, 1, 0x1000000, 0x0, 0x0, 0x0, 0x0, 0x0, 0x0⟩,
  ⟨0x49000020, 1, 0x1000000, 1, 0x1000000, 0x0, 0x0, 0x0, 0x0, 0x0, 0x0⟩,
  ⟨0x49000024, 1, 0x1000000, 1, 0x1000000, 0x0, 0x0, 0x0, 0x0, 0x0, 0x0⟩,
  ⟨0x49000028, 1, 0x1000000, 1, 0x1000000, 0x0, 0x0, 0x0, 0x0, 0x0, 0x0⟩,
  ⟨0x4900002C, 1, 0x1000000, 1, 0x1000000, 0x0, 0x0, 0x0, 0x0, 0x0, 0x0⟩]
def rowsTWN : List StnRow := rowsTWN0

def rowsMBG0 : List StnRow := [
  ⟨0x4A000000, 1, 0x1000000, 1, 0x1000000, 0xFFFFFF, 0x0, 0x0, 0x0, 0xFFFFFF, 0xA64⟩,
  ⟨0x4A000004, 1, 0x1000000, 1, 0x1000000, 0x0, 0x800001FF, 0x0, 0x0, 0x0, 0x0⟩,
  ⟨0x4A000008, 1, 0x1000000, 1, 0x1000000, 0x0, 0x0, 0x0, 0x0, 0x0, 0x0⟩,
  ⟨0x4A00000C, 1, 0x1000000, 1, 0x1000000, 0x0, 0x0, 0x0, 0x0, 0x0, 0x0⟩,
  ⟨0x4A000010, 1, 0x1000000, 1, 0x1000000, 0x0, 0x0, 0x0, 0x0, 0x0, 0x0⟩,
  ⟨0x4A000014, 1, 0x1000000, 1, 0x1000000, 0x0, 0x0, 0x0, 0x0, 0x0, 0x0⟩,
  ⟨0x4A000040, 1, 0x1000000, 1, 0x1000000, 0xFFFFFFFF, 0x0, 0x0, 0x0, 0x0, 0x0⟩,
  ⟨0x4A000044, 1, 0x1000000, 1, 0x1000000, 0xFFFFFFFF, 0x0, 0x0, 0x0, 0x0, 0x0⟩,
  ⟨0x4A000048, 1, 0x1000000, 1, 0x1000000, 0xFFFFFFFF, 0x0, 0x0, 0x0, 0x0, 0x0⟩,
  ⟨0x4A00004C, 1, 0x1000000, 1, 0x1000000, 0xFFFFFFFF, 0x0, 0x0, 0x0, 0x0, 0x0⟩,
  ⟨0x4A000050, 1, 0x1000000, 1, 0x1000000, 0xFFFFFFFF, 0x0, 0x0, 0x0, 0x0, 0x0⟩,
  ⟨0x4A000054, 1, 0x1000000, 1, 0x1000000, 0x0, 0xFFFF, 0x0, 0x0, 0x0, 0x0⟩,
  ⟨0x4A001000, 512, 0x40, 1, 0x40, 0x0, 0x0, 0x0, 0x0, 0x0, 0x0⟩,
  ⟨0x4A001004, 512, 0x40, 1, 0x40, 0x0, 0x0, 0x0, 0x0, 0x0, 0x0⟩,
  ⟨0x4A001008, 512, 0x40, 1, 0x40, 0x0, 0x0, 0x0, 0x0, 0x0, 0x0⟩,
  ⟨0x4A00100C, 512, 0x40, 1, 0x40, 0x0, 0x0, 0x0, 0x0, 0x0, 0x0⟩,
  ⟨0x4A001010, 512, 0x40, 1, 0x40, 0x0, 0x0, 0x0, 0x0, 0x0, 0x0⟩,
  ⟨0x4A001014, 512, 0x40, 1, 0x40, 0x0, 0x0, 0x0, 0x0, 0x0, 0x0⟩,
  ⟨0x4A001018, 512, 0x40, 1, 0x40, 0x0, 0x0, 0x0, 0x0, 0x0, 0x0⟩,
  ⟨0x4A00101C, 512, 0x40, 1, 0x40, 0x0, 0x0, 0x0, 0x0, 0x0, 0x0⟩]
def rowsMBG1 : List StnRow := [
  ⟨0x4A001020, 512, 0x40, 1, 0x40, 0x0, 0x0, 0x0, 0x0, 0x0, 0x0⟩,
  ⟨0x4A001024, 512, 0x40, 1, 0x40, 0x0, 0x0, 0x0, 0x0, 0x0, 0x0⟩,
  ⟨0x4A001028, 512, 0x40, 1, 0x40, 0x0, 0x0, 0x0, 0x0, 0x0, 0x0⟩,
  ⟨0x4A00102C, 512, 0x40, 1, 0x40, 0x0, 0x0, 0x0, 0x0, 0x0, 0x0⟩,
  ⟨0x4A001030, 512, 0x40, 1, 0x40, 0x0, 0x0, 0x0, 0x0, 0x0, 0x0⟩]
def rowsMBG : List StnRow := rowsMBG0 ++ rowsMBG1

def rowsTIME0 : List StnRow := [
  ⟨0x4B000000, 1, 0x1000000, 1, 0x1000000, 0x7, 0x0, 0x0, 0x0, 0x7, 0x7⟩,
  ⟨0x4B000010, 1, 0x1000000, 1, 0x1000000, 0x0, 0x0, 0x0, 0x0, 0x0, 0x28000000⟩,
  ⟨0x4B000014, 3, 0x4, 1, 0x4, 0xFFFFFFFF, 0x0, 0x0, 0x0, 0x0, 0x28000000⟩,
  ⟨0x4B000020, 4, 0x4, 1, 0x4, 0x0, 0x0, 0x0, 0x0, 0x0, 0x0⟩,
  ⟨0x4B000034, 3, 0x4, 1, 0x4, 0x0, 0xFFFFFFFF, 0x0, 0x0, 0x0, 0x0⟩,
  ⟨0x4B000040, 1, 0x1000000, 1, 0x1000000, 0x0, 0x0, 0x0, 0x0, 0x0, 0x0⟩,
  ⟨0x4B000044, 1, 0x1000000, 1, 0x1000000, 0x0, 0x0, 0x0, 0x0, 0x0, 0x0⟩,
  ⟨0x4B000048, 1, 0x1000000, 1, 0x1000000, 0x0, 0x0, 0x0, 0x0, 0x0, 0x0⟩,
  ⟨0x4B00004C, 1, 0x1000000, 1, 0x1000000, 0x0, 0x0, 0x0, 0x0, 0x0, 0x0⟩,
  ⟨0x4B000050, 1, 0x1000000, 1, 0x1000000, 0x0, 0x0, 0x0, 0x0, 0x0, 0xFFFFFFFF⟩,
  ⟨0x4B000054, 1, 0x1000000, 1, 0x1000000, 0x0, 0x0, 0x0, 0x0, 0x0, 0x0⟩,
  ⟨0x4B000100, 8, 0x20, 1, 0x20, 0x37, 0x48, 0x0, 0x0, 0x0, 0x0⟩,
  ⟨0x4B000104, 8, 0x20, 1, 0x20, 0xFFFFFFFF, 0x0, 0x0, 0x0, 0x0, 0x0⟩,
  ⟨0x4B000108, 8, 0x20, 1, 0x20, 0xFFFFFFFF, 0x0, 0x0, 0x0, 0x0, 0x0⟩,
  ⟨0x4B00010C, 8, 0x20, 1, 0x20, 0x0, 0x0, 0x2, 0x0, 0x0, 0x0⟩,
  ⟨0x4B000110, 8, 0x20, 1, 0x20, 0x0, 0x0, 0x0, 0x0, 0x0, 0x0⟩,
  ⟨0x4B000114, 8, 0x20, 1, 0x20, 0x0, 0x0, 0x0, 0x0, 0x0, 0x0⟩]
def rowsTIME : List StnRow := rowsTIME0

def rowsMOT0 : List StnRow := [
  ⟨0x4C000000, 1, 0x1000000, 1, 0x1000000, 0x1FFFFF, 0x0, 0x0, 0x0, 0x1FFFFF, 0xA0A00⟩,
  ⟨0x4C000004, 1, 0x1000000, 1, 0x1000000, 0xFFFFFFFF, 0x0, 0x0, 0x0, 0xFFFFFFFF, 0x0⟩,
  ⟨0x4C000008, 1, 0x1000000, 1, 0x1000000, 0xFFFFFFFF, 0x0, 0x0, 0x0, 0xFFFFFFFF, 0x0⟩,
  ⟨0x4C00000C, 1, 0x1000000, 1, 0x1000000, 0xFFFFFFFF, 0x0, 0x0, 0x0, 0xFFFFFFFF, 0x0⟩,
  ⟨0x4C000010, 1, 0x1000000, 1, 0x1000000, 0xFFFFFFFF, 0x0, 0x0, 0x0, 0xFFFFFFFF, 0x0⟩,
  ⟨0x4C000014, 1, 0x1000000, 1, 0x1000000, 0x1FFFFF, 0x0, 0x0, 0x0, 0x1FFFFF, 0x0⟩,
  ⟨0x4C000018, 1, 0x1000000, 1, 0x1000000, 0x0, 0x1F, 0x0, 0x0, 0x0, 0x0⟩,
  ⟨0x4C00001C, 1, 0x1000000, 1, 0x1000000, 0x0, 0x0, 0x3, 0x0, 0x0, 0x0⟩,
  ⟨0x4C000020, 1, 0x1000000, 1, 0x1000000, 0x0, 0x0, 0x0, 0x0, 0x0, 0x0⟩,
  ⟨0x4C000080, 4, 0x10, 1, 0x10, 0x1F, 0x0, 0x0, 0x0, 0x1F, 0x0⟩,
  ⟨0x4C000084, 4, 0x10, 1, 0x10, 0x0, 0x0, 0x0, 0x0, 0x0, 0x0⟩,
  ⟨0x4C000088, 4, 0x10, 1, 0x10, 0x0, 0x0, 0x0, 0x0, 0x0, 0x0⟩,
  ⟨0x4C00008C, 4, 0x10, 1, 0x10, 0x0, 0x0, 0x1, 0x0, 0x0, 0x0⟩,
  ⟨0x4C000100, 4, 0x80, 1, 0x80, 0xFF, 0x0, 0x0, 0x0, 0xFE, 0x0⟩,
  ⟨0x4C000104, 4, 0x80, 1, 0x80, 0xFFFFFFFF, 0x0, 0x0, 0x0, 0xFFFFFFFF, 0x0⟩,
  ⟨0x4C000108, 4, 0x80, 1, 0x80, 0xFFFFFFFF, 0x0, 0x0, 0x0, 0xFFFFFFFF, 0x0⟩,
  ⟨0x4C00010C, 4, 0x80, 1, 0x80, 0xFFFFFFFF, 0x0, 0x0, 0x0, 0xFFFFFFFF, 0x0⟩,
  ⟨0x4C000110, 4, 0x80, 1, 0x80, 0xFFFFFFFF, 0x0, 0x0, 0x0, 0x0, 0x0⟩,
  ⟨0x4C000114, 4, 0x80, 1, 0x80, 0xFFFFFFFF, 0x0, 0x0, 0x0, 0xFFFFFFFF, 0x0⟩,
  ⟨0x4C000118, 4, 0x80, 1, 0x80, 0xFFFFFFFF, 0x0, 0x0, 0x0, 0xFFFFFFFF, 0x0⟩]
def rowsMOT1 : List StnRow := [
  ⟨0x4C00011C, 4, 0x80, 1, 0x80, 0xFFF0FFF, 0x0, 0x0, 0x0, 0xFFF0FFF, 0x0⟩,
  ⟨0x4C000120, 4, 0x80, 1, 0x80, 0xFFFFFFFF, 0x0, 0x0, 0x0, 0xFFFFFFFF, 0x0⟩,
  ⟨0x4C000124, 4, 0x80, 1, 0x80, 0xFFFFFF, 0x0, 0x0, 0x0, 0xFFFFFF, 0x0⟩,
  ⟨0x4C000128, 4, 0x80, 1, 0x80, 0xFFFF, 0x0, 0x0, 0x0, 0xFFFF, 0x0⟩,
  ⟨0x4C00012C, 4, 0x80, 1, 0x80, 0xFFFF, 0x10000, 0x0, 0x0, 0x0, 0x0⟩,
  ⟨0x4C000130, 4, 0x80, 1, 0x80, 0x0, 0x0, 0x0, 0x0, 0x0, 0x0⟩,
  ⟨0x4C000134, 4, 0x80, 1, 0x80, 0x0, 0x0, 0x3F, 0x0, 0x0, 0x0⟩,
  ⟨0x4C000138, 4, 0x80, 1, 0x80, 0x0, 0x0, 0x0, 0x0, 0x0, 0x0⟩,
  ⟨0x4C00013C, 4, 0x80, 1, 0x80, 0x0, 0x0, 0x0, 0x0, 0x0, 0x0⟩,
  ⟨0x4C000140, 4, 0x80, 1, 0x80, 0x0, 0x0, 0x0, 0x0, 0x0, 0x0⟩,
  ⟨0x4C000144, 4, 0x80, 1, 0x80, 0x0, 0x0, 0x0, 0x0, 0x0, 0x0⟩,
  ⟨0x4C000148, 4, 0x80, 1, 0x80, 0x0, 0xFFFFFFFF, 0x0, 0x0, 0x0, 0x0⟩,
  ⟨0x4C00014C, 4, 0x80, 1, 0x80, 0x0, 0x0, 0x0, 0x0, 0x0, 0x0⟩,
  ⟨0x4C000150, 4, 0x80, 1, 0x80, 0xFFFFFFFF, 0x0, 0x0, 0x0, 0x0, 0x0⟩,
  ⟨0x4C000154, 4, 0x80, 1, 0x80, 0xE, 0x11, 0x0, 0x0, 0x0, 0x0⟩,
  ⟨0x4C000158, 4, 0x80, 1, 0x80, 0x0, 0x0, 0x2, 0x0, 0x0, 0x0⟩,
  ⟨0x4C00015C, 4, 0x80, 1, 0x80, 0x0, 0x0, 0x0, 0x0, 0x0, 0x0⟩,
  ⟨0x4C001000, 4, 0x1000, 256, 0x10, 0xFFFFFFFF, 0x0, 0x0, 0x0, 0xFFFFFFFF, 0x0⟩,
  ⟨0x4C001004, 4, 0x1000, 256, 0x10, 0xFFFFFFFF, 0x0, 0x0, 0x0, 0xFFFFFFFF, 0x0⟩,
  ⟨0x4C001008, 4, 0x1000, 256, 0x10, 0xFFFFFFFF, 0x0, 0x0, 0x0, 0xFFFFFFFF, 0x0⟩]
def rowsMOT2 : List StnRow := [
  ⟨0x4C00100C, 4, 0x1000, 256, 0x10, 0x1, 0x0, 0x0, 0x0, 0x1, 0x0⟩]
def rowsMOT : List StnRow := rowsMOT0 ++ rowsMOT1 ++ rowsMOT2

def rowsDRAM0 : List StnRow := [
  ⟨0x4D000000, 1, 0x1000000, 1, 0x1000000, 0xF8, 0x0, 0x0, 0x0, 0xFF, 0x8C⟩,
  ⟨0x4D000004, 1, 0x1000000, 1, 0x1000000, 0xF, 0x10, 0x0, 0x0, 0x7, 0x0⟩,
  ⟨0x4D000008, 1, 0x1000000, 1, 0x1000000, 0x0, 0x0, 0x20, 0x0, 0x0, 0x0⟩,
  ⟨0x4D00000C, 1, 0x1000000, 1, 0x1000000, 0xFF, 0x0, 0x0, 0x0, 0xFF, 0xC⟩,
  ⟨0x4D000040, 1, 0x1000000, 1, 0x1000000, 0x0, 0x0, 0x0, 0x0, 0x0, 0x0⟩,
  ⟨0x4D000050, 1, 0x1000000, 1, 0x1000000, 0xFFFFFFFF, 0x0, 0x0, 0x0, 0xFFFFFFFF, 0x0⟩,
  ⟨0x4D000044, 1, 0x1000000, 1, 0x1000000, 0x0, 0x0, 0x0, 0x0, 0x0, 0x0⟩,
  ⟨0x4D000054, 1, 0x1000000, 1, 0x1000000, 0xFFFFFFFF, 0x0, 0x0, 0x0, 0xFFFFFFFF, 0x0⟩,
  ⟨0x4D000048, 1, 0x1000000, 1, 0x1000000, 0x0, 0x0, 0x0, 0x0, 0x0, 0x0⟩,
  ⟨0x4D000058, 1, 0x1000000, 1, 0x1000000, 0xFFFF, 0x0, 0x0, 0x0, 0xFFFF, 0x0⟩,
  ⟨0x4D000080, 4, 0x10, 1, 0x10, 0x0, 0x0, 0x0, 0x0, 0x0, 0x0⟩,
  ⟨0x4D000084, 4, 0x10, 1, 0x10, 0x0, 0x0, 0x0, 0x0, 0x0, 0x0⟩,
  ⟨0x4D000088, 4, 0x10, 1, 0x10, 0x0, 0x0, 0x0, 0x0, 0x0, 0x0⟩,
  ⟨0x4D00008C, 4, 0x10, 1, 0x10, 0x0, 0x0, 0x0, 0x0, 0x0, 0x0⟩]
def rowsDRAM : List StnRow := rowsDRAM0

def rowsDMA0 : List StnRow := [
  ⟨0x4E000000, 1, 0x1000000, 1, 0x1000000, 0x7, 0x0, 0x0, 0x0, 0x0, 0x0⟩,
  ⟨0x4E000004, 1, 0x1000000, 1, 0x1000000, 0x0, 0x0, 0x0, 0x0, 0x0, 0x0⟩,
  ⟨0x4E000100, 16, 0x40, 1, 0x40, 0x3FFF, 0x0, 0x0, 0x0, 0x3FFC, 0x300⟩,
  ⟨0x4E000104, 16, 0x40, 1, 0x40, 0xFFFFFFFF, 0x0, 0x0, 0x0, 0xFFFFFFFF, 0x0⟩,
  ⟨0x4E000108, 16, 0x40, 1, 0x40, 0xFFFFFFFF, 0x0, 0x0, 0x0, 0xFFFFFFFF, 0x0⟩,
  ⟨0x4E00010C, 16, 0x40, 1, 0x40, 0xFFFF, 0x0, 0x0, 0x0, 0x0, 0x0⟩,
  ⟨0x4E000110, 16, 0x40, 1, 0x40, 0x0, 0x0, 0x0, 0x0, 0x0, 0x0⟩,
  ⟨0x4E000114, 16, 0x40, 1, 0x40, 0x0, 0x0, 0x18, 0x0, 0x0, 0x0⟩,
  ⟨0x4E000118, 16, 0x40, 1, 0x40, 0x0, 0x0, 0x0, 0x0, 0x0, 0x0⟩,
  ⟨0x4E00011C, 16, 0x40, 1, 0x40, 0x0, 0x0, 0x0, 0x0, 0x0, 0x0⟩,
  ⟨0x4E000120, 16, 0x40, 1, 0x40, 0x0, 0x0, 0x0, 0x0, 0x0, 0x0⟩,
  ⟨0x4E000124, 16, 0x40, 1, 0x40, 0x0, 0x0, 0x0, 0x0, 0x0, 0x0⟩,
  ⟨0x4E000128, 16, 0x40, 1, 0x40, 0x0, 0x0, 0x0, 0x0, 0x0, 0x0⟩,
  ⟨0x4E00012C, 16, 0x40, 1, 0x40, 0x0, 0x0, 0x0, 0x0, 0x0, 0xFFFFFFFF⟩,
  ⟨0x4E000130, 16, 0x40, 1, 0x40, 0x0, 0x0, 0x0, 0x0, 0x0, 0x0⟩,
  ⟨0x4E000134, 16, 0x40, 1, 0x40, 0xFFFF, 0x0, 0x0, 0x0, 0xFFFF, 0x0⟩,
  ⟨0x4E000138, 16, 0x40, 1, 0x40, 0x0, 0x0, 0x0, 0x0, 0x0, 0x0⟩]
def rowsDMA : List StnRow := rowsDMA0

def rowsLANE0 : List StnRow := [
  ⟨0x4F000000, 1, 0x1000000, 1, 0x1000000, 0x0, 0x0, 0x0, 0x0, 0x0, 0x0⟩,
  ⟨0x4F000100, 42, 0x40, 1, 0x40, 0x7F, 0x80, 0x0, 0x0, 0x3, 0x0⟩,
  ⟨0x4F000104, 42, 0x40, 1, 0x40, 0xFFF, 0x0, 0x0, 0x0, 0xFFF, 0x0⟩,
  ⟨0x4F000108, 42, 0x40, 1, 0x40, 0x0, 0x0, 0x40, 0x0, 0x0, 0x3⟩,
  ⟨0x4F00010C, 42, 0x40, 1, 0x40, 0x0, 0x0, 0x0, 0x0, 0x0, 0x0⟩,
  ⟨0x4F000110, 42, 0x40, 1, 0x40, 0x0, 0x0, 0x0, 0x0, 0x0, 0x0⟩,
  ⟨0x4F000114, 42, 0x40, 1, 0x40, 0x0, 0x0, 0x0, 0x0, 0x0, 0x0⟩]
def rowsLANE : List StnRow := rowsLANE0

def rowsPWR0 : List StnRow := [
  ⟨0x50000000, 1, 0x1000000, 1, 0x1000000, 0x1F, 0x0, 0x0, 0x0, 0x1F, 0xA⟩,
  ⟨0x50000004, 1, 0x1000000, 1, 0x1000000, 0x3FFFFFF, 0x0, 0x0, 0x0, 0x3FFFFFF, 0x1510480⟩,
  ⟨0x50000008, 1, 0x1000000, 1, 0x1000000, 0xFFFF, 0x0, 0x0, 0x0, 0xFFFF, 0x619⟩,
  ⟨0x5000000C, 1, 0x1000000, 1, 0x1000000, 0x0, 0x0, 0x0, 0x0, 0x0, 0x23118⟩,
  ⟨0x50000010, 1, 0x1000000, 1, 0x1000000, 0x0, 0x0, 0x0, 0x0, 0x0, 0x0⟩,
  ⟨0x50000014, 1, 0x1000000, 1, 0x1000000, 0x0, 0x0, 0x0, 0x0, 0x0, 0x0⟩,
  ⟨0x50000018, 1, 0x1000000, 1, 0x1000000, 0x0, 0x0, 0x0, 0x0, 0x0, 0x0⟩,
  ⟨0x5000001C, 1, 0x1000000, 1, 0x1000000, 0xFFFFFFFF, 0x0, 0x0, 0x0, 0xFFFFFFFF, 0x32C80258⟩,
  ⟨0x50000020, 1, 0x1000000, 1, 0x1000000, 0xFFFFFFFF, 0x0, 0x0, 0x0, 0xFFFFFFFF, 0x20004E20⟩,
  ⟨0x50000024, 1, 0x1000000, 1, 0x1000000, 0x3F, 0x0, 0x0, 0x0, 0x3F, 0x4⟩,
  ⟨0x50000028, 1, 0x1000000, 1, 0x1000000, 0x0, 0x0, 0x1FF, 0x0, 0x0, 0x0⟩,
  ⟨0x50000100, 32, 0x4, 1, 0x4, 0x0, 0x0, 0x0, 0x0, 0x0, 0x0⟩]
def rowsPWR : List StnRow := rowsPWR0

def rowsPODPWR0 : List StnRow := [
  ⟨0x51000000, 1, 0x1000000, 1, 0x1000000, 0xFFFFFF, 0x0, 0x0, 0x0, 0x0, 0x0⟩,
  ⟨0x51000004, 1, 0x1000000, 1, 0x1000000, 0x0, 0x0, 0x0, 0x0, 0x0, 0x0⟩,
  ⟨0x51000008, 1, 0x1000000, 1, 0x1000000, 0x0, 0x0, 0xFFFFFF, 0x0, 0x0, 0x0⟩,
  ⟨0x5100000C, 1, 0x1000000, 1, 0x1000000, 0x0, 0x0, 0x0, 0x0, 0x0, 0x0⟩,
  ⟨0x51000010, 1, 0x1000000, 1, 0x1000000, 0x0, 0x0, 0x0, 0x0, 0x0, 0x0⟩,
  ⟨0x51000014, 1, 0x1000000, 1, 0x1000000, 0x0, 0x0, 0x0, 0x0, 0x0, 0x0⟩,
  ⟨0x51000018, 1, 0x1000000, 1, 0x1000000, 0x3FFFFFFF, 0x0, 0x0, 0x0, 0x3FFFFFFF, 0x501F4⟩,
  ⟨0x5100001C, 1, 0x1000000, 1, 0x1000000, 0xFF1FFFFF, 0x0, 0x0, 0x0, 0xFF1FFFFF, 0xC0000000⟩,
  ⟨0x51000100, 24, 0x20, 1, 0x20, 0xFFFFFFF, 0x0, 0x0, 0x0, 0xFFFFFFF, 0x3463C37⟩,
  ⟨0x51000104, 24, 0x20, 1, 0x20, 0xFFFFFFFF, 0x0, 0x0, 0x0, 0xFFFFFFFF, 0x6405DC⟩,
  ⟨0x51000108, 24, 0x20, 1, 0x20, 0x1FFFFFFF, 0x0, 0x0, 0x0, 0x1FFFFFFF, 0x1E8480⟩,
  ⟨0x5100010C, 24, 0x20, 1, 0x20, 0xFFFF, 0x0, 0x0, 0x0, 0xFFFF, 0x0⟩,
  ⟨0x51000110, 24, 0x20, 1, 0x20, 0x0, 0x0, 0x0, 0x0, 0x0, 0x0⟩,
  ⟨0x51000114, 24, 0x20, 1, 0x20, 0x0, 0x0, 0x0, 0x0, 0x0, 0x0⟩]
def rowsPODPWR : List StnRow := rowsPODPWR0

def rowsTHM0 : List StnRow := [
  ⟨0x52000000, 1, 0x1000000, 1, 0x1000000, 0x0, 0x0, 0x0, 0x0, 0x307, 0x0⟩,
  ⟨0x52000004, 1, 0x1000000, 1, 0x1000000, 0x0, 0x0, 0x0, 0x0, 0xFFFFFFFF, 0x0⟩,
  ⟨0x52000008, 1, 0x1000000, 1, 0x1000000, 0x0, 0x0, 0x0, 0x0, 0xFFFFFFFF, 0x0⟩,
  ⟨0x5200000C, 1, 0x1000000, 1, 0x1000000, 0x0, 0x0, 0x0, 0x0, 0xFFFFFFFF, 0x0⟩,
  ⟨0x52000010, 1, 0x1000000, 1, 0x1000000, 0x0, 0x0, 0x0, 0x0, 0xFF, 0x0⟩,
  ⟨0x52000014, 1, 0x1000000, 1, 0x1000000, 0x0, 0x0, 0x0, 0x0, 0xFFFF, 0x0⟩,
  ⟨0x52000018, 1, 0x1000000, 1, 0x1000000, 0x0, 0x0, 0x0, 0x0, 0x0, 0x0⟩,
  ⟨0x5200001C, 1, 0x1000000, 1, 0x1000000, 0x0, 0x0, 0x0, 0x0, 0xFFFFFFFF, 0x0⟩,
  ⟨0x52000020, 1, 0x1000000, 1, 0x1000000, 0x0, 0x0, 0x0, 0x0, 0xFFFFFF, 0x0⟩,
  ⟨0x52000024, 1, 0x1000000, 1, 0x1000000, 0x0, 0x0, 0x0, 0x0, 0xFFFFFFFF, 0x0⟩,
  ⟨0x52000028, 1, 0x1000000, 1, 0x1000000, 0x0, 0x0, 0x0, 0x0, 0xFFFFFF00, 0x0⟩,
  ⟨0x5200002C, 1, 0x1000000, 1, 0x1000000, 0x0, 0x0, 0x0, 0x0, 0x0, 0x0⟩]
def rowsTHM : List StnRow := rowsTHM0

/-- The rows of station block `b` (R518); blocks 4 (NMAP) and 19 to 63 hold no scalar station. -/
def blockRows (b : Nat) : List StnRow :=
  match b with
  | 0 => rowsROUND
  | 1 => rowsFEED
  | 2 => rowsPKR
  | 3 => rowsSCR
  | 5 => rowsPLC
  | 6 => rowsPODL
  | 7 => rowsSIGHT
  | 8 => rowsHLT
  | 9 => rowsTWN
  | 10 => rowsMBG
  | 11 => rowsTIME
  | 12 => rowsMOT
  | 13 => rowsDRAM
  | 14 => rowsDMA
  | 15 => rowsLANE
  | 16 => rowsPWR
  | 17 => rowsPODPWR
  | 18 => rowsTHM
  | _ => []

/-- Address `a` is one of the words of row `r`. -/
def StnRow.covers (r : StnRow) (a : Nat) : Bool :=
  r.base ≤ a && decide ((a - r.base) / r.s1 < r.n1) && decide ((a - r.base) % r.s1 % r.s2 = 0)
    && decide ((a - r.base) % r.s1 / r.s2 < r.n2)

/-- The row of the scalar station at address `a`, if one exists there (R519). -/
def stnRow (a : Nat) : Option StnRow :=
  if a < 0x40000000 ∨ 0x80000000 ≤ a then none
  else (blockRows ((a - 0x40000000) / 0x1000000)).find? (fun r => r.covers a)

/-- What the scalar station at `a` holds after a reset that restores nothing: its Initial value, or its factory
value where it is kept (R498, R514).  I_CH of pod p has the factory value p (R496). -/
def stnInit (a : Nat) : BitVec 32 :=
  match stnRow a with
  | none => 0
  | some r =>
    if r.base = 0x51000108 then BitVec.ofNat 32 (r.init + ((a - r.base) / 0x20) * 0x1000000)
    else BitVec.ofNat 32 r.init


/-! ## Groups, classes, line-qualified and vector stations -/

/-- The class of a station group (R520): whether its stores are journaled, and the two special ones. -/
inductive GroupClass where
  | mirrored
  | local
  | readOnly
  | banked
deriving DecidableEq, Repr

/-- A range of offsets of a group (R520). -/
structure GroupRange where
  group : Nat
  lo : Nat
  hi : Nat
deriving DecidableEq, Repr

/-- The ranges of R520 as absolute addresses. -/
def groupRanges : List GroupRange := [
  ⟨0x00, 0x40000000, 0x4000002F⟩, ⟨0x01, 0x41000000, 0x41000013⟩, ⟨0x02, 0x42000000, 0x4200003B⟩,
  ⟨0x03, 0x43000000, 0x4300002B⟩, ⟨0x04, 0x43000100, 0x430006FF⟩, ⟨0x05, 0x43100000, 0x4327FFFF⟩,
  ⟨0x06, 0x44000000, 0x441FFFFF⟩, ⟨0x07, 0x45000000, 0x4500015F⟩, ⟨0x08, 0x46000000, 0x46002013⟩,
  ⟨0x09, 0x47000000, 0x470017FF⟩,
  ⟨0x0A, 0x47002000, 0x470020FF⟩, ⟨0x0A, 0x47100000, 0x4711FFFF⟩,
  ⟨0x0B, 0x47002100, 0x470021FF⟩, ⟨0x0B, 0x47120000, 0x4713FFFF⟩,
  ⟨0x0C, 0x47002200, 0x470022FF⟩, ⟨0x0C, 0x47140000, 0x4715FFFF⟩,
  ⟨0x0D, 0x47002300, 0x470023FF⟩, ⟨0x0D, 0x47160000, 0x4717FFFF⟩,
  ⟨0x0E, 0x48000000, 0x4800003B⟩, ⟨0x0F, 0x49000000, 0x4900002F⟩,
  ⟨0x10, 0x4A000000, 0x4A000017⟩, ⟨0x10, 0x4A001000, 0x4A008FFF⟩, ⟨0x11, 0x4A000040, 0x4A000057⟩,
  ⟨0x12, 0x4B000000, 0x4B000057⟩,
  ⟨0x13, 0x4C000000, 0x4C0000BF⟩, ⟨0x13, 0x4C000100, 0x4C0002FF⟩, ⟨0x13, 0x4C001000, 0x4C004FFF⟩,
  ⟨0x14, 0x4D000000, 0x4D0000BF⟩, ⟨0x15, 0x4E000000, 0x4E000007⟩, ⟨0x16, 0x4F000000, 0x4F000B7F⟩,
  ⟨0x17, 0x50000000, 0x5000017F⟩, ⟨0x18, 0x51000000, 0x510003FF⟩, ⟨0x19, 0x52000000, 0x5200002F⟩]

/-- The station group of address `a` (R520); compare units and DMA channels lie in none. -/
def stnGroup (a : Nat) : Option Nat :=
  (groupRanges.find? (fun r => decide (r.lo ≤ a) && decide (a ≤ r.hi))).map (fun r => r.group)

/-- The class of a group (R520). -/
def groupClass (g : Nat) : GroupClass :=
  if g = 0x01 ∨ g = 0x19 then .readOnly
  else if g = 0x11 then .banked
  else if g = 0x00 ∨ g = 0x02 ∨ g = 0x0F ∨ g = 0x10 ∨ g = 0x16 ∨ g = 0x17 then .local
  else .mirrored

/-- The groups the resident claims at start-up (R520, R369). -/
def groupResident (g : Nat) : Bool := g == 0x00 || g == 0x19

/-- The compare unit whose stations hold address `a` (R402, R520). -/
def tmcUnit (a : Nat) : Option (Fin 8) :=
  if 0x4B000100 ≤ a ∧ a < 0x4B000200 then some (Fin.ofNat 8 ((a - 0x4B000100) / 0x20)) else none

/-- The DMA channel whose stations hold address `a` (R461, R520). -/
def dmaChannelOf (a : Nat) : Option (Fin 16) :=
  if 0x4E000100 ≤ a ∧ a < 0x4E000500 then some (Fin.ofNat 16 ((a - 0x4E000100) / 0x40)) else none

/-- The compare units and the DMA channels belong to no group and are mirrored like the TIME and DMA groups
(R402, R460). -/
def stnClass (a : Nat) : GroupClass :=
  match stnGroup a with
  | some g => groupClass g
  | none => .mirrored

/-- The express-capable stations (R526). -/
def expressCapable (a : Nat) : Bool :=
  a == 0x4300000C || a == 0x4500001C || a == 0x45000020 || a == 0x4C000018 || a == 0x4C000110
    || a == 0x4C000190 || a == 0x4C000210 || a == 0x4C000290

/-- A vector station (R528): a threshold view, a plane view of the nozzle map, or a view of a Sight table. -/
inductive VView where
  | thr (n y g : Nat)          -- array n 1 to 12, row y, x / 16 (R208)
  | nmap (q g : Nat)           -- plane q, entries 64 g to 64 g + 63 (R209)
  | sight (n : Fin 4) (off : Nat)   -- context n, table offset (R306)
deriving DecidableEq, Repr

/-- The LUT of plane q holds 17 views from 0x11000 + q * 0x400 (R306). -/
def sightViewExists (o : Nat) : Bool :=
  decide (o < 0x11000) || (decide (o < 0x12000) && decide ((o - 0x11000) % 0x400 < 17 * 32))

/-- The vector station at address `a`, which must be a multiple of 32 (R528). -/
def vView (a : Nat) : Option VView :=
  if a % 32 ≠ 0 then none
  else if 0x43100000 ≤ a ∧ a < 0x43280000 then
    let o := a - 0x43100000
    some (.thr (o / 0x20000 + 1) (o % 0x20000 / 0x200) (o % 0x200 / 32))
  else if 0x44000000 ≤ a ∧ a < 0x44200000 then
    let o := a - 0x44000000
    if o % 0x40000 / 32 < 5120 then some (.nmap (o / 0x40000) (o % 0x40000 / 32)) else none
  else if 0x47100000 ≤ a ∧ a < 0x47180000 then
    let o := a - 0x47100000
    if sightViewExists (o % 0x20000) then some (.sight (Fin.ofNat 4 (o / 0x20000)) (o % 0x20000)) else none
  else none

/-- A vector view that takes line-qualified writes: planes 2 to 5 of the nozzle map (R527). -/
def VView.lq : VView → Bool
  | .nmap q _ => decide (2 ≤ q) && decide (q ≤ 5)
  | _ => false

/-- A vector view that takes immediate stores: thresholds and Sight tables (R528). -/
def VView.rw : VView → Bool
  | .nmap _ _ => false
  | _ => true

/-- The scalar station of row `r` is line-qualified (R527). -/
def StnRow.isLQ (r : StnRow) : Bool := r.lq != 0

/-- The station of row `r` has a writable field for an immediate store (R74). -/
def StnRow.writable (r : StnRow) : Bool := (r.rw ||| r.wo ||| r.w1c) != 0

end Sys2Proof.Machine
end

