-- ==== Sys2Proof/Machine/Ops.lean ====
section
/-! DEFINITION. The shared operations: sparse stores, memories, station fields, steward registers and events, the
time bases, alarms, and the journal of mirrored effects. -/
namespace Sys2Proof.Machine
open Sys2Proof

/-! ## Sparse stores in canonical form -/

/-- What a sparse store holds at `a`: its entry, or the default `d a`. -/
def spGet {α : Type} (d : Nat → α) : List (Nat × α) → Nat → α
  | [], a => d a
  | (k, v) :: t, a => if a = k then v else if a < k then d a else spGet d t a

/-- Store `v` at `a`; an entry equal to the default is not kept. -/
def spPut {α : Type} [DecidableEq α] (d : Nat → α) : List (Nat × α) → Nat → α → List (Nat × α)
  | [], a, v => if v = d a then [] else [(a, v)]
  | (k, w) :: t, a, v =>
    if a < k then (if v = d a then (k, w) :: t else (a, v) :: (k, w) :: t)
    else if a = k then (if v = d a then t else (a, v) :: t)
    else (k, w) :: spPut d t a v

/-- Every key of the store lies above `lo`. -/
def spAbove {α : Type} (lo : Nat) : List (Nat × α) → Bool
  | [] => true
  | (k, _) :: _ => decide (lo < k)

/-- The canonical form: keys strictly rising, no entry equal to its default. -/
def spWf {α : Type} [DecidableEq α] (d : Nat → α) : List (Nat × α) → Bool
  | [] => true
  | (k, v) :: t => decide (v ≠ d k) && spAbove k t && spWf d t

/-! ## Byte memories: an unlisted byte reads 0 (DESIGN CHOICE, log entry 4) -/

/-- The byte an unlisted address reads as. -/
def memDefault (_ : Nat) : Byte := 0

/-- The canonical form of a byte memory. -/
def Memory.wf (m : List Host.Cell) : Bool := spWf memDefault m

def memGet (m : List Host.Cell) (a : Nat) : Byte := spGet memDefault m a
def memPut (m : List Host.Cell) (a : Nat) (b : Byte) : List Host.Cell := spPut memDefault m a b

/-- `n` bytes from address `a`, lowest address first. -/
def memBytes (m : List Host.Cell) (a : Nat) : Nat → List Byte
  | 0 => []
  | n + 1 => memGet m a :: memBytes m (a + 1) n

/-- Store bytes from address `a` upward. -/
def memStore (m : List Host.Cell) (a : Nat) : List Byte → List Host.Cell
  | [] => m
  | b :: bs => memStore (memPut m a b) (a + 1) bs

/-- The number whose little-endian bytes these are (R5). -/
def leNat : List Byte → Nat
  | [] => 0
  | b :: bs => b.toNat + 256 * leNat bs

/-- The `n` little-endian bytes of a number (R5). -/
def leBytes : Nat → Nat → List Byte
  | 0, _ => []
  | n + 1, v => BitVec.ofNat 8 v :: leBytes n (v / 256)

def memNat (m : List Host.Cell) (a n : Nat) : Nat := leNat (memBytes m a n)
def memPutNat (m : List Host.Cell) (a n v : Nat) : List Host.Cell := memStore m a (leBytes n v)

/-! ## CRC-32C (R453) -/

/-- One bit of the reflected CRC-32C register. -/
def crcBit (r : Word) : Word := if r.getLsbD 0 then (r >>> 1) ^^^ 0x82F63B78 else r >>> 1

def crcByte (r : Word) (b : Byte) : Word :=
  let x := r ^^^ b.setWidth 32
  crcBit (crcBit (crcBit (crcBit (crcBit (crcBit (crcBit (crcBit x)))))))

/-- CRC-32C of a byte string: register from all ones, bit-reflected, complemented at the end (R453). -/
def crc32c (bs : List Byte) : Word := ~~~ (bs.foldl crcByte 0xFFFFFFFF)

/-! ## Scalar stations as words and fields -/

/-- The stored word of the scalar station at `a`. -/
def stnWord (s : State) (a : Nat) : Word := spGet stnInit s.stn a
def setStnWord (s : State) (a : Nat) (v : Word) : State := { s with stn := spPut stnInit s.stn a v }

/-- The mask of a field in its word. -/
def Fld.mask (f : Fld) : Nat := (2 ^ f.w - 1) * 2 ^ f.lo

def fldOf (f : Fld) (w : Word) : Nat := w.toNat / 2 ^ f.lo % 2 ^ f.w
def fldPut (f : Fld) (w : Word) (v : Nat) : Word :=
  (w &&& ~~~ BitVec.ofNat 32 f.mask) ||| BitVec.ofNat 32 ((v % 2 ^ f.w) * 2 ^ f.lo)

/-- A field of the station file. -/
def fld (s : State) (f : Fld) : Nat := fldOf f (stnWord s f.addr)
def fldB (s : State) (f : Fld) : Bool := fld s f != 0
/-- A field as a two's-complement number. -/
def fldInt (s : State) (f : Fld) : Int :=
  if 2 ^ (f.w - 1) ≤ fld s f then (fld s f : Int) - 2 ^ f.w else fld s f
def setFld (s : State) (f : Fld) (v : Nat) : State := setStnWord s f.addr (fldPut f (stnWord s f.addr) v)
def setFldB (s : State) (f : Fld) (b : Bool) : State := setFld s f (if b then 1 else 0)
def setFldInt (s : State) (f : Fld) (i : Int) : State := setFld s f (i % (2 ^ f.w : Int)).toNat
/-- Add to a counter that saturates at the top of its field. -/
def addFld (s : State) (f : Fld) (n : Nat) : State := setFld s f (Nat.min (fld s f + n) (2 ^ f.w - 1))
def incFld (s : State) (f : Fld) : State := addFld s f 1
/-- Add to a counter that wraps. -/
def wrapFld (s : State) (f : Fld) : State := setFld s f (fld s f + 1)

/-- A saturating increment of a 32-bit register. -/
def satInc (w : Word) : Word := if w = BitVec.allOnes 32 then w else w + 1

/-! ## Vector stations -/

/-- The factory threshold rank of cell (x, y) (R208). -/
def thrRank (x y : Nat) : Nat :=
  let a := x ^^^ y
  let bit := fun i => ((a >>> i % 2) * 2 ||| (y >>> i % 2)) <<< (14 - 2 * i)
  bit 0 ||| bit 1 ||| bit 2 ||| bit 3 ||| bit 4 ||| bit 5 ||| bit 6 ||| bit 7

/-- The factory entry T[n][y][x] (R208). -/
def thrFactory (n y x : Nat) : Nat := ((n - 1) * 65536 + thrRank x y) * 65535 / 786432

/-- The factory contents of a vector station: thresholds by R208, flat-field entries 4,096 (R306); the other Sight
tables' factory values are set in the settings image and not stated, here 0 (DESIGN CHOICE, log entry 10). -/
def vstnInit (a : Nat) : Vec :=
  match vView a with
  | some (.thr n y g) =>
    (List.range 16).foldl
      (fun acc j => acc ||| (BitVec.ofNat 256 (thrFactory n y (16 * g + j)) <<< (16 * j))) 0
  | some (.sight _ o) =>
    if o < 0x10000 then (List.range 16).foldl (fun acc j => acc ||| (BitVec.ofNat 256 4096 <<< (16 * j))) 0 else 0
  | _ => 0

def vecGet (s : State) (a : Nat) : Vec := spGet vstnInit s.vstn a
def setVec (s : State) (a : Nat) (v : Vec) : State := { s with vstn := spPut vstnInit s.vstn a v }

/-! ## Free values -/

/-- The number of the next free value, and the state that has used it. -/
def useFree (s : State) : State := { s with fresh := s.fresh + 1 }

/-! ## DMA request lines (R455) -/

/-- A source asserts its latched request line. -/
def dmaLine (s : State) (n : Nat) : State := { s with dma := { s.dma with lines := s.dma.lines ||| (1#13 <<< n) } }

/-! ## Outputs and pins -/

def emit (s : State) (o : Out) : State := { s with out := s.out ++ [o] }

/-! ## Stewards -/

def stw (s : State) (k : Fin 8) : Steward := s.stewards[k]
def setStw (s : State) (k : Fin 8) (w : Steward) : State := { s with stewards := s.stewards.set k w }
def modStw (s : State) (k : Fin 8) (f : Steward → Steward) : State := setStw s k (f (stw s k))

/-- Stewards 6 and 7 run the resident (R59). -/
def isResident (k : Fin 8) : Bool := decide (6 ≤ k.val)

/-- The last index of each claim kind (R93). -/
def claimTop (kind : Nat) : Nat :=
  if kind = 1 then 0x19 else if kind = 2 then 0x0C else if kind = 3 then 7 else if kind = 4 then 15 else 511

/-- What the resident claims at start-up, exclusively (R369). -/
def residentClaims (kind idx : Nat) : Bool :=
  if kind = 1 then groupResident idx
  else if kind = 2 then idx == 0x0C
  else if kind = 3 then idx == 6 || idx == 7
  else if kind = 4 then idx == 14 || idx == 15
  else if kind = 5 then decide (448 ≤ idx) && decide (idx ≤ 511)
  else false

/-- A claim record covers an index. -/
def claimCovers (c : Claim) (kind idx : Nat) : Bool :=
  c.kind == kind && decide (c.first ≤ idx) && decide (idx < c.first + c.count)

/-- Steward `k`'s program has claimed this index (R92); the resident's claims are those of R369. -/
def hasClaim (s : State) (k : Fin 8) (kind idx : Nat) : Bool :=
  if isResident k then residentClaims kind idx
  else match (stw s k).prog with
    | some im => im.claims.any (fun c => claimCovers c kind idx)
    | none => false

/-- The stewards that claim a compare unit, a DMA channel or a pin function (R79, R94: shared claims coexist); the
resident stands as steward 6. -/
def claimants (s : State) (kind idx : Nat) : List (Fin 8) :=
  (List.finRange 8).filter (fun k => k.val != 7 && hasClaim s k kind idx)

/-- Set event `n` of steward `k` (R79); pending bits merge. -/
def setEvent (n : Nat) (s : State) (k : Fin 8) : State :=
  modStw s k (fun w => { w with evpend := w.evpend ||| (1 <<< n) })

/-- Set an event of the stewards that claim the index (R79). -/
def setEventClaimants (s : State) (n kind idx : Nat) : State := (claimants s kind idx).foldl (setEvent n) s

/-- Set an event of every steward. -/
def setEventAll (s : State) (n : Nat) : State := (List.finRange 8).foldl (setEvent n) s

/-- The pending and enabled events of a steward. -/
def Steward.enabled (w : Steward) : Word := w.evpend &&& w.evmask

/-- The lowest set bit of a word, or 32 (R80). -/
def lowestBit (w : Word) : Nat := ((List.range 32).find? (fun i => w.getLsbD i)).getD 32

/-! ## Time bases (R384 to R390) -/

/-- The value of base `b`: the integer part of its accumulator. -/
def tbVal (s : State) (b : Fin 4) : Word := (s.clk.acc[b]).extractLsb' 28 32

/-- INC of base `b` in force: a following base uses the INC of TB-PRESS (R388). -/
def tbInc (s : State) (b : Fin 4) : Nat :=
  let press := fld s (F.TIME_TB_INC 0)
  if b = 0 then press
  else if b = 1 ∧ fldB s F.TIME_TB_CTL_FIRE_FOLLOW then press
  else if b = 2 ∧ fldB s F.TIME_TB_CTL_SIGHT_FOLLOW then press
  else if b = 3 ∧ fldB s F.TIME_TB_CTL_MOTION_FOLLOW then press
  else fld s (F.TIME_TB_INC b.val)

/-- INC is limited to 2.5 ns ± 1,562.5 ppm (R385). -/
def clampInc (v : Nat) : Nat := if v < 0x27F00000 then 0x27F00000 else if 0x28100000 < v then 0x28100000 else v

/-- The accumulator of a base after `n` ticks of increment `inc`, its pending step applied at the first (R384, R386). -/
def accAfter (acc : BitVec 60) (step : Word) (inc n : Nat) : BitVec 60 :=
  if n = 0 then acc
  else acc + BitVec.ofNat 60 (n * inc) + (step.setWidth 60 <<< 28)

/-- The extended count after the same ticks: it takes every integer carry and every step (R389). -/
def extAfter (ext : BitVec 64) (acc : BitVec 60) (step : Word) (inc n : Nat) : BitVec 64 :=
  if n = 0 then ext
  else ext + BitVec.ofNat 64 ((acc.toNat % 2 ^ 28 + n * inc) / 2 ^ 28) + step.signExtend 64

/-- (s32)(value − TARGET) of a compare unit, on its base (R398). -/
def tmcBase (s : State) (u : Nat) : Fin 4 := Fin.ofNat 4 (fld s (F.TIME_TMC_CTL_BASE u))
def tmcDiff (s : State) (u : Nat) : Int := (tbVal s (tmcBase s u) - BitVec.ofNat 32 (fld s (F.TIME_TARGET u))).toInt

/-- In the next `n` ticks the base of a unit whose TARGET lies behind it passes a value below TARGET: it is stepped back
over it, or goes half a wrap on. -/
def passesBelow (s : State) (u n : Nat) : Bool :=
  let b := tmcBase s u
  let d := tmcDiff s u + s.clk.step[b].toInt
  let go : Int := (((s.clk.acc[b]).toNat % 2 ^ 28 + n * tbInc s b) / 2 ^ 28 : Nat)
  decide (d < 0) || decide (2 ^ 31 ≤ d + go)

/-- The units that LATE_HOLD still holds after `n` ticks (R400): one whose base has been below its TARGET fires when the
base next reaches it. -/
def heldAfter (s : State) (n : Nat) : BitVec 8 :=
  if n = 0 then s.clk.held
  else BitVec.ofNat 8 (((List.range 8).map (fun u => if s.clk.held.getLsbD u && !passesBelow s u n then 2 ^ u else 0)).sum)

/-- Let `n` ticks of 2.5 ns pass on every time base. -/
def tickBases (s : State) (n : Nat) : State :=
  let acc := Vector.ofFn (fun b : Fin 4 => accAfter s.clk.acc[b] s.clk.step[b] (tbInc s b) n)
  let ext := extAfter s.clk.ext s.clk.acc[0] s.clk.step[0] (tbInc s 0) n
  let ns := s.clk.ns + (s.clk.acc[0].toNat % 2 ^ 28 + n * tbInc s 0) / 2 ^ 28
  { s with clk := { s.clk with acc := acc, ext := ext, ns := ns, held := heldAfter s n, step := if n = 0 then s.clk.step else Vector.replicate 4 0 } }

/-- Let time pass to `t`, in 312.5 ps units since reset; a time already passed changes nothing. -/
def advanceTo (s : State) (t : Nat) : State :=
  if t ≤ s.clk.now then s
  else
    let n := t / 8 - s.clk.now / 8
    let s := tickBases s n
    { s with clk := { s.clk with now := t } }

/-- The postmark the resident takes of a happening now: extended TB-PRESS plus a delay no rule fixes; for the three
express alarms at most 150 ns (R391). -/
def postmark (s : State) (express : Bool) : BitVec 64 :=
  let d := Config.postmarkDelay s.fresh
  s.clk.ext + BitVec.ofNat 64 (if express then d % 151 else d)

/-- `b + 0` for `a`, as TB-PRESS ticks of ns: now on the extended count. -/
def extNs (s : State) : Nat := s.clk.ext.toNat

/-- Power-on seconds up to now; saturates. -/
def powerSeconds (s : State) : Word := BitVec.ofNat 32 (Nat.min 0xFFFFFFFF (s.therm.powerS.toNat + s.clk.now / 3200000000))

/-! ## Jobs and lines -/

def jobRuns (s : State) : Bool := s.jobs.running.isSome
def jobDeclared (s : State) : Bool := s.jobs.running.isSome || s.jobs.next.isSome

/-- SC_LINE (R78): the line whose boundary passed last, all ones when no job runs. -/
def scLine (s : State) : Word :=
  match s.jobs.running, s.plc.scLine with
  | some _, some l => BitVec.ofNat 32 l
  | _, _ => BitVec.allOnes 32

/-! ## Roles -/

def isActive (s : State) : Bool := s.twin.role == .active
/-- A device without a twin is one whose epoch is 0 (R330). -/
def solo (s : State) : Bool := s.twin.epoch == 0
/-- The epoch as receipts, records and pod frames carry it (R121, R375). -/
def pairEpoch (s : State) : Word := s.twin.epoch

/-! ## Alarms (R376 to R378, R382) -/

/-- First slot, number of instances and code of each alarm (R382). -/
def alarmRows : List (Nat × Nat × Nat) := [
  (0, 1, 0x0001), (1, 1, 0x0002), (2, 1, 0x0003), (3, 8, 0x0004), (11, 1, 0x0005), (12, 1, 0x0006),
  (13, 2, 0x0101), (15, 14, 0x0102), (29, 1, 0x0103), (30, 1, 0x0201), (31, 1, 0x0202), (32, 1, 0x0203),
  (33, 1, 0x0204), (34, 1, 0x0205), (35, 4, 0x0206), (39, 4, 0x0207), (43, 1, 0x0301), (44, 1, 0x0302),
  (45, 1, 0x0303), (46, 24, 0x0304), (70, 1, 0x0305), (71, 1, 0x0306), (72, 1, 0x0307), (73, 1, 0x0308),
  (74, 24, 0x0309), (98, 24, 0x030A), (122, 1, 0x030B), (123, 1, 0x030C), (124, 24, 0x0401), (148, 24, 0x0402),
  (172, 24, 0x0403), (196, 24, 0x0404), (220, 4, 0x0501), (224, 4, 0x0502), (228, 4, 0x0503), (232, 4, 0x0504),
  (236, 1, 0x0505), (237, 4, 0x0506), (241, 1, 0x0507), (242, 1, 0x0601), (243, 2, 0x0602), (245, 1, 0x0603),
  (246, 1, 0x0604), (247, 1, 0x0605), (248, 1, 0x0606), (249, 1, 0x0607), (250, 1, 0x0608), (251, 1, 0x0609),
  (252, 1, 0x060A), (253, 1, 0x0701), (254, 1, 0x0702), (255, 1, 0x0703), (256, 24, 0x0704), (280, 24, 0x0705),
  (304, 24, 0x0706), (328, 8, 0x0708), (336, 24, 0x0709), (360, 4, 0x0711), (364, 1, 0x0712), (365, 4, 0x0713),
  (369, 1, 0x0801), (370, 42, 0x0802)]

/-- CODE and INSTANCE of a slot (R382). -/
def slotCode (n : Nat) : Nat × Nat :=
  match alarmRows.find? (fun r => decide (r.1 ≤ n) && decide (n < r.1 + r.2.1)) with
  | some r => (r.2.2, n - r.1)
  | none => (0, 0)

/-- The three express alarms (R378, R382). -/
def slotExpress (n : Nat) : Bool := n == 71 || n == 247 || n == 255

def slotGet (s : State) (n : Nat) : Slot := spGet (fun _ => Slot.init) s.mbx.slots n
def setSlot (s : State) (n : Nat) (x : Slot) : State :=
  { s with mbx := { s.mbx with slots := spPut (fun _ => Slot.init) s.mbx.slots n x } }

/-- Take the next MSEQ of a mailbag stream (R373). -/
def takeMseq (s : State) (st : Fin 16) : Word × State :=
  (s.mbx.mseq[st], { s with mbx := { s.mbx with mseq := s.mbx.mseq.set st (s.mbx.mseq[st] + 1) } })

/-- Slot `n` has a queued record that counts its present occurrences. -/
def slotQueued (s : State) (n : Nat) : Bool := s.mbx.queue.any (fun q => q.slot == n && q.final.isNone)

/-- Queue a record of slot `n` (R376): it takes its MSEQ now, except before readiness (R373). -/
def queueRecord (s : State) (n : Nat) (first : Bool) (final : Option Slot) : State :=
  let (m, s) := if s.mbx.started then takeMseq s 1 else (0, s)
  { s with mbx := { s.mbx with queue := s.mbx.queue ++ [⟨n, m, first, final⟩] } }

/-- The 56 bytes of an alarm record (R374, R375). -/
def alarmBytes (n : Nat) (x : Slot) (flags : Nat) (mseq : Word) (count : Word) (last : BitVec 64) : List Byte :=
  [0x01, 56] ++ leBytes 1 flags ++ [0] ++ leBytes 4 mseq.toNat ++ leBytes 2 (slotCode n).1
    ++ leBytes 2 (slotCode n).2 ++ leBytes 4 count.toNat ++ leBytes 8 x.first.toNat ++ leBytes 8 last.toNat
    ++ leBytes 4 x.epoch.toNat ++ leBytes 4 x.line.toNat
    ++ leBytes 4 ((x.detail.getD 0 0).toNat) ++ leBytes 4 ((x.detail.getD 1 0).toNat)
    ++ leBytes 4 ((x.detail.getD 2 0).toNat) ++ leBytes 4 ((x.detail.getD 3 0).toNat)

/-- An idle slot opens: COUNT 1, first occurrence recorded (R376). -/
def openSlot (s : State) (n : Nat) (pm : BitVec 64) (detail : List Word) : State :=
  setSlot s n { Slot.init with
    isOpen := true, count := 1, first := pm, last := pm, epoch := pairEpoch s, line := scLine s,
    detail := detail, lastAt := extNs s }

/-- An open slot counts one more occurrence (R376). -/
def countSlot (s : State) (n : Nat) (pm : BitVec 64) : State :=
  let x := slotGet s n
  setSlot s n { x with count := satInc x.count, last := pm, lastAt := extNs s }

/-- An occurrence of the alarm of slot `n` with the DETAIL its rule names (R376, R378). -/
def alarm (s : State) (n : Nat) (detail : List Word) : State :=
  let pm := postmark s (slotExpress n)
  let s := useFree s
  if slotExpress n then
    let s := if (slotGet s n).isOpen then countSlot s n pm else openSlot s n pm detail
    let (m, s) := takeMseq s 0
    let rec1 : Slot := { Slot.init with first := pm, epoch := pairEpoch s, line := scLine s, detail := detail }
    let bytes := alarmBytes n rec1 5 m 1 pm
    if s.mbx.express.length < 256 then
      { s with mbx := { s.mbx with express := s.mbx.express ++ [⟨0, m, bytes⟩] } }
    else s
  else if (slotGet s n).isOpen then countSlot s n pm
  else queueRecord (openSlot s n pm detail) n true none

/-- Close slot `n` (R377): a queued record takes FINAL; else, if COUNT changed since the last record, a last record
is queued; an express slot only counts (R378). The contents stay readable. -/
def closeSlot (s : State) (n : Nat) : State :=
  let x := slotGet s n
  if x.isOpen then
    let y := { x with isOpen := false }
    let s := setSlot s n y
    if s.mbx.queue.any (fun q => q.slot == n && q.final.isNone) then
      { s with mbx := { s.mbx with
          queue := s.mbx.queue.map (fun q => if q.slot == n && q.final.isNone then { q with final := some y } else q) } }
    else if !slotExpress n && x.count ≠ x.sent then queueRecord s n false (some y)
    else s
  else s

/-- Close every slot. -/
def closeAllSlots (s : State) : State := (s.mbx.slots.map (fun e => e.1)).foldl closeSlot s

/-! ## The journal of mirrored effects (R338) -/

/-- The active makes hampers: its twin is joined, or follows since its snapshot or a hand-over (R342, R356, R359). -/
def mirrors (s : State) : Bool := isActive s && (s.twin.joined || s.twin.snapshot)

/-- Journal an effect in the hamper that is filling (R338). -/
def journal (s : State) (e : JEntry) : State :=
  if mirrors s then { s with twin := { s.twin with fill := s.twin.fill ++ [e] } } else s

/-- The standby's reason bit `b` (R345). -/
def setNotElig (s : State) (b : Nat) (v : Bool) : State :=
  { s with twin := { s.twin with
      notElig := if v then s.twin.notElig ||| (1#16 <<< b) else s.twin.notElig &&& ~~~ (1#16 <<< b) } }

/-- Joined: on the standby, this device; on the active, its twin (R344). -/
def twinEligible (s : State) : Bool :=
  s.twin.joined && (match s.twin.peer with | some c => c.eligible | none => false)

/-- Decline a hand-over: count and alarm (R351). -/
def declineHandover (s : State) : State := alarm (incFld s F.TWN_EVENTS_DECLINED) 249 []

/-- VOLUNTARY_HANDOVER (R351, R366): the active starts a hand-over when its twin is eligible and has acknowledged
every hamper; otherwise it declines.  A hand-over already under way serves all reasons. -/
def startHandover (s : State) : State :=
  if isActive s then
    if s.tho.ho ≠ .no then s
    else if twinEligible s && s.twin.sent.isEmpty then { s with tho := { s.tho with ho := .due } }
    else declineHandover s
  else s

/-- A fault that calls for a hand-over: reason `b` of R345 holds on the device, in either role, and the active hands
over. -/
def faultHandover (s : State) (b : Nat) : State := startHandover (setNotElig s b true)

/-! ## Late wins (R367) -/

/-- An arrival won over a timeout at a site without a counter of its own. -/
def lateWin (s : State) : State := incFld s F.MBG_MB_LATEWIN

end Sys2Proof.Machine
end

