-- ==== Sys2Proof/Machine/Mem.lean ====
section
/-! DEFINITION. The DRAM under inline ECC (R429 to R435) and the steward address map (R63, R64). -/
namespace Sys2Proof.Machine
open Sys2Proof

/-! ## DRAM -/

/-- Usable DRAM in bytes: 15/16 of the fitted capacity (R429). -/
def dramUsable (s : State) : Nat :=
  15 * 2 ^ 30 * 2 ^ fld s F.DRAM_CFG_DENSITY * (1 + fld s F.DRAM_CFG_RANKS2)

/-- The channel of a usable address (R432). -/
def dramChannel (a : Nat) : Nat :=
  let g := a / 960
  (g ^^^ (g >>> 2) ^^^ (g >>> 7)) % 4

/-- The codewords, of 32 bytes each, that hold `n` bytes from `a`: the first and how many (R433). -/
def cwFirst (a : Nat) : Nat := a / 32
def cwCount (a n : Nat) : Nat := if n = 0 then 0 else (a + n - 1) / 32 - a / 32 + 1

/-- A corrected codeword is counted and raises dram-corrected (R434). -/
def noteCorrected (s : State) (cw : Nat) : State :=
  let ch := dramChannel (32 * cw)
  alarm (incFld s (F.DRAM_CE_COUNT ch)) (35 + ch) []

/-- BLK, bytes per block (R141). -/
def blkBytes (depth ratio : Nat) : Nat :=
  if depth = 8 then (if ratio = 2 then 16 else if ratio = 3 then 10 else 8)
  else if depth = 10 then (if ratio = 2 then 20 else if ratio = 3 then 13 else 10)
  else (if ratio = 2 then 24 else if ratio = 3 then 16 else 12)

def blkOf (d : Decl) : Nat := blkBytes d.depth d.ratio
def bprOf (d : Decl) : Nat := (d.samples + 15) / 16
def strideOf (d : Decl) : Nat := (bprOf d * blkOf d + 63) / 64 * 64

/-- The codeword lies in the page store: the ring of a declared job, or its library slots (R142, R148). -/
def inPageStore (s : State) (cw : Nat) : Bool :=
  let a := 32 * cw
  let within := fun (base len : Nat) => decide (base < a + 32) && decide (a < base + len)
  [s.jobs.running, s.jobs.next].any (fun o => match o with
    | some j => within j.decl.storeBase (j.decl.storeRows * strideOf j.decl + 16384)
        || within j.decl.libBase (j.decl.libSlots * j.decl.libSlotRows * strideOf j.decl)
    | none => false)

/-- An uncorrectable codeword is counted, its address kept, and dram-uncorrectable raised (R434, R365); one in
the page store takes the device's eligibility for a second (R345). -/
def noteUncorrectable (s : State) (cw : Nat) : State :=
  let ch := dramChannel (32 * cw)
  let s := incFld s (F.DRAM_UE_COUNT ch)
  let s := setFld s (F.DRAM_LAST_UE_LO ch) (32 * cw)
  let s := setFld s (F.DRAM_LAST_UE_HI ch) (32 * cw / 2 ^ 32)
  let s := if inPageStore s cw then { s with twin := { s.twin with pageErr := some s.clk.now } } else s
  alarm s (39 + ch) []

/-- The controller's check of one codeword that a read returns (R434). -/
def readCheck (s : State) (cw : Nat) : State :=
  if s.poison.contains cw then noteUncorrectable s cw
  else if s.single.contains cw then noteCorrected s cw
  else s

/-- `n` bytes of usable DRAM, as stored. -/
def dramBytes (s : State) (a n : Nat) : List Byte := memBytes s.dram a n

/-- Some codeword of these bytes is uncorrectable. -/
def dramBad (s : State) (a n : Nat) : Bool := s.poison.any (fun c => decide (cwFirst a ≤ c) && decide (c < cwFirst a + cwCount a n))

/-- The effect of a read on counters and alarms. -/
def dramReadEffect (s : State) (a n : Nat) : State :=
  ((List.range (cwCount a n)).map (fun i => cwFirst a + i)).foldl readCheck s

/-- The codeword is covered whole by the write of `n` bytes at `a`. -/
def cwWhole (a n cw : Nat) : Bool := decide (a ≤ 32 * cw) && decide (32 * cw + 32 ≤ a + n)

/-- One codeword of a write: a whole one clears its errors, a partial one is read and merged first (R435). -/
def writeCheck (a n : Nat) (s : State) (cw : Nat) : State :=
  if cwWhole a n cw then
    { s with poison := s.poison.filter (fun c => c != cw), single := s.single.filter (fun c => c != cw) }
  else if s.poison.contains cw then noteUncorrectable s cw
  else if s.single.contains cw then
    let s := noteCorrected s cw
    { s with single := s.single.filter (fun c => c != cw) }
  else s

/-- Write bytes to usable DRAM (R435). -/
def dramWrite (s : State) (a : Nat) (bs : List Byte) : State :=
  let s := ((List.range (cwCount a bs.length)).map (fun i => cwFirst a + i)).foldl (writeCheck a bs.length) s
  { s with dram := memStore s.dram a bs }

/-- Store `n` zero bytes at `a`: the entries go. -/
def memClear (m : List Host.Cell) (a n : Nat) : List Host.Cell := m.filter (fun c => !(decide (a ≤ c.1) && decide (c.1 < a + n)))

/-- Write `n` zero bytes to usable DRAM, as `dramWrite` would (R435). -/
def dramClear (s : State) (a n : Nat) : State :=
  if n = 0 then s
  else
    let s := writeCheck a n (writeCheck a n s (cwFirst a)) (cwFirst (a + n - 1))
    { s with
      dram := memClear s.dram a n
      poison := s.poison.filter (fun c => !cwWhole a n c), single := s.single.filter (fun c => !cwWhole a n c) }

/-- The environment reports an error in the codeword at `a` (1 single-bit, 2 double-bit). -/
def newEccError (s : State) (a : Nat) (ecc : Fin 3) : State :=
  let cw := a / 32
  if ecc = 2 then
    if s.poison.contains cw then s else { s with poison := s.poison ++ [cw] }
  else if ecc = 1 then
    if s.single.contains cw then s else { s with single := s.single ++ [cw] }
  else s

/-! ## The steward address map (R63) -/

/-- Where an address of a steward lies. -/
inductive Region where
  | imem
  | dmem (off : Nat)
  | shared (off : Nat)
  | scratch (owner : Nat) (off : Nat)
  | station
  | dram (addr : Nat)
  | hole
deriving DecidableEq, Repr

/-- The region of address `a` with DRAM window number `dwin`; `off` of scratch counts in shared memory. -/
def regionOf (usable dwin a : Nat) : Region :=
  if a < 0x10000 then .imem
  else if 0x10000000 ≤ a ∧ a < 0x10020000 then .dmem (a - 0x10000000)
  else if 0x20000000 ≤ a ∧ a < 0x201FFA00 then .shared (a - 0x20000000)
  else if 0x201FFA00 ≤ a ∧ a < 0x20200000 then .scratch ((a - 0x201FFA00) / 0x100) (a - 0x20000000)
  else if 0x40000000 ≤ a ∧ a < 0x80000000 then .station
  else if 0x80000000 ≤ a ∧ a < 0x100000000 then
    let d := dwin * 2 ^ 31 + (a - 0x80000000)
    if d < usable then .dram d else .hole
  else .hole

/-- The region of address `a` as steward `k` sees it. -/
def region (s : State) (k : Fin 8) (a : Word) : Region := regionOf (dramUsable s) (stw s k).dwin.toNat a.toNat

/-- The 256-bit value of 32 bytes, lowest address first: lane 0 is the low nibble of the first (R72). -/
def vecOfBytes (bs : List Byte) : Vec := BitVec.ofNat 256 (leNat bs)
def bytesOfVec (v : Vec) : List Byte := leBytes 32 v.toNat

/-- The 32-byte chunk of mirrored scratch that holds shared offset `off`, journaled after a store (R61, R338). -/
def journalScratch (s : State) (off : Nat) : State :=
  let i := off - 0x1FFA00
  journal s (.scratch (Fin.ofNat 8 (i / 0x100)) (i % 0x100 / 32)
    (vecOfBytes (memBytes s.shared (0x1FFA00 + i / 32 * 32) 32)))

end Sys2Proof.Machine
end

