-- ==== Sys2Proof/Machine/DramQueue.lean ====
section
/-! DEFINITION. The scheduling of sector requests in a DRAM channel (R432, R437, R438): the fabric arbiter, the read and
the write queue, open rows, and the write batch. The requests that wait are those of the stewards' DRAM window, whose
loads end with a command of their own; every other access leaves the queues within its command (log entry 122). Data
stand in memory at once: no read is ordered before a write to its sector (R438). -/
namespace Sys2Proof.Machine
open Sys2Proof

/-! ## Where a sector lies (R432) -/

/-- The byte address `c` within the channel. -/
def chanByte (a : Nat) : Nat := (a / 960 / 4) * 1024 + a % 960
/-- Row bits RB of the fitted density (R429). -/
def rowBits (s : State) : Nat := 16 + fld s F.DRAM_CFG_DENSITY
/-- The bank of a channel byte, its rank in bit 4. -/
def bankAt (rb c : Nat) : Nat := ((c >>> 12) ^^^ (c >>> 16)) % 16 + 16 * ((c >>> (16 + rb)) % 2)
def rowAt (rb c : Nat) : Nat := (c >>> 16) % 2 ^ rb

/-- The request of steward `k` for the sector that holds `a`; a steward's accesses travel on the fabric's normal level
(DESIGN CHOICE, log entry 122). -/
def stewardReq (s : State) (k : Fin 8) (write : Bool) (a : Nat) : SectorReq :=
  let c := chanByte a
  { who := k, write := write, level := 2, urgent := false, sector := c / 64, bank := bankAt (rowBits s) c, row := rowAt (rowBits s) c }

/-! ## Into the queues (R437, R41) -/

/-- The place of a request at the arbiter: by level, and urgent pods before the other line-critical ones (R258). -/
def SectorReq.rank (r : SectorReq) : Nat := 2 * r.level + if r.urgent then 0 else 1

/-- Each queue holds 64 requests. -/
def DramChan.room (c : DramChan) (r : SectorReq) : Bool :=
  if r.write then decide (c.writes.length < 64) else decide (c.reads.length < 64)

/-- The arbiter grants one request: of those whose queue has room the first of the best rank. -/
def DramChan.grant (c : DramChan) : Option DramChan :=
  let able := c.arb.filter c.room
  let best := able.foldl (fun m r => Nat.min m r.rank) 8
  (able.find? (fun r => r.rank == best)).map (fun r =>
    if r.write then { c with arb := c.arb.erase r, writes := c.writes ++ [r] }
    else { c with arb := c.arb.erase r, reads := c.reads ++ [r] })

/-- The arbiter grants while a queue has room. -/
def DramChan.fillQueues : Nat → DramChan → DramChan
  | 0, c => c
  | n + 1, c => match c.grant with
    | some c' => fillQueues n c'
    | none => c

/-! ## Out of the queues (R437, R438) -/

/-- The open row of a bank and the hits it has served in a row. -/
def DramChan.rowOf (c : DramChan) (bank : Nat) : Option (Nat × Nat) := (c.rows.find? (fun x => x.1 == bank)).map (fun x => x.2)

/-- A read whose sector matches a queued write waits for it (R438). -/
def DramChan.matched (c : DramChan) (r : SectorReq) : Bool := c.writes.any (fun w => w.sector == r.sector)

/-- Requests before `r` in the queue. -/
def older (q : List SectorReq) (r : SectorReq) : List SectorReq := q.takeWhile (fun x => x != r)

/-- The request goes to an open row, which has not served 16 hits while an older one waits for another row of its bank. -/
def DramChan.hits (c : DramChan) (q : List SectorReq) (r : SectorReq) : Bool :=
  match c.rowOf r.bank with
  | some (row, n) => row == r.row && !(decide (16 ≤ n) && (older q r).any (fun x => x.bank == r.bank && x.row != r.row))
  | none => false

/-- The request that a queue issues: of its highest level an open row's, else the oldest. -/
def DramChan.pick (c : DramChan) (q : List SectorReq) : Option SectorReq :=
  let best := q.foldl (fun m r => Nat.min m r.level) 4
  let top := q.filter (fun r => r.level == best)
  match top.find? (c.hits q) with
  | some r => some r
  | none => top.head?

/-- A write batch issues: it starts at 48 entries, when no read waits, or at once for a read that matches a queued write,
and goes on down to 16 entries. -/
def DramChan.batchOn (c : DramChan) : Bool :=
  c.reads.any c.matched
    || (decide (16 < c.writes.length) && (c.batch || decide (48 ≤ c.writes.length) || c.reads.isEmpty))

/-- A request issues: its row is open after it. -/
def DramChan.take (c : DramChan) (r : SectorReq) : DramChan :=
  let n := match c.rowOf r.bank with
    | some (row, n) => if row = r.row then n + 1 else 0
    | none => 0
  { c with
    reads := if r.write then c.reads else c.reads.erase r
    writes := if r.write then c.writes.erase r else c.writes
    rows := (r.bank, r.row, n) :: c.rows.filter (fun x => x.1 != r.bank) }

/-- The channel issues one request, or has none to issue. -/
def DramChan.issue (c : DramChan) : Option DramChan :=
  let c := c.fillQueues 64
  let b := c.batchOn
  let c := { c with batch := b }
  (c.pick (if b then c.writes else c.reads)).map c.take

/-- Issue while `go` holds. -/
def DramChan.serve (go : DramChan → Bool) : Nat → DramChan → DramChan
  | 0, c => c
  | n + 1, c => if go c then (match c.issue with
      | some c' => serve go n c'
      | none => c) else c

/-- Writes issue as long as their batch does. -/
def DramChan.settle (c : DramChan) : DramChan := (c.fillQueues 64).serve DramChan.batchOn 64

/-- A read of steward `k` has not issued. -/
def DramChan.waits (c : DramChan) (k : Fin 8) : Bool := (c.arb ++ c.reads).any (fun r => r.who == k && !r.write)

/-- The channel issues in its order until the reads of steward `k` have. -/
def DramChan.serveRead (c : DramChan) (k : Fin 8) : DramChan := (c.serve (fun c => c.waits k) 200).settle

/-! ## The channels -/

def modChan (s : State) (ch : Fin 4) (f : DramChan → DramChan) : State :=
  { s with drm := { s.drm with chans := s.drm.chans.set ch (f s.drm.chans[ch]) } }

/-- The channel of an address as an index. -/
def chanIx (a : Nat) : Fin 4 := Fin.ofNat 4 (dramChannel a)

/-- A request of a steward reaches its channel; none is admitted while a rate change runs (R444). -/
def askDram (s : State) (k : Fin 8) (write : Bool) (a : Nat) : State :=
  let r := stewardReq s k write a
  modChan s (chanIx a) (fun c =>
    let c := { c with arb := c.arb ++ [r] }
    if fldB s F.DRAM_STAT_FREQ_BUSY then c else c.settle)

/-- The queues are drained and every bank is precharged (R444 step 2). -/
def drainChan (c : DramChan) : DramChan := { DramChan.init with arb := c.arb }
def drainDram (s : State) : State := (List.finRange 4).foldl (fun s ch => modChan s ch drainChan) s

/-- Requests are admitted again (R444 step 6). -/
def admitDram (s : State) : State := (List.finRange 4).foldl (fun s ch => modChan s ch DramChan.settle) s

end Sys2Proof.Machine
end

