-- ==== Sys2Proof/Machine/Operands.lean ====
section
/-! DEFINITION. The operand forms of the steward instructions: register operands, effective addresses, branch
targets, and what ends an instruction (completion, or a precise fault, R87). -/
namespace Sys2Proof.Machine
open Sys2Proof

/-- What a command's meaning answers. -/
abbrev Res := Host.Outcome State Fault Refusal

/-! ## Registers -/

/-- G0 reads as 0. -/
def Steward.gr (w : Steward) (r : Fin 32) : Word := if r = 0 then 0 else w.g[r]
/-- Writes to G0 are discarded. -/
def Steward.setG (w : Steward) (r : Fin 32) (x : Word) : Steward := if r = 0 then w else { w with g := w.g.set r x }
def Steward.vr (w : Steward) (r : Fin 16) : Vec := w.v[r]
def Steward.setV (w : Steward) (r : Fin 16) (x : Vec) : Steward := { w with v := w.v.set r x }
/-- P0 reads as all ones. -/
def Steward.pr (w : Steward) (r : Fin 8) : Pred := if r = 0 then BitVec.allOnes 64 else w.p[r]
/-- Writes to P0 are discarded. -/
def Steward.setP (w : Steward) (r : Fin 8) (x : Pred) : Steward := if r = 0 then w else { w with p := w.p.set r x }

/-! ## Completion and faults -/

/-- The instruction at the PC completes and the next one follows; SC_INSTRET counts it (R78). -/
def Steward.fin (w : Steward) : Steward := { w with pc := w.pc + 4, instret := w.instret + 1 }
/-- The instruction completes with a jump to `t`. -/
def Steward.finTo (w : Steward) (t : Word) : Steward := { w with pc := t, instret := w.instret + 1 }

/-- A precise fault (R87): the steward halts with SC_FAULT, SC_EPC and SC_FADDR written, steward-fault is raised
with the code and SC_EPC; on steward 6 or 7 the active hands over and a standby withdraws (R89). -/
def stewardFault (s : State) (k : Fin 8) (code kind : Nat) (faddr : Word) : State :=
  let epc := (stw s k).pc
  let s := modStw s k (fun w =>
    { w with run := .halted, fault := BitVec.ofNat 32 (code + 256 * kind), epc := epc, faddr := faddr })
  let s := alarm s (3 + k.val) [BitVec.ofNat 32 code, epc]
  if isResident k then faultHandover s 7 else s

/-- A fault to which no data address belongs leaves a value in SC_FADDR that no rule gives: a free value. -/
def stewardFaultFree (s : State) (k : Fin 8) (code : Nat) : State :=
  stewardFault (useFree s) k code 0 (Config.freeWord s.fresh)

def faultIllegal (s : State) (k : Fin 8) : State := stewardFaultFree s k 0x01
def faultMisaligned (s : State) (k : Fin 8) (a : Word) : State := stewardFault s k 0x02 0 a
def faultAccess (s : State) (k : Fin 8) (kind : Nat) (a : Word) : State := stewardFault s k 0x03 kind a
def faultStation (s : State) (k : Fin 8) (kind : Nat) (a : Word) : State := stewardFault s k 0x04 kind a

/-- A parity error in local data memory (R87). -/
def faultParity (s : State) (k : Fin 8) (a : Word) : State := stewardFault s k 0x08 0 a

/-- The fault kinds of SC_FAULT.KIND (R78). -/
def kFetch : Nat := 0
def kLoad : Nat := 1
def kStore : Nat := 2
def kAmo : Nat := 3
def kVLoad : Nat := 4
def kVStore : Nat := 5
def kLq : Nat := 6

/-- Instruction memory ends at 0x1_0000: a fetch beyond it is an ACCESS fault of kind 0 (R63). -/
def inImem (pc : Word) : Bool := decide (pc.toNat < 0x10000)

/-- Steward `k` executes an instruction: only while it runs, and only from instruction memory. -/
def onSteward (s : State) (k : Fin 8) (act : State → State) : Res :=
  if (stw s k).run = .running then
    if inImem (stw s k).pc then .next (act s) else .next (faultAccess s k kFetch (stw s k).pc)
  else .next s

/-! ## Addresses and targets -/

/-- `imm(a)`: the effective address of loads, stores and station accesses (R67). -/
def effAddr (w : Steward) (a : Fin 32) (imm : BitVec 16) : Word := w.gr a + imm.signExtend 32

/-- The address of the station of an `SSQ` or `VSSQ`: the register itself (R73). -/
def regAddr (w : Steward) (a : Fin 32) : Word := w.gr a

/-- A branch target: words from the branch itself (R67). -/
def branchTarget {n : Nat} (w : Steward) (off : BitVec n) : Word := w.pc + off.signExtend 32 * 4

/-- A taken branch or jump: outside instruction memory it is an ACCESS fault at the target, and SC_EPC holds the
branch's address (R68). `link` writes the link register when the jump completes. -/
def jumpTo (s : State) (k : Fin 8) (t : Word) (link : Steward → Steward) : State :=
  if inImem t then modStw s k (fun w => (link w).finTo t) else faultAccess s k kFetch t

/-- A register result. -/
def finG (s : State) (k : Fin 8) (d : Fin 32) (x : Word) : State := modStw s k (fun w => (w.setG d x).fin)
def finV (s : State) (k : Fin 8) (d : Fin 16) (x : Vec) : State := modStw s k (fun w => (w.setV d x).fin)
def finP (s : State) (k : Fin 8) (d : Fin 8) (x : Pred) : State := modStw s k (fun w => (w.setP d x).fin)

/-- A T-format instruction over two registers. -/
def opT (s : State) (k : Fin 8) (d a b : Fin 32) (f : Word → Word → Word) : Res :=
  onSteward s k (fun s => finG s k d (f ((stw s k).gr a) ((stw s k).gr b)))

/-- An I-format instruction over a register and a constant. -/
def opI (s : State) (k : Fin 8) (d a : Fin 32) (f : Word → Word) : Res :=
  onSteward s k (fun s => finG s k d (f ((stw s k).gr a)))

/-- A conditional branch. -/
def opB (s : State) (k : Fin 8) (c : Steward → Bool) (off : BitVec 16) : Res :=
  onSteward s k (fun s =>
    if c (stw s k) then jumpTo s k (branchTarget (stw s k) off) id else modStw s k Steward.fin)

/-! ## Memory operands -/

/-- A load of `n` bytes: aligned, in a region that permits loads; local and shared data return at once, DRAM-window
data later (R63, R64, R68). Local data whose parity check fails (`parity`) fault (R87). No rule gives the order of the
checks; alignment comes first (DESIGN CHOICE, log entry 95). -/
def loadFrom (s : State) (k : Fin 8) (addr : Word) (n kind : Nat) (parity : Bool) (d : Fin 32) (lkind : Nat)
    (wb : State → Nat → State) : State :=
  if addr.toNat % n ≠ 0 then faultMisaligned s k addr
  else match region s k addr with
    | .dmem o => if parity then faultParity s k addr else wb s (memNat (stw s k).dmem o n)
    | .shared o => wb s (memNat s.shared o n)
    | .scratch _ o => wb s (memNat s.shared o n)
    | .dram a => modStw (askDram s k false a) k (fun w => { w with run := .loading (n == 32) d lkind a })
    | _ => faultAccess s k kind addr

/-- A store of bytes: aligned, in a region that permits stores; mirrored scratch only to its owner (R63, R68). -/
def storeTo (s : State) (k : Fin 8) (addr : Word) (n kind : Nat) (bs : List Byte) : State :=
  if addr.toNat % n ≠ 0 then faultMisaligned s k addr
  else match region s k addr with
    | .dmem o => modStw s k (fun w => { w with dmem := memStore w.dmem o bs }.fin)
    | .shared o => modStw { s with shared := memStore s.shared o bs } k Steward.fin
    | .scratch owner o =>
      if owner = k.val then
        modStw (journalScratch { s with shared := memStore s.shared o bs } o) k Steward.fin
      else faultAccess s k kind addr
    | .dram a => modStw (askDram (dramWrite s a bs) k true a) k Steward.fin
    | _ => faultAccess s k kind addr

end Sys2Proof.Machine
end

