-- ==== Sys2Proof/Machine/Round.lean ====
section
/-! DEFINITION. The Round's ports: framing, go-back-N retry, wrapping, address match and forwarding (R96 to R111),
and how envelopes, receipts and mailbag envelopes leave (R114, R115, R57). -/
namespace Sys2Proof.Machine
open Sys2Proof

/-! ## Envelopes as bytes (R107) -/

def bit (b : Bool) (i : Nat) : Nat := if b then 2 ^ i else 0

/-- The 16 header bytes of an envelope with `len` payload bytes (R107). -/
def envBytes (e : Env) (len : Nat) : List Byte :=
  [e.dest, e.src, BitVec.ofNat 8 (e.cls.toNat + 16 * e.stream.toNat), e.kind] ++ leBytes 4 e.seq.toNat
    ++ leBytes 2 (len % 2 ^ 13)
    ++ [e.hops, BitVec.ofNat 8 (bit e.retx 0 + bit e.wrapped 1 + bit e.first 2 + bit e.last 3 + bit e.bad 4)]
    ++ leBytes 4 e.aux.toNat

/-- An address that no node takes: the reserved and source-only values 0x60 to 0x7F (R110). -/
def deadAddress (d : Byte) : Bool := decide (0x60 ≤ d.toNat) && decide (d.toNat ≤ 0x7F)

/-- The address this device sends with: 0x7F when it holds none (R112). -/
def ownSrc (s : State) : Byte := s.therm.devAddr.getD 0x7F

/-! ## Ports -/

def port (s : State) : Link → Port
  | .east => s.round.east
  | .west => s.round.west
  | .twin => s.twin.port

def setPort (s : State) (l : Link) (p : Port) : State :=
  match l with
  | .east => { s with round := { s.round with east := p } }
  | .west => { s with round := { s.round with west := p } }
  | .twin => { s with twin := { s.twin with port := p } }

def Port.hop (p : Port) : Space → HopSpace
  | .ordinary => p.ord
  | .express => p.exp

def Port.setHop (p : Port) (sp : Space) (h : HopSpace) : Port :=
  match sp with
  | .ordinary => { p with ord := h }
  | .express => { p with exp := h }

/-- The link of a Round port. -/
def roundLink (west : Bool) : Link := if west then .west else .east

/-- The index of a Round port in the ROUND block; the twin link has no counters there (R529). -/
def linkIdx : Link → Option Nat
  | .east => some 0
  | .west => some 1
  | .twin => none

/-- Bytes a frame takes in a replay buffer: header and payload; no rule counts the padding or the control blocks
(DESIGN CHOICE, log entry 100). -/
def TxFrame.size (f : TxFrame) : Nat := 16 + f.payload.length

/-- The transmitter may send a new frame in this space: the replay buffer has room and fewer than 2,047 frames are
outstanding (R101). -/
def HopSpace.room (h : HopSpace) (sp : Space) (size : Nat) : Bool :=
  decide ((h.replay.map TxFrame.size).sum + size ≤ (match sp with | .ordinary => 65536 | .express => 8192))
    && decide (h.replay.length < 2047)

/-- An express alarm of the mailbag (R114). -/
def TxFrame.isAlarm (f : TxFrame) : Bool := f.env.kind == 0x90 && f.env.cls == 0

/-- A bulk frame of the twin link (R337). -/
def TxFrame.isBulk (f : TxFrame) : Bool := f.env.cls == 2

/-- The frame that leaves next. Frames leave first in, first out, but for two rules: when three express frames have
left while an express alarm waits, the alarm goes next (R114); on the twin link no bulk frame goes while a hamper waits
(R337). -/
def HopSpace.nextOut (h : HopSpace) (twin : Bool) : Option TxFrame :=
  if 3 ≤ h.share then (h.waiting.find? TxFrame.isAlarm) <|> h.waiting.head?
  else if twin then (h.waiting.find? (fun f => !f.isBulk)) <|> h.waiting.head?
  else h.waiting.head?

/-- Frame `f` of the waiting ones leaves with the next LSEQ (R101). -/
def HopSpace.sendOne (h : HopSpace) (f : TxFrame) : HopSpace :=
  let rest := h.waiting.erase f
  { h with
    next := h.next + 1, replay := h.replay ++ [{ f with lseq := h.next }], waiting := rest,
    share := if !f.isAlarm && f.env.cls == 0 && rest.any TxFrame.isAlarm then h.share + 1 else 0 }

/-- Send at most `n` of the waiting frames, as far as there is room (R101). -/
def HopSpace.pump (sp : Space) (twin : Bool) : Nat → HopSpace → HopSpace
  | 0, h => h
  | n + 1, h =>
    match h.nextOut twin with
    | none => h
    | some f => if h.room sp f.size then HopSpace.pump sp twin n (h.sendOne f) else h

/-- Send what waits, while the link is up. -/
def pumpPort (s : State) (l : Link) : State :=
  let p := port s l
  if p.up then
    setPort s l { p with ord := p.ord.pump .ordinary (l == .twin) p.ord.waiting.length,
                         exp := p.exp.pump .express false p.exp.waiting.length }
  else s

/-- The space of an envelope: class express travels in the express space (R98). -/
def envSpace (e : Env) : Space := if e.cls = 0 then .express else .ordinary

/-- Queue a frame at a port and send what can be sent. -/
def queueFrame (s : State) (l : Link) (sp : Space) (e : Env) (pl : List Byte) : State :=
  let p := port s l
  let h := p.hop sp
  pumpPort (setPort s l (p.setHop sp { h with waiting := h.waiting ++ [⟨0, e, pl⟩] })) l

/-- Send an envelope out of a Round port; a wrapped port's frames leave by the other with WRAPPED set (R104). -/
def sendEnv (s : State) (west : Bool) (e : Env) (pl : List Byte) : State :=
  if (port s (roundLink west)).wrapped then
    queueFrame s (roundLink (!west)) (envSpace e) { e with wrapped := true } pl
  else queueFrame s (roundLink west) (envSpace e) e pl

/-! ## Retry (R101) -/

/-- Older than expected, modulo 4,096. -/
def lseqOlder (x expected : BitVec 12) : Bool := decide (2048 ≤ (x - expected).toNat)

/-- Release the frames up to and including `a`, when it acknowledges one. -/
def HopSpace.ack (h : HopSpace) (a : BitVec 12) : HopSpace :=
  if h.replay.any (fun f => f.lseq == a) then
    { h with replay := (h.replay.dropWhile (fun f => f.lseq != a)).drop 1, resends := 0 }
  else h

/-- Resend from frame `e` on: the frames from it count as resent (R101, R529). -/
def resendFrom (s : State) (l : Link) (sp : Space) (e : BitVec 12) : State :=
  let p := port s l
  let h := p.hop sp
  let n := (h.replay.dropWhile (fun f => f.lseq != e)).length
  if n = 0 then s
  else
    let s := setPort s l (p.setHop sp { h with resends := h.resends + 1 })
    match linkIdx l with
    | some i => addFld s (F.ROUND_RND_PORT_RESENDS i) n
    | none => s

/-- A frame discarded on receipt is counted (R529). -/
def countDiscard (s : State) (l : Link) : State :=
  match linkIdx l with
  | some i => incFld s (F.ROUND_RND_PORT_DISCARDS i)
  | none => s

/-- Ask for the expected frame once; NAK_REPEAT repeats it (R101). -/
def sendNak (s : State) (l : Link) (sp : Space) : State :=
  let p := port s l
  let h := p.hop sp
  if h.missing then s
  else emit (setPort s l (p.setHop sp { h with missing := true })) (.nak l sp h.expected)

def execAcknowledgement (l : Link) (ackO ackX : BitVec 12) (s : State) : Res :=
  let p := port s l
  .next (pumpPort (setPort s l { p with ord := p.ord.ack ackO, exp := p.exp.ack ackX }) l)

def execNakRepeat (l : Link) (sp : Space) (s : State) : Res :=
  let h := (port s l).hop sp
  .next (if h.missing then emit s (.nak l sp h.expected) else s)

/-! ## Link down, trained, unwrapped (R102 to R105) -/

/-- Frames that move to the other ring: replay buffer first, in LSEQ order, then what waited. -/
def HopSpace.all (h : HopSpace) : List TxFrame := h.replay ++ h.waiting

/-- WRAP (R104): the frames of the dead port are turned onto the other ring and port-down is raised. -/
def wrapPort (s : State) (west : Bool) : State :=
  let l := roundLink west
  let p := port s l
  let moved := p.exp.all ++ p.ord.all
  let s := setPort s l { p with
    up := false, wrapped := true, exp := { p.exp with replay := [], waiting := [] },
    ord := { p.ord with replay := [], waiting := [] } }
  let s := moved.foldl
    (fun s f => queueFrame s (roundLink (!west)) (envSpace f.env) { f.env with wrapped := true } f.payload) s
  alarm s (13 + (if west then 1 else 0)) []

/-- A link goes down; a Round port that is down already stays as it is.  A twin link that is down sends nothing more,
and its postcard path is silent (R337). -/
def linkGoesDown (s : State) (l : Link) : State :=
  match l with
  | .twin =>
    let s := setPort s .twin { port s .twin with up := false }
    { s with twin := { s.twin with pcLive := false } }
  | .east => if (port s .east).up then wrapPort s false else s
  | .west => if (port s .west).up then wrapPort s true else s

def execLinkDown (l : Link) (s : State) : Res := .next (linkGoesDown s l)

/-- The link asks for a resend from frame `e`, or its retry timer does: after 8 resends without progress it is down
(R102). -/
def resendOrDown (s : State) (l : Link) (sp : Space) (e : BitVec 12) : State :=
  if 8 ≤ ((port s l).hop sp).resends then linkGoesDown s l else resendFrom s l sp e

def execNak (l : Link) (sp : Space) (lseq : BitVec 12) (s : State) : Res := .next (resendOrDown s l sp lseq)

/-- The retry timer: an acknowledgement that arrived wins and counts (R101, R367). -/
def execRetryTimeout (l : Link) (sp : Space) (s : State) : Res :=
  match ((port s l).hop sp).replay with
  | [] => .next (lateWin s)
  | f :: _ => .next (resendOrDown s l sp f.lseq)

/-- LSEQ starts at 0 when the link trains (R101); what was not acknowledged goes first. -/
def HopSpace.train (h : HopSpace) : HopSpace := { HopSpace.init with waiting := h.all }

def trainPort (s : State) (l : Link) : State :=
  let p := port s l
  pumpPort (setPort s l { p with up := true, ord := p.ord.train, exp := p.exp.train }) l

/-- The lane group of a link (R471): Round East 0, Round West 1, twin 3; the feed is 2. -/
def linkGroup : Link → Nat
  | .east => 0
  | .west => 1
  | .twin => 3
def groupIsAligned (s : State) (g : Nat) : Bool := s.lanes.aligned.getLsbD g
def setAligned (s : State) (g : Nat) (b : Bool) : State :=
  { s with lanes := { s.lanes with
      aligned := if b then s.lanes.aligned ||| (1#4 <<< g) else s.lanes.aligned &&& ~~~ (1#4 <<< g) } }

/-- The link trains; a trained link's lane group is aligned (R471).  Lanes are in service from start-up on (R516), not
in reset. -/
def execLinkTrained (l : Link) (s : State) : Res :=
  if s.boot.phase = .ready ∨ s.boot.phase = .starting then .next (trainPort (setAligned s (linkGroup l) true) l) else .next s

/-- After 100 ms without a discarded frame a trained port unwraps (R105). -/
def execUnwrap (west : Bool) (s : State) : Res :=
  let l := roundLink west
  .next (if (port s l).up then setPort s l { port s l with wrapped := false } else s)

/-! ## Taking and forwarding (R103, R109 to R112) -/

/-- Where an accepted envelope goes. -/
inductive Fate where
  | take
  | forward (dest : Byte)
  | both                        -- a broadcast: taken and forwarded
  | drop
deriving DecidableEq, Repr

/-- The pair numbers of the twins differ: no pair address is taken (R112). -/
def pairMismatch (s : State) : Bool :=
  match s.twin.peer, s.therm.pair with
  | some c, some p => c.pair != p
  | some c, none => c.pair != 0xFF
  | none, _ => false

/-- The pair-mismatch alarm, where the mismatch is new (R112). -/
def alarmMismatch (was : Bool) (s : State) : State := if pairMismatch s && !was then alarm s 2 [] else s

/-- The device takes its pair address: active, or without a twin (R111), and not stopped for a hand-over (R353). -/
def takesPair (s : State) : Bool :=
  (isActive s || solo s) && s.twin.role != .none && !pairMismatch s && !s.tho.stopped

/-- The destination check (R109 to R112). A broadcast is taken only when its SEQ is later than the last from its
source, and not while busy (R128).  R110 leaves open what a node does with the reserved addresses 0xC0 to 0xFD, with DEST
0x7F, and with a broadcast of another class than ring management: the model forwards the first, discards the second, and
forwards the third without taking it (DESIGN CHOICE, log entry 101). -/
def fate (s : State) (e : Env) : Fate :=
  if e.dest = 0xFF then
    if e.src = ownSrc s ∧ s.therm.devAddr.isSome then .drop
    else
      let later := match s.round.bcast.find? (fun b => b.1 == e.src) with
        | some b => decide (0 < (e.seq - b.2).toInt)
        | none => true
      if later && s.round.busy.isNone && e.cls == 3 then .both else .forward e.dest
  else if some e.dest = s.therm.devAddr then .take
  else if 0x40 ≤ e.dest.toNat ∧ e.dest.toNat ≤ 0x5F ∧ s.therm.pair = some (e.dest - 0x40) ∧ takesPair s then .take
  else if 0x80 ≤ e.dest.toNat ∧ e.dest.toNat ≤ 0xBF then
    if e.dest = 0x80 then
      if s.therm.devAddr.isNone ∧ e.cls ≠ 3 then .drop else .take
    else .forward (e.dest - 1)
  else if deadAddress e.dest then .drop
  else .forward e.dest

/-- A forwarder adds its residence, which no rule fixes, and its ingress link delay to CORR of a SYNC (R103, R130). -/
def addCorr (s : State) (west : Bool) (pl : List Byte) : List Byte :=
  let res := (Config.freeWord s.fresh).toNat
  let delay := if west then s.clk.delayWest else s.clk.delayEast
  let corr := (leNat ((pl.drop 8).take 8) : Int) + res + delay
  pl.take 8 ++ leBytes 8 (corr % 2 ^ 64).toNat ++ pl.drop 16

/-- Forward an envelope onward in its direction of travel; HOPS that reach 0 discard it (R109). -/
def forwardEnv (s : State) (e : Env) (dest : Byte) (pl : List Byte) : State :=
  if e.hops.toNat ≤ 1 then s
  else
    let pl' := if e.kind = 0x48 then addCorr s e.west pl else pl
    let s := if e.kind = 0x48 then useFree s else s
    sendEnv s (!e.west) { e with dest := dest, hops := e.hops - 1 } pl'

/-- Note the SEQ of a broadcast taken (R109). -/
def noteBroadcast (s : State) (e : Env) : State :=
  { s with round := { s.round with
      bcast := (e.src, e.seq) :: s.round.bcast.filter (fun b => b.1 != e.src) } }

/-- Kinds that are no letters: RECEIPT, PARCEL_OUT and MAILBAG (R107). -/
def answerKind (k : Byte) : Bool := k == 0x80 || k == 0x81 || k == 0x90

/-- An envelope taken waits for its execution; one that is no letter has no effect (log entry 33). -/
def takeEnv (s : State) (e : Env) (pl : List Byte) : State :=
  if answerKind e.kind then s else { s with round := { s.round with inbox := s.round.inbox ++ [(e, pl)] } }

/-- An envelope accepted from a hop (R103, R111). -/
def deliver (s : State) (e : Env) (pl : List Byte) : State :=
  let s := if e.src = 0xFE then { s with round := { s.round with hostWest := e.west } } else s
  match fate s e with
  | .take => takeEnv s e pl
  | .both => forwardEnv (takeEnv (noteBroadcast s e) e pl) e e.dest pl
  | .forward d => forwardEnv s e d pl
  | .drop => s

/-- The stream that a letter belongs to: pair or device address, source, stream (R119). -/
def isStreamOf (e : Env) (x : Stream) : Bool :=
  x.pair == (decide (0x40 ≤ e.dest.toNat) && decide (e.dest.toNat ≤ 0x5F)) && x.src == e.src && x.stream == e.stream

/-- ROUND_RECORD_PARITY (R364): the stream state that a letter needs fails its parity check.  For a pair address on an
active with an eligible twin a hand-over starts and the letter is left for the new active; else the stream closes. -/
def recordParity (s : State) (e : Env) (pl : List Byte) : State :=
  let s := alarm s 29 []
  let pair := decide (0x40 ≤ e.dest.toNat) && decide (e.dest.toNat ≤ 0x5F)
  if pair && isActive s && twinEligible s then startHandover s
  else
    let s := { s with round := { s.round with
      streams := s.round.streams.map (fun x => if isStreamOf e x then { x with isOpen := false } else x) } }
    let s := if pair then journal s (.round e.src e.stream false 0 none) else s
    takeEnv s e pl

/-- A frame's envelope goes on, its stream's state read with or without a parity error. -/
def deliverRead (s : State) (e : Env) (pl : List Byte) (parity : Bool) : State :=
  if parity && fate s e == .take && e.cls != 3 && s.round.busy.isNone then
    recordParity (if e.src = 0xFE then { s with round := { s.round with hostWest := e.west } } else s) e pl
  else deliver s e pl

/-- The frame's checks: control blocks, length in data blocks, CRC (R98, R101, R108). -/
def frameGood (f : Frame) : Bool :=
  f.okBlocks && decide (8 * f.blocks = 16 + f.payload.length + f.pad.toNat)
    && f.crc == crc32c (envBytes f.env f.payload.length ++ f.payload)

/-- A frame arrives on a hop (R101, R103). -/
def execRoundFrame (l : Link) (f : Frame) (parity : Bool) (s : State) : Res :=
  let p := port s l
  let h := p.hop f.space
  if !p.up then .next s
  else if !groupIsAligned s (linkGroup l) then .next (countDiscard s l)      -- R474: no group alignment
  else if !frameGood f then .next (sendNak (countDiscard s l) l f.space)
  else if f.lseq = h.expected then
    let s := setPort s l (p.setHop f.space { h with expected := h.expected + 1, missing := false })
    let s := emit s (.ack l f.space f.lseq)
    match l with
    | .twin => .next s
    | .east => .next (deliverRead s { f.env with west := false } f.payload parity)
    | .west => .next (deliverRead s { f.env with west := true } f.payload parity)
  else if lseqOlder f.lseq h.expected then .next (emit (countDiscard s l) (.ack l f.space (h.expected - 1)))
  else .next (sendNak (countDiscard s l) l f.space)

/-! ## Receipts and mailbag envelopes (R114, R115, R121, R57) -/

/-- The class of a receipt: its letter's, a bulk letter's as normal (R114). -/
def receiptClass (c : BitVec 2) : BitVec 2 := if c = 2 then 1 else c

/-- The envelope of a receipt for letter `e` (R121).  Its SRC is the letter's DEST, also where the device holds no address
and R112 says that it sends with SRC 0x7F: R121 is the rule for receipts (DEDUCED, log entry 102). -/
def receiptEnv (s : State) (e : Env) (kind : Byte) (cls : BitVec 2) (aux : Word) : Env :=
  { west := e.west, dest := e.src, src := e.dest, cls := cls, stream := e.stream, kind := kind, seq := e.seq,
    hops := 130, retx := false, wrapped := false, first := true, last := true, bad := false,
    aux := if kind = 0x80 then (ownSrc s).setWidth 32 else aux }

/-- Letters to a pair address (R110). -/
def toPair (e : Env) : Bool := decide (0x40 ≤ e.dest.toNat) && decide (e.dest.toNat ≤ 0x5F)

/-- The 16 bytes before the receipt data (R121). -/
def receiptHead (s : State) (e : Env) (code : Byte) (rep : Bool) (detail : BitVec 16) (aux line : Word) : List Byte :=
  [code, BitVec.ofNat 8 (bit rep 0 + bit (toPair e) 1)] ++ leBytes 2 detail.toNat
    ++ leBytes 4 (pairEpoch s).toNat ++ leBytes 4 aux.toNat ++ leBytes 4 line.toNat

/-- A receipt that may leave at once. -/
def sendReceiptNow (s : State) (e : Env) (pl : List Byte) : State :=
  sendEnv s e.west (receiptEnv s e 0x80 (receiptClass e.cls) 0) pl

/-- Mirror-before-release (R57, R342): while the active's twin is joined, an outcome waits for the acknowledgement of
the hamper that is filling; that of a letter with bulk data (`bulk`) waits for the hamper that names it once the bulk
frames sent so far are acknowledged.  Otherwise it leaves. -/
def holdEnv (s : State) (west : Bool) (e : Env) (pl : List Byte) (bulk : Bool) : State :=
  if isActive s && s.twin.joined then
    { s with round := { s.round with
        held := s.round.held ++ [⟨s.twin.hseq + 1, s.twin.bseqOut, !bulk, west, e, pl⟩] } }
  else sendEnv s west e pl

def releaseReceipt (s : State) (e : Env) (pl : List Byte) (bulk : Bool) : State :=
  holdEnv s e.west (receiptEnv s e 0x80 (receiptClass e.cls) 0) pl bulk

/-- The bulk data of a held receipt's letter have been acknowledged: the next hamper names the letter (R338, R342). -/
def nameBulk (s : State) (h : HeldReceipt) : State × HeldReceipt :=
  if !h.named && decide ((h.bseq - s.twin.bseqAck).toInt ≤ 0) then
    (journal s (.bulk h.env.dest h.env.stream h.env.seq), { h with named := true, hseq := s.twin.hseq + 1 })
  else (s, h)

def nameBulks (s : State) : State :=
  let (s, hs) := s.round.held.foldl (fun (acc : State × List HeldReceipt) h =>
    let (s, h) := nameBulk acc.1 h
    (s, acc.2 ++ [h])) (s, [])
  { s with round := { s.round with held := hs } }

/-- Receipts whose hamper the standby has acknowledged leave, in order (R57: RECEIPT_RELEASE). -/
def releaseHeld (s : State) : State :=
  let ok := fun h : HeldReceipt => h.named && decide ((h.hseq - s.twin.acked).toInt ≤ 0)
  let go := s.round.held.takeWhile ok
  let s := { s with round := { s.round with held := s.round.held.dropWhile ok } }
  go.foldl (fun s h => sendEnv s h.west h.env h.payload) s

/-- Every held receipt leaves (R335, R342). -/
def releaseAll (s : State) : State :=
  let go := s.round.held
  let s := { s with round := { s.round with held := [] } }
  go.foldl (fun s h => sendEnv s h.west h.env h.payload) s

/-- A mailbag envelope of one record (R373) leaves by the port of the latest envelope from the host (R115). -/
def sendMail (s : State) (stream : Nat) (express : Bool) (mseq : Word) (bytes : List Byte) : State :=
  sendEnv s s.round.hostWest
    { west := s.round.hostWest, dest := 0xFE, src := ownSrc s, cls := if express then 0 else 1,
      stream := BitVec.ofNat 4 stream, kind := 0x90, seq := mseq, hops := 130, retx := false, wrapped := false,
      first := true, last := true, bad := false, aux := 1 } bytes

end Sys2Proof.Machine
end

