-- ==== Sys2Proof/Machine/Mailbag.lean ====
section
/-! DEFINITION. The mailbag: passes, closing of slots, records that leave, and the trace ring (R372 to R381). -/
namespace Sys2Proof.Machine
open Sys2Proof

/-- HOLD_MS and QUIET_S; 0 acts as 1 (R383). In ns. -/
def holdNs (s : State) : Nat := Nat.max 1 (fld s F.MBG_MB_CTL_HOLD_MS) * 1000000
def quietNs (s : State) : Nat := Nat.max 1 (fld s F.MBG_MB_CTL_QUIET_S) * 1000000000

/-- The coalescing of one slot at a pass (R376): an open slot without a queued record, whose COUNT has changed since
its last record at least HOLD_MS ago, queues one. -/
def passSlot (s : State) (n : Nat) : State :=
  let x := slotGet s n
  if x.isOpen && !slotQueued s n && !slotExpress n && x.count != x.sent && decide (x.sentAt + holdNs s ≤ extNs s) then
    queueRecord s n false none
  else s

/-- A slot without an occurrence for QUIET_S seconds closes (R377). -/
def quietSlot (s : State) (n : Nat) : State :=
  let x := slotGet s n
  if x.isOpen && decide (x.lastAt + quietNs s ≤ extNs s) then closeSlot s n else s

/-- A queued record leaves with COUNT and LAST_PM as they stand (R376). -/
def leaveRecord (s : State) (q : QRec) : State :=
  let x := q.final.getD (slotGet s q.slot)
  let s := sendMail s 1 false q.mseq
    (alarmBytes q.slot x (bit q.first 0 + bit q.final.isSome 1) q.mseq x.count x.last)
  match q.final with
  | some _ => s
  | none => setSlot s q.slot { slotGet s q.slot with sent := x.count, sentAt := extNs s }

/-- The express records leave: at once, ahead of every other record, also during a long operation (R378); nothing leaves
before readiness (R373). -/
def sendExpress (s : State) : State :=
  if s.boot.phase != .ready then s
  else s.mbx.express.foldl (fun s r => incFld (sendMail s 0 true r.mseq r.bytes) F.MBG_MB_EXPRESS)
    { s with mbx := { s.mbx with express := [] } }

/-- Express records leave first; the others wait for the end of a long operation (R128). -/
def drainMail (s : State) : State :=
  if s.boot.phase != .ready then s
  else
    let s := sendExpress s
    if s.round.busy.isSome then s
    else
      let qs := s.mbx.queue
      let s := { s with mbx := { s.mbx with queue := [] } }
      let s := qs.foldl leaveRecord s
      let ts := s.mbx.ring
      let s := { s with mbx := { s.mbx with ring := [] } }
      ts.foldl (fun s r => sendMail s r.stream false r.mseq r.bytes) s

/-- The slots that are not as after a reset. -/
def slotsInUse (s : State) : List Nat := s.mbx.slots.map (fun e => e.1)

/-- MAILBAG_PASS (R376, R377): coalesce, close quiet slots, and let the records leave. -/
def execMailbagPass (s : State) : Res :=
  if s.boot.phase != .ready then .next s
  else
    let s := (slotsInUse s).foldl passSlot s
    let s := (slotsInUse s).foldl quietSlot s
    .next (drainMail s)

/-- MB_CLEAR (R377, R383): one slot, or every slot when ALL is 1. -/
def mbClear (s : State) (v : Word) : State :=
  if fldOf F.MBG_MB_CLEAR_ALL v = 1 then closeAllSlots s else closeSlot s (fldOf F.MBG_MB_CLEAR_SLOT v)

def execMbClearSlot (v : Word) (s : State) : Res := .next (mbClear s (v &&& 0x7FFFFFFF))
def execMbClearAll (s : State) : Res := .next (mbClear s 0x80000000)

/-! ## Traces (R379, R380) -/

def traceRoom (s : State) (k : Fin 8) (n : Nat) : Bool :=
  decide (s.mbx.ring.length + n ≤ 12288)
    && decide ((s.mbx.ring.filter (fun r => r.stream == 8 + k.val)).length + n ≤ 4096)

/-- Place a record of steward `k`: its stream's next MSEQ and 24 bytes after the header. -/
def placeTrace (s : State) (k : Fin 8) (rtype : Byte) (body : List Byte) : State :=
  let (m, s) := takeMseq s (Fin.ofNat 16 (8 + k.val))
  let bytes := [rtype, 32, 0, 0] ++ leBytes 4 m.toNat ++ body
  { s with mbx := { s.mbx with ring := s.mbx.ring ++ [⟨8 + k.val, m, bytes⟩] } }

def traceBody (b : TraceBank) (tag : BitVec 16) : List Byte :=
  leBytes 4 b.pmLo.toNat ++ leBytes 4 b.pmHi.toNat ++ leBytes 2 tag.toNat ++ [0, 0]
    ++ leBytes 4 b.d0.toNat ++ leBytes 4 b.d1.toNat ++ leBytes 4 b.d2.toNat

def gapBody (b : TraceBank) : List Byte :=
  leBytes 4 b.dropped ++ leBytes 4 0 ++ leBytes 8 b.firstPm.toNat ++ leBytes 8 b.lastPm.toNat

/-- TR_GO (R379, R380): copy the bank into the ring, with a gap record ahead once records were dropped; without room
the record is dropped and counted. -/
def trGo (s : State) (k : Fin 8) (tag : BitVec 16) : State :=
  if (fld s F.MBG_MB_CTL_TRACE_EN).testBit k.val then
    let b := (stw s k).trace
    let need := if b.dropped = 0 then 1 else 2
    if traceRoom s k need then
      let s := if b.dropped = 0 then s else placeTrace s k 0x03 (gapBody b)
      let s := placeTrace s k 0x02 (traceBody b tag)
      modStw s k (fun w => { w with trace := { w.trace with dropped := 0, firstPm := 0, lastPm := 0 } })
    else
      let pm : BitVec 64 := (b.pmHi ++ b.pmLo)
      let s := incFld s F.MBG_MB_TR_DROP
      modStw s k (fun w => { w with trace := { w.trace with
        dropped := b.dropped + 1, firstPm := if b.dropped = 0 then pm else b.firstPm, lastPm := pm } })
  else s

def execTrGo (k : Fin 8) (tag : BitVec 16) (s : State) : Res := .next (trGo s k tag)

end Sys2Proof.Machine
end

