-- ==== Sys2Proof/Machine/Codec.lean ====
section
/-! DEFINITION. The Packer codec: fixed-mode blocks (R141, R154 to R161) and exact-mode streams (R162 to R164). -/
namespace Sys2Proof.Machine
open Sys2Proof

/-! ## Fixed mode -/

/-- The part of sample `n` in each mode (R154). -/
def blkPart (mode n : Nat) : Nat := if mode = 1 then n / 16 else if mode = 2 then n % 16 / 8 else 0
def blkParts (mode : Nat) : Nat := if mode = 0 then 1 else 2

/-- The code width W (R156). -/
def codeWidth (depth ratio parts : Nat) : Nat := (8 * blkBytes depth ratio - 6 - parts * depth) / 32

/-- Q8 (R157). -/
def q8 : List Nat := [1, 3, 5, 7, 9, 13, 17, 21, 25, 33, 41, 49, 65, 81, 97, 129]
/-- The step of index `k` (R157). -/
def stepOf (depth k : Nat) : Nat := 2 ^ (depth - 8) * (q8.getD k 0 - 1) + 1

/-- A sample beyond the largest code is clamped (R158). -/
def reconstruct (depth base code q : Nat) : Nat := Nat.min (base + code * q + (q - 1) / 2) (2 ^ depth - 1)

/-- The samples of one part. -/
def partSamples (mode p : Nat) (x : List Nat) : List Nat :=
  ((List.range 32).filter (fun n => blkPart mode n == p)).map (fun n => x.getD n 0)

def listMin (l : List Nat) : Nat := l.foldl Nat.min (l.headD 0)
def listMax (l : List Nat) : Nat := l.foldl Nat.max 0

/-- The smallest step index that covers every part of a mode (R159). -/
def coverStep (depth ratio mode : Nat) (x : List Nat) : Nat :=
  let w := codeWidth depth ratio (blkParts mode)
  let ok := fun k => (List.range (blkParts mode)).all (fun p =>
    decide (listMax (partSamples mode p x) - listMin (partSamples mode p x) ≤ 2 ^ w * stepOf depth k - 1))
  ((List.range 16).find? ok).getD 15

/-- The mode with the smallest step index, the first on a tie (R159). -/
def chooseMode (depth ratio : Nat) (x : List Nat) : Nat :=
  let k0 := coverStep depth ratio 0 x
  let k1 := coverStep depth ratio 1 x
  let k2 := coverStep depth ratio 2 x
  if k0 ≤ k1 ∧ k0 ≤ k2 then 0 else if k1 ≤ k2 then 1 else 2

/-- The bit string of a block as a number, bit 0 first (R155, R159). -/
def encodeBits (depth ratio : Nat) (x : List Nat) : Nat :=
  let m := chooseMode depth ratio x
  let k := coverStep depth ratio m x
  let parts := blkParts m
  let w := codeWidth depth ratio parts
  let base := fun p => listMin (partSamples m p x)
  let head := m + 4 * k + 64 * base 0 + (if parts = 2 then 2 ^ (6 + depth) * base 1 else 0)
  (List.range 32).foldl (fun acc n =>
    acc + ((x.getD n 0 - base (blkPart m n)) / stepOf depth k) * 2 ^ (6 + parts * depth + w * n)) head

/-- The block's bytes (R159). -/
def encodeBlock (depth ratio : Nat) (x : List Nat) : List Byte :=
  leBytes (blkBytes depth ratio) (encodeBits depth ratio x)

/-- The step index a block is coded with. -/
def blockStep (depth ratio : Nat) (x : List Nat) : Nat := coverStep depth ratio (chooseMode depth ratio x) x
/-- The design step index of a ratio (R160). -/
def designStep (ratio : Nat) : Nat := if ratio = 2 then 1 else if ratio = 3 then 3 else 5

/-- A block is valid when its MODE is not 3 and its PAD is 0 (R161). -/
def blockValid (depth ratio : Nat) (bs : List Byte) : Bool :=
  let b := leNat bs
  let m := b % 4
  let parts := blkParts m
  m != 3 && b / 2 ^ (6 + parts * depth + 32 * codeWidth depth ratio parts) == 0

/-- The samples of a block (R158); none when it is invalid. -/
def decodeBlock (depth ratio : Nat) (bs : List Byte) : Option (List Nat) :=
  if blockValid depth ratio bs then
    let b := leNat bs
    let m := b % 4
    let parts := blkParts m
    let w := codeWidth depth ratio parts
    let q := stepOf depth (b / 4 % 16)
    let base := fun p => b / 2 ^ (6 + p * depth) % 2 ^ depth
    some ((List.range 32).map (fun n =>
      reconstruct depth (base (blkPart m n)) (b / 2 ^ (6 + parts * depth + w * n) % 2 ^ w) q))
  else none

/-- Sample `i` of a packed string (R135). -/
def packedSample (depth : Nat) (bs : List Byte) (i : Nat) : Nat := leNat bs / 2 ^ (depth * i) % 2 ^ depth

/-! ## Exact mode -/

/-- The history, newest byte last, limited to 4,096 (R163). -/
def histPush (h : List Byte) (b : Byte) : List Byte := (h ++ [b]).drop (h.length + 1 - 4096)

/-- Read `n` bits of a bit string held as a number, at position `p`. -/
def bitsAt (b p n : Nat) : Nat := b / 2 ^ p % 2 ^ n

/-- Copy `l` bytes from distance `d`, byte by byte (R163). -/
def copyBack : Nat → Nat → List Byte → List Byte → List Byte × List Byte
  | 0, _, h, out => (h, out)
  | l + 1, d, h, out =>
    let b := h.getD (h.length - d) 0
    copyBack l d (histPush h b) (out ++ [b])

/-- What decoding a token body gives: the bytes, the history after, and the bit position of its end. -/
inductive TokRes where
  | ok (out hist : List Byte) (p : Nat)
  | short                      -- the source ends first
  | format                     -- a format error (R163)
deriving DecidableEq, Repr

/-- Decode a token body of `n` bytes (R163) from bit position `p` of `total` bits; `fuel` bounds the tokens. -/
def tokens (b total n : Nat) : Nat → Nat → List Byte → List Byte → TokRes
  | 0, p, h, out => if n ≤ out.length then .ok out h p else .short
  | fuel + 1, p, h, out =>
    if n ≤ out.length then .ok out h p
    else if total < p + 1 then .short
    else if bitsAt b p 1 = 0 then
      if total < p + 9 then .short
      else
        let c := BitVec.ofNat 8 (bitsAt b (p + 1) 8)
        tokens b total n fuel (p + 9) (histPush h c) (out ++ [c])
    else
      let l4 := bitsAt b (p + 1) 4
      let (l, p) := if l4 < 15 then (l4 + 3, p + 5) else (bitsAt b (p + 5) 8 + 18, p + 13)
      let d := bitsAt b p 12 + 1
      if total < p + 12 then .short
      else if h.length < d ∨ n - out.length < l then .format
      else
        let (h, out) := copyBack l d h out
        tokens b total n fuel (p + 12) h out

/-- One decoded record (R162): its bytes in the source, its piece, the history after it, and whether it is FINAL. -/
structure DecRec where
  used : Nat
  piece : List Byte
  hist : List Byte
  final : Bool
deriving DecidableEq, Repr

/-- What decoding the next record gives. -/
inductive DecResult where
  | ok (r : DecRec)
  | short                      -- the record does not lie whole within the source (R168)
  | format                     -- a format error (R163)
deriving DecidableEq, Repr

/-- Bytes of a token body: it ends at the byte boundary after its last token. -/
def bodyBytes (p : Nat) : Nat := (p + 7) / 8

/-- Decode the record at the head of `src` after history `h`. -/
def decodeRecord (src h : List Byte) : DecResult :=
  match src with
  | [] => .short
  | hdr :: rest =>
    let raw := hdr.getLsbD 0
    let final := hdr.getLsbD 1
    match (if final then rest.head?.map (fun b => (b.toNat + 1, rest.tail)) else some (256, rest)) with
    | none => .short
    | some (n, body) =>
      let pre := if final then 2 else 1
      if raw then
        if body.length < n then .short
        else if 4 ≤ hdr.toNat then .format
        else .ok ⟨pre + n, body.take n, (body.take n).foldl histPush h, final⟩
      else
        let b := leNat body
        match tokens b (8 * body.length) n (n + 1) 0 h [] with
        | .ok out h' p =>
          if b / 2 ^ p % 2 ^ (8 * bodyBytes p - p) ≠ 0 ∨ 4 ≤ hdr.toNat then .format
          else .ok ⟨pre + bodyBytes p, out, h', final⟩
        | .short => .short
        | .format => .format

/-- The record the compressor writes for a piece (R162, R164): the token body of its choice when that body decodes to
the piece and is shorter than the piece, else raw. -/
def encodeRecord (piece h : List Byte) (final : Bool) : List Byte :=
  let n := piece.length
  let body := Config.exactTokens h piece
  let b := leNat body
  let good := decide (body.length < n) &&
    (match tokens b (8 * body.length) n (n + 1) 0 h [] with
     | .ok out _ p => out == piece && bodyBytes p == body.length && decide (b / 2 ^ p = 0)
     | _ => false)
  let hdr : Byte := BitVec.ofNat 8 ((if good then 0 else 1) + (if final then 2 else 0))
  [hdr] ++ (if final then [BitVec.ofNat 8 (n - 1)] else []) ++ (if good then body else piece)

end Sys2Proof.Machine
end

