-- ==== Sys2Proof/Machine/Screen.lean ====
section
/-! DEFINITION. Pod geometry, the nozzle map, the line-qualified queue and its versions (R176 to R205), and the
decision of one drop code (R180 to R197). -/
namespace Sys2Proof.Machine
open Sys2Proof

/-! ## Geometry (R176) -/

def fitted (s : State) (p : Nat) : Bool := fldB s (F.SCR_POD_CFG_FITTED p)
def depthOf (s : State) (p : Nat) : Nat := fld s (F.SCR_POD_CFG_ROT_DEPTH p)
def ilOf (s : State) (p : Nat) : Nat := if fldB s (F.SCR_POD_CFG_INTERLEAVE p) then 2 else 1
def nprOf (s : State) (p : Nat) : Nat := fld s (F.SCR_POD_COLS_NPR p)
def colBase (s : State) (p : Nat) : Nat := fld s (F.SCR_POD_COLS_COL_BASE p)
def rowsOf (s : State) (p : Nat) : Nat := depthOf s p * ilOf s p
def spanOf (s : State) (p : Nat) : Nat := nprOf s p * ilOf s p
def rowY (s : State) (p r : Nat) : Nat := fld s (F.SCR_ROW_Y p r)

/-- The fitted pods in rising number. -/
def pods (s : State) : List Nat := (List.range 24).filter (fitted s)

/-- The first map entry of each fitted pod: the first multiple of 64 at or above the end of the one before (R176). -/
def entryBases (s : State) : List (Nat × Nat) :=
  ((pods s).foldl (fun (acc : Nat × List (Nat × Nat)) p =>
    let b := (acc.1 + 63) / 64 * 64
    (b + rowsOf s p * nprOf s p, acc.2 ++ [(p, b)])) (0, [])).2

def entryBase (s : State) (p : Nat) : Nat := ((entryBases s).find? (fun e => e.1 == p)).elim 0 (fun e => e.2)

/-- The map entry of nozzle `j` of row `r` (R176). -/
def entryOf (s : State) (p r j : Nat) : Nat := entryBase s p + r * nprOf s p + j

/-- The pod, row and nozzle of a map entry, if it belongs to a fitted pod. -/
def entryLoc (s : State) (e : Nat) : Option (Nat × Nat × Nat) :=
  ((entryBases s).find? (fun b => decide (b.2 ≤ e) && decide (e < b.2 + rowsOf s b.1 * nprOf s b.1))).map
    (fun b => (b.1, (e - b.2) / nprOf s b.1, (e - b.2) % nprOf s b.1))

/-- The pod column of nozzle `j` of row `r` (R176). -/
def podCol (s : State) (p r j : Nat) : Nat := ilOf s p * j + r % ilOf s p

/-- The rows that serve pod column `u`, ascending (R176). -/
def colRows (s : State) (p u : Nat) : List Nat := (List.range (rowsOf s p)).filter (fun r => r % ilOf s p == u % ilOf s p)

/-- The fitted pods that serve bar column `c`. -/
def servers (s : State) (c : Nat) : List Nat :=
  (pods s).filter (fun p => decide (colBase s p ≤ c) && decide (c < colBase s p + spanOf s p))

/-- Every row of every fitted pod, as (pod, row). -/
def allRows (s : State) : List (Nat × Nat) := (pods s).flatMap (fun p => (List.range (rowsOf s p)).map (fun r => (p, r)))

/-- The index of a row in the vectors of 192. -/
def rowIx (p r : Nat) : Fin 192 := Fin.ofNat 192 (8 * p + r)
/-- The index of class (p, m), m from 1 to 8. -/
def classIx (p m : Nat) : Fin 192 := Fin.ofNat 192 (8 * p + m - 1)

/-- The leading row: the smallest ROW_Y, the first of equals. -/
def leadingRow (s : State) : Option (Nat × Nat) :=
  (allRows s).foldl (fun acc x => match acc with
    | none => some x
    | some y => if rowY s x.1 x.2 < rowY s y.1 y.2 then some x else some y) none

/-- The trailing row: the largest ROW_Y, the last of equals. -/
def trailingRow (s : State) : Option (Nat × Nat) :=
  (allRows s).foldl (fun acc x => match acc with
    | none => some x
    | some y => if rowY s x.1 x.2 < rowY s y.1 y.2 then some y else some x) none

/-- D_ROW in lines, rounded up (R179). -/
def dRow (s : State) : Nat :=
  match leadingRow s, trailingRow s with
  | some a, some b => (rowY s b.1 b.2 - rowY s a.1 a.2 + 63) / 64
  | _, _ => 0

/-! ## The map (R183) -/

/-- SLOT and LIVE of an entry under the canonical numbering with every nozzle in rotation (R186). -/
def slotsInit (s : State) (e : Nat) : BitVec 8 :=
  match entryLoc s e with
  | some (p, r, _) => BitVec.ofNat 8 (r / ilOf s p + 16 * depthOf s p)
  | none => 0x0F

def keptGet (m : MapCopy) (e : Nat) : BitVec 16 := spGet (fun _ => 0) m.kept e
def keptPut (m : MapCopy) (e : Nat) (v : BitVec 16) : MapCopy := { m with kept := spPut (fun _ => 0) m.kept e v }
def slotsGet (s : State) (m : MapCopy) (e : Nat) : BitVec 8 := spGet (slotsInit s) m.slots e
def slotsPut (s : State) (m : MapCopy) (e : Nat) (v : BitVec 8) : MapCopy :=
  { m with slots := spPut (slotsInit s) m.slots e v }

def idleGet (s : State) (e : Nat) : Byte := spGet (fun _ => 0) s.scr.idle e

def kState (k : BitVec 16) : Nat := (k.extractLsb' 0 4).toNat
def kMask (k : BitVec 16) : Bool := k.getLsbD 4
def kNoSpit (k : BitVec 16) : Bool := k.getLsbD 5
def kGain (k : BitVec 16) : Int := (k.extractLsb' 8 8).toInt

/-- In rotation: STATE 0, 1 or 2 and HOST_MASK 0 (R183). -/
def inRotation (k : BitVec 16) : Bool := decide (kState k ≤ 2) && !kMask k

def slotOf (v : BitVec 8) : Nat := v.toNat % 16
def liveOf (v : BitVec 8) : Nat := v.toNat / 16

/-- The 32-bit entry (R183). -/
def mapWord (s : State) (m : MapCopy) (e : Nat) : Word :=
  idleGet s e ++ keptGet m e ++ slotsGet s m e

/-- The copy a read of a map view sees: the pending one while a version is active (R203). -/
def readMap (s : State) : MapCopy := match s.scr.version with | some v => v.map | none => s.scr.live

/-- The live map as line `l` has it: what the first retired version beyond `l` replaced (R350), else the live copy. -/
def liveMapAt (s : State) (l : Nat) : MapCopy :=
  match s.scr.olds.find? (fun o => decide (l < o.x)) with
  | some o => o.map
  | none => s.scr.live

/-- The copy a row deciding line `l` uses (R202). -/
def mapAt (s : State) (l : Nat) : MapCopy :=
  match s.scr.version with
  | some v => if v.x ≤ l then v.map else liveMapAt s l
  | none => liveMapAt s l

/-- The live word of a screening station as line `l` has it (R350). -/
def liveWordAt (s : State) (l a : Nat) : Word :=
  match (s.scr.olds.filter (fun o => decide (l < o.x))).findSome? (fun o => o.stn.find? (fun e => e.1 == a)) with
  | some e => e.2
  | none => stnWord s a

/-- The word of a screening station as a row deciding line `l` sees it (R202). -/
def scrWordAt (s : State) (l a : Nat) : Word :=
  match s.scr.version with
  | some v => if v.x ≤ l then (match v.stn.find? (fun e => e.1 == a) with | some e => e.2 | none => stnWord s a)
              else liveWordAt s l a
  | none => liveWordAt s l a

/-- The word of a screening station as a read sees it (R203). -/
def scrWordRead (s : State) (a : Nat) : Word :=
  match s.scr.version with
  | some v => (match v.stn.find? (fun e => e.1 == a) with | some e => e.2 | none => stnWord s a)
  | none => stnWord s a

def scrFldAt (s : State) (l : Nat) (f : Fld) : Nat := fldOf f (scrWordAt s l f.addr)

/-- A plane view of 64 entries (R209). -/
def nmapView (s : State) (q g : Nat) : Vec :=
  (List.range 64).foldl (fun acc i =>
    acc ||| (((mapWord s (readMap s) (64 * g + i)).extractLsb' (4 * q) 4).setWidth 256 <<< (4 * i))) 0

/-! ## Numbering a column -/

/-- LIVE of pod `p` in pod column `u`. -/
def liveIn (s : State) (m : MapCopy) (p u : Nat) : Nat :=
  match colRows s p u with
  | r :: _ => liveOf (slotsGet s m (entryOf s p r (u / ilOf s p)))
  | [] => 0

/-- Give the rows of a column their slots: the rows of `order` take `first`, `first + 1`, ... modulo their number. -/
def numberColumn (s : State) (m : MapCopy) (p u : Nat) (order : List Nat) (first : Nat) : MapCopy :=
  let n := order.length
  (colRows s p u).foldl (fun m r =>
    let slot := if order.contains r then (first + order.idxOf r) % n else 15
    slotsPut s m (entryOf s p r (u / ilOf s p)) (BitVec.ofNat 8 (slot + 16 * n))) m

/-- The rows in rotation of a column, ascending. -/
def liveRows (s : State) (m : MapCopy) (p u : Nat) : List Nat :=
  (colRows s p u).filter (fun r => inRotation (keptGet m (entryOf s p r (u / ilOf s p))))

/-- The canonical numbering (R186). -/
def renumberCanon (s : State) (m : MapCopy) (p u : Nat) : MapCopy := numberColumn s m p u (liveRows s m p u) 0

/-- K[p][m](L): lines before L skipped in the class (R184). -/
def kCount (s : State) (p m l : Nat) : Nat :=
  (s.scr.skipped.filter (fun e => decide (e.1 < l) && e.2 == (classIx p m).val)).length

/-- The order of turns continued over a version at line `x` (R187). `old` is the map before. -/
def renumberAt (s : State) (old m : MapCopy) (p u x : Nat) : MapCopy :=
  let slotIn := fun r => slotOf (slotsGet s old (entryOf s p r (u / ilOf s p)))
  let m0 := liveIn s old p u
  let now := liveRows s m p u
  let rho := x - kCount s p m0 x
  let lastSlot := (rho + 2 ^ 32 - 1) % 2 ^ 32 % m0
  let stay := if m0 = 0 then [] else
    ((List.range m0).filterMap (fun t =>
      (colRows s p u).find? (fun r => slotIn r == (lastSlot + t + 1) % m0))).filter now.contains
  let order := stay ++ now.filter (fun r => !stay.contains r)
  numberColumn s m p u order (x - kCount s p order.length x)

/-! ## Writes that are screening-bound (R200) -/

/-- LEVEL_MAP nibbles above 12 store 0 (R192). -/
def levelMapFix (v : Word) : Word :=
  (List.range 8).foldl (fun acc i =>
    let n := v.extractLsb' (4 * i) 4
    acc ||| ((if 12 < n.toNat then 0 else n).setWidth 32 <<< (4 * i))) 0

/-- The map entries a queued write may change. -/
def touched (e : LqEntry) : List Nat :=
  match e.data with
  | .scalar a v => if a = 0x4300000C then [v.toNat % 2 ^ 19] else []
  | .vector a _ => match vView a with
    | some (.nmap _ g) => (List.range 64).map (fun i => 64 * g + i)
    | _ => []
  | .health n _ _ _ _ _ _ _ => [n]
  | .reset n _ _ => [n]

/-- A conditional health write finds the STATE it was decided on, and HOST_MASK 0 (R318). -/
def healthHolds (m : MapCopy) : LqData → Bool
  | .health n from0 _ _ _ _ _ _ => kState (keptGet m n) == from0 && !kMask (keptGet m n)
  | _ => true

/-- One write applied to a map and to pending station values (R201, R206, R207, R209). -/
def applyWrite (_s : State) (mv : MapCopy × List (Nat × Word)) (e : LqEntry) : MapCopy × List (Nat × Word) :=
  let (m, sv) := mv
  let put := fun a w => (a, w) :: sv.filter (fun x => x.1 != a)
  match e.data with
  | .scalar a v =>
    if a = 0x4300000C then
      let n := v.toNat % 2 ^ 19
      if n < 327680 then
        let k := keptGet m n
        (keptPut m n (if v.getLsbD 31 then k ||| 0x10 else k &&& ~~~ 0x10), put a (v &&& 0x8007FFFF))
      else (m, sv)
    else match stnRow a with
      | some r =>
        let w := v &&& BitVec.ofNat 32 r.lq
        (m, put a (if (a - 0x43000100) % 0x40 = 0x10 ∨ (a - 0x43000100) % 0x40 = 0x14 then levelMapFix w else w))
      | none => (m, sv)
  | .vector a v =>
    match vView a with
    | some (.nmap q g) =>
      let okBits : BitVec 16 := 0xFF3F
      let m := (List.range 64).foldl (fun m i =>
        let n := 64 * g + i
        let nib := (v.extractLsb' (4 * i) 4).setWidth 16 <<< (4 * q - 8)
        let clear : BitVec 16 := (0xF : BitVec 16) <<< (4 * q - 8)
        keptPut m n (((keptGet m n &&& ~~~ clear) ||| nib) &&& okBits)) m
      (m, sv)
    | _ => (m, sv)
  | .health n _ st gain _ _ _ _ =>
    if healthHolds m e.data then
      let k := (keptGet m n &&& ~~~ 0xF) ||| BitVec.ofNat 16 (st % 16)
      let k := match gain with
        | some g => (k &&& 0x00FF) ||| (g.setWidth 16 <<< 8)
        | none => k
      (keptPut m n k, sv)
    else (m, sv)
  | .reset n st zero =>
    let k := (keptGet m n &&& ~~~ 0xF) ||| BitVec.ofNat 16 (st % 16)
    (keptPut m n (if zero then k &&& 0x00FF else k), sv)

/-- The columns, as (pod, pod column), whose set of nozzles in rotation changed among the entries touched. -/
def changedColumns (s : State) (old new : MapCopy) (es : List Nat) : List (Nat × Nat) :=
  (es.filterMap (fun e =>
    if inRotation (keptGet old e) != inRotation (keptGet new e) then
      (entryLoc s e).map (fun (p, r, j) => (p, podCol s p r j))
    else none)).eraseDups

/-- Size of a queue entry: a scalar or health write 1, a vector write 8 (R75). -/
def lqSize (e : LqEntry) : Nat := match e.data with | .vector _ _ => 8 | _ => 1
def lqFree (s : State) : Nat := 1024 - (s.scr.lq.map lqSize).sum

/-- SCR_HORIZON + 1: the first line no row has decided; the all-ones value counts as -1 (R206). -/
def horizon1 (s : State) : Nat :=
  let h := fld s F.SCR_HORIZON
  if h = 2 ^ 32 - 1 then 0 else h + 1

/-- The bar columns served by fitted pods. -/
def servedColumns (s : State) : List Nat :=
  ((pods s).flatMap (fun p => (List.range (spanOf s p)).map (fun u => colBase s p + u))).eraseDups

/-- A column is orphaned: served, and no serving pod has a nozzle in rotation in it (R190). -/
def orphaned (s : State) (m : MapCopy) (c : Nat) : Bool :=
  !(servers s c).isEmpty && (servers s c).all (fun p => liveIn s m p (c - colBase s p) == 0)

/-- SCR_ORPHANS, and in a job the orphan-column alarm for the columns orphaned in `new` and not in `old` (R190). -/
def noteOrphans (s : State) (old : Option MapCopy) (new : MapCopy) : State :=
  let now := (servedColumns s).filter (orphaned s new)
  let s := setFld s F.SCR_ORPHANS now.length
  let fresh := now.filter (fun c => match old with | some m => !orphaned s m c | none => true)
  if jobRuns s then fresh.foldl (fun s c => alarm s 43 [BitVec.ofNat 32 c]) s else s

/-- LQ_APPLIED for each steward with a write among these (R201). -/
def lqApplied (s : State) (es : List LqEntry) : State :=
  (es.filterMap (fun e => e.steward)).eraseDups.foldl (setEvent 1) s

/-- Keep the writes' station values. -/
def putStations (s : State) (sv : List (Nat × Word)) : State := sv.foldl (fun s e => setStnWord s e.1 e.2) s

/-! ## What health writes leave behind (R318, R319, R322, R323, R308) -/

/-- The health work area (R325, R326). -/
def hltBase (s : State) : Nat := fld s F.HLT_BASE_LO + 2 ^ 32 * fld s F.HLT_BASE_HI

/-- Write bytes that lie in usable DRAM. -/
def dramPut (s : State) (a : Nat) (bs : List Byte) : State :=
  if a + bs.length ≤ dramUsable s then dramWrite s a bs else s

/-- One change-log record of 16 bytes (R319). -/
def changeLog (s : State) (entry oldSt newSt reason : Nat) (gain : Int) (camera line : Nat) (d : Int) (frame : Nat) : State :=
  let k := fld s F.HLT_LOGIDX
  let s := dramPut s (hltBase s + 0x480000 + k % 4096 * 16)
    (leBytes 4 entry ++ [BitVec.ofNat 8 (oldSt % 16 + 16 * (newSt % 16)), BitVec.ofNat 8 reason, BitVec.ofInt 8 gain,
      BitVec.ofNat 8 camera] ++ leBytes 4 line ++ leBytes 2 (d % 65536).toNat ++ leBytes 2 frame)
  wrapFld s F.HLT_LOGIDX

/-- Clear the score record of an entry (R326). -/
def clearScore (s : State) (e : Nat) : State := dramPut s (hltBase s + 8 * e) (List.replicate 8 0)

/-- One write of a version, as the pending copy is built: its change-log record and counts. -/
def healthNote (x : Nat) (acc : State × MapCopy) (e : LqEntry) : State × MapCopy :=
  let (s, m) := acc
  let m' := (applyWrite s (m, []) e).1
  match e.data with
  | .health n from0 to0 g reason camera d frame =>
    let gain := kGain (keptGet m' n)
    if healthHolds m e.data then
      let s := if from0 = to0 then (if g.isSome then incFld s F.HLT_CHANGES_GAIN_CHANGES else s)
        else incFld s F.HLT_CHANGES_STATE_CHANGES
      (changeLog s n from0 to0 reason gain camera x d frame, m')
    else
      let st := kState (keptGet m n)
      (changeLog (incFld s F.HLT_CONFLICT) n st st 7 gain camera x d frame, m')
  | .reset n to0 _ =>
    let s := clearScore s n
    (changeLog s n (kState (keptGet m n)) to0 8 (kGain (keptGet m' n)) 0xFF x 0 0, m')
  | _ => (s, m')

/-- A queued write of the health unit or of its host routines. -/
def isHealth (e : LqEntry) : Bool := match e.data with
  | .health _ _ _ _ _ _ _ _ => true
  | .reset _ _ _ => true
  | _ => false

/-- The health side of writes that take effect at line `x` (R319). -/
def healthNotes (s : State) (m : MapCopy) (es : List LqEntry) (x : Nat) : State :=
  if es.any isHealth then
    let s := (es.foldl (healthNote x) (s, m)).1
    setFld (setEventAll s 14) F.HLT_LASTX x
  else s

/-- Entries whose kept fields differ wait for the map journal (R323). -/
def noteChanged (s : State) (old new : MapCopy) (x : Nat) : State :=
  let keys := ((old.kept ++ new.kept).map (fun e => e.1)).eraseDups.filter (fun e => keptGet old e != keptGet new e)
  { s with hlt := { s.hlt with
      changed := s.hlt.changed ++ keys.filter (fun e => !s.hlt.changed.contains e), changedX := some x } }

/-- A slot log record of a renumbered column: column, pod, LIVE, row of each slot (R326). -/
def slotRecord (s : State) (m : MapCopy) (c : Nat × Nat) : List Byte :=
  let rows := (colRows s c.1 c.2).filter (fun r => slotOf (slotsGet s m (entryOf s c.1 r (c.2 / ilOf s c.1))) != 15)
  let word := (rows.map (fun r => r * 16 ^ slotOf (slotsGet s m (entryOf s c.1 r (c.2 / ilOf s c.1))))).sum
  leBytes 2 (colBase s c.1 + c.2) ++ [BitVec.ofNat 8 c.1, BitVec.ofNat 8 (liveIn s m c.1 c.2)] ++ leBytes 4 word

/-- The slot log section of generation `k` (R326). -/
def slotLogAt (s : State) (k : Nat) : Nat := hltBase s + 0x280000 + k % 16 * 0x20000

/-- A version makes a new generation: column tables are kept for 16, and the slot log takes its section (R291, R308). -/
def newGen (s : State) (m : MapCopy) (sv : List (Nat × Word)) (x : Nat) (cols : List (Nat × Nat)) : State :=
  let word := fun a => match sv.find? (fun e => e.1 == a) with | some e => e.2 | none => stnWord s a
  let fits := decide (cols.length ≤ 16384)
  let g : Gen := ⟨x, m, word F.SCR_STITCH_MODE.addr, word F.SCR_TOFF_XOFF.addr, fits,
    if fits then cols.length else 0⟩
  let k := s.sight.genCount + 1
  let s := { s with sight := { s.sight with gens := (g :: s.sight.gens).take 16, genCount := k } }
  if fits then dramPut s (slotLogAt s k) (cols.flatMap (slotRecord s m)) else s

/-- While no job runs, queued writes take effect at once, in the order of R204; changed columns are numbered
canonically (R205, R186). -/
def applyNow (s : State) (es : List LqEntry) : State :=
  let old := s.scr.live
  let (m, sv) := es.foldl (applyWrite s) (old, [])
  let cols := changedColumns s old m (es.flatMap touched)
  let m := cols.foldl (fun m c => renumberCanon s m c.1 c.2) m
  let s := putStations { s with scr := { s.scr with live := m } } sv
  let s := noteChanged (healthNotes s old es (2 ^ 32 - 1)) old m (2 ^ 32 - 1)
  let s := if cols.isEmpty then s else noteOrphans s (some old) m
  lqApplied s es

/-- The order of R204: by named line, and within a line in queue order. -/
def byLine (es : List LqEntry) : List LqEntry := es.foldl insertLine []
where
  insertLine : List LqEntry → LqEntry → List LqEntry
    | [], e => [e]
    | x :: t, e => if e.line < x.line then e :: x :: t else x :: insertLine t e

/-- Empty the queue at once: no job runs (R205), or the job ends. -/
def flushLq (s : State) : State :=
  let es := byLine s.scr.lq
  applyNow { s with scr := { s.scr with lq := [] } } es

/-- A queued write is journaled for the standby (R338). -/
def journalLq (s : State) (e : LqEntry) : State :=
  match e.data with
  | .scalar a v => journal s (.lq e.line a v)
  | .vector a v => journal s (.vlq e.line a v)
  | _ => journal s (.hlt e)

/-- Arm a write: it enters the queue (R75); while no job runs it leaves it at once (R205). -/
def armLq (s : State) (e : LqEntry) : State :=
  let s := journalLq s e
  let s := { s with scr := { s.scr with lq := s.scr.lq ++ [e] } }
  if jobRuns s then s else flushLq s

/-! ## Versions (R201 to R204) -/

/-- Build the version `es` at line `x` (R201): the pending copy, renumbered columns, LQ_APPLIED. -/
def buildVersion (s : State) (es : List LqEntry) (named x : Nat) : State :=
  let old := s.scr.live
  let (m, sv) := es.foldl (applyWrite s) (old, [])
  let cols := changedColumns s old m (es.flatMap touched)
  let m := cols.foldl (fun m c => renumberAt s old m c.1 c.2 x) m
  let s := { s with scr := { s.scr with version := some ⟨named, x, m, sv⟩ } }
  let s := setFld s F.SCR_PEND x
  let s := newGen (healthNotes s old es x) m sv x cols
  let s := if cols.isEmpty then s else noteOrphans s (some old) m
  let s := lqApplied s es
  journal s (.mapAct named x)

/-- VERSION_ACTIVATE: the leading row is about to decide `l` and no version is active (R201, R204). -/
def activateVersion (s : State) (l : Nat) : State :=
  if s.scr.version.isSome then s
  else
    let late := byLine (s.scr.lq.filter (fun e => decide (e.line < horizon1 s)))
    let x := if late.isEmpty then l else horizon1 s
    let onTime := s.scr.lq.filter (fun e => e.line == x)
    if late.isEmpty && onTime.isEmpty then s
    else
      let rest := s.scr.lq.filter (fun e => decide (horizon1 s ≤ e.line) && e.line != x)
      let s := { s with scr := { s.scr with lq := rest } }
      let named := match late with | e :: _ => e.line | [] => x
      let s := if late.isEmpty then s
        else alarm (incFld s F.SCR_LATE_LQ) 44 [BitVec.ofNat 32 named, BitVec.ofNat 32 x]
      buildVersion s (late ++ onTime) named x

/-- Every row has fired the lines before `x`. -/
def firedBefore (s : State) (x : Nat) : Bool := (allRows s).all (fun r => decide (x ≤ s.plc2.nextFire[rowIx r.1 r.2]))

/-- VERSION_RETIRE: the live copy takes the pending values (R203); what they replace stays for the lines before the
version's (R350). -/
def retireVersion (s : State) : State :=
  match s.scr.version with
  | some v =>
    let s := noteChanged s s.scr.live v.map v.x
    let olds := s.scr.olds.filter (fun o => !firedBefore s o.x)
      ++ [⟨v.x, s.scr.live, v.stn.map (fun e => (e.1, stnWord s e.1))⟩]
    let s := putStations { s with scr := { s.scr with live := v.map, version := none, olds := olds } } v.stn
    journal (setFld s F.SCR_PEND (2 ^ 32 - 1)) (.mapRet v.x)
  | none => s

/-- The geometry changed while no job runs, or a job starts: every column is numbered canonically (R183, R186). -/
def renumberAll (s : State) : State :=
  let m : MapCopy := { s.scr.live with slots := [] }
  let cols := (m.kept.filterMap (fun e =>
    if inRotation e.2 then none else (entryLoc s e.1).map (fun (p, r, j) => (p, podCol s p r j)))).eraseDups
  { s with scr := { s.scr with live := cols.foldl (fun m c => renumberCanon s m c.1 c.2) m } }

/-- POD_ENTRY of every pod, as computed (R176, R207). -/
def setPodEntries (s : State) : State :=
  (entryBases s).foldl (fun s e => setFld s (F.SCR_POD_ENTRY e.1) e.2) s

end Sys2Proof.Machine
end

