-- ==== Sys2Proof/Machine/Place.lean ====
section
/-! DEFINITION. Web tracking, the line grid, page starts, skip decisions and the follower (R213 to R239, R554). -/
namespace Sys2Proof.Machine
open Sys2Proof

/-! ## Position (R215 to R219) -/

/-- Sub-lines of a rational of counts: floor(64 NUM c / DEN) (R215); 0 while DEN is 0. -/
def countPos (s : State) (c : Int) : Int :=
  if fld s F.PLC_DEN = 0 then 0 else (64 * (fld s F.PLC_NUM : Int) * c) / (fld s F.PLC_DEN : Int)

/-- W of the exact position at a count (R215). -/
def posAt (s : State) (c : Int) : Int := countPos s c + s.plc.slip + s.plc.align

/-- One count in 2^-32 sub-lines. -/
def oneCount (s : State) : Int :=
  if fld s F.PLC_DEN = 0 then 0 else (64 * 2 ^ 32 * (fld s F.PLC_NUM : Int)) / (fld s F.PLC_DEN : Int)

/-- AVG in edges (R216, R239). -/
def avgEdges (s : State) : Nat := 2 ^ fld s F.PLC_CTL_AVG

/-- 2^-32 sub-lines of a whole number of sub-lines. -/
def fix (w : Int) : Int := w * 2 ^ 32

/-- Held strictly short of the position of the next count in the direction of travel (R217). -/
def heldShort (s : State) (forward : Bool) (w : Int) : Int :=
  let here := posAt s s.plc.count
  if forward then min w (max (fix here) (fix (posAt s (s.plc.count + 1)) - 1))
  else max w (min (fix here) (fix (posAt s (s.plc.count - 1)) + 1))

/-- W(t) in 2^-32 sub-lines (R217, R218, R229). -/
def wFix (s : State) (t : Nat) : Int :=
  let e : Int := (t : Int) - s.plc.refT
  let one := oneCount s
  if fld s F.PLC_DEN = 0 then fix (s.plc.slip + s.plc.align)
  else match s.plc.mode with
    | .stopped => s.plc.refW
    | .frozen => s.plc.refW + s.plc.speed * e
    | .edge =>
      let v := (s.plc.speed.natAbs : Int) * e
      let v := if (s.plc.span : Int) < e then min v one else v
      let fwd := decide (0 ≤ s.plc.speed)
      heldShort s fwd (s.plc.refW + (if fwd then v else -v))
    | .restart =>
      let v := if s.plc.span = 0 then one else min one (one * e / (s.plc.span : Int))
      let fwd := s.plc.dirs.headD true
      heldShort s fwd (s.plc.refW + (if fwd then v else -v))

/-- W(t) in whole sub-lines. -/
def wAt (s : State) (t : Nat) : Int := wFix s t / 2 ^ 32
/-- W now. -/
def wNow (s : State) : Int := wAt s s.clk.now

/-- The line interval I in ns (R219). -/
def lineInterval (s : State) : Nat :=
  if s.plc.mode = .stopped ∨ s.plc.speed ≤ 0 then 2 ^ 32 - 1
  else Nat.min (2 ^ 32 - 1) ((20 * 2 ^ 32) / s.plc.speed.toNat)

/-- Wmax follows W while a job runs (R232, R554). -/
def trackMax (s : State) : State :=
  if jobRuns s then
    let w := wNow s
    { s with plc := { s.plc with wmax := some (match s.plc.wmax with | some m => max m w | none => w) } }
  else s

/-- A held compare notes that W stands below its point (R227). -/
def noteBelow (s : State) : State :=
  match s.plc2.cmp with
  | some wp => if wNow s < wp - 80 * 64 then { s with plc2 := { s.plc2 with cmpBelow := true } } else s
  | none => s

/-- What follows W: Wmax and the armed compare. -/
def followW (s : State) : State := noteBelow (trackMax s)

/-- PLC_DEBT in sub-lines (R232). -/
def debt (s : State) : Nat :=
  match jobRuns s, s.plc.wmax with
  | true, some m => (m - wNow s).toNat
  | _, _ => 0

/-- Time passes to `t` for the placement engine. -/
def plcTime (s : State) (t : Nat) : State := followW (advanceTo s t)

/-! ## Edges (R214, R216, R218, R229, R230, R554) -/

/-- The place of (A, B) in the forward order 00, 10, 11, 01 (R214). -/
def quadPhase (a b : Bool) : Nat := if a then (if b then 2 else 1) else (if b then 3 else 0)

/-- A count kept in 48 signed bits (R214). -/
def wrap48 (c : Int) : Int := (c + 2 ^ 47) % 2 ^ 48 - 2 ^ 47

/-- Sign of a speed. -/
def sgn (i : Int) : Int := if 0 < i then 1 else if i < 0 then -1 else 0

/-- SLIP at the first counted edge after `n` illegal transitions (R229). -/
def slipBy (s : State) (n : Nat) : State :=
  if n = 0 ∨ fld s F.PLC_DEN = 0 then s
  else
    let d := sgn s.plc.speed * n * (128 * (fld s F.PLC_NUM : Int) / (fld s F.PLC_DEN : Int))
    { s with plc := { s.plc with slip := s.plc.slip + d } }

/-- The speed at a counted edge (R216); 0 while DEN is 0 (R215). -/
def speedAt (s : State) : Int :=
  if fld s F.PLC_DEN = 0 then 0 else
  let n := avgEdges s
  let ts := s.plc.times
  let dt : Nat := ts.headD 0 - ts.getD n 0
  let fwd := s.plc.dirs.headD true
  if n + 1 ≤ s.plc.clean && n + 1 ≤ s.plc.afterStop && (s.plc.dirs.take n).all (· == fwd) && decide (dt ≠ 0)
      then
    let v : Int := (64 * 2 ^ 32 * fld s F.PLC_NUM * n) / (fld s F.PLC_DEN * dt)
    if fwd then v else -v
  else s.plc.speed

/-- An encoder fault of the running job holds for the rest of it (R230). -/
def faultHolds (s : State) : Bool := s.plc.encFault && jobRuns s

/-- W re-anchors to the exact position at the present count (R215, R229). -/
def reanchor (s : State) (t : Nat) : State :=
  { s with plc := { s.plc with
      mode := if s.plc.afterStop ≤ avgEdges s then .restart else .edge, refT := t,
      refW := fix (posAt s s.plc.count), encFault := false } }

/-- The reverse-debt rule (R232): the alarm as the debt rises above REV_ALARM, once an excursion. -/
def checkDebt (s : State) : State :=
  if decide (fld s F.PLC_REV_ALARM * 64 < debt s) then
    let was := s.plc2.debtHigh
    let s := setFld { s with plc2 := { s.plc2 with debtHigh := true } } F.PLC_FAULT_DEBT 1
    if was then s else alarm s 73 []
  else { s with plc2 := { s.plc2 with debtHigh := false } }

/-- A counted edge at time `t`, forward or not. -/
def countedEdge (s : State) (fwd : Bool) (t : Nat) : State :=
  let p := s.plc
  let n := p.illegal
  let s := { s with plc := { p with
    count := wrap48 (p.count + (if fwd then 1 else -1)), span := t - p.times.headD 0,
    times := (t :: p.times).take 9, dirs := (fwd :: p.dirs).take 9, clean := p.clean + 1,
    afterStop := p.afterStop + 1, illegal := 0 } }
  let s := slipBy s n
  if faultHolds s then s
  else
    let s := { s with plc := { s.plc with speed := speedAt s } }
    checkDebt (followW (reanchor s t))

/-- NUM or DEN was written, while no job runs or is declared: W is that of the present count under the new ratio, and S
is 0 while DEN is 0 (R215). -/
def rescale (s : State) : State :=
  { s with plc := { s.plc with
      refW := fix (posAt s s.plc.count), speed := if fld s F.PLC_DEN = 0 then 0 else s.plc.speed } }

/-- S freezes at an illegal transition and W runs on from where it stands (R229). -/
def freeze (s : State) (t : Nat) : State :=
  match s.plc.mode with
  | .frozen => s
  | .stopped => s
  | _ => { s with plc := { s.plc with refW := wFix s t, refT := t, mode := .frozen } }

/-- An encoder fault is declared (R230, R231, R554). -/
def encoderFault (s : State) : State :=
  let s := setFld s F.PLC_FAULT_ENC_FAULT 1
  let s := { s with plc := { s.plc with encFault := true } }
  if jobRuns s then faultHandover (sendExpress (alarm s 71 [])) 5
  else if s.plc.encAlarmed then s
  else sendExpress (alarm { s with plc := { s.plc with encAlarmed := true } } 71 [])

/-- An illegal transition (R214, R229): counted, S frozen, encoder-slip in a job; four in a row are a fault, also where
some of them came before the job's start or after its end (R230, R554). -/
def illegalEdge (s : State) (t : Nat) : State :=
  let s := freeze s t
  let s := { s with plc := { s.plc with illegal := s.plc.illegal + 1, clean := 0 } }
  let s := incFld s F.PLC_ILLEGAL
  let s := if jobRuns s then alarm s 70 [] else s
  if 4 ≤ s.plc.illegal ∧ !s.plc.encFault then encoderFault s else s

/-- Accepted levels after a sample (R214). -/
def webLevels (s : State) (a b : Bool) (t : Nat) : State :=
  let d := (quadPhase a b + 4 - quadPhase s.plc.a s.plc.b) % 4
  let s := { s with plc := { s.plc with a := a, b := b } }
  if d = 0 then s
  else if d = 2 then illegalEdge s t
  else countedEdge s ((d == 1) != fldB s F.PLC_CTL_DIR_INVERT) t

/-- The channel counts while the device is out of reset. -/
def alive (s : State) : Bool := s.boot.phase == .ready || s.boot.phase == .starting || s.boot.phase == .noFirmware

/-- WEB_EDGE: at tick `t` the inputs show `a` and `b`, held for `heldA` and `heldB` consecutive samples. An input's
level is accepted once it has held for FILTER + 1 samples (R214). -/
def execWebEdge (a b : Bool) (heldA heldB t : Nat) (s : State) : Res :=
  .next (if alive s then
    let n := fld s F.PLC_CTL_FILTER + 1
    webLevels (plcTime s t) (if n ≤ heldA then a else s.plc.a) (if n ≤ heldB then b else s.plc.b) t
  else s)

/-- Both inputs change in one sample. -/
def execIllegalTransition (t : Nat) (s : State) : Res :=
  .next (if alive s then webLevels (plcTime s t) (!s.plc.a) (!s.plc.b) t else s)

/-- A rising index edge latches COUNT (R214). -/
def execWebIndexEdge (t : Nat) (s : State) : Res :=
  .next (if alive s then
    let s := advanceTo s t
    setFldInt (setFldInt s F.PLC_INDEX_LO (s.plc.count % 2 ^ 32)) F.PLC_INDEX_HI (s.plc.count / 2 ^ 32)
  else s)

/-- STOP_US microseconds, 0 acting as 1, have passed since the last counted edge. -/
def stopDue (s : State) (t : Nat) : Bool := decide (s.plc.times.headD 0 + 3200 * Nat.max 1 (fld s F.PLC_STOP_US) ≤ t)

/-- STOP_US pass without a counted edge (R218): S 0, W holds. An encoder fault's 20 ms are not cut short (R230). -/
def execWebStop (t : Nat) (s : State) : Res :=
  let s := plcTime s t
  .next (if s.plc.encFault ∨ s.plc.mode = .stopped ∨ stopDue s t = false then s
  else { s with plc := { s.plc with
    refW := fix (wAt s t), refT := t, mode := .stopped, speed := 0, clean := 0, afterStop := 0 } })

/-! ## The line grid (R220 to R223) -/

/-- T(L) under a list of anchors, newest first: 64 sub-lines a line from the latest anchor at or before L. -/
def targetOf : List (Nat × Int) → Nat → Int
  | [], l => 64 * (l : Int)
  | (a, w) :: t, l => if a ≤ l then w + 64 * ((l : Int) - a) else targetOf t l

def target (s : State) (l : Nat) : Int := targetOf s.plc.anchors l

/-- F(p, r, L) (R221). -/
def fireTarget (s : State) (p r l : Nat) : Int :=
  target s l + rowY s p r + (if l % 2 = 0 then fldInt s (F.PLC_OFS_F p) else fldInt s (F.PLC_OFS_R p))

/-- T(L) = Wp + 64 (L - P) for every L from P on (R228). -/
def rephase (s : State) (p : Nat) (wp : Int) : State :=
  { s with plc := { s.plc with anchors := (p, wp) :: s.plc.anchors.filter (fun a => decide (a.1 < p)) } }

/-- Every target not yet passed moves by `d` (R237). -/
def shiftGrid (s : State) (d : Int) : State :=
  let b := s.plc.boundary
  let later := (s.plc.anchors.filter (fun a => decide (b < a.1))).map (fun a => (a.1, a.2 + d))
  let old := s.plc.anchors.filter (fun a => decide (a.1 < b))
  { s with plc := { s.plc with anchors := later ++ [(b, target s b + d)] ++ old } }

/-! ## Page starts (R225 to R228) -/

/-- The oldest announced page that has no place, and the first line after the page before it. -/
def waitingPage (j : JobRun) : Option (Page × Nat) :=
  (j.pages.foldl (fun (acc : Option (Page × Nat) × Nat) p =>
    match acc.1, p.p with
    | some _, _ => acc
    | none, none => (some (p, acc.2), acc.2)
    | none, some q => (none, q + (3 - j.decl.yres) * p.count)) (none, 0)).1

/-- Give the page that waits the first print line `l`. -/
def setPlace (s : State) (n : Nat) (l : Nat) : State :=
  match s.jobs.running with
  | some j => { s with jobs := { s.jobs with running := some { j with
      pages := j.pages.map (fun p => if p.number = n then { p with p := some l } else p) } } }
  | none => s

/-- PAGE_PLACE (R228): a request at `wp`; one that finds no page waiting is counted (R225). -/
def placeRequest (s : State) (wp : Int) : State :=
  match s.jobs.running.bind waitingPage with
  | none => incFld s F.PLC_CUES_UNUSED
  | some (pg, q) =>
    let d := wp - target s q
    let p := q + (d / 64).toNat
    if 0 ≤ d ∧ horizon1 s ≤ p then rephase (setPlace s pg.number p) p wp
    else
      let p := Nat.max q (horizon1 s)
      let s := setFld (setPlace s pg.number p) F.PLC_FAULT_PAGE_LATE 1
      alarm s 72 [BitVec.ofNat 32 pg.number, BitVec.ofInt 32 wp, BitVec.ofInt 32 (wp / 2 ^ 32), BitVec.ofNat 32 p]

/-- Contiguous pages follow one another (R225). -/
def placeContiguous (s : State) : State :=
  if fld s F.PLC_CTL_PAGE_MODE = 1 ∨ fld s F.PLC_CTL_PAGE_MODE = 2 then s
  else match s.jobs.running with
    | none => s
    | some j =>
      let ps := (j.pages.foldl (fun (acc : List Page × Nat) p =>
        let q := p.p.getD acc.2
        (acc.1 ++ [{ p with p := some q }], q + (3 - j.decl.yres) * p.count)) ([], 0)).1
      { s with jobs := { s.jobs with running := some { j with pages := ps } } }

/-- A cue mark (R226): on the selected probe, with the selected edge, at least CUE_MIN lines after the last. Outside
PAGE_MODE 1 no page waits for a mark, and an accepted one is counted as unused (R225). -/
def execCueMark (probe : Fin 4) (falling : Bool) (t : Nat) (s : State) : Res :=
  let s := plcTime s t
  if alive s && fld s F.PLC_CTL_CUE_PROBE == probe.val && fldB s F.PLC_CTL_CUE_EDGE == falling then
    let w := wAt s t
    let near := match s.plc2.cueW with
      | some c => decide (w - c < (fld s F.PLC_CUE_MIN : Int) * 64)
      | none => false
    if near then .next s
    else
      let s := incFld { s with plc2 := { s.plc2 with cueW := some w } } F.PLC_CUES_ACCEPTED
      .next (if fld s F.PLC_CTL_PAGE_MODE = 1 then placeRequest s (w + fldInt s F.PLC_CUE_DIST + fldInt s F.PLC_CUE_OFS)
        else incFld s F.PLC_CUES_UNUSED)
  else .next s

/-- A firing of the page start compare: in PAGE_MODE 2 it requests a page start, else no page waits for it. -/
def compareRequest (s : State) (wp : Int) : State :=
  let s := { s with plc2 := { s.plc2 with cmp := none, cmpBelow := false } }
  if fld s F.PLC_CTL_PAGE_MODE = 2 then placeRequest s wp else incFld s F.PLC_CUES_UNUSED

/-- Wp of PLC_PAGECMP: signed 48 bits. -/
def pageCmp (s : State) : Int := wrap48 (fld s F.PLC_PAGECMP_LO + 2 ^ 32 * (fld s F.PLC_PAGECMP_HI : Int))

/-- A write to PLC_PAGECMP_HI (R227): with ARM it arms the compare, which fires at once when late under LATE_FIRE. -/
def pagecmpWrite (s : State) (v : Word) : State :=
  let s := setStnWord s F.PLC_PAGECMP_HI.addr (v &&& 0x1FFFF)
  if fldOf F.PLC_ARM v = 1 then
    let wp := pageCmp s
    if wp - 80 * 64 < wNow s then
      if fldB s F.PLC_POLICY then { s with plc2 := { s.plc2 with cmp := some wp, cmpBelow := false } }
      else compareRequest s wp
    else { s with plc2 := { s.plc2 with cmp := some wp, cmpBelow := true } }
  else s


/-- W reaches the point of the armed compare (R227). A held compare waits until W has been below the point
(`noteBelow`). -/
def execPageCompareFire (t : Nat) (s : State) : Res :=
  let s := plcTime s t
  match s.plc2.cmp with
  | none => .next s
  | some wp =>
    if wp - 80 * 64 ≤ wAt s t ∧ s.plc2.cmpBelow then .next (compareRequest s wp) else .next s

/-! ## The follower (R237, R238) -/

/-- The lines about W in the stretch of the grid from an anchor on. -/
def linesAbout (w : Int) (a : Nat × Int) : List Nat :=
  let k := a.1 + ((w - a.2) / 64).toNat
  [k, k + 1]

/-- The target nearest to W, of every line of the grid (R237). -/
def nearestTarget (s : State) (w : Int) : Int :=
  let cand := (s.plc.anchors.flatMap (linesAbout w)).map (target s)
  cand.foldl (fun best x => if (w - x).natAbs < (w - best).natAbs then x else best) (target s s.plc.boundary)

def syncLost (s : State) : State :=
  let s := setFld (setFld s F.PLC_STAT_SYNC_LOCK 0) F.PLC_FAULT_SYNC_LOST 1
  alarm { s with plc2 := { s.plc2 with lockCount := 0 } } 123 []

/-- A LINE_SYNC_IN rising edge at `t` (R237, R238): the targets shift while locked; unlocked, the follower places on its
own W and counts the pulses that agree. -/
def execLineSyncPulse (t : Nat) (s : State) : Res :=
  let s := plcTime s t
  if fld s F.PLC_CTL_SYNC_MODE = 2 ∧ jobRuns s then
    let w := wAt s (t - fld s F.PLC_SYNC_DLY)
    let e := w - nearestTarget s w
    if 32 < e.natAbs then .next (syncLost s)
    else
      let s := if fldB s F.PLC_STAT_SYNC_LOCK then shiftGrid s (if e < -2 then -2 else if 2 < e then 2 else e) else s
      let n := if e.natAbs ≤ 2 then s.plc2.lockCount + 1 else 0
      let s := { s with plc2 := { s.plc2 with lockCount := n } }
      .next (if 64 ≤ n then setFld s F.PLC_STAT_SYNC_LOCK 1 else s)
  else .next s

/-- No pulse for 16 line intervals (R238), locked or not. -/
def execSyncPulseMissing (s : State) : Res :=
  .next (if fld s F.PLC_CTL_SYNC_MODE = 2 then syncLost s else s)

/-! ## The overspeed rule (R233, R235) -/

/-- The predicted interval Ip. -/
def predicted (s : State) : Nat := lineInterval s * (1024 - fld s F.PLC_SKIP_MARGIN) / 1024
def capOf (s : State) (d : Decl) (p m : Nat) : Nat := Nat.min (m * fld s (F.SCR_POD_FMAX p)) d.maxRate

/-- The pod's throttle is in force (R491). -/
def throttled (s : State) (p : Nat) : Bool := (fld s F.PODPWR_PZ_THROT).testBit p

/-- The largest r16 of a pod's classes: 65536, less under a pod throttle (R491). -/
def r16Max (s : State) (p : Nat) : Nat := if throttled s p then fld s F.PODPWR_PTHR * 256 else 65536

/-- The first skip under a pod throttle raises pod-throttle (R491). -/
def noteThrottle (s : State) (p : Nat) : State :=
  if throttled s p && !s.pwr.thrNoted.getLsbD p then
    alarm { s with pwr := { s.pwr with thrNoted := s.pwr.thrNoted ||| (1#24 <<< p) } } (280 + p) []
  else s

/-- The credit, history and skip of one class at line `l` (R233). -/
def skipRule (ip cap m l credit r16max : Nat) (h : List Nat) : Nat × List Nat × Bool :=
  let credit := credit + Nat.min r16max (cap * ip * 65536 / 1000000000)
  let spanOk : Bool := match h[m - 1]? with
    | none => true
    | some x => decide (m * 1000000000 ≤ (l - x) * ip * cap)
  if decide (65536 ≤ credit) && spanOk then (credit - 65536, (l :: h).take 8, false)
  else (Nat.min credit 65535, h, true)

/-- The class holds a column under the map in force for the line (R235). -/
def classHolds (s : State) (mp : MapCopy) (p m : Nat) : Bool :=
  (List.range (spanOf s p)).any (fun u => liveIn s mp p u == m)

/-- One class decides the skip of line `l` (R233, R235). -/
def skipClass (l : Nat) (s : State) (c : Nat × Nat) : State :=
  match s.jobs.running with
  | none => s
  | some j =>
    let ix := classIx c.1 c.2
    let (cr, h, skip) := skipRule (predicted s) (capOf s j.decl c.1 c.2) c.2 l s.scr.credit[ix] (r16Max s c.1) s.scr.hist[ix]
    let s := { s with scr := { s.scr with
      credit := s.scr.credit.set ix cr, hist := s.scr.hist.set ix h,
      skipped := if skip then s.scr.skipped ++ [(l, ix.val)] else s.scr.skipped } }
    if skip && classHolds s (mapAt s l) c.1 c.2 then
      let s := incFld { s with plc2 := { s.plc2 with skipLine := some l } } F.PLC_SKIPS
      noteThrottle (alarm s (74 + c.1) [BitVec.ofNat 32 c.2, 0]) c.1
    else s

/-- The classes of the fitted pods, m from 1 to 8 (R184). -/
def classes (s : State) : List (Nat × Nat) :=
  (pods s).flatMap (fun p => (List.range 8).map (fun m => (p, m + 1)))

/-- SKIP_DECISION at the moment the leading row begins line `l`; the skips travel in the hamper (R210, R338). -/
def skipDecision (s : State) (l : Nat) : State :=
  let s := (classes s).foldl (skipClass l) s
  journal s (.skip l ((s.scr.skipped.filter (fun e => e.1 == l)).map (fun e => e.2)))

/-! ## The fire guard (R234) -/

/-- The unskipped line `m` places earlier in class (p, m), if there is one. -/
def earlierLine (s : State) (p m l : Nat) : Option Nat :=
  (((List.range l).reverse.filter (fun x => !s.scr.skipped.contains (x, (classIx p m).val))))[m - 1]?

/-- The time of a row's trigger of a line. -/
def trigTime (s : State) (p r l : Nat) : Option Nat :=
  (s.plc2.trig.find? (fun e => e.1 == (rowIx p r).val && e.2.1 == l)).map (fun e => e.2.2)

/-- Class (p, m) has an unskipped turn of row `r` on line `l`. -/
def classTurn (s : State) (mp : MapCopy) (p r m l : Nat) : Bool :=
  !s.scr.skipped.contains (l, (classIx p m).val)
    && (List.range (nprOf s p)).any (fun n =>
      let v := slotsGet s mp (entryOf s p r n)
      liveOf v == m && slotOf v != 15 && (l - kCount s p m l) % m == slotOf v)

/-- The guard finds the fire at `t` too soon after the earlier one of some class: less than 1 / POD_FMAX. -/
def guardTrips (s : State) (mp : MapCopy) (p r l t : Nat) : Bool :=
  (List.range 8).any (fun i =>
    let m := i + 1
    classTurn s mp p r m l && (match earlierLine s p m l with
      | none => false
      | some x => match trigTime s p r x with
        | none => false
        | some t0 => decide ((t - t0) * fld s (F.SCR_POD_FMAX p) < 3200000000)))

end Sys2Proof.Machine
end

