-- ==== Sys2Proof/Machine/Decide.lean ====
section
/-! DEFINITION. Contone from the page store (R142, R143, R172, R180 to R182) and the decision of one drop code
(R185, R189 to R197). -/
namespace Sys2Proof.Machine
open Sys2Proof

/-! ## The page store (R142) -/

/-- Print lines per contone line, k = 3 - YRES, and print columns per sample, a = 3 - XRES (R143, R180). -/
def kOf (d : Decl) : Nat := 3 - d.yres
def aOf (d : Decl) : Nat := 3 - d.xres

/-- The address of block `b` of contone line pair `pair` in the store ring (R142). -/
def storeAddr (d : Decl) (pair b : Nat) : Nat := d.storeBase + pair % d.storeRows * strideOf d + b * blkOf d
/-- The page records follow the ring (R142). -/
def recordsAddr (d : Decl) : Nat := d.storeBase + d.storeRows * strideOf d
/-- The address of block `b` of row `row` of library slot `slot` (R148). -/
def libAddr (d : Decl) (slot row b : Nat) : Nat := d.libBase + (slot * d.libSlotRows + row) * strideOf d + b * blkOf d

/-- The contone lines of a page, its padding line included (R143). -/
def pageEven (p : Page) : Nat := (p.count + 1) / 2 * 2

/-- The page that announces contone line `c`. -/
def pageOfLine (j : JobRun) (c : Nat) : Option Page :=
  j.pages.find? (fun p => decide (p.first ≤ c) && decide (c < p.first + pageEven p))

/-- The print lines of a placed page: from P, k per contone line (R143). -/
def pageCovers (d : Decl) (p : Page) (l : Nat) : Bool :=
  match p.p with
  | some q => decide (q ≤ l) && decide (l < q + kOf d * p.count)
  | none => false

/-- The last print line of a placed page. -/
def pageLast (d : Decl) (p : Page) : Option Nat := p.p.map (fun q => q + kOf d * p.count - 1)

def pageOfPrint (j : JobRun) (l : Nat) : Option Page := j.pages.find? (fun p => pageCovers j.decl p l)

/-- The ring holds pair `pair`. -/
def pairHeld (j : JobRun) (pair : Nat) : Bool := j.ring.contains (pair % j.decl.storeRows, pair)

/-- A library slot serves a page: not bad, and with every block row that the page needs (R149). -/
def slotServes (s : State) (p : Page) (sl : Nat) : Bool :=
  !s.jobs.libBad.contains sl && (List.range (pageEven p / 2)).all (fun r => s.jobs.libRows.contains (sl, r))

/-- The data of contone line `c` of page `p` are complete: the page holds a record (R143), and its block row is in the
store, or the page's whole content in its library slot (R146, R149). -/
def lineComplete (s : State) (j : JobRun) (p : Page) (c : Nat) : Bool :=
  p.recorded && (match p.slot with
    | none => pairHeld j (c / 2)
    | some sl => slotServes s p sl)

/-- Contone line `c` can be read: complete and not late (R181). -/
def lineUsable (s : State) (j : JobRun) (p : Page) (c : Nat) : Bool := !j.late.contains c && lineComplete s j p c

/-- Where block `b` of the pair with line `c` lies. -/
def blockAddr (j : JobRun) (p : Page) (c b : Nat) : Nat :=
  match p.slot with
  | none => storeAddr j.decl (c / 2) b
  | some sl => libAddr j.decl sl ((c - p.first) / 2) b

/-- A block as a decoder lane reads it: none when it is uncorrectable or invalid (R172). -/
def blockRead (s : State) (j : JobRun) (p : Page) (c b : Nat) : Option (List Nat) :=
  let a := blockAddr j p c b
  if dramBad s a (blkOf j.decl) then none
  else decodeBlock j.decl.depth j.decl.ratio (dramBytes s a (blkOf j.decl))

/-- The same block of the previous line pair, where that pair's block row is complete and the block can be used. -/
def blockBefore (s : State) (j : JobRun) (c b : Nat) : Option (List Nat) :=
  if c < 2 then none
  else
    let c := c / 2 * 2 - 2
    match pageOfLine j c with
    | some q => if lineComplete s j q c then blockRead s j q c b else none
    | none => none

/-- A block with concealment: the same block of the previous line pair, else samples of 0 (R172). -/
def blockShown (s : State) (j : JobRun) (p : Page) (c b : Nat) : List Nat :=
  match blockRead s j p c b with
  | some x => x
  | none => (blockBefore s j c b).getD (List.replicate 32 0)

/-- Sample `x` of contone line `c`, widened to 12 bits (R180). -/
def sample12 (s : State) (j : JobRun) (p : Page) (c x : Nat) : Nat :=
  let d := j.decl.depth
  let v := (blockShown s j p c (x / 16)).getD (x % 16 + 16 * (c % 2)) 0
  if d = 12 then v else (v <<< (12 - d) ||| v >>> (2 * d - 12)) % 4096

/-! ## Interpolation (R180, R181) -/

/-- Index and weights (out of 4) on an axis with factor `f`; `i` counts print units. -/
def taps (interp : Bool) (f i : Nat) : List (Int × Nat) :=
  if interp && f == 2 then
    let q0 : Int := (i / 2 : Nat)
    if i % 2 = 0 then [(q0, 3), (q0 - 1, 1)] else [(q0, 3), (q0 + 1, 1)]
  else [((i / f : Nat), 4)]

/-- Clamp an index to 0 .. n - 1. -/
def clampIx (n : Nat) (i : Int) : Nat := if i < 0 then 0 else if (n : Int) ≤ i then n - 1 else i.toNat

/-- The nearest usable contone line of the page, counting from line `c` toward the print line's own `own` (R181). -/
def towardUsable (s : State) (j : JobRun) (p : Page) (own : Nat) : Nat → Nat → Nat
  | 0, _ => own
  | n + 1, c =>
    if lineUsable s j p c then c
    else towardUsable s j p own n (if c < own then c + 1 else if own < c then c - 1 else own)

/-- The samples and weights that column `c` on print line `l` reads; none when it carries no contone (R180 to R182). -/
def contoneTaps (s : State) (j : JobRun) (l c : Nat) : Option (Page × List (Nat × Nat × Nat)) :=
  match pageOfPrint j l with
  | none => none
  | some p =>
    let d := j.decl
    let i := l - p.p.getD 0
    let own := p.first + i / kOf d
    if c < d.firstCol ∨ d.samples * aOf d ≤ c - d.firstCol then none
    else if !lineUsable s j p own then none
    else
      let across := taps (fldB s F.SCR_CTL_INTERP_X) (aOf d) (c - d.firstCol)
      let down := taps (fldB s F.SCR_CTL_INTERP_Y) (kOf d) i
      some (p, across.flatMap (fun ax => down.map (fun dn =>
        (clampIx d.samples ax.1,
         towardUsable s j p own 2 (p.first + clampIx p.count dn.1),
         ax.2 * dn.2))))

/-- The contone lines that print line `l` reads, its own and those its interpolation looks to (R181). -/
def linesRead (s : State) (j : JobRun) (l : Nat) : List Nat :=
  match pageOfPrint j l with
  | none => []
  | some p =>
    let i := l - p.p.getD 0
    (p.first + i / kOf j.decl)
      :: (taps (fldB s F.SCR_CTL_INTERP_Y) (kOf j.decl) i).map (fun dn => p.first + clampIx p.count dn.1)

/-- The deadline handler has decided every contone line that print line `l` reads (R147). -/
def linesDecided (s : State) (j : JobRun) (l : Nat) : Bool := (linesRead s j l).all j.decided.contains

/-- The contone value of column `c` on print line `l` (R181). -/
def contone (s : State) (j : JobRun) (l c : Nat) : Option Nat :=
  (contoneTaps s j l c).map (fun (p, ts) =>
    (ts.foldl (fun acc t => acc + t.2.2 * sample12 s j p t.2.1 t.1) 8) / 16)

/-! ## One nozzle (R185, R189 to R195) -/

/-- What a row's decision of one line reads: the job, the line, the map copy and the parity errors found. -/
structure View where
  j : JobRun
  l : Nat
  m : MapCopy
  parity : List Nat
  thr : List Nat
deriving DecidableEq, Repr

def mkView (s : State) (j : JobRun) (l : Nat) (parity thr : List Nat) : View := ⟨j, l, mapAt s l, parity, thr⟩

/-- The entry as an engine reads it: a word with a parity error is zero for the line (R212). -/
def View.slots (s : State) (v : View) (e : Nat) : BitVec 8 := if v.parity.contains e then 0 else slotsGet s v.m e
def View.kept (v : View) (e : Nat) : BitVec 16 := if v.parity.contains e then 0 else keptGet v.m e

/-- The class of pod `p` with `m` live nozzles skips line `l` (R184). -/
def skippedIn (s : State) (p m l : Nat) : Bool := s.scr.skipped.contains (l, (classIx p m).val)

/-- The turn of a nozzle (R185). -/
def hasTurn (s : State) (v : View) (p e : Nat) : Bool :=
  let sl := slotOf (v.slots s e)
  let lv := liveOf (v.slots s e)
  if sl = 15 ∨ lv = 0 then false
  else if skippedIn s p lv v.l then false
  else (v.l - kCount s p lv v.l) % lv == sl

/-- A threshold entry (R208). -/
def thr (s : State) (v : View) (n y x : Nat) : Nat :=
  if v.thr.contains (65536 * n + 256 * y + x) then 0
  else ((vecGet s (0x43100000 + (n - 1) * 0x20000 + y * 0x200 + x / 16 * 32)).extractLsb' (16 * (x % 16)) 16).toNat

def thrX (s : State) (v : View) (c : Nat) : Nat := (c + scrFldAt s v.l F.SCR_TOFF_XOFF) % 256
def thrY (s : State) (v : View) : Nat := (v.l + scrFldAt s v.l F.SCR_TOFF_YOFF) % 256

/-- The boost of column `c`: ink of orphaned neighbours that carry contone (R190). -/
def boost (s : State) (v : View) (c : Nat) : Nat :=
  let g := scrFldAt s v.l F.SCR_ORPH_ORPH_GAIN
  let from1 := fun o => if orphaned s v.m o then (match contone s v.j v.l o with | some x => g * x / 256 | none => 0) else 0
  (if c = 0 then 0 else from1 (c - 1)) + from1 (c + 1)

/-- The corrected value of a nozzle (R189). -/
def corrected (s : State) (v : View) (p e c x : Nat) : Nat :=
  let vb := x + boost s v c
  let vp := (vb * scrFldAt s v.l (F.SCR_POD_GAIN p) + 2048) / 4096
  let vn := (vp * (256 + kGain (v.kept e)).toNat + 128) / 256
  Nat.min vn 4095

/-- The level of a value: how many thresholds it exceeds (R191). -/
def levelOf (s : State) (v : View) (c vc : Nat) : Nat :=
  let v16 := vc <<< 4 ||| vc >>> 8
  ((List.range 12).filter (fun n => decide (thr s v (n + 1) (thrY s v) (thrX s v c) < v16))).length

/-- The code of a level (R192). -/
def levelCode (s : State) (v : View) (p n : Nat) : Nat :=
  if n = 0 then 0
  else if n ≤ 8 then (scrWordAt s v.l (F.SCR_LEVEL_MAP0 p).addr).toNat / 2 ^ (4 * n - 4) % 16
  else (scrWordAt s v.l (F.SCR_LEVEL_MAP1 p).addr).toNat / 2 ^ (4 * n - 36) % 16

/-- The pod that owns column `c` on the line (R193). -/
def ownerOf (s : State) (v : View) (c : Nat) : Option Nat :=
  match servers s c with
  | [] => none
  | [p] => some p
  | p :: q :: _ =>
    if liveIn s v.m p (c - colBase s p) = 0 then some q
    else if liveIn s v.m q (c - colBase s q) = 0 then some p
    else
      let t := c - colBase s q
      let z := colBase s p + spanOf s p - colBase s q
      if (scrFldAt s v.l F.SCR_STITCH_MODE).testBit p then (if z / 2 ≤ t then some q else some p)
      else
        let w16 := (2 * t + 1) * 65536 / (2 * z)
        if thr s v 1 ((thrY s v + 128) % 256) ((thrX s v c + 128) % 256) < w16 then some q else some p

/-- The entry of pod `p` in column `c` that has the turn. -/
def turnEntry (s : State) (v : View) (p c : Nat) : Option Nat :=
  let u := c - colBase s p
  ((colRows s p u).map (fun r => entryOf s p r (u / ilOf s p))).find? (hasTurn s v p)

/-- The image drop that column `c` fires on the line, with the entry that fires it (R194). -/
def columnImage (s : State) (v : View) (c : Nat) : Option (Nat × Nat) :=
  match ownerOf s v c with
  | none => none
  | some p => match turnEntry s v p c, contone s v.j v.l c with
    | some e, some x =>
      let code := levelCode s v p (levelOf s v c (corrected s v p e c x))
      if code = 0 then none else some (e, code)
    | _, _ => none

/-- A spit is due (R195). -/
def spitDue (s : State) (v : View) (p e c : Nat) : Bool :=
  let tm := s.scr.spitT[classIx p (liveOf (v.slots s e))]
  let idle := (idleGet s e).toNat
  !kNoSpit (v.kept e) && fld s (F.SCR_SPIT_US p) != 0
    && (decide (2 * tm ≤ idle)
        || (decide (tm ≤ idle) && decide (thr s v 1 (thrY s v) (thrX s v c) < fld s (F.SCR_SPIT_DITHER p))))

/-- The drop code of nozzle `j` of row `r` (R192, R194, R195). -/
def nozzleCode (s : State) (v : View) (p r n : Nat) : Nat :=
  let e := entryOf s p r n
  let c := colBase s p + podCol s p r n
  if hasTurn s v p e then
    match columnImage s v c with
    | some (e', code) => if e' = e then code else 0
    | none => if spitDue s v p e c then 13 else 0
  else 0

/-- The codes of a row-line that are not 0, by nozzle. -/
def rowCodes (s : State) (v : View) (p r : Nat) : List (Nat × BitVec 4) :=
  (List.range (nprOf s p)).filterMap (fun n =>
    let c := nozzleCode s v p r n
    if c = 0 then none else some (n, BitVec.ofNat 4 c))

/-- IDLE after a row's turns on the line (R197). -/
def rowIdle (s : State) (v : View) (p r : Nat) (codes : List (Nat × BitVec 4)) : List (Nat × Byte) :=
  (List.range (nprOf s p)).foldl (fun idle n =>
    let e := entryOf s p r n
    if hasTurn s v p e then
      let fired := codes.any (fun x => x.1 == n)
      let i := (idleGet s e).toNat
      spPut (fun _ => 0) idle e (if fired then 0 else BitVec.ofNat 8 (Nat.min 255 (i + 1)))
    else idle) s.scr.idle

/-- The orphaned neighbours that a column takes ink from (R190). -/
def boostFrom (s : State) (v : View) (c : Nat) : List Nat :=
  ((if c = 0 then [] else [c - 1]) ++ [c + 1]).filter (orphaned s v.m)

/-- The blocks that the contone of column `c` on the line lies in, as (page, contone line, block). -/
def columnBlocks (s : State) (v : View) (c : Nat) : List (Page × Nat × Nat) :=
  match contoneTaps s v.j v.l c with
  | some (pg, ts) => ts.map (fun t => (pg, t.2.1 / 2 * 2, t.1 / 16))
  | none => []

/-- The blocks a row-line reads: those of its columns, and those of the orphaned columns beside them (R190). -/
def rowBlocks (s : State) (v : View) (p r : Nat) : List (Page × Nat × Nat) :=
  ((List.range (nprOf s p)).flatMap (fun n =>
    let c := colBase s p + podCol s p r n
    columnBlocks s v c ++ (boostFrom s v c).flatMap (columnBlocks s v))).eraseDups

/-- CONCEAL (R172): each block read that is bad counts once and raises page-store-conceal with row and index; an
uncorrectable codeword is counted by the read (R365). -/
def readBlock (s : State) (v : View) (b : Page × Nat × Nat) : State :=
  let a := blockAddr v.j b.1 b.2.1 b.2.2
  let none1 := (blockRead s v.j b.1 b.2.1 b.2.2).isNone
  let s := dramReadEffect s a (blkOf v.j.decl)
  if none1 then
    alarm (incFld s F.PKR_CONCEAL) 34 [BitVec.ofNat 32 (b.2.1 / 2), BitVec.ofNat 32 b.2.2]
  else s

end Sys2Proof.Machine
end

