-- ==== Sys2Proof/Machine/Record.lean ====
section
/-! DEFINITION. The print record (R277 to R279). -/
namespace Sys2Proof.Machine
open Sys2Proof

/-- Bytes of a record line. -/
def recBytes : Nat := 29184

/-- The address of the record line of print line `l` of a job whose line 0 has slot `start`. -/
def recAddr (s : State) (start l : Nat) : Nat :=
  fld s F.SIGHT_REC_BASE_LO + 2 ^ 32 * fld s F.SIGHT_REC_BASE_HI
    + (start + l) % Nat.max 1 (fld s F.SIGHT_REC_LINES) * recBytes

/-- The record line exists: the ring has lines, and this one lies in usable DRAM. -/
def recExists (s : State) (start l : Nat) : Bool :=
  fld s F.SIGHT_REC_LINES != 0 && decide (recAddr s start l + recBytes ≤ dramUsable s)

/-- GEN of a line: versions in force at or before it (R277). -/
def genOf (s : State) (l : Nat) : Nat := s.sight.genCount - (s.sight.gens.filter (fun g => decide (l < g.x))).length

/-- PHASE of a class on a line: ρ mod 840, or 0xFFFF when the class skipped it. -/
def phaseOf (s : State) (p m l : Nat) : Nat :=
  if skippedIn s p m l then 0xFFFF else (l - kCount s p m l) % 840

/-- Open the record line of `l`: header, no mark, the phases, no code. -/
def openRecord (s : State) (l : Nat) : State :=
  match s.jobs.running with
  | none => s
  | some j =>
    if recExists s s.sight.recStart l then
      let phases := (List.range 24).flatMap (fun p => (List.range 8).flatMap (fun i => leBytes 2 (phaseOf s p (i + 1) l)))
      dramWrite (dramClear s (recAddr s s.sight.recStart l) recBytes) (recAddr s s.sight.recStart l)
        (leBytes 4 j.decl.jobId ++ leBytes 4 l ++ leBytes 4 (genOf s l) ++ leBytes 4 0 ++ List.replicate 48 0 ++ phases)
    else s

/-- The marks of R277. -/
def markFired : Nat := 0
def markNot : Nat := 1
def markCancelled : Nat := 2
def markForeign : Nat := 3

/-- Mark a row-line. -/
def setMark (s : State) (p r l m : Nat) : State :=
  if recExists s s.sight.recStart l then
    let i := 2 * (8 * p + r)
    let a := recAddr s s.sight.recStart l + 0x10 + i / 8
    let old := (memGet s.dram a).toNat
    let keep := old - old / 2 ^ (i % 8) % 4 * 2 ^ (i % 8)
    dramWrite s a [BitVec.ofNat 8 (keep + m * 2 ^ (i % 8))]
  else s

/-- Record one fired code of a bar column. -/
def setCode (start l : Nat) (s : State) (x : Nat × Nat) : State :=
  let a := recAddr s start l + 0x200 + x.1 / 2
  let old := (memGet s.dram a).toNat
  let new := if x.1 % 2 = 0 then old / 16 * 16 + x.2 % 16 else old % 16 + 16 * (x.2 % 16)
  if x.1 < 57344 then dramWrite s a [BitVec.ofNat 8 new] else s

/-- Record the codes a row-line fired. -/
def recordCodes (s : State) (p r l : Nat) (codes : List (Nat × BitVec 4)) : State :=
  if recExists s s.sight.recStart l then
    (codes.map (fun c => (colBase s p + podCol s p r c.1, c.2.toNat))).foldl (setCode s.sight.recStart l) s
  else s

/-- The slot of a line holds that line of that job (R279). -/
def recHolds (s : State) (jobId start l : Nat) : Bool :=
  recExists s start l
    && memNat s.dram (recAddr s start l) 4 == jobId && memNat s.dram (recAddr s start l + 4) 4 == l

/-- Fields of a record line. -/
def recMark (s : State) (start l p r : Nat) : Nat :=
  let i := 2 * (8 * p + r)
  (memGet s.dram (recAddr s start l + 0x10 + i / 8)).toNat / 2 ^ (i % 8) % 4
def recGen (s : State) (start l : Nat) : Nat := memNat s.dram (recAddr s start l + 8) 4
def recPhase (s : State) (start l p m : Nat) : Nat := memNat s.dram (recAddr s start l + 0x40 + 2 * (8 * p + m - 1)) 2
def recCode (s : State) (start l c : Nat) : Nat :=
  (memGet s.dram (recAddr s start l + 0x200 + c / 2)).toNat / 16 ^ (c % 2) % 16

end Sys2Proof.Machine
end

