-- ==== Sys2Proof/Machine/Pods.lean ====
section
/-! DEFINITION. The Darnor pod links: line coding, frames, bring-up, delay, line data and FIRE (R240 to R276). -/
namespace Sys2Proof.Machine
open Sys2Proof

/-! ## Line coding (R243 to R246) -/

/-- The comma, in order of transmission (R244). -/
def comma : List Bool :=
  [false, true, true, true, true, true, true, true, false, false, false, false, false, false, false, true]

/-- The bits of a byte, least significant first (R243). -/
def byteBits (b : Byte) : List Bool := (List.range 8).map (fun i => b.getLsbD i)

/-- One scrambled bit and the register after it (R245). -/
def scrambleBit (r : BitVec 16) (d : Bool) : Bool × BitVec 16 :=
  let f := r.getLsbD 15 ^^ r.getLsbD 13 ^^ r.getLsbD 12 ^^ r.getLsbD 10
  (d ^^ r.getLsbD 15, (r <<< 1) ||| (if f then 1 else 0))

def scrambleFrom : BitVec 16 → List Bool → List Bool
  | _, [] => []
  | r, d :: ds => (scrambleBit r d).1 :: scrambleFrom (scrambleBit r d).2 ds

/-- The frame body scrambled: the register is all ones at the last bit of the comma (R245). -/
def scramble (bs : List Byte) : List Bool := scrambleFrom 0xFFFF (bs.flatMap byteBits)

/-- Stuffing after scrambling (R246): `n` identical bits `last` have gone out. -/
def stuffFrom : Bool → Nat → List Bool → List Bool
  | _, _, [] => []
  | last, n, d :: ds =>
    let m := if d = last then n + 1 else 1
    if m = 5 then d :: (!d) :: stuffFrom (!d) 1 ds else d :: stuffFrom d m ds

/-- The line bits of a frame: its comma, then the scrambled and stuffed body (R244 to R246). -/
def lineBits (frame : List Byte) : List Bool := comma ++ stuffFrom true 1 (scramble frame)

/-! ## Frames (R248, R249) -/

/-- A Darnor frame: header, payload, CRC-32C (R248). -/
def podFrame (type : Byte) (epoch : Word) (pl : List Byte) : List Byte :=
  let body := [type, 0] ++ leBytes 2 pl.length ++ leBytes 4 epoch.toNat ++ pl
  body ++ leBytes 4 (crc32c body).toNat

/-- Only the active drives its pod lanes (R273). -/
def drives (s : State) : Bool := isActive s && s.boot.phase == .ready

/-- Send a downstream frame with the pair epoch. -/
def sendPod (s : State) (p : Fin 24) (type : Byte) (pl : List Byte) : State :=
  if drives s then emit s (.pod p (podFrame type (pairEpoch s) pl)) else s

def link (s : State) (p : Fin 24) : PodLink := s.pods.links[p]
def setLink (s : State) (p : Fin 24) (x : PodLink) : State :=
  { s with pods := { s.pods with links := s.pods.links.set p x } }
def modLink (s : State) (p : Fin 24) (f : PodLink → PodLink) : State := setLink s p (f (link s p))

def podUp (s : State) (p : Nat) : Bool := fldB s (F.PODL_STAT_UP p)

/-- Write one register of the pod. -/
def writeReg (s : State) (p : Fin 24) (addr v : Nat) : State :=
  sendPod s p 0x04 (leBytes 2 addr ++ leBytes 2 0 ++ leBytes 4 v)

/-- The fitted pods as indices. -/
def podsFin (s : State) : List (Fin 24) := (List.finRange 24).filter (fun p => fitted s p)

/-- CLEAR to every fitted pod (R268). -/
def clearPods (s : State) : State := (podsFin s).foldl (fun s p => sendPod s p 0x09 []) s

/-- ABORT to one pod (R269). -/
def abortPod (s : State) (p : Fin 24) (inhibit : Bool) : State :=
  sendPod s p 0x0A (leBytes 4 (if inhibit then 1 else 0))

/-- An IDLE frame (R249). The transmitter sends such frames for as long as it has nothing else to send (R244); the
model notes the one that opens a bring-up (log entry 83). -/
def sendIdle (s : State) (p : Fin 24) : State := sendPod s p 0x01 []

/-! ## ECHO and delay (R255) -/

/-- Send an ECHO and note when its comma left. -/
def sendEcho (s : State) (p : Fin 24) (t : Nat) : State :=
  let tag := (link s p).tag
  let s := sendPod s p 0x06 (leBytes 2 tag.toNat ++ leBytes 2 0)
  modLink s p (fun x => { x with tag := tag + 1, echo := some (tag, t) })

/-- Twice the one-way delay as sum and count of the measurements in use. -/
def delaySum (x : PodLink) : Int := x.meas.foldl (· + ·) 0

/-- The one-way delay in whole 312.5 ps units, rounded. -/
def delayUnits (x : PodLink) : Nat :=
  if x.meas.isEmpty then 0 else ((delaySum x + x.meas.length) / (2 * x.meas.length)).toNat

/-- The measurement lies more than 2 ns from the mean of those in use: 6.4 units one way. -/
def delayOutlier (x : PodLink) (m : Int) : Bool :=
  !x.meas.isEmpty && decide (64 * (x.meas.length : Int) < 5 * (m * x.meas.length - delaySum x).natAbs)

/-- Take the measurement `m`, a round trip less TURN, of an ECHO sent at `t0`. -/
def takeDelay (s : State) (p : Fin 24) (m : Int) (t0 : Nat) : State :=
  let x := link s p
  if delayOutlier x m then alarm s (124 + p) []
  else
    let x := { x with meas := (m :: x.meas).take 8 }
    let x := { x with answered := some (x.answered.getD (t0 + delayUnits x)) }
    setFld (setLink s p x) (F.PODL_DELAY p) (delayUnits x)

/-! ## Bring-up (R242) -/

/-- The conditions of a bring-up: enabled, on the active. -/
def wantsUp (s : State) (p : Fin 24) : Bool := drives s && fldB s (F.PODL_CTL_ENABLE p)

/-- A lane rate that RATE can name. -/
def rateLegal (r : Nat) : Bool := decide (r ≤ 5)

/-- Fall back to rate code 0 (step 2). -/
def fallBack (s : State) (p : Fin 24) : State :=
  setFld (modLink s p (fun x => { x with step := .statusAtZero, rate := 0 })) (F.PODL_STAT_FALLBACK p) 1

/-- Start a bring-up. At a change of role the first frame is an ECHO (R273). -/
def bringUp (s : State) (p : Fin 24) (quick : Bool) : State :=
  if wantsUp s p then
    let s := setFld (setFld s (F.PODL_STAT_UP p) 0) (F.PODL_STAT_FALLBACK p) 0
    let r := fld s (F.PODL_CTL_RATE p)
    let s := modLink s p (fun x =>
      { x with step := .statusAtRate, quick := quick, rate := r, echo := none, meas := [] })
    let s := sendIdle (if quick then sendEcho s p s.clk.now else s) p
    if rateLegal r then s else fallBack s p
  else s

/-- Ask for identity register `k`. -/
def askId (s : State) (p : Fin 24) (k : Nat) : State :=
  let tag := (link s p).tag
  let s := sendPod s p 0x05 (leBytes 2 tag.toNat ++ leBytes 2 (4 * k))
  modLink s p (fun x => { x with step := .readId k, tag := tag + 1 })

/-- Step 4 and the start of step 5. -/
def configurePod (s : State) (p : Fin 24) : State :=
  let s := if (link s p).quick then s
    else
      let s := writeReg s p 0x024 (fld s (F.PODL_CTL_BG p) + 2 ^ 16 * fld s (F.PODL_CTL_TG p))
      (List.range 14).foldl (fun s n => writeReg s p (0x100 + 4 * (n + 1)) (fld s (F.PODL_WAVE p (n + 1)))) s
  sendEcho (modLink s p (fun x => { x with step := .echo 0 })) p s.clk.now

/-- PD_RATES marks a code supported. -/
def podSupports (s : State) (p r : Nat) : Bool := rateLegal r && (fld s (F.PODL_ID p 6)).testBit r

/-- The identity stored with pod `p`'s lane tuning is the PD_ID that the pod has answered (R514). -/
def podKnown (s : State) (p : Fin 24) : Bool := s.lanes.podIds.contains (p.val, BitVec.ofNat 32 (fld s (F.PODL_ID p 0)))

/-- A receiver starts from stored results only with the pod they were taken from (R514). -/
def noteStored (s : State) (p : Fin 24) : State :=
  setFldB s (F.LANE_STAT_STORED (10 + p.val)) (s.lanes.stored.contains (10 + p.val, (link s p).rate) && podKnown s p)

/-- After the identity: with a fallback and a supported RATE the pod is told to change (step 3). -/
def afterIds (s : State) (p : Fin 24) : State :=
  let s := noteStored s p
  let r := fld s (F.PODL_CTL_RATE p)
  if fldB s (F.PODL_STAT_FALLBACK p) && podSupports s p r then
    modLink (writeReg s p 0x020 r) p (fun x => { x with step := .rateWritten })
  else configurePod s p

/-- A good STATUS ends the wait of step 1, 2 or 3. -/
def statusWait (s : State) (p : Fin 24) : State :=
  match (link s p).step with
  | .statusAtRate => askId s p 0
  | .statusAtZero => askId s p 0
  | .statusAtNew => configurePod s p
  | _ => s

/-! ## Loss (R247) -/

/-- The device declares its port to the pod lost. -/
def portLost (s : State) (p : Fin 24) : State :=
  let was := podUp s p
  let s := setFld (setFld s (F.PODL_STAT_LOCK p) 0) (F.PODL_STAT_UP p) 0
  if was then bringUp (alarm s (196 + p) [0]) p false else s

/-- An upstream frame that fails a check of R248 is discarded and counted; the eighth in a row loses the port (R247). -/
def discardUpstream (s : State) (p : Fin 24) : State :=
  let s := incFld s (F.PODL_RX_CRC p)
  let n := (link s p).bad + 1
  if n = 8 then portLost (modLink s p (fun x => { x with bad := 0 })) p else modLink s p (fun x => { x with bad := n })

/-- A good upstream frame ends a run of discarded ones. -/
def goodUpstream (s : State) (p : Fin 24) : State := modLink s p (fun x => { x with bad := 0 })

/-- An abandoned bring-up starts again while its conditions hold. -/
def execPodBringupRetry (p : Fin 24) (s : State) : Res :=
  .next (if (link s p).step = .abandoned then bringUp s p (link s p).quick else s)

/-- READ_RESP (R250): the answer of a bring-up's identity read. -/
def execReadResp (p : Fin 24) (tag addr : BitVec 16) (v : Word) (bad : Bool) (s : State) : Res :=
  if bad then .next (discardUpstream s p) else
  let s := goodUpstream s p
  match (link s p).step with
  | .readId k =>
    if tag + 1 = (link s p).tag ∧ addr.toNat % 2 ^ 15 = 4 * k then
      let s := setFld (modLink s p (fun x => { x with accepted := true })) (F.PODL_ID p k) v.toNat
      .next (if k < 6 then askId s p (k + 1) else afterIds s p)
    else .next s
  | _ => .next s

/-- The device changes its own lane rate (R242, step 3). -/
def execPodRateSwitch (p : Fin 24) (s : State) : Res :=
  .next (if (link s p).step = .rateWritten then
    modLink s p (fun x => { x with step := .statusAtNew, rate := fld s (F.PODL_CTL_RATE p) }) else s)

/-- ECHO_RESP arrives with its comma at `t` (R255); in step 5 it counts one of eight. -/
def execEchoResp (p : Fin 24) (tag : BitVec 16) (turn : Word) (t : Nat) (bad : Bool) (s : State) : Res :=
  let s := advanceTo s t
  if bad then .next (discardUpstream s p) else
  let s := goodUpstream s p
  match (link s p).echo with
  | some (g, t0) =>
    if g = tag then
      let s := modLink s p (fun x => { x with echo := none, accepted := true })
      let s := takeDelay s p ((t : Int) - t0 - turn.toNat) t0
      match (link s p).step with
      | .echo k =>
        if 7 ≤ k then .next (setFld (modLink s p (fun x => { x with step := .idle })) (F.PODL_STAT_UP p) 1)
        else .next (sendEcho (modLink s p (fun x => { x with step := .echo (k + 1) })) p t)
      | _ => .next s
    else .next s
  | none => .next s

/-- Every 1 ms (R255). -/
def execEchoMeasure (p : Fin 24) (t : Nat) (s : State) : Res :=
  let s := advanceTo s t
  .next (if drives s && podUp s p then sendEcho s p t else s)

/-! ## Events of the port (R247) -/

def execPodLinkLost (p : Fin 24) (s : State) : Res := .next (portLost s p)
def execPodStatusSilence (p : Fin 24) (s : State) : Res := .next (portLost s p)

/-! ## Line buffers (R257, R258) -/

/-- Segments of a row-line that hold a code other than 0 (R251, R254). -/
def segments (x : RowLine) : List Nat := (x.codes.map (fun c => c.1 / 64)).eraseDups

/-- The nonzero segments that have not been sent. -/
def unsent (x : RowLine) : List Nat := (segments x).drop x.sentSegs

/-- All its nonzero segments have been sent. -/
def allSent (x : RowLine) : Bool := (unsent x).isEmpty

/-- Bytes of a row-line in the line buffer: 33 a segment, until they are sent (R257, R363). -/
def heldBytes (x : RowLine) : Nat := 33 * (unsent x).length

def fillOf (s : State) (p : Nat) : Nat := ((s.pods.lines.filter (fun x => x.p.val == p)).map heldBytes).sum

/-- Lines a row has finished deciding ahead of the next line it fires, 0 to 64. -/
def rowLead (s : State) (p r : Nat) : Nat :=
  Nat.min 64 (s.scr.decidedTo[rowIx p r] - s.plc2.nextFire[rowIx p r])

/-- LEAD of a pod (R257); 0 where it has no fitted row. -/
def leadOf (s : State) (p : Nat) : Nat :=
  if fitted s p && rowsOf s p != 0 then ((List.range (rowsOf s p)).map (rowLead s p)).foldl Nat.min 64 else 0

/-- The pod is urgent (R258), on a fitted pod of a running job. -/
def urgent (s : State) (p : Nat) : Bool :=
  jobRuns s && fitted s p
    && decide (100 * Nat.max (1024 * leadOf s p) (fillOf s p) < Nat.min 100 (fld s (F.PODL_CTL_WM p)) * 65536)

/-- The line buffer has room for a row-line. -/
def bufferRoom (s : State) (p : Nat) (codes : List (Nat × BitVec 4)) : Bool :=
  decide (fillOf s p + 33 * (codes.map (fun c => c.1 / 64)).eraseDups.length ≤ 65536)

def findLine (s : State) (p : Fin 24) (r : Fin 8) (l : Nat) : Option RowLine :=
  s.pods.lines.find? (fun x => x.p == p && x.r == r && x.l == l)

def setLine (s : State) (y : RowLine) : State :=
  { s with pods := { s.pods with
      lines := s.pods.lines.map (fun x => if x.p == y.p && x.r == y.r && x.l == y.l then y else x) } }

/-- The pod's HV enable is driven high (R485, R487). -/
def hvOn (s : State) (p : Nat) : Bool := (fld s F.PODPWR_HV_STAT).testBit p

/-- The transmitter can serve the pod: link up, HV enable high (R222), an ECHO answered in this role (R273). -/
def canSend (s : State) (p : Fin 24) : Bool := drives s && podUp s p && hvOn s p

/-! ## Line data (R249, R251, R254) -/

/-- The 32 code bytes of a segment. -/
def segBytes (codes : List (Nat × BitVec 4)) (g : Nat) : List Byte :=
  let at1 := fun j : Nat => (codes.find? (fun c => c.1 == 64 * g + j)).elim (0 : Nat) (fun c => c.2.toNat)
  (List.range 32).map (fun i => BitVec.ofNat 8 (at1 (2 * i) + 16 * at1 (2 * i + 1)))

/-- LINE_DATA frames of the segments `gs`, at most 16 to a frame. -/
def lineDataFrames (x : RowLine) (gs : List Nat) : List (List Byte) :=
  (List.range ((gs.length + 15) / 16)).map (fun i =>
    let part := (gs.drop (16 * i)).take 16
    [BitVec.ofNat 8 x.r.val, BitVec.ofNat 8 part.length] ++ leBytes 2 0 ++ leBytes 4 x.l
      ++ part.flatMap (fun g => BitVec.ofNat 8 g :: segBytes x.codes g))

/-- The pod's register of the row's parity is free: the last row-line of that parity that got a FIRE has fired. -/
def registerFree (s : State) (x : RowLine) : Bool :=
  match (link s x.p).fired.find? (fun e => e.1 == 2 * x.r.val + x.l % 2) with
  | some e => decide (e.2 ≤ s.clk.now)
  | none => true

/-- The trigger of row-line `y` comes before that of `x`, on the same pod. -/
def triggersBefore (s : State) (x y : RowLine) : Bool :=
  y.p == x.p && decide (fireTarget s y.p y.r y.l < fireTarget s x.p x.r x.l)

/-- No row-line with an earlier trigger has data that could leave (R254). -/
def dataTurn (s : State) (x : RowLine) : Bool :=
  s.pods.lines.all (fun y => !(triggersBefore s x y && !y.done && !allSent y && registerFree s y))

/-- LINE_DATA_SEND: the next `n` nonzero segments leave in rising order. A segment whose parity fails is not sent, nor
any after it, and the row-line is cancelled (R363). -/
def execLineDataSend (p : Fin 24) (r : Fin 8) (l n : Nat) (parityBad : Option Nat) (s : State) : Res :=
  match findLine s p r l with
  | none => .next s
  | some x =>
    if !allSent x && !x.done && canSend s p && registerFree s x && dataTurn s x then
      let gs := (unsent x).take n
      let bad := match parityBad with
        | some b => gs.contains b
        | none => false
      let out := if bad then gs.takeWhile (fun g => some g != parityBad) else gs
      let s := (lineDataFrames x out).foldl (fun s f => sendPod s p 0x02 f) s
      if bad then
        .next (alarm (setLine s { x with sentSegs := (segments x).length, cancel := true }) (46 + p)
          [BitVec.ofNat 32 r.val, BitVec.ofNat 32 l])
      else .next (setLine s { x with sentSegs := x.sentSegs + gs.length })
    else .next s

/-! ## FIRE (R252 to R254, R259) -/

/-- Twice the line rate of a rate code in MBd: a unit of 312.5 ps holds rate / 3,200 bits (R240). -/
def rate2 (r : Nat) : Nat := [5000, 6250, 10000, 12500, 16000, 20625].getD r 5000

/-- POD_LAT from the pod's identity (R274). -/
def podLat (s : State) (p : Nat) : Nat := fld s (F.PODL_ID p 3) % 2 ^ 16

/-- D of a copy whose comma ends `bits` line bits after `t`, for a trigger at `tf`, to the nearest unit (R253, R254,
R255). -/
def fireD (s : State) (p : Fin 24) (tf t bits : Nat) : Int :=
  let x := link s p
  let n : Int := 2 * Nat.max 1 x.meas.length
  let r2 : Int := rate2 x.rate
  let num := (n * ((tf : Int) - t - podLat s p) - delaySum x) * r2 - bits * 6400 * n
  (2 * num + n * r2) / (2 * n * r2)

/-- D as the frame carries it. -/
def clampD (d : Int) : Nat := if d < 256 then 256 else if 65535 < d then 65535 else d.toNat

/-- The FIRE payload (R249). -/
def firePayload (s : State) (r : Fin 8) (l : Nat) (cancel : Bool) (fill d : Nat) : List Byte :=
  [BitVec.ofNat 8 r.val, BitVec.ofNat 8 (l % 2 + if cancel then 2 else 0)] ++ leBytes 2 fill ++ leBytes 4 l
    ++ leBytes 2 d ++ leBytes 2 0 ++ leBytes 4 (lineInterval s)

def fireFrame (s : State) (r : Fin 8) (l : Nat) (cancel : Bool) (fill d : Nat) : List Byte :=
  podFrame 0x03 (pairEpoch s) (firePayload s r l cancel fill d)

/-- D of both copies: the second follows the first frame. -/
def fireDs (s : State) (p : Fin 24) (r : Fin 8) (l : Nat) (cancel : Bool) (fill tf t : Nat) : Int × Int :=
  let d1 := fireD s p tf t 0
  (d1, fireD s p tf t (lineBits (fireFrame s r l cancel fill (clampD d1))).length)

/-- Send both FIRE copies and note the row-line's trigger for the pod's register (R254). -/
def sendFire (s : State) (p : Fin 24) (r : Fin 8) (l : Nat) (cancel : Bool) (fill tf t : Nat) : State :=
  let ds := fireDs s p r l cancel fill tf t
  let s := sendPod s p 0x03 (firePayload s r l cancel fill (clampD ds.1))
  let s := sendPod s p 0x03 (firePayload s r l cancel fill (clampD ds.2))
  modLink s p (fun x => { x with
    firedOnce := true, fired := (2 * r.val + l % 2, tf) :: x.fired.filter (fun e => e.1 != 2 * r.val + l % 2) })

/-- Segments in a row. -/
def segCount (s : State) (p : Nat) : Nat := (nprOf s p + 63) / 64

/-- How W runs on from its reference point, 2^-32 sub-lines over units of time: S, or S_r after a stop (R217, R218). -/
def runRate (s : State) : Int × Nat :=
  match s.plc.mode with
  | .stopped => (0, 0)
  | .restart => if s.plc.dirs.headD true then (oneCount s, s.plc.span) else (0, 0)
  | _ => (s.plc.speed, 1)

/-- The trigger time that FIRE delivers (R221): the earliest instant at which W reaches `f`. Short of the next count that
is W(t) itself; a target beyond it, for which FIRE must leave before that count is seen, is placed where W reaches it at
the same rate (DEDUCED, log entry 113). -/
def predicted1 (s : State) (f : Int) : Option Nat :=
  if f ≤ wNow s then some s.clk.now
  else
    let (v, n) := runRate s
    if v ≤ 0 ∨ n = 0 then none
    else some (Nat.max s.clk.now (s.plc.refT + (((fix f - s.plc.refW) * n + v - 1) / v).toNat))

/-- Placement issues the trigger of a row-line: its time is logged and the fire guard checks it (R221, R234). -/
def issueTrigger (s : State) (p : Fin 24) (r : Fin 8) (l tf : Nat) : State × Bool :=
  let trips := guardTrips s (mapAt s l) p r l tf
  let s := { s with plc2 := { s.plc2 with trig := ((rowIx p r).val, l, tf) :: s.plc2.trig } }
  if trips then (alarm (incFld s F.PLC_GUARD) (98 + p) [], true) else (s, false)

/-- The fence of R348: no FIRE for a trigger before 4.0 µs after the first answered ECHO reached the pod. -/
def beforeFence (s : State) (p : Fin 24) (tf : Nat) : Bool :=
  match (link s p).answered with
  | none => true
  | some t => s.pods.forced && decide (tf < t + 12800)

/-- Trigger and guard of a row-line, once. -/
def triggered (s : State) (x : RowLine) (tf : Nat) : State × RowLine :=
  match x.trig with
  | some _ => (s, x)
  | none =>
    let (s, trips) := issueTrigger s x.p x.r x.l tf
    let x := { x with trig := some tf, cancel := x.cancel || trips }
    (setLine s x, x)

/-- The row-line's FIRE can be sent at all: the row has not passed it, no encoder fault has ended firing, and the device
has not stopped for a hand-over (R353). -/
def mayFire (s : State) (p : Fin 24) (r : Fin 8) (l : Nat) : Bool :=
  canSend s p && jobRuns s && !s.plc2.noFire && !s.tho.stopped && decide (s.plc2.nextFire[rowIx p r] ≤ l)
    && (match s.jobs.running with | some j => (match j.halt with | some h => decide (l < h) | none => true) | none => false)

/-- The trigger time of a row-line, issued or expected. -/
def triggerOf (s : State) (x : RowLine) : Option Nat := x.trig.orElse (fun _ => predicted1 s (fireTarget s x.p x.r x.l))

/-- A row-line whose data is out and whose FIRE may leave. -/
def fireWaits (s : State) (y : RowLine) : Bool :=
  allSent y && !y.done && !y.codes.isEmpty && mayFire s y.p y.r y.l
    && (match triggerOf s y with | some tf => !beforeFence s y.p tf | none => false)

/-- No row-line with an earlier trigger waits for its FIRE (R254). -/
def fireTurn (s : State) (x : RowLine) : Bool := s.pods.lines.all (fun y => !(triggersBefore s x y && fireWaits s y))

/-- 4.0 µs, the longest time by which a FIRE leaves before its trigger (R347). -/
def fireAhead : Nat := 12800

/-- FIRE_SEND at `t` (R254): both copies, at most 4.0 µs ahead of the trigger (R347); with CANCEL when the row-line is
cancelled, or when the second copy could no longer keep D at 256 (R222, R259). -/
def execFireSend (p : Fin 24) (r : Fin 8) (l : Nat) (t : Nat) (s : State) : Res :=
  let s := plcTime s t
  match findLine s p r l with
  | none => .next s
  | some x =>
    if fireWaits s x && fireTurn s x then
      match triggerOf s x with
      | none => .next s
      | some tf =>
        if t + fireAhead < tf then .next s
        else
          let (s, x) := triggered s x tf
          let late := decide ((fireDs s p r l false (segCount s p) tf t).2 < 256)
          let cancel := x.cancel || late
          let s := sendFire s p r l cancel (segCount s p) tf t
          let s := setLine s { x with done := true, cancel := cancel }
          if x.cancel then .next (setMark s p r l markCancelled)
          else if late then .next (incFld (setMark s p r l markNot) F.PLC_MISSED)
          else
            let s := addFld s F.SCR_SPITS (x.codes.filter (fun c => c.2 == 13)).length
            .next (recordCodes (setMark s p r l markFired) p r l x.codes)
    else .next s

/-- The codes a row-line fires when its segments from `fill` on are the background (R252, R259). -/
def filledCodes (s : State) (p : Fin 24) (codes : List (Nat × BitVec 4)) (fill : Nat) : List (Nat × BitVec 4) :=
  codes.filter (fun c => decide (c.1 < 64 * fill))
    ++ (List.range (nprOf s p - 64 * fill)).map (fun i => (64 * fill + i, BitVec.ofNat 4 (fld s (F.PODL_CTL_BG p))))

/-- The row-line has data the pod does not hold: it is not decided, or segments of it have not been sent (R259). -/
def dataMissing (s : State) (p : Fin 24) (r : Fin 8) (l : Nat) : Bool :=
  match findLine s p r l with
  | some x => !allSent x && !x.done
  | none => decide (s.scr.decidedTo[rowIx p r] ≤ l)

/-- `t` is the latest departure of the first FIRE copy: the second copy's D is at least 256, and a tick later it is not
(log entry 125). -/
def lastDeparture (s : State) (p : Fin 24) (r : Fin 8) (l : Nat) (cancel : Bool) (fill tf t : Nat) : Bool :=
  decide (256 ≤ (fireDs s p r l cancel fill tf t).2) && decide ((fireDs s p r l cancel fill tf (t + 1)).2 < 256)

/-- POD_UNDERRUN (R259): the latest departure comes before the row-line is decided or its segments are sent. -/
def execPodUnderrun (p : Fin 24) (r : Fin 8) (l : Nat) (t : Nat) (s : State) : Res :=
  let s := plcTime s t
  if dataMissing s p r l && mayFire s p r l && fitted s p && decide (r.val < rowsOf s p) then
    let x := (findLine s p r l).getD ⟨p, r, l, [], 0, none, false, false⟩
    match triggerOf s x with
    | none => .next s
    | some tf =>
      let fill := (unsent x).headD 0
      if beforeFence s p tf ∨ lastDeparture s p r l x.cancel fill tf t = false then .next s
      else
        let s := if (findLine s p r l).isSome then s
          else { s with pods := { s.pods with lines := s.pods.lines ++ [x] } }
        let (s, x) := triggered s x tf
        let s := sendFire s p r l x.cancel fill tf t
        let codes := filledCodes s p x.codes fill
        let s := setLine s { x with done := true, codes := [] }
        let s := alarm (incFld s (F.PODL_UNDERRUN p)) (148 + p)
          [BitVec.ofNat 32 r.val, BitVec.ofNat 32 l]
        if x.cancel then .next (setMark s p r l markCancelled)
        else
          let s := addFld s F.SCR_SPITS (codes.filter (fun c => c.2 == 13)).length
          .next (recordCodes (setMark s p r l markFired) p r l codes)
  else .next s

/-! ## Scan and purge (R266, R267) -/

def scanBase (s : State) : Nat := fld s F.PODL_SCAN_BASE_LO + 2 ^ 32 * fld s F.PODL_SCAN_BASE_HI

/-- RSCAN_DATA: 64 results go to the entries of the segment (R266). -/
def execRscanData (p : Fin 24) (row : Fin 8) (seg : Fin 256) (bytes : List Byte) (bad : Bool) (s : State) : Res :=
  if bad then .next (discardUpstream s p) else
  let s := goodUpstream s p
  if (link s p).scanning && decide (row.val < rowsOf s p) then
    let n := Nat.min 64 (nprOf s p - 64 * seg.val)
    .next (dramWrite s (scanBase s + entryOf s p row (64 * seg.val)) (bytes.take n))
  else .next s

/-- RSCAN_DONE ends the wait for a pod. -/
def execRscanDone (p : Fin 24) (_aborted : Bool) (bad : Bool) (s : State) : Res :=
  .next (if bad then discardUpstream s p
    else modLink (goodUpstream s p) p (fun x => { x with scanning := false }))

/-- 1.2 s have passed: each pod still awaited raises scan-incomplete (R266). -/
def execScanTimeout (s : State) : Res :=
  .next ((List.finRange 24).foldl (fun s p =>
    if (link s p).scanning then alarm (modLink s p (fun x => { x with scanning := false })) (172 + p) [] else s) s)

/-- LONG 2 starts the scan: the area is zeroed and RSCAN sent to every fitted pod whose link is up (R266). -/
def startScan (s : State) : State :=
  let s := dramClear s (scanBase s) 327680
  (podsFin s).foldl (fun s (p : Fin 24) =>
    if podUp s p then
      modLink (sendPod s p 0x07 (leBytes 4 (2 ^ rowsOf s p - 1))) p (fun x => { x with scanning := true })
    else s) s

/-- PODL_PURGE_GO (R267). -/
def purgeGo (s : State) (v : Word) : State :=
  if jobDeclared s then setFld s F.PODL_GSTAT_PURGE_IGNORED 1
  else
    let p := fldOf F.PODL_PURGE_GO_POD v
    if h : p < 24 then
      sendPod s ⟨p, h⟩ 0x08 ([BitVec.ofNat 8 (fldOf F.PODL_PURGE_GO_ROWS v), 0]
        ++ leBytes 2 (fld s F.PODL_PURGE_CFG_COUNT) ++ leBytes 2 (fld s F.PODL_PURGE_CFG_PERIOD_US) ++ leBytes 2 0)
    else s


end Sys2Proof.Machine
end

