-- ==== Sys2Proof/Machine/Camera.lean ====
section
/-! DEFINITION. Cameras: control, bring-up, triggers, frames, exposure and contexts (R280 to R288, R294, R295, R297 to
R300, R303 to R306), and the hand-back of R357. -/
namespace Sys2Proof.Machine
open Sys2Proof

/-- HAND_BACK (R357): a check fails within 10 ms after this device took the bar by hand-over; `i` is the pod, 24 plus
the axis or 28 plus the camera, which was well on the old active. The device is HIDDEN, and hands the bar back unless it
came by a hand-back; a twin that is not eligible makes that a declined hand-over (R351). -/
def handBack (s : State) (i : Nat) : State :=
  match s.tho.since with
  | some t0 =>
    if isActive s && decide (s.clk.now ≤ t0 + 32000000) && s.tho.wasUp.contains i then
      let s := setNotElig { s with tho := { s.tho with since := none } } 13 true
      if s.tho.handedBack then { s with tho := { s.tho with handedBack := false } }
      else
        let s := startHandover s
        { s with tho := { s.tho with handedBack := s.tho.ho != .no } }
    else s
  | none => s

def cam (s : State) (n : Fin 4) : Camera := s.sight.cams[n]
def setCam (s : State) (n : Fin 4) (c : Camera) : State :=
  { s with sight := { s.sight with cams := s.sight.cams.set n c } }
def modCam (s : State) (n : Fin 4) (f : Camera → Camera) : State := setCam s n (f (cam s n))

/-! ## Fields as the device acts on them (R305) -/

def atLeast (k v : Nat) : Nat := if v < k then k else v
def camYb (s : State) (n : Nat) : Nat := atLeast 1 (fld s (F.SIGHT_YB n))
def camPhase (s : State) (n : Nat) : Nat := fld s (F.SIGHT_PHASE n) % camYb s n
def camFrameLines (s : State) (n : Nat) : Nat := atLeast 1 (fld s (F.SIGHT_FRAME_LINES n))
def camGapLines (s : State) (n : Nat) : Nat := atLeast 1 (fld s (F.SIGHT_GAP_LINES n))
def camWidth (s : State) (n : Nat) : Nat := Nat.min 32768 (atLeast 1 (fld s (F.SIGHT_WIDTH n)))
def camStatSlots (s : State) (n : Nat) : Nat := atLeast 1 (fld s (F.SIGHT_STAT_SLOTS n))
def camProfSlots (s : State) (n : Nat) : Nat := atLeast 4 (fld s (F.SIGHT_PROF_SLOTS n))
def camSpoolFrames (s : State) (n : Nat) : Nat := atLeast 2 (fld s (F.SIGHT_SPOOL_FRAMES n))
def camBits (s : State) (n : Nat) : Nat := [8, 10, 12].getD (fld s (F.SIGHT_CAM_CTL_DEPTH n)) 12
def sharedMode (s : State) : Bool := fldB s F.SIGHT_CFG_MODE
/-- A camera whose frames are spooled (R293). -/
def spooled (s : State) (n : Fin 4) : Bool := sharedMode s && n != 0
/-- The compare unit that triggers the camera, if one does (R288). -/
def camCompare (s : State) (n : Nat) : Option Nat :=
  if 8 ≤ fld s (F.SIGHT_CAM_CTL_TRIG n) then some (fld s (F.SIGHT_CAM_CTL_TRIG n) - 8) else none

/-! ## Control commands (R280, R284, R299) -/

/-- An IEEE-754 single of `n` / 1000, to nearest even: EXP_NS in µs (R299). -/
def f32Micros (n : Nat) : Word :=
  if n = 0 then 0
  else
    let l := Nat.log2 (n * 65536 / 1000)
    let k := 39 - l                       -- 23 - (l - 16)
    let q := n * 2 ^ k
    let m := q / 1000
    let r := q % 1000
    let m := if 500 < r ∨ (r = 500 ∧ m % 2 = 1) then m + 1 else m
    BitVec.ofNat 32 ((l + 127 - 16) * 2 ^ 23 + (m - 2 ^ 23))

/-- The exposure register value of a set (R299). -/
def expValue (s : State) (n : Nat) (e : ExpSet) : Word :=
  if fldB s (F.SIGHT_EXP_FMT n) then f32Micros e.ns
  else
    let u := atLeast 1 (fld s (F.SIGHT_EXP_UNIT n))
    BitVec.ofNat 32 ((2 * e.ns + u) / (2 * u))

/-- The set that bring-up writes: the newest accepted one (R303); before any, the exposure stations as kept. -/
def bringSet (s : State) (n : Fin 4) : ExpSet :=
  (cam s n).newest.getD ⟨fld s (F.SIGHT_EXP_NS n), BitVec.ofNat 32 (fld s (F.SIGHT_GAIN n)),
    BitVec.ofNat 16 (fld s (F.SIGHT_EXP_TAG_ACCEPTED n))⟩

/-- Address and value of a control command; discovery and retraining write no register. -/
def opWords (s : State) (n : Fin 4) : CamOp → Word × Word
  | .discover => (0, 0)
  | .retrain => (0, 0)
  | .config => (0, BitVec.ofNat 32 (fld s (F.SIGHT_CAM_CTL_SPEED n) + 2 * fld s (F.SIGHT_CAM_CTL_TWO_CONN n)))
  | .setup e => (BitVec.ofNat 32 (fld s (F.SIGHT_INIT_ADDR n e)), BitVec.ofNat 32 (fld s (F.SIGHT_INIT_VALUE n e)))
  | .upExp => (BitVec.ofNat 32 (fld s (F.SIGHT_REG_EXP n)), expValue s n ((cam s n).writing.getD (bringSet s n)))
  | .upGain => (BitVec.ofNat 32 (fld s (F.SIGHT_REG_GAIN n)), ((cam s n).writing.getD (bringSet s n)).gain)
  | .expNs => (BitVec.ofNat 32 (fld s (F.SIGHT_REG_EXP n)), expValue s n ((cam s n).writing.getD (bringSet s n)))
  | .gain => (BitVec.ofNat 32 (fld s (F.SIGHT_REG_GAIN n)), ((cam s n).writing.getD (bringSet s n)).gain)
  | .backExp => (BitVec.ofNat 32 (fld s (F.SIGHT_REG_EXP n)), 0)
  | .backGain => (BitVec.ofNat 32 (fld s (F.SIGHT_REG_GAIN n)), 0)
  | .routine _ a v => (a, v)

/-- Send the command at the head: one is outstanding per camera. -/
def sendHead (s : State) (n : Fin 4) : State :=
  match (cam s n).ctl with
  | [] => s
  | op :: _ => emit s (.camCtl n op (opWords s n op).1 (opWords s n op).2)

/-- Queue control commands. -/
def pushOps (s : State) (n : Fin 4) (ops : List CamOp) : State :=
  let idle := (cam s n).ctl.isEmpty
  let s := modCam s n (fun c => { c with ctl := c.ctl ++ ops })
  if idle then sendHead s n else s

/-- The head is answered: the next one goes out. -/
def popOp (s : State) (n : Fin 4) : State := sendHead (modCam s n (fun c => { c with ctl := c.ctl.drop 1 })) n

/-! ## Frames (R286, R287, R294) -/

/-- A gap opens: a failed write is read back, or the accepted set is written (R299). -/
def expWriteOps (s : State) (n : Fin 4) (e : ExpSet) : List CamOp :=
  let c := cam s n
  (if fld s (F.SIGHT_REG_EXP n) ≠ 0 ∧ c.ackedExp ≠ some (expValue s n e) then [.expNs] else [])
    ++ (if fld s (F.SIGHT_REG_GAIN n) ≠ 0 ∧ c.ackedGain ≠ some e.gain then [.gain] else [])

/-- The set is acknowledged and in force from the next frame. -/
def expAcked (s : State) (n : Fin 4) (e : ExpSet) : State :=
  setFld (modCam s n (fun c => { c with
    acked := some e, writing := none, failed := false, back := [], unknown := false,
    ackedExp := some (expValue s n e), ackedGain := some e.gain })) (F.SIGHT_CAM_STAT_EXP_UNKNOWN n) 0

/-- Read the exposure registers back (R299). -/
def readBack (s : State) (n : Fin 4) : State :=
  let ops := (if fld s (F.SIGHT_REG_EXP n) ≠ 0 then [CamOp.backExp] else [])
    ++ (if fld s (F.SIGHT_REG_GAIN n) ≠ 0 then [CamOp.backGain] else [])
  let s := modCam s n (fun c => { c with
    failed := false, back := [], ctl := c.ctl.filter (fun o => o != .expNs && o != .gain) })
  pushOps s n ops

/-- The camera's link is up. -/
def camLinkUp (s : State) (n : Fin 4) : Bool := fld s (F.SIGHT_CAM_STAT_LINK n) == 2

/-- The set that was accepted is written (R299). Where an older write has not been answered, its commands that have not
left give way and both registers are written. -/
def writeSet (s : State) (n : Fin 4) (e : ExpSet) : State :=
  let c := cam s n
  let s := if c.writing.isSome then modCam s n (fun c => { c with ackedExp := none, ackedGain := none }) else s
  let ops := expWriteOps s n e
  let s := modCam s n (fun c => { c with
    writing := some e, toWrite := none, writeAge := 0, failed := false,
    ctl := c.ctl.take 1 ++ (c.ctl.drop 1).filter (fun o => o != .expNs && o != .gain) })
  if ops.isEmpty then expAcked s n e else pushOps s n ops

/-- EXPOSURE_WRITE as the gap opens, over a link that is up. -/
def openGap (s : State) (n : Fin 4) : State :=
  let s := modCam s n (fun c => { c with gapOpen := true })
  if !camLinkUp s n then s
  else if (cam s n).failed then readBack s n
  else match (cam s n).toWrite with
    | some e => writeSet s n e
    | none => s

/-- A frame that ends enters the closed ones, unless it is discarded or was dropped (R287, R295). -/
def shut (s : State) (n : Fin 4) (f : CamFrame) (how : Close) : State :=
  let gone := f.dropped || f.close == .discarded || how == .discarded
  let s := if how == .discarded && f.close != .discarded && !f.dropped then incFld s (F.SIGHT_DISCARDED n) else s
  modCam s n (fun c => { c with closed := if gone then c.closed else c.closed ++ [{ f with close := how }] })

/-- The frame that runs closes (R287). -/
def closeFrame (s : State) (n : Fin 4) (how : Close) : State :=
  match (cam s n).cur with
  | none => s
  | some f => openGap (shut (modCam s n (fun c => { c with cur := none })) n f how) n

/-- The oldest frame with lines due closes: one that triggers of the next have passed opens no gap (R286). -/
def closeOldest (s : State) (n : Fin 4) (how : Close) : State :=
  match (cam s n).late with
  | f :: rest => shut (modCam s n (fun c => { c with late := rest })) n f how
  | [] => closeFrame s n how

/-- Frames that hold a slot of the camera's spool ring. -/
def spoolUsed (s : State) (n : Fin 4) : Nat :=
  (cam s n).closed.length + ((cam s n).late.filter (fun f => !f.dropped)).length
    + (match s.sight.pipe1 with | some (m, _) => if m = n then 1 else 0 | none => 0)

/-- The gap ends without an acknowledgement: after a whole frame the registers are read back (R299). -/
def gapEnds (s : State) (n : Fin 4) : State :=
  let s := modCam s n (fun c => { c with gapOpen := false, writeAge := c.writeAge + 1 })
  let c := cam s n
  if c.writing.isSome && c.writeAge == 2 && !c.failed && (c.ctl.contains .expNs || c.ctl.contains .gain) then readBack s n
  else s

/-- The first trigger of a frame (R286, R295, R300). The frame before it stays open while lines of it are due. -/
def startFrame (s : State) (n : Fin 4) (job jobId recStart : Nat) (byCompare : Bool) : State :=
  let s := gapEnds (modCam s n (fun c => { c with cur := none, late := c.late ++ c.cur.toList })) n
  let c := cam s n
  let full := spooled s n && decide (camSpoolFrames s n ≤ spoolUsed s n)
  let tag : BitVec 16 := if c.unknown then 0xFFFF else (c.acked.getD (bringSet s n)).tag
  let s := setFld s (F.SIGHT_EXP_TAG_IN_FORCE n) tag.toNat
  let s := modCam s n (fun c => { c with
    frameNo := c.frameNo + 1, spoolNext := if spooled s n && !full then c.spoolNext + 1 else c.spoolNext
    cur := some { number := c.frameNo, job := job, jobId := jobId, recStart := recStart, trigs := [], byCompare := byCompare,
                  lines := [], slot := c.spoolNext % camSpoolFrames s n, pm := tbVal s 2, expTag := tag, expUnknown := c.unknown, close := .running,
                  dropped := full, ctx := none } })
  if full then alarm (incFld s (F.SIGHT_DROPPED n)) (224 + n) [] else s

/-- Issue one trigger: of print line `l`, or of a compare unit. -/
def issueTrig (s : State) (n : Fin 4) (job jobId recStart l : Nat) (byCompare : Bool) (t : Nat) : State :=
  let fresh := match (cam s n).cur with
    | none => true
    | some f => decide (camFrameLines s n ≤ f.trigs.length)
  let s := if fresh then startFrame s n job jobId recStart byCompare else s
  let s := emit s (.camTrig n t)
  modCam s n (fun c => match c.cur with
    | none => c
    | some f => { c with
        cur := some { f with trigs := f.trigs ++ [l] }, lastTrig := some t,
        gap := if camFrameLines s n ≤ f.trigs.length + 1 then camGapLines s n else 0 })

/-- The camera runs frames: link up, checks of R297 passed, on the active. -/
def camRuns (s : State) (n : Fin 4) : Bool :=
  drives s && fldB s (F.SIGHT_CAM_CTL_ENABLE n) && fld s (F.SIGHT_CAM_STAT_LINK n) == 2
    && !fldB s (F.SIGHT_CAM_STAT_BUDGET n)

/-- The die throttle: no camera triggers, no further frame enters a pipeline (R493). -/
def dieThrottle (s : State) : Bool := fldB s F.PWR_STAT_THROTTLE

/-- The running job as the cameras see it. -/
def runningSight (s : State) : Option SightJob :=
  s.jobs.running.map (fun j => ⟨s.sight.jobNo, j.decl.jobId, s.plc.anchors, 2 ^ 32 - 1, s.sight.recStart⟩)

/-- The job on whose grid the camera triggers: the oldest that it has not passed. -/
def camJob (s : State) (n : Fin 4) : Option SightJob :=
  (s.sight.tails ++ (runningSight s).toList).find? (fun j => decide ((cam s n).onJob ≤ j.no))

/-- A camera triggers on the web's slots. -/
def onSlots (s : State) (n : Fin 4) : Bool := camRuns s n && (camCompare s n).isNone

/-- An ended job that every camera has passed is forgotten. -/
def dropTails (s : State) : State :=
  { s with sight := { s.sight with
      tails := s.sight.tails.filter (fun j => (List.finRange 4).any (fun n => onSlots s n && decide ((cam s n).onJob ≤ j.no))) } }

/-- A frame that lacks triggers closes short (R287); one that has them all waits for its lines. -/
def closeShort (s : State) (n : Fin 4) : State :=
  match (cam s n).cur with
  | some f => if f.trigs.length < camFrameLines s n then closeFrame s n .short else s
  | none => s

/-- The camera takes up the job of number `no`: its frame numbers start at 0 (R286). -/
def camOnJob (s : State) (n : Fin 4) (no : Nat) : State :=
  if (cam s n).onJob = no then s
  else modCam (closeShort s n) n (fun c => { c with onJob := no, nextSlot := 0, frameNo := 0, gap := 0 })

/-- The instant, as placement predicts it, at which the target of a slot falls (R285, R221): W reaches T(L) + CAM_Y. -/
def slotAt (s : State) (n : Fin 4) (j : SightJob) (l : Nat) : Int := targetOf j.anchors l + fld s (F.SIGHT_CAM_Y n)

/-- The packet is due: the web runs, and CAM_LAT before the predicted instant has come. -/
def slotDue (s : State) (n : Fin 4) (w : Int) : Bool :=
  s.plc.mode != .stopped && (match predicted1 s w with
    | some x => decide (5 * x ≤ 5 * s.clk.now + 16 * fld s (F.SIGHT_CAM_LAT n))
    | none => false)

/-- TRIGGER_SLOT (R285, R286): line `l` passes as a slot of camera `n` once its trigger packet is due, which leaves at
`t`. A line past the job's last print line ends the camera's frames of that job. -/
def execTriggerSlot (n : Fin 4) (l : Nat) (t : Nat) (s : State) : Res :=
  let s := plcTime s t
  if onSlots s n && !dieThrottle s then
    match camJob s n with
    | none => .next s
    | some j =>
      let s := camOnJob s n j.no
      let w := slotAt s n j l
      if l < (cam s n).nextSlot ∨ l % camYb s n ≠ camPhase s n ∨ w < (cam s n).fromW ∨ ¬ slotDue s n w then .next s
      else if j.last < l then .next (dropTails (camOnJob s n (j.no + 1)))
      else
        let s := modCam s n (fun c => { c with nextSlot := l + 1 })
        if 0 < (cam s n).gap then .next (modCam s n (fun c => { c with gap := c.gap - 1 }))
        else
          let soon := match (cam s n).lastTrig with
            | some t0 => decide ((t - t0) * fld s (F.SIGHT_LMAX n) < 3200000000) && fld s (F.SIGHT_LMAX n) != 0
            | none => false
          if soon then .next (incFld s (F.SIGHT_TRIG_SKIP n))
          else .next (issueTrig s n j.no j.jobId j.recStart l false t)
  else .next s

/-- A compare unit fires: cameras with CAM_CTL.TRIG = 8 + u take a trigger (R288). -/
def compareTriggers (s : State) (u : Nat) (t : Nat) : State :=
  (List.finRange 4).foldl (fun s n =>
    if camRuns s n && !dieThrottle s && camCompare s n == some u then
      issueTrig s n s.sight.jobNo (match s.jobs.running with | some j => j.decl.jobId | none => 0) s.sight.recStart 0 true t
    else s) s

/-! ## Contexts (R298) -/

/-- The scalar stations of context `n`, up to its densities. -/
def ctxAddrs (n : Fin 4) : List Nat := (List.range 0x78).map (fun o => 0x47002000 + n.val * 0x100 + o)

/-- A snapshot of the shadow set. -/
def ctxSnapshot (s : State) (n : Fin 4) (tag : BitVec 16) : CtxSet :=
  { tag := tag,
    words := s.stn.filter (fun e => (ctxAddrs n).contains e.1),
    tabs := s.vstn.filter (fun e => decide (0x47100000 + n.val * 0x20000 ≤ e.1)
      && decide (e.1 < 0x47100000 + (n.val + 1) * 0x20000)) }

def ctxWord (c : CtxSet) (a : Nat) : Word := spGet stnInit c.words a
def ctxFld (c : CtxSet) (f : Fld) : Nat := fldOf f (ctxWord c f.addr)
def ctxInt (c : CtxSet) (f : Fld) : Int :=
  if 2 ^ (f.w - 1) ≤ ctxFld c f then (ctxFld c f : Int) - 2 ^ f.w else ctxFld c f

/-- The mosaic period (R306). -/
def ctxP (c : CtxSet) (n : Fin 4) : Nat := [1, 2, 4].getD (ctxFld c (F.SIGHT_MOS_P n)) 4
/-- Kind of pattern site `i`. -/
def ctxPat (c : CtxSet) (n : Fin 4) (i : Nat) : Nat :=
  if i < 10 then ctxFld c (F.SIGHT_PAT0 n) / 2 ^ (3 * i) % 8 else ctxFld c (F.SIGHT_PAT1 n) / 2 ^ (3 * i - 30) % 8
def ctxKind (c : CtxSet) (n : Fin 4) (q : Nat) : Nat := ctxFld c (F.SIGHT_PLANE_KIND n) / 2 ^ (3 * q) % 8
/-- KER entry `i`, 0 to 8. -/
def ctxKer (c : CtxSet) (n : Fin 4) (i : Nat) : Nat :=
  if i < 4 then ctxFld c (F.SIGHT_KER0 n) / 2 ^ (8 * i) % 256
  else if i < 8 then ctxFld c (F.SIGHT_KER1 n) / 2 ^ (8 * (i - 4)) % 256
  else ctxFld c (F.SIGHT_KER2 n)
def ctxKerSum (c : CtxSet) (n : Fin 4) : Nat := ((List.range 9).map (ctxKer c n)).sum
/-- Density of a code; code 15 has that of code 0 (R290). -/
def ctxDd (c : CtxSet) (n : Fin 4) (code : Nat) : Nat :=
  let k := if code = 15 then 0 else code
  if k % 2 = 0 then ctxFld c (F.SIGHT_DD_A n (k / 2)) else ctxFld c (F.SIGHT_DD_B n (k / 2))

/-- The checks of R298. -/
def ctxBad (c : CtxSet) (n : Fin 4) : Bool :=
  let p := ctxP c n
  let sites := (List.range (p * p)).map (ctxPat c n)
  let kinds := (List.range 4).map (ctxKind c n)
  ctxFld c (F.SIGHT_MOS_P n) == 3
    || (decide (1 < p) && (!sites.contains 3 || !sites.contains 4))
    || sites.any (fun k => decide (4 < k)) || kinds.any (fun k => decide (4 < k))
    || (decide (1 < p) && kinds.any (fun k => !sites.contains k))
    || ctxKerSum c n == 0

/-- The next tag: modulo 65,536, 0 skipped. -/
def nextTag (t : Nat) : BitVec 16 := if t = 65535 then 1 else BitVec.ofNat 16 (t + 1)

/-- CTX_COMMIT (R298). -/
def ctxCommit (s : State) (n : Fin 4) : State :=
  let tag := nextTag (fld s (F.SIGHT_CTX_TAG_COMMITTED n))
  let c := ctxSnapshot s n tag
  if ctxBad c n then setFld s (F.SIGHT_CTX_REFUSED n) 1
  else
    let s := modCam s n (fun x => { x with pendCtx := some c })
    journal (setFld s (F.SIGHT_CTX_TAG_COMMITTED n) tag.toNat) (.ctxCommit n tag)


/-- The context that comes into force for a frame entering a pipeline now. -/
def takeCtx (s : State) (n : Fin 4) : CtxSet × State :=
  let c := cam s n
  let x := (c.pendCtx.orElse (fun _ => c.ctx)).getD
    (ctxSnapshot s n (BitVec.ofNat 16 (fld s (F.SIGHT_CTX_TAG_COMMITTED n))))
  let s := modCam s n (fun c => { c with pendCtx := none, ctx := some x })
  (x, setFld s (F.SIGHT_CTX_TAG_IN_FORCE n) x.tag.toNat)

/-! ## Exposure (R299) -/

/-- EXP_GO accepts an exposure set; sets accepted during one frame merge. -/
def expGo (s : State) (n : Fin 4) : State :=
  let tag := nextTag (fld s (F.SIGHT_EXP_TAG_ACCEPTED n))
  let e : ExpSet := ⟨fld s (F.SIGHT_EXP_NS n), BitVec.ofNat 32 (fld s (F.SIGHT_GAIN n)), tag⟩
  let s := modCam s n (fun c => { c with newest := some e, toWrite := some e })
  journal (setFld s (F.SIGHT_EXP_TAG_ACCEPTED n) tag.toNat) (.expGo n tag)


/-- The registers read back hold this set. -/
def backMatches (s : State) (n : Fin 4) (back : List (Nat × Word)) (e : ExpSet) : Bool :=
  back.all (fun b => if b.1 = 0 then b.2 == expValue s n e else b.2 == e.gain)

/-- The read-back is complete (R299). -/
def backDone (s : State) (n : Fin 4) : State :=
  let c := cam s n
  let sets := (match c.writing with | some e => [e] | none => []) ++ (match c.acked with | some e => [e] | none => [])
  match sets.find? (backMatches s n c.back) with
  | some e => expAcked s n e
  | none =>
    let s := modCam s n (fun c => { c with writing := none, back := [], unknown := true, ackedExp := none, ackedGain := none })
    alarm (setFld s (F.SIGHT_CAM_STAT_EXP_UNKNOWN n) 1) (232 + n) []

/-! ## Bring-up (R282, R303) -/

/-- Bring-up starts with discovery (step 1). -/
def camBringUp (s : State) (n : Fin 4) : State :=
  if drives s && fldB s (F.SIGHT_CAM_CTL_ENABLE n) then
    pushOps (modCam (setFld s (F.SIGHT_CAM_STAT_LINK n) 1) n (fun c => { c with ctl := [], writing := none })) n [.discover]
  else s

/-- The commands of steps 4 and 5 after the retraining. -/
def setupOps (s : State) (n : Fin 4) : List CamOp :=
  ((List.range 64).takeWhile (fun e => fld s (F.SIGHT_INIT_ADDR n e) != 0)).map CamOp.setup
    ++ (if fld s (F.SIGHT_REG_EXP n) ≠ 0 then [.upExp] else [])
    ++ (if fld s (F.SIGHT_REG_GAIN n) ≠ 0 then [.upGain] else [])

/-- CAM_STAT.LINK shows up once the last command of the bring-up is acknowledged: the set that was written is in force,
and slots pass from here on (R282, R299, R303). -/
def camUp (s : State) (n : Fin 4) : State :=
  let s := setFld (expAcked s n ((cam s n).writing.getD (bringSet s n))) (F.SIGHT_CAM_STAT_LINK n) 2
  modCam s n (fun c => { c with fromW := wNow s, gapOpen := true })

/-- The head of the bring-up is acknowledged. -/
def bringStep (s : State) (n : Fin 4) : State :=
  let s := modCam s n (fun c => { c with ctl := c.ctl.drop 1 })
  if (cam s n).ctl.any (fun o => match o with | .routine _ _ _ => false | _ => true) then sendHead s n
  else sendHead (camUp s n) n

/-- The bring-up is abandoned (R282, R357). -/
def bringFails (s : State) (n : Fin 4) : State :=
  handBack (setFld (modCam s n (fun c => { c with ctl := [], writing := none })) (F.SIGHT_CAM_STAT_LINK n) 0) (28 + n)

/-- The camera refuses a write of the bring-up: camera-setup with the entry number (R282). -/
def bringRefused (s : State) (n : Fin 4) (entry : Word) : State := bringFails (alarm s (220 + n) [entry]) n

/-- Every 100 ms while an enabled camera's link is down (R282). -/
def execCamBringupRetry (n : Fin 4) (s : State) : Res :=
  .next (if fld s (F.SIGHT_CAM_STAT_LINK n) = 0 then camBringUp s n else s)

/-- The camera's link goes down: its frames close incomplete, and no command leaves (R287). -/
def camLinkDown (s : State) (n : Fin 4) : State :=
  let s := setFld (modCam s n (fun c => { c with ctl := [], writing := none })) (F.SIGHT_CAM_STAT_LINK n) 0
  let s := (cam s n).late.foldl (fun s f => shut s n f .incomplete) s
  closeFrame (modCam s n (fun c => { c with late := [] })) n .incomplete

/-- A change of role (R286, R303, R28): inspection pauses, frame numbers start at 0, the rings are empty, and nothing
waits in a pipeline. -/
def camsAtRole (s : State) : State :=
  let s := (List.finRange 4).foldl (fun (s : State) (n : Fin 4) =>
    modCam (setFld s (F.SIGHT_CAM_STAT_PAUSED n) 1) n (fun c => { c with
      cur := none, late := [], closed := [], frameNo := 0, nextSlot := 0, gap := 0, gapOpen := true, lastTrig := none,
      onJob := 0, toWrite := none, writing := none, failed := false, back := [], profNext := 0, spoolNext := 0 })) s
  { s with sight := { s.sight with pipe1 := none, tails := [] } }

/-- An acknowledgement or refusal of the outstanding command; a routine's is the caller's to finish. -/
def camAck (s : State) (n : Fin 4) (ok : Bool) (v : Word) : State :=
  match (cam s n).ctl with
  | [] => s
  | .discover :: _ =>
    if ok then bringStep (modCam s n (fun c => { c with ctl := .discover :: .config :: c.ctl.drop 1 })) n
    else bringFails s n
  | .retrain :: _ =>
    if ok then
      bringStep (modCam s n (fun c => { c with
        ctl := .retrain :: setupOps s n ++ c.ctl.drop 1, writing := some (bringSet s n), toWrite := none })) n
    else bringFails s n
  | .config :: _ =>
    if ok then bringStep (modCam s n (fun c => { c with ctl := .config :: .retrain :: c.ctl.drop 1 })) n
    else bringRefused (useFree s) n (Config.freeWord s.fresh)
  | .setup e :: _ => if ok then bringStep s n else bringRefused s n (BitVec.ofNat 32 e)
  | .upExp :: _ => if ok then bringStep s n else bringRefused (useFree s) n (Config.freeWord s.fresh)
  | .upGain :: _ => if ok then bringStep s n else bringRefused (useFree s) n (Config.freeWord s.fresh)
  | .backExp :: _ =>
    let s := popOp (modCam s n (fun c => { c with back := c.back ++ [(0, v)] })) n
    if (cam s n).ctl.contains .backGain then s else backDone s n
  | .backGain :: _ => backDone (popOp (modCam s n (fun c => { c with back := c.back ++ [(1, v)] })) n) n
  | .routine _ _ _ :: _ => popOp s n
  | op :: _ =>
    if op = .expNs ∨ op = .gain then
      if ok then
        let s := popOp s n
        match (cam s n).writing with
        | some e => if (cam s n).ctl.contains .expNs || (cam s n).ctl.contains .gain then s else expAcked s n e
        | none => s
      else
        let s := modCam s n (fun c => { c with
          failed := true, ctl := c.ctl.head?.toList ++ (c.ctl.drop 1).filter (fun o => o != .expNs && o != .gain) })
        let s := popOp s n
        -- in the gap after frame k + 1 the registers are read back at once
        if (cam s n).gapOpen && decide (1 ≤ (cam s n).writeAge) then readBack s n else s
    else popOp s n

/-! ## Lines (R287, R289, R294) -/

/-- Bytes of a raw line in the spool (R293; log entry 53). -/
def spoolLineBytes (s : State) (n : Fin 4) : Nat := (camWidth s n * camBits s n + 7) / 8
def spoolStride (s : State) (n : Fin 4) : Nat := (camFrameLines s n * spoolLineBytes s n + 4095) / 4096 * 4096
/-- The address of line `y` in slot `k` of the spool ring. -/
def spoolAddr (s : State) (n : Fin 4) (k y : Nat) : Nat :=
  fld s (F.SIGHT_SPOOL_BASE_LO n) + 2 ^ 32 * fld s (F.SIGHT_SPOOL_BASE_HI n) + k * spoolStride s n + y * spoolLineBytes s n

/-- Raw samples as bytes, packed from the low bit up. -/
def packLine (bits : Nat) (xs : List Nat) : List Byte :=
  leBytes ((xs.length * bits + 7) / 8) (xs.foldr (fun x acc => x % 2 ^ bits + 2 ^ bits * acc) 0)
/-- The samples of such bytes. -/
def unpackLine (bits w : Nat) (bs : List Byte) : List Nat :=
  (List.range w).map (fun i => leNat bs / 2 ^ (bits * i) % 2 ^ bits)

/-- A line joins frame `f`: one with a packet fault discards the frame (R287); a spooled frame's line goes into its slot
(R293); an in-line frame's first pixel meets the contexts (R298). -/
def joinLine (s : State) (n : Fin 4) (f : CamFrame) (ln : CamLine) : State × CamFrame :=
  let ok := ln.good && ln.pixels.length == camWidth s n
  let drop := f.dropped || f.close == .discarded
  let s := if !ok && !drop then incFld s (F.SIGHT_DISCARDED n) else s
  let keep := ok && !drop
  let (ctx, s) := if f.ctx.isNone && !spooled s n && keep then
      let (c, s) := takeCtx s n
      (some c, s)
    else (f.ctx, s)
  let s := if spooled s n && keep then
      dramPut s (spoolAddr s n f.slot f.lines.length) (packLine (camBits s n) ln.pixels)
    else s
  (s, { f with
    lines := f.lines ++ [if keep && !spooled s n then ln.pixels else []], ctx := ctx,
    close := if !ok && !drop then .discarded else f.close })

/-- A camera line arrives: it belongs to the oldest frame with a line due. -/
def takeLine (s : State) (n : Fin 4) (ln : CamLine) : State :=
  match (cam s n).late, (cam s n).cur with
  | f :: rest, _ =>
    let (s, f) := joinLine s n f ln
    let s := modCam s n (fun c => { c with late := f :: rest })
    if camFrameLines s n ≤ f.lines.length then closeOldest s n (if f.close == .discarded then .discarded else .complete)
    else s
  | [], some f =>
    if f.trigs.length ≤ f.lines.length then s
    else
      let (s, f) := joinLine s n f ln
      let s := modCam s n (fun c => { c with cur := some f })
      if camFrameLines s n ≤ f.lines.length then closeFrame s n (if f.close == .discarded then .discarded else .complete)
      else s
  | [], none => s

/-- CAMERA_LINE; a line of another stream is discarded (R280). -/
def execCameraLine (n : Fin 4) (ln : CamLine) (s : State) : Res :=
  .next (if camRuns s n && ln.stream.toNat == fld s (F.SIGHT_CAM_CTL_STREAM_ID n) then takeLine s n ln else s)

/-- FRAME_TMO passes after a frame's last trigger; lines that have all arrived win (R287, R367). -/
def execFrameTimeout (n : Fin 4) (s : State) : Res :=
  match (cam s n).late, (cam s n).cur with
  | f :: _, _ => .next (closeOldest s n (if f.close == .discarded then .discarded else .incomplete))
  | [], none => .next (lateWin s)
  | [], some f =>
    if f.trigs.length < camFrameLines s n then .next s
    else .next (closeFrame s n (if f.close == .discarded then .discarded else .incomplete))

/-- The earliest unprocessed spooled frame: its camera, and whether it has closed (R294). -/
def nextSpooled (s : State) : Option (Fin 4 × CamFrame) :=
  let cand := ([1, 2, 3] : List (Fin 4)).flatMap (fun n =>
    let c := cam s n
    let run := match c.cur with
      | some f => if f.dropped || f.close == .discarded then [] else [f]
      | none => []
    ((c.closed ++ c.late.filter (fun f => !(f.dropped || f.close == .discarded)) ++ run).take 1).map (fun f => (n, f)))
  cand.foldl (fun (acc : Option (Fin 4 × CamFrame)) x => match acc with
    | none => some x
    | some y => if (x.2.pm - y.2.pm).toInt < 0 then some x else some y) none

/-- The frame's lines as they lie in its spool slot. -/
def readSpool (s : State) (n : Fin 4) (f : CamFrame) : CamFrame :=
  { f with lines := (List.range f.lines.length).map (fun y =>
      unpackLine (camBits s n) (camWidth s n) (dramBytes s (spoolAddr s n f.slot y) (spoolLineBytes s n))) }

/-- Pipeline 1 starts the earliest spooled frame once it has closed (R294, R298); a frame with an uncorrectable codeword
is discarded and counted (R362, R365). -/
def execSpoolFrameStart (s : State) : Res :=
  if sharedMode s && s.sight.pipe1.isNone && drives s && !dieThrottle s then
    match nextSpooled s with
    | none => .next s
    | some (n, f) =>
      if f.close == .running then .next s
      else
        let a := spoolAddr s n f.slot 0
        let len := f.lines.length * spoolLineBytes s n
        let s1 := modCam (dramReadEffect s a len) n (fun x => { x with closed := x.closed.drop 1 })
        if dramBad s a len then .next (incFld s1 (F.SIGHT_DISCARDED n))
        else
          let (c, s1) := takeCtx s1 n
          .next { s1 with sight := { s1.sight with pipe1 := some (n, { readSpool s n f with ctx := some c }) } }
  else .next s

/-! ## Checks at a job's start (R297) -/

/-- The rate R of R297, in lines per second as a fraction: at most `maxRate` / YB and LMAX. -/
def camRate (s : State) (n maxRate : Nat) : Nat × Nat :=
  let l := fld s (F.SIGHT_LMAX n)
  if l ≠ 0 ∧ l * camYb s n < maxRate then (l, 1) else (maxRate, camYb s n)

/-- The pixel rates of the enabled cameras `ns`, added over a common denominator (R297). -/
def camPixels (s : State) (ns : List (Fin 4)) (maxRate : Nat) : Nat × Nat :=
  let rs : List (Nat × Nat) := ns.map (fun m =>
    if fldB s (F.SIGHT_CAM_CTL_ENABLE m) then (camWidth s m * (camRate s m maxRate).1, (camRate s m maxRate).2) else (0, 1))
  let d : Nat := (rs.map (fun r => r.2)).foldl (fun a b => a * b) 1
  ((rs.map (fun r => r.1 * (d / r.2))).sum, d)

/-- The camera fails a check of R297. -/
def camOverBudget (s : State) (n : Fin 4) (maxRate : Nat) : Bool :=
  let w := fun m : Fin 4 => camWidth s m
  let (a, b) := camRate s n maxRate
  let conns := 1 + fld s (F.SIGHT_CAM_CTL_TWO_CONN n)
  let lane := if fldB s (F.SIGHT_CAM_CTL_SPEED n) then 12500000000 else 10312500000
  let link := decide (100 * (w n * camBits s n * a) ≤ 72 * conns * lane * b)
  let pix := if spooled s n then
      let sum := camPixels s [1, 2, 3] maxRate
      decide (sum.1 ≤ 2500000000 * sum.2)
    else decide (w n * a ≤ 2500000000 * b)
  !(link && pix)

/-- Columns of the camera's pixels (R290). -/
def camCol (s : State) (n : Fin 4) (x : Nat) : Int :=
  (fldInt s (F.SIGHT_CAM_COL0 n) * 4096 + x * fldInt s (F.SIGHT_CAM_XSCALE n) + 524288) / 1048576

/-- C0 and NCOL of the camera, within the bar (R302). -/
def camCols (s : State) (n : Fin 4) : Nat × Nat :=
  let a := camCol s n 0
  let b := camCol s n (camWidth s n - 1)
  let lo := max 0 (min a b)
  let hi := min 57343 (max a b)
  if hi < lo then (0, 0) else (lo.toNat, (hi - lo + 1).toNat)

/-- Cameras at a job's start: the job's number, budget checks and profile strides (R286, R297, R302). -/
def camsAtJobStart (s : State) (maxRate : Nat) : State :=
  let s := { s with sight := { s.sight with jobNo := s.sight.jobNo + 1 } }
  (List.finRange 4).foldl (fun s (n : Fin 4) =>
    let bad := fldB s (F.SIGHT_CAM_CTL_ENABLE n) && camOverBudget s n maxRate
    let s := setFldB s (F.SIGHT_CAM_STAT_BUDGET n) bad
    -- a frame spans no two jobs; frame numbers of a camera on a compare unit start here (R286, R287, R288)
    let s := if (camCompare s n).isSome then modCam (closeShort s n) n (fun c => { c with frameNo := 0, gap := 0 }) else s
    let s := setFld s (F.SIGHT_PROF_STRIDE n) ((64 + 128 * (camCols s n).2 + 4095) / 4096 * 4096)
    if bad then alarm s (228 + n) [] else s) s

end Sys2Proof.Machine
end

