-- ==== Sys2Proof/Machine/Motion.lean ====
section
/-! DEFINITION. The motion engine: axis channels, the motion cycle, target moves, segment runs, faults, the lift pair,
the splice retract, compares and probes (chapter 15, R403 to R428). -/
namespace Sys2Proof.Machine
open Sys2Proof

def ax (s : State) (x : Fin 4) : Axis := s.mot.axes[x]
def setAx (s : State) (x : Fin 4) (a : Axis) : State := { s with mot := { s.mot with axes := s.mot.axes.set x a } }
def modAx (s : State) (x : Fin 4) (f : Axis → Axis) : State := setAx s x (f (ax s x))

/-! ## Numbers (R406) -/

/-- One microstep, or one microstep/s, in the generator's units. -/
def fx : Int := 65536
def satS32 (i : Int) : Int := if i < -2147483648 then -2147483648 else if 2147483647 < i then 2147483647 else i
def atLimit32 (i : Int) : Bool := i == 2147483647 || i == -2147483648
/-- A quotient rounded to nearest (R406), halves upward (DESIGN CHOICE, log entry 64). -/
def roundQ (n : Int) (d : Nat) : Int := (2 * n + d) / (2 * d)
def iabs (i : Int) : Int := if i < 0 then -i else i
def isgn (i : Int) : Int := if i < 0 then -1 else if 0 < i then 1 else 0
def clampI (lo hi i : Int) : Int := if i < lo then lo else if hi < i then hi else i

/-- COUNT in microsteps (R406). -/
def encRaw (s : State) (x : Fin 4) : Int :=
  fld s (F.MOT_ENC_NUM x) * (ax s x).count / atLeast 1 (fld s (F.MOT_ENC_DEN x))
def encPos (s : State) (x : Fin 4) : Int := satS32 (encRaw s x + (ax s x).encOfs)
def cmdPos (s : State) (x : Fin 4) : Int := satS32 ((ax s x).p / fx)
def softMin (s : State) (x : Fin 4) : Int := fldInt s (F.MOT_SOFT_MIN x)
def softMax (s : State) (x : Fin 4) : Int := fldInt s (F.MOT_SOFT_MAX x)
def softClamp (s : State) (x : Fin 4) (v : Int) : Int := clampI (softMin s x) (softMax s x) v

def lockOn (s : State) : Bool := fldB s F.MOT_CTL_LIFT_LOCK
def lockOfs (s : State) : Int := fldInt s F.MOT_LOCK_OFS
def isLift (x : Fin 4) : Bool := decide (x.val < 2)
def otherLift (x : Fin 4) : Fin 4 := if x = 0 then 1 else 0

def Axis.moving (a : Axis) : Bool := a.mode != 0 || a.brake || a.v != 0
/-- The axis is idle (R424): no move, no braking, at rest. -/
def Axis.idleNow (a : Axis) : Bool := !a.moving

/-- A STALL, COUNTER or ENCODER fault is set (R417). -/
def axFaulted (s : State) (x : Fin 4) : Bool :=
  fldB s (F.MOT_STALL x) || fldB s (F.MOT_COUNTER x) || fldB s (F.MOT_ENCODER x)

/-! ## Faults (R417) -/

def wInt (i : Int) : Word := BitVec.ofInt 32 i
def brakeAx (s : State) (x : Fin 4) : State := modAx s x (fun a => { a with mode := 0, brake := a.v != 0 })
/-- At once: v = 0 and idle at `p`. -/
def haltAx (s : State) (x : Fin 4) (p : Int) : State :=
  modAx s x (fun a => { a with p := p, v := 0, mode := 0, brake := false, hold := false, ramp := 0, idle := 0 })

/-- The axis that a staged write is for. -/
def MotWrite.axis : MotWrite → Fin 4
  | .target x _ => x
  | .segments x _ _ => x

/-- Writes to the axis that wait for the next cycle go: a fault overrides them (R405). -/
def dropWrites (s : State) (x : Fin 4) : State :=
  { s with mot := { s.mot with writes := s.mot.writes.filter (fun w => w.axis != x) } }

/-- What every fault does beside its own axis: event MOTION, the hand-back of R357, and, on a locked lift, the braking
of the other lift, which parts the pair (R419). -/
def axFaultSide (s : State) (x : Fin 4) : State :=
  let s := handBack (setEventAll (dropWrites s x) 15) (24 + x.val)
  if lockOn s && isLift x then
    let s := brakeAx (dropWrites s (otherLift x)) (otherLift x)
    { s with mot := { s.mot with parted := true } }
  else s

def stallAlarm (s : State) (x : Fin 4) (kind : Nat) : State :=
  alarm s (360 + x.val) [BitVec.ofNat 32 kind, wInt (cmdPos s x), wInt (encPos s x)]

def stallFault (s : State) (x : Fin 4) : State :=
  let s := stallAlarm (incFld (setFldB s (F.MOT_STALL x) true) (F.MOT_STALLS x)) x 1
  axFaultSide (modAx (haltAx s x (encPos s x * fx)) x (fun a => { a with stall := 0 })) x
def counterFault (s : State) (x : Fin 4) : State :=
  axFaultSide (haltAx (stallAlarm (setFldB s (F.MOT_COUNTER x) true) x 2) x
    (clampI (-2147483648 * fx) (2147483648 * fx - 1) (ax s x).p)) x
def encoderAxFault (s : State) (x : Fin 4) : State :=
  axFaultSide (brakeAx (stallAlarm (setFldB s (F.MOT_ENCODER x) true) x 3) x) x
/-- The running soft limit: `hi` says which, `pos` the position found beyond it. -/
def softFault (s : State) (x : Fin 4) (hi : Bool) (pos : Int) : State :=
  let s := alarm (setFldB s (F.MOT_SOFT_LIMIT x) true) (365 + x.val) [if hi then 1 else 0, wInt pos]
  axFaultSide (haltAx s x ((if hi then softMax s x else softMin s x) * fx)) x

/-! ## Station writes -/

/-- A write to TARGET, SEG_CTL.GO or SET_POS is ignored (R417, R419, R420). -/
def motIgnores (s : State) (x : Fin 4) : Bool :=
  axFaulted s x || (x == 1 && lockOn s) || (isLift x && fldB s F.MOT_GSTAT_RETRACT)
def noteIgnored (s : State) (x : Fin 4) : State := setFldB s (F.MOT_IGNORED x) true

/-- A write to TARGET that is not ignored: the next cycle applies it (R405, R408). -/
def motTargetWrite (s : State) (x : Fin 4) (v : Word) : State :=
  { s with mot := { s.mot with writes := s.mot.writes ++ [.target x v.toInt] } }

/-- DT of a segment in ns. -/
def segNs (s : State) (x : Fin 4) (i : Nat) : Nat := 1000 * fld s (F.MOT_SEG_DT x i)
def cycleUs (s : State) : Nat :=
  let v := fld s F.MOT_CTL_CYCLE_US
  if v < 10 then 10 else if 100 < v then 100 else v
/-- The check of R410. -/
def segOk (s : State) (x : Fin 4) (first last : Nat) : Bool :=
  decide (first ≤ last) && ((List.range (last + 1 - first)).map (fun i => first + i)).all (fun i =>
    decide (cycleUs s ≤ fld s (F.MOT_SEG_DT x i))
      && decide (softClamp s x (fldInt s (F.MOT_SEG_POS x i)) = fldInt s (F.MOT_SEG_POS x i))
      && decide (iabs (fldInt s (F.MOT_SEG_VEL x i)) ≤ atLeast 1 (fld s (F.MOT_VMAX x))))
    && fld s (F.MOT_SEG_VEL x last) == 0

/-- A write of SEG_CTL with GO = 1, FIRST and LAST stored already (R410, R417). -/
def segGoWrite (s : State) (x : Fin 4) : State :=
  let first := fld s (F.MOT_SEG_CTL_FIRST x)
  let last := fld s (F.MOT_SEG_CTL_LAST x)
  if motIgnores s x then noteIgnored s x
  else if segOk s x first last then
    { s with mot := { s.mot with writes := s.mot.writes ++ [.segments x first last] } }
  else setFldB s (F.MOT_SEG_REFUSED x) true

/-- A write to SET_POS (R424, R416). -/
def setPosWrite (s : State) (x : Fin 4) (v : Word) : State :=
  if motIgnores s x || !(ax s x).idleNow then noteIgnored s x
  else modAx s x (fun a => { a with p := v.toInt * fx, encOfs := v.toInt - encRaw s x, stall := 0 })

/-- A retract starts (R420); while one holds, a further edge is only counted. -/
def startRetract (s : State) : State :=
  let s' := incFld s F.MOT_GSTAT_SPLICES
  if fldB s F.MOT_GSTAT_RETRACT then s'
  else
    let s' := alarm (setFldB s' F.MOT_GSTAT_RETRACT true) 364 []
    { s' with mot := { s'.mot with retract := true } }

/-- A write of MOT_CMD (R418, R420). -/
def motCmd (s : State) (v : Word) : State :=
  let s := { s with mot := { s.mot with stop := s.mot.stop ||| v.setWidth 4 } }
  if v.getLsbD 4 then startRetract s else s

/-- A write that would change LIFT_LOCK may do so now (R419). -/
def lockMayChange (s : State) (on : Bool) : Bool :=
  (ax s 0).idleNow && (ax s 1).idleNow && (!on || decide (cmdPos s 1 = cmdPos s 0 + lockOfs s))
/-- The write of MOT_CTL is ignored (R419). -/
def motCtlIgnored (s : State) (v : Word) : Bool :=
  v.getLsbD 0 != lockOn s && !lockMayChange s (v.getLsbD 0)

/-! ## Compares (R422) -/

def cmpFire (s : State) (x : Fin 4) (late : Bool) : State :=
  let s := wrapFld s (F.MOT_CMP_STAT_FIRED x)
  let s := setFldB (setFldB s (F.MOT_ARMED x) false) (F.MOT_HELD x) false
  setEventAll (if late then setFldB s (F.MOT_LATE x) true else s) 15

def cmpBehind (dir : Nat) (enc c : Int) : Bool :=
  if dir = 1 then decide (c ≤ enc) else if dir = 2 then decide (enc ≤ c) else decide (enc = c)
def cmpCrossed (dir : Nat) (old new c : Int) : Bool :=
  (dir != 2 && decide (old < c) && decide (c ≤ new)) || (dir != 1 && decide (c < old) && decide (new ≤ c))

/-- ARM, POLICY and DIR stored already. -/
def axCmpArm (s : State) (x : Fin 4) : State :=
  if cmpBehind (fld s (F.MOT_CMP_CTL_DIR x)) (encPos s x) (fldInt s (F.MOT_CMP_POS x)) then
    if fldB s (F.MOT_CMP_CTL_POLICY x) then setFldB (setFldB s (F.MOT_ARMED x) false) (F.MOT_HELD x) true
    else cmpFire s x true
  else setFldB (setFldB s (F.MOT_ARMED x) true) (F.MOT_HELD x) false
def axCmpDisarm (s : State) (x : Fin 4) : State := setFldB (setFldB s (F.MOT_ARMED x) false) (F.MOT_HELD x) false
/-- A write of CMP_CTL: with both bits, ARM wins. -/
def axCmpCtl (s : State) (x : Fin 4) (v : Word) : State :=
  if v.getLsbD 0 then axCmpArm s x else if v.getLsbD 4 then axCmpDisarm s x else s

/-! ## Axis channels (R407) -/

/-- A counted edge, forward or back. -/
def axCounted (s : State) (x : Fin 4) (fwd : Bool) : State :=
  let old := encPos s x
  let s := modAx s x (fun a => { a with count := satS32 (a.count + if fwd then 1 else -1), illegal := 0 })
  let new := encPos s x
  let s := if (fldB s (F.MOT_ARMED x) || fldB s (F.MOT_HELD x))
      && cmpCrossed (fld s (F.MOT_CMP_CTL_DIR x)) old new (fldInt s (F.MOT_CMP_POS x)) then cmpFire s x false else s
  if atLimit32 (ax s x).count || (atLimit32 new && old != new) then counterFault s x else s

def axIllegal (s : State) (x : Fin 4) : State :=
  let s := incFld (modAx s x (fun a => { a with illegal := a.illegal + 1 })) (F.MOT_ILLEGAL x)
  if (ax s x).illegal = 4 then encoderAxFault (modAx s x (fun a => { a with illegal := 0 })) x else s

def axLevels (s : State) (x : Fin 4) (a b : Bool) : State :=
  let d := (quadPhase a b + 4 - quadPhase (ax s x).a (ax s x).b) % 4
  let s := modAx s x (fun y => { y with a := a, b := b })
  if d = 0 then s else if d = 2 then axIllegal s x
  else axCounted s x ((d == 1) != fldB s (F.MOT_AX_CTL_ENC_INVERT x))

/-- AXIS_ENCODER_EDGE: the inputs show `a` and `b`, held for `heldA` and `heldB` consecutive samples; an input's level is
accepted once it has held for FILTER + 1 samples (R407, R214). -/
def execAxisEncoderEdge (x : Fin 4) (a b : Bool) (heldA heldB : Nat) (s : State) : Res :=
  .next (if alive s then
    let n := fld s (F.MOT_AX_CTL_FILTER x) + 1
    axLevels s x (if n ≤ heldA then a else (ax s x).a) (if n ≤ heldB then b else (ax s x).b)
  else s)

def execAxisIndexEdge (x : Fin 4) (s : State) : Res :=
  .next (if alive s then setFldInt s (F.MOT_INDEX_CNT x) (ax s x).count else s)

/-- A splice edge that has held for `held` ticks: SPL_FILTER + 1 are needed (R420); only the active retracts (DEDUCED,
log entry 66). -/
def execSpliceEdge (falling : Bool) (held : Nat) (s : State) : Res :=
  .next (if isActive s && fldB s F.MOT_CTL_SPL_EN && (fldB s F.MOT_CTL_SPL_EDGE == falling)
      && decide (fld s F.MOT_CTL_SPL_FILTER + 1 ≤ held) then startRetract s else s)

/-- For how long the axis has been idle with v = 0, in ns: up to the last cycle, and since then. -/
def idleNs (s : State) (x : Fin 4) : Nat :=
  (ax s x).idle + (match s.mot.last with
    | some l => (tbVal s 3 - l).toNat
    | none => 0)

/-- HOLD_DELAY_EXPIRY: HOLD_DLY ms have passed with the axis idle and v = 0 (R415). -/
def execHoldDelayExpiry (x : Fin 4) (s : State) : Res :=
  .next (if isActive s && (ax s x).idleNow && !(ax s x).hold
      && decide (fld s (F.MOT_HOLD_DLY x) * 1000000 ≤ idleNs s x) then modAx s x (fun a => { a with hold := true, ramp := 0 }) else s)

/-- The count a probe latches (R423). -/
def probeCount (s : State) (ch : Nat) : Int :=
  if ch = 0 then (ax s 0).count else if ch = 1 then (ax s 1).count else if ch = 2 then (ax s 2).count
  else if ch = 3 then (ax s 3).count else s.plc.count

def execProbeEdge (n : Fin 4) (falling : Bool) (s : State) : Res :=
  .next (if alive s && fldB s (F.MOT_PRB_CTL_EN n) && (fldB s (F.MOT_PRB_CTL_EDGE n) == falling) then
    let s := setFldInt s (F.MOT_PRB_COUNT n) (probeCount s (fld s (F.MOT_PRB_CTL_CHANNEL n)))
    let s := setFld s (F.MOT_PRB_TIME n) (tbVal s 3).toNat
    setEventAll (incFld (setFldB s (F.MOT_PRB_STAT_NEW n) true) (F.MOT_PRB_STAT_EDGES n)) 15
  else s)

/-! ## The motion cycle (R405) -/

/-- Step 2: a staged write takes effect (R408, R409, R410). -/
def applyMotWrite (s : State) (w : MotWrite) : State :=
  match w with
  | .target x v =>
    let c := softClamp s x v
    let s := if c = v then s
      else alarm (setFldB s (F.MOT_SOFT_LIMIT x) true) (365 + x.val) [if c < v then 1 else 0, wInt v]
    modAx s x (fun a => { a with mode := 1, brake := false, target := c })
  | .segments x f l =>
    modAx s x (fun a =>
      { a with mode := 2, brake := false, seg := f, segLast := l, segP0 := a.p, segV0 := a.v, segE := 0 })

/-- Axis 1 takes the place and speed of axis 0 in every cycle (R419): locked, and no fault has parted the pair. -/
def lockFollows (s : State) : Bool :=
  lockOn s && !s.mot.parted && !axFaulted s 0 && !axFaulted s 1 && (ax s 1).mode == 0

/-- Step 3: STOP brakes; of a locked pair axis 1 goes as axis 0 does (DEDUCED, log entry 126). -/
def applyStop (stop : BitVec 4) (s : State) (x : Fin 4) : State :=
  if stop.getLsbD x && !(x == 1 && lockFollows s) then brakeAx s x else s
/-- Step 3: an enabled lift without a fault goes to its retract position (R420). -/
def applyRetract (s : State) (x : Fin 4) : State :=
  if isLift x && fldB s (F.MOT_AX_CTL_ENABLE x) && !axFaulted s x then
    let t := softClamp s x (fldInt s F.MOT_RET_POS + if x = 1 then lockOfs s else 0)
    modAx s x (fun a => { a with mode := 3, brake := false, target := t })
  else s

/-- Step 4: the stall check (R416). -/
def stallCheck (s : State) (x : Fin 4) : State :=
  if fldB s (F.MOT_AX_CTL_STALL_EN x) && !fldB s (F.MOT_ENCODER x)
      && decide ((fld s (F.MOT_STALL_WIN x) : Int) < iabs (cmdPos s x - encPos s x)) then
    let s := modAx s x (fun a => { a with stall := a.stall + 1 })
    if atLeast 1 (fld s (F.MOT_STALL_N x)) ≤ (ax s x).stall then stallFault s x else s
  else modAx s x (fun a => { a with stall := 0 })

/-- Braking at `amax` for `dt` ns (R418): ends at rest and idle. -/
def brakeCycle (a : Axis) (amax dt : Nat) : Axis :=
  let v1 := a.v - isgn a.v * roundQ (amax * 65536 * dt) 1000000000
  let v1 := if isgn v1 = isgn a.v then v1 else 0
  { a with p := a.p + roundQ ((a.v + v1) * dt) 2000000000, v := v1, brake := v1 != 0 }

/-- One cycle of R408; the second result says that the axis reached its target. The clamp to VMAX follows the branch
that accelerates, so that a lowered VMAX is never a step in speed (DEDUCED, log entry 65). -/
def targetCycle (a : Axis) (vmax amax dt : Nat) : Axis × Bool :=
  let vm : Int := vmax * fx
  let dv := roundQ (amax * 65536 * dt) 1000000000
  let d := a.target * fx - a.p
  let sd := roundQ (a.v * a.v) (2 * amax * 65536)
  let brakes := decide (vm < iabs a.v) || (a.v != 0 && (decide (isgn a.v ≠ isgn d) || decide (iabs d ≤ sd)))
  let acc : Int := if brakes then -isgn a.v else if iabs a.v < vm then isgn d else 0
  let v1 := a.v + acc * dv
  let v1 := if brakes && isgn v1 != isgn a.v then 0 else v1
  let v1 := if !brakes && acc != 0 then clampI (-vm) vm v1 else v1
  let p1 := a.p + roundQ ((a.v + v1) * dt) 2000000000
  if decide (iabs (a.target * fx - p1) < fx) && decide (iabs v1 ≤ dv) then
    ({ a with p := a.target * fx, v := 0, mode := 0 }, true)
  else ({ a with p := p1, v := v1 }, false)

/-- Take the knots that `e` has reached; the remainder carries on (R411). Answers the axis and whether a knot with
EVENT was passed. -/
def segAdvance (s : State) (x : Fin 4) : Nat → Axis → Bool → Axis × Bool
  | 0, a, ev => (a, ev)
  | n + 1, a, ev =>
    if a.segE < segNs s x a.seg then (a, ev)
    else
      let pos := fldInt s (F.MOT_SEG_POS x a.seg) * fx
      let vel := fldInt s (F.MOT_SEG_VEL x a.seg) * fx
      let ev := ev || fldB s (F.MOT_SEG_EVENT x a.seg)
      if a.segLast ≤ a.seg then ({ a with p := pos, v := 0, mode := 0, segE := 0 }, ev)
      else segAdvance s x n { a with segP0 := pos, segV0 := vel, segE := a.segE - segNs s x a.seg, seg := a.seg + 1 } ev

/-- The cubic of R411, exact and then rounded once. -/
def segPoint (s : State) (x : Fin 4) (a : Axis) : Axis :=
  let e : Int := a.segE
  let dn := segNs s x a.seg
  let D : Int := dn
  let pos := fldInt s (F.MOT_SEG_POS x a.seg) * fx
  let vel := fldInt s (F.MOT_SEG_VEL x a.seg) * fx
  let np := ((2*e*e*e - 3*e*e*D + D*D*D) * a.segP0 + (3*e*e*D - 2*e*e*e) * pos) * 1000000000
    + ((e*e*e - 2*e*e*D + e*D*D) * a.segV0 + (e*e*e - e*e*D) * vel) * D
  let nv := (6*e*e - 6*e*D) * (a.segP0 - pos) * 1000000000
    + ((3*e*e - 4*e*D + D*D) * a.segV0 + (3*e*e - 2*e*D) * vel) * D
  { a with p := roundQ np (1000000000 * dn ^ 3), v := roundQ nv (dn ^ 3) }

/-- Step 5: the generator of one axis. -/
def generate (s : State) (x : Fin 4) (dt : Nat) : State :=
  let a := ax s x
  let amax := atLeast 1 (fld s (F.MOT_AMAX x))
  if a.brake then setAx s x (brakeCycle a amax dt)
  else if a.mode = 1 ∨ a.mode = 3 then
    let (a', done) := if a.mode = 3
      then targetCycle a (fld s F.MOT_RET_VMAX) (atLeast 1 (fld s F.MOT_RET_AMAX)) dt
      else targetCycle a (atLeast 1 (fld s (F.MOT_VMAX x))) amax dt
    let s := setAx s x a'
    if done then setEventAll s 15 else s
  else if a.mode = 2 then
    let (a', ev) := segAdvance s x 257 { a with segE := a.segE + dt } false
    let s := setAx s x (if a'.mode = 2 then segPoint s x a' else a')
    if ev then setEventAll s 15 else s
  else s

/-- A parted pair is whole again once both lifts are at rest. -/
def rejoin (s : State) : State :=
  if (ax s 0).idleNow && (ax s 1).idleNow then { s with mot := { s.mot with parted := false } } else s

/-- A locked axis 1 takes the place and speed of axis 0 (R419), unless it retracts by itself (R420) or a fault has parted
the pair. -/
def followLift (s : State) : State :=
  if lockFollows s then modAx s 1 (fun a => { a with p := (ax s 0).p + lockOfs s * fx, v := (ax s 0).v, brake := false })
  else rejoin s

/-- CMD_POS reached a limit of its range (R406). -/
def cmdCounterCheck (old : Int) (s : State) (x : Fin 4) : State :=
  if atLimit32 (cmdPos s x) && decide (cmdPos s x ≠ old) then counterFault s x else s

/-- Step 6 (R417). A place beyond a limit is looked for while the axis moves (DEDUCED, log entry 126). -/
def softCheck (s : State) (x : Fin 4) : State :=
  let a := ax s x
  let c := cmdPos s x
  let e := encPos s x
  let win : Int := fld s (F.MOT_STALL_WIN x)
  if a.mode = 2 ∧ c < softMin s x then softFault s x false c
  else if a.mode = 2 ∧ softMax s x < c then softFault s x true c
  else if a.moving ∧ e < softMin s x - win then softFault s x false e
  else if a.moving ∧ softMax s x + win < e then softFault s x true e
  else s

/-- The resolution (R413), as log2 Q. -/
def nextQ (ql : Nat) (v : Int) (ms : Nat) : Nat :=
  if ql < 8 ∧ 2 * 2 ^ ql * ms * 65536 ≤ (iabs v).toNat then ql + 1
  else if 0 < ql ∧ 8 * (iabs v).toNat < 7 * 2 ^ ql * ms * 65536 then ql - 1
  else ql

/-- K on its ramp (R415); the rounding of the ramp is not stated and is toward K_RUN's floor (DESIGN CHOICE, log entry 64). -/
def kNow (s : State) (x : Fin 4) : Int :=
  let r : Int := fld s (F.MOT_K_RUN x)
  let h : Int := fld s (F.MOT_K_HOLD x)
  r + (h - r) * (ax s x).ramp / 16

/-- One phase of R414: duty of the phase value `sv`, negative on its N output. -/
def phaseDuty (v vb : Nat) (sv : Int) : Int :=
  isgn sv * (Nat.min 4095 ((v * (iabs sv).toNat + vb / 2) / vb) : Nat)

/-- 4096 times the sine of the first quarter in steps of 1/1024 of a turn, rounded down, at most 4095 (13 signed bits). -/
def sineFloors : List Nat :=
  [0, 25, 50, 75, 100, 125, 150, 175, 200, 226, 251, 276, 301, 326, 351, 376]
    ++ [401, 426, 451, 476, 501, 526, 551, 576, 601, 625, 650, 675, 700, 725, 749, 774]
    ++ [799, 823, 848, 872, 897, 921, 946, 970, 995, 1019, 1043, 1068, 1092, 1116, 1140, 1164]
    ++ [1189, 1213, 1237, 1260, 1284, 1308, 1332, 1356, 1379, 1403, 1427, 1450, 1474, 1497, 1520, 1544]
    ++ [1567, 1590, 1613, 1636, 1659, 1682, 1705, 1728, 1751, 1773, 1796, 1819, 1841, 1864, 1886, 1908]
    ++ [1930, 1952, 1975, 1997, 2018, 2040, 2062, 2084, 2105, 2127, 2148, 2170, 2191, 2212, 2233, 2254]
    ++ [2275, 2296, 2317, 2337, 2358, 2379, 2399, 2419, 2439, 2460, 2480, 2500, 2519, 2539, 2559, 2578]
    ++ [2598, 2617, 2637, 2656, 2675, 2694, 2713, 2732, 2750, 2769, 2787, 2806, 2824, 2842, 2860, 2878]
    ++ [2896, 2914, 2931, 2949, 2966, 2983, 3000, 3018, 3034, 3051, 3068, 3085, 3101, 3117, 3134, 3150]
    ++ [3166, 3182, 3197, 3213, 3229, 3244, 3259, 3274, 3289, 3304, 3319, 3334, 3348, 3363, 3377, 3391]
    ++ [3405, 3419, 3433, 3447, 3460, 3473, 3487, 3500, 3513, 3526, 3538, 3551, 3563, 3576, 3588, 3600]
    ++ [3612, 3624, 3635, 3647, 3658, 3669, 3680, 3691, 3702, 3713, 3723, 3734, 3744, 3754, 3764, 3774]
    ++ [3784, 3793, 3803, 3812, 3821, 3830, 3839, 3848, 3856, 3864, 3873, 3881, 3889, 3897, 3904, 3912]
    ++ [3919, 3926, 3933, 3940, 3947, 3954, 3960, 3967, 3973, 3979, 3985, 3990, 3996, 4001, 4007, 4012]
    ++ [4017, 4022, 4026, 4031, 4035, 4039, 4043, 4047, 4051, 4055, 4058, 4062, 4065, 4068, 4071, 4073]
    ++ [4076, 4078, 4080, 4082, 4084, 4086, 4088, 4089, 4091, 4092, 4093, 4094, 4094, 4095, 4095, 4095]
    ++ [4095]

/-- Entry `i` of the sine table (R414), in 1/4096: the rule gives no rounding, so an entry is the number above or below
(log entry 14). -/
def motorSin (i : Nat) : Int :=
  let j := i % 512
  let n := sineFloors.getD (if j ≤ 256 then j else 512 - j) 0
  let m : Int := if j = 0 then 0 else if Config.sineUp i then n + 1 else n
  if i % 1024 < 512 then m else -m

/-- The duties of the axis's drive angle, speed and K (R414, R404). The product with K_BEMF is a u32 and wraps (R11). -/
def dutyAx (s : State) (x : Fin 4) : State :=
  let a := ax s x
  let volt := (kNow s x + (fld s (F.MOT_K_BEMF x) * ((iabs a.v).toNat / 65536) % 2 ^ 32 / 256000 : Nat)).toNat % 65536
  let vb := atLeast 1000 (fld s F.MOT_VBUS_MV)
  let q := 2 ^ a.qlog
  let th := ((cmdPos s x) % 1024).toNat / q * q + q / 2
  let sb := motorSin ((th + 256) % 1024)
  let sb := if fldB s (F.MOT_AX_CTL_MOT_INVERT x) then -sb else sb
  if fldB s (F.MOT_AX_CTL_ENABLE x) then
    setAx s x { a with dutyA := phaseDuty volt vb (motorSin th), dutyB := phaseDuty volt vb sb }
  else setAx s x { a with dutyA := 0, dutyB := 0 }

/-- Step 7: resolution, K and duties (R413 to R415). -/
def driveAx (s : State) (x : Fin 4) (dt : Nat) : State :=
  let a := ax s x
  let mv := a.moving
  let ql := if mv then nextQ a.qlog a.v (atLeast 1 (fld s (F.MOT_MS_FULL x))) else 0
  dutyAx (setAx s x { a with
    qlog := ql, hold := a.hold && !mv, ramp := if mv then 0 else if a.hold then Nat.min 16 (a.ramp + 1) else a.ramp,
    idle := if mv then 0 else a.idle + dt }) x

/-- A motion cycle at TB-MOTION now. -/
def motionCycle (s : State) : State :=
  if isActive s then
    let now := tbVal s 3
    let dt := match s.mot.last with
      | some l => (now - l).toNat
      | none => 0
    let old := fun x => cmdPos s x
    let w := s.mot.writes
    let stop := s.mot.stop
    let ret := s.mot.retract
    let s := { s with mot := { s.mot with writes := [], stop := 0, retract := false, last := some now } }
    let s := w.foldl applyMotWrite s
    let s := (List.finRange 4).foldl (applyStop stop) s
    let s := if ret then (List.finRange 4).foldl applyRetract s else s
    let s := (List.finRange 4).foldl stallCheck s
    let s := (List.finRange 4).foldl (fun s x => generate s x dt) s
    let s := followLift s
    let s := (List.finRange 4).foldl (fun s x => cmdCounterCheck (old x) s x) s
    let s := (List.finRange 4).foldl softCheck s
    (List.finRange 4).foldl (fun s x => driveAx s x dt) s
  else s

/-! ## Mirroring (R426, R427) -/

def axSnap (s : State) (x : Fin 4) : AxisSnap :=
  let a := ax s x
  { mode := if a.brake then 4 else a.mode, p := a.p, v := a.v, target := a.target, seg := a.seg, segP0 := a.segP0,
    segV0 := a.segV0, segE := a.segE, qlog := a.qlog, k := a.ramp, idle := a.idle, encPos := encPos s x,
    count := a.count, faults := (stnWord s (F.MOT_STALL x).addr).toNat % 64, cmpArmed := fldB s (F.MOT_ARMED x),
    cmpHeld := fldB s (F.MOT_HELD x) }

/-- The MOTION section of a hamper. -/
def motionSection (s : State) : JEntry :=
  .motion ((List.finRange 4).map (axSnap s)) (fldB s F.MOT_GSTAT_RETRACT) (lockOn s)

/-- The standby takes one axis of a MOTION section: fault bits and compare state, and after two hampers with v = 0
its ENC_OFS (R426). -/
def mirrorAx (s : State) (x : Fin 4) (m : AxisSnap) : State :=
  let s := setStnWord s (F.MOT_STALL x).addr (BitVec.ofNat 32 (m.faults % 64))
  let s := setFldB (setFldB s (F.MOT_ARMED x) m.cmpArmed) (F.MOT_HELD x) m.cmpHeld
  let n := if m.v = 0 then (ax s x).aligned + 1 else 0
  let s := modAx s x (fun a => { a with aligned := n })
  if 2 ≤ n then modAx s x (fun a => { a with encOfs := m.encPos - encRaw s x }) else s

def mirrorMotion (s : State) (axes : List AxisSnap) (retract lock : Bool) : State :=
  let s := { s with mot := { s.mot with mirror := axes } }
  let s := setFldB (setFldB s F.MOT_GSTAT_RETRACT retract) F.MOT_CTL_LIFT_LOCK lock
  (List.finRange 4).foldl (fun s x => match axes[x.val]? with
    | some m => mirrorAx s x m
    | none => s) s

/-- The new active resumes an axis from the last hamper (R427, R416), at the duty of the mirrored drive angle (R24). -/
def resumeAx (s : State) (x : Fin 4) (m : AxisSnap) : State :=
  let s := if 2 ≤ (ax s x).aligned then s else modAx s x (fun a => { a with encOfs := m.encPos - encRaw s x })
  dutyAx (modAx s x (fun a =>
    { a with mode := if m.mode = 4 then 0 else m.mode, brake := m.mode == 4, p := m.p, v := m.v, target := m.target,
             seg := m.seg, segLast := fld s (F.MOT_SEG_CTL_LAST x), segP0 := m.segP0, segV0 := m.segV0, segE := m.segE,
             qlog := m.qlog, ramp := m.k, hold := decide (0 < m.k), idle := m.idle, stall := 0, aligned := 0 })) x

/-- The old active has the axes as it handed them over (R356), its ENC_OFS with them. -/
def motionHanded (s : State) : State :=
  { s with mot := { s.mot with
      mirror := (List.finRange 4).map (axSnap s), axes := s.mot.axes.map (fun a => { a with aligned := 2 }) } }

/-- What the motion engine does as the device takes the bar. -/
def motionAtRole (s : State) : State :=
  let s := { s with mot := { s.mot with writes := [], stop := 0, retract := false, last := none, parted := false } }
  (List.finRange 4).foldl (fun s x => match s.mot.mirror[x.val]? with
    | some m => resumeAx s x m
    | none => modAx s x (fun a => { a with stall := 0 })) s

end Sys2Proof.Machine
end

