-- ==== Sys2Proof/Machine/Sight.lean ====
section
/-! DEFINITION. The Sight pipelines: the eleven stages, statistics records and profiles (R279, R289 to R292, R300 to
R302). -/
namespace Sys2Proof.Machine
open Sys2Proof

/-! ## Stages 1 to 8 (R289) -/

/-- A frame under its context: what the stages read. -/
structure Px where
  n : Fin 4
  c : CtxSet
  w : Nat
  bits : Nat
  lines : List (List Nat)
deriving DecidableEq, Repr

def Px.raw (f : Px) (y x : Nat) : Nat := (f.lines.getD y []).getD x 0

/-- A 16-bit entry of a table at offset `off` (R306). -/
def tabEntry (f : Px) (off i : Nat) : Nat :=
  let a := 0x47100000 + f.n.val * 0x20000 + off + i / 16 * 32
  ((spGet vstnInit f.c.tabs a).extractLsb' (16 * (i % 16)) 16).toNat

def isDefect (f : Px) (x : Nat) : Bool :=
  let a := 0x47100000 + f.n.val * 0x20000 + 0x10000 + x / 256 * 32
  (spGet vstnInit f.c.tabs a).getLsbD (x % 256)

/-- Stages 1 to 3: widened, dark level, flat field. -/
def Px.flat (f : Px) (y x : Nat) : Nat :=
  let v := f.raw y x
  let a := if f.bits = 12 then v else (v <<< (12 - f.bits) ||| v >>> (2 * f.bits - 12)) % 4096
  let dark := ctxFld f.c (F.SIGHT_DARK f.n)
  let b := if dark < a then a - dark else 0
  Nat.min 4095 ((b * tabEntry f 0 x + 2048) / 4096)

/-- (sum + count / 2) / count of the valid values (R289). -/
def meanOf (vs : List Nat) : Option Nat := if vs = [] then none else some ((vs.sum + vs.length / 2) / vs.length)

/-- Stage 4: a defective pixel takes its period neighbours. -/
def Px.fixed (f : Px) (y x : Nat) : Option Nat :=
  if isDefect f x then
    let p := ctxP f.c f.n
    let left := if p ≤ x ∧ !isDefect f (x - p) then [f.flat y (x - p)] else []
    let right := if x + p < f.w ∧ !isDefect f (x + p) then [f.flat y (x + p)] else []
    meanOf (left ++ right)
  else some (f.flat y x)

/-- Kind of the site at (x, y). -/
def Px.site (f : Px) (y x : Nat) : Nat := let p := ctxP f.c f.n; ctxPat f.c f.n (p * (y % p) + x % p)

/-- Stage 5: the value of kind `k` at a pixel. -/
def Px.kindAt (f : Px) (k y x : Nat) : Option Nat :=
  let p := ctxP f.c f.n
  if p = 1 then f.fixed y x
  else if f.site y x = k then f.fixed y x
  else
    let r := if p = 2 then 1 else 2
    let ys := (List.range (2 * r + 1)).filterMap (fun i => if r ≤ y + i ∧ y + i - r < f.lines.length then some (y + i - r) else none)
    let xs := (List.range (2 * r + 1)).filterMap (fun i => if r ≤ x + i ∧ x + i - r < f.w then some (x + i - r) else none)
    meanOf (ys.flatMap (fun y' => xs.filterMap (fun x' => if f.site y' x' = k then f.fixed y' x' else none)))

/-- XT of plane `q`. -/
def ctxXt (c : CtxSet) (n : Fin 4) (q : Nat) : Nat :=
  if q = 0 then ctxFld c (F.SIGHT_XT0_A n) else if q = 1 then ctxFld c (F.SIGHT_XT0_B n)
  else if q = 2 then ctxFld c (F.SIGHT_XT1_A n) else ctxFld c (F.SIGHT_XT1_B n)
def ctxM (c : CtxSet) (n : Fin 4) (i j : Nat) : Int :=
  if j = 0 then ctxInt c (F.SIGHT_M_0 n i) else if j = 1 then ctxInt c (F.SIGHT_M_1 n i)
  else if j = 2 then ctxInt c (F.SIGHT_M_2 n i) else ctxInt c (F.SIGHT_M_3 n i)
def ctxMofs (c : CtxSet) (n : Fin 4) (i : Nat) : Int :=
  if i = 0 then ctxInt c (F.SIGHT_MOFS_0 n) else if i = 1 then ctxInt c (F.SIGHT_MOFS_1 n)
  else if i = 2 then ctxInt c (F.SIGHT_MOFS_2 n) else ctxInt c (F.SIGHT_MOFS_3 n)

/-- Stage 6: crosstalk of the near infrared leaves plane `q`. A pixel that stage 4 made invalid stays so. -/
def Px.plane (f : Px) (q y x : Nat) : Option Nat :=
  let k := ctxKind f.c f.n q
  match f.fixed y x, f.kindAt k y x with
  | none, _ => none
  | _, none => none
  | some _, some v =>
    if ctxP f.c f.n = 1 ∨ k = 4 then some v
    else (f.kindAt 4 y x).map (fun nv => v - (ctxXt f.c f.n q * nv + 2048) / 4096)

/-- Stage 7: the matrix. -/
def Px.mixed (f : Px) (i y x : Nat) : Option Nat :=
  match f.plane 0 y x, f.plane 1 y x, f.plane 2 y x, f.plane 3 y x with
  | some a, some b, some c, some d =>
    let m := ctxM f.c f.n i
    let acc : Int := ctxMofs f.c f.n i * 4096 + m 0 * a + m 1 * b + m 2 * c + m 3 * d
    some (max 0 (min 4095 ((acc + 2048) / 4096))).toNat
  | _, _, _, _ => none

/-- Stage 8: the density of plane `q`, 12 bits. -/
def Px.density (f : Px) (q y x : Nat) : Option Nat :=
  (f.mixed q y x).map (fun o =>
    let off := 0x11000 + q * 0x400
    (tabEntry f off (o / 16) * (16 - o % 16) + tabEntry f off (o / 16 + 1) * (o % 16) + 8) / 16 % 4096)

/-! ## Stages 9 and 10 (R279, R290, R291) -/

/-- A record line that a camera line may use: the right one, and readable (R279, R365). -/
def recUsable (s : State) (jobId start l : Nat) : Bool :=
  recHolds s jobId start l && !dramBad s (recAddr s start l) recBytes

/-- The camera line that samples print line `l` is a record miss. -/
def recMiss (s : State) (f : CamFrame) (l : Nat) : Bool :=
  l == 0 || !([l - 1, l, l + 1].all (recUsable s f.jobId f.recStart))

/-- Some pod that serves column `c` has a mark other than fired on line `l`. -/
def columnMarked (s : State) (f : CamFrame) (l c : Nat) : Bool :=
  (servers s c).any (fun p => (List.range (rowsOf s p)).any (fun r => recMark s f.recStart l p r != 0))

/-- The code of a column in a record line; absent columns count as code 0. -/
def codeAt (s : State) (f : CamFrame) (l : Nat) (c : Int) : Nat :=
  if 0 ≤ c ∧ c < 57344 then recCode s f.recStart l c.toNat else 0

/-- The line conditions of R290 about column `c`. -/
def lineExcluded (s : State) (f : CamFrame) (l c : Nat) : Bool :=
  [l - 1, l, l + 1].any (fun l' => [c - 1, c, c + 1].any (fun c' => columnMarked s f l' c'))

/-- The residual r of a pixel; none when it is excluded (R290). -/
def residual (s : State) (f : CamFrame) (g : Px) (y x : Nat) : Option Int :=
  let l := f.trigs.getD y 0
  let c := camCol s g.n x
  if f.byCompare || !decide (ctxFld g.c (F.SIGHT_CMP_EN g.n) = 1) || recMiss s f l || decide (c < 0)
      || decide (57343 < c) || lineExcluded s f l c.toNat then none
  else (g.density (ctxFld g.c (F.SIGHT_CMP_PLANE g.n)) y x).map (fun d =>
    let num := ((List.range 9).map (fun i =>
      ctxKer g.c g.n i * ctxDd g.c g.n (codeAt s f (l + i / 3 - 1) (c + (i % 3 : Nat) - 1)))).sum
    let den := ctxKerSum g.c g.n
    (d : Int) - Nat.min 4095 (ctxFld g.c (F.SIGHT_PRED_BASE g.n) + (num + den / 2) / den))

/-- The generation `g` of job number `job`, if it is kept: the latest 16 of the running job are (R291, R308). -/
def genKept (s : State) (job g : Nat) : Option Gen :=
  if job ≠ s.sight.jobNo ∨ s.sight.genCount < g ∨ s.sight.gens.length ≤ s.sight.genCount - g then none
  else s.sight.gens[s.sight.genCount - g]?

/-- The pod that owns column `c` on line `l` under a generation (R193, R291). -/
def ownerGen (s : State) (g : Gen) (l c : Nat) : Option Nat :=
  match servers s c with
  | [] => none
  | [p] => some p
  | p :: q :: _ =>
    if liveIn s g.map p (c - colBase s p) = 0 then some q
    else if liveIn s g.map q (c - colBase s q) = 0 then some p
    else
      let t := c - colBase s q
      let z := colBase s p + spanOf s p - colBase s q
      if (fldOf F.SCR_STITCH_MODE g.stitch).testBit p then (if z / 2 ≤ t then some q else some p)
      else
        let x := (c + fldOf F.SCR_TOFF_XOFF g.toff + 128) % 256
        let y := (l + fldOf F.SCR_TOFF_YOFF g.toff + 128) % 256
        let th := ((vecGet s (0x43100000 + y * 0x200 + x / 16 * 32)).extractLsb' (16 * (x % 16)) 16).toNat
        if th < (2 * t + 1) * 65536 / (2 * z) then some q else some p

/-- The pod and phase that answer for column `c` on line `l` (R291, R310). -/
def phaseFor (s : State) (start : Nat) (g : Gen) (l c : Nat) : Option (Nat × Nat) :=
  (ownerGen s g l c).bind (fun p =>
    let m := liveIn s g.map p (c - colBase s p)
    let ph := recPhase s start l p m
    if m = 0 ∨ ph = 0xFFFF then none else some (p, ph % 840 % m))

/-! ## Parts -/

/-- The parts of a frame: runs of camera lines of one generation, record misses passed over (R291). -/
def partsOf (s : State) (f : CamFrame) : List (Nat × List Nat) :=
  ((List.range f.lines.length).foldl (fun (acc : List (Nat × List Nat)) y =>
    let l := f.trigs.getD y 0
    if f.byCompare || recMiss s f l then acc
    else
      let g := recGen s f.recStart l
      match acc.getLast? with
      | some (g', ys) => if g' = g then acc.dropLast ++ [(g, ys ++ [y])] else acc ++ [(g, [y])]
      | none => [(g, [y])]) [])

/-- The compared pixels of some camera lines, as (y, x, r). -/
def comparedIn (s : State) (f : CamFrame) (g : Px) (ys : List Nat) : List (Nat × Nat × Int) :=
  ys.flatMap (fun y => (List.range g.w).filterMap (fun x => (residual s f g y x).map (fun r => (y, x, r))))

/-- Saturate to `b` bits. -/
def satN (b v : Nat) : Nat := Nat.min v (2 ^ b - 1)

/-- The 16 bytes of a profile entry (R302). -/
def profEntry (rs : List Int) : List Byte :=
  leBytes 4 (rs.sum % 2 ^ 32).toNat
    ++ leBytes 4 (rs.foldl (fun a r => satN 32 (a + (r * r / 16).toNat)) 0)
    ++ leBytes 2 (rs.length % 65536) ++ leBytes 2 0 ++ leBytes 4 0

/-- The bytes of a profile part (R302). -/
def partBytes (s : State) (f : CamFrame) (g : Px) (k : Nat) (part : Nat × List Nat) : List Byte :=
  let (c0, ncol) := camCols s g.n
  let first := f.trigs.getD (part.2.headD 0) 0
  let last := f.trigs.getD (part.2.getLastD 0) 0
  let head := leBytes 4 f.number ++ [BitVec.ofNat 8 g.n.val, BitVec.ofNat 8 k] ++ leBytes 2 0 ++ leBytes 4 part.1
    ++ leBytes 4 first ++ leBytes 4 last ++ leBytes 4 c0 ++ leBytes 4 ncol
    ++ leBytes 4 (f.expTag.toNat + 2 ^ 16 * g.c.tag.toNat) ++ List.replicate 32 0
  match genKept s f.job part.1 with
  | none => head ++ List.replicate (128 * ncol) 0
  | some gen =>
    let px := (comparedIn s f g part.2).filterMap (fun t =>
      let c := (camCol s g.n t.2.1).toNat
      (phaseFor s f.recStart gen (f.trigs.getD t.1 0) c).map (fun ph => (c, ph.2, t.2.2)))
    head ++ (List.range ncol).flatMap (fun i => (List.range 8).flatMap (fun ph =>
      profEntry ((px.filter (fun t => t.1 == c0 + i && t.2.1 == ph)).map (fun t => t.2.2))))

/-! ## The statistics record (R292, R301) -/

/-- Every valid density of plane `q`. -/
def validPlane (f : CamFrame) (g : Px) (q : Nat) : List Nat :=
  (List.range f.lines.length).flatMap (fun y => (List.range g.w).filterMap (fun x => g.density q y x))

/-- Bits [7:0] of FLAGS: INCOMPLETE, SHORT, EXP_UNKNOWN, CMP_OFF. -/
def frameFlags (f : CamFrame) (g : Px) : Nat :=
  (if f.close == .incomplete then 1 else 0) + (if f.close == .short then 2 else 0) + (if f.expUnknown then 4 else 0)
    + (if f.byCompare || ctxFld g.c (F.SIGHT_CMP_EN g.n) == 0 then 8 else 0)

/-- A number of the record, or the `k`-th next free value where no rule states it (R301; log entry 133). -/
def statedOr (s : State) (k : Nat) (stated : Bool) (v : Nat) : Nat :=
  if stated then v else (Config.freeWord (s.fresh + k)).toNat

/-- MIN, MAX, a reserved word and SUM of plane `q`: no rule states the first two of a plane without a valid pixel. -/
def planeBytes (s : State) (q : Nat) (vs : List Nat) : List Byte :=
  leBytes 2 (statedOr s (2 + 2 * q) (!vs.isEmpty) (vs.foldl Nat.min 65535))
    ++ leBytes 2 (statedOr s (3 + 2 * q) (!vs.isEmpty) (vs.foldl Nat.max 0)) ++ leBytes 4 0 ++ leBytes 8 vs.sum

/-- The 2,048 bytes of a statistics record. The lines of a frame without a line, or of one that samples no print line
(R288), have no print lines to state. -/
def statBytes (s : State) (f : CamFrame) (g : Px) (nparts : Nat) : List Byte :=
  let cmp := comparedIn s f g (List.range f.lines.length)
  let rs := cmp.map (fun t => t.2.2)
  let sampled := !f.byCompare && !f.lines.isEmpty
  let total := f.lines.length * g.w
  let sat := ((List.range f.lines.length).flatMap (fun y =>
    (List.range g.w).filter (fun x => (g.fixed y x).isSome && g.flat y x == 4095))).length
  let planes := (List.range 4).map (validPlane f g)
  [BitVec.ofNat 8 g.n.val, BitVec.ofNat 8 (frameFlags f g)] ++ leBytes 2 f.expTag.toNat ++ leBytes 2 g.c.tag.toNat
    ++ leBytes 2 f.lines.length ++ leBytes 4 f.number ++ leBytes 4 f.pm.toNat ++ leBytes 4 f.jobId
    ++ leBytes 4 (statedOr s 0 sampled (f.trigs.headD 0))
    ++ leBytes 4 (statedOr s 1 sampled (f.trigs.getD (f.lines.length - 1) 0)) ++ leBytes 4 (pairEpoch s).toNat
    ++ leBytes 4 rs.length ++ leBytes 4 (total - rs.length) ++ leBytes 8 (rs.sum % 2 ^ 64).toNat
    ++ leBytes 8 (rs.map (fun r => (r * r).toNat)).sum ++ leBytes 4 sat ++ leBytes 4 nparts
    ++ (List.range 4).flatMap (fun q => planeBytes s q (planes.getD q []))
    ++ List.replicate 128 0
    ++ planes.flatMap (fun vs => (List.range 64).flatMap (fun b => leBytes 4 (vs.filter (fun v => v / 64 == b)).length))
    ++ List.replicate 768 0

/-- Compared pixels whose generation is older than the 16 kept (R291). -/
def noGenCount (s : State) (f : CamFrame) (g : Px) (parts : List (Nat × List Nat)) : Nat :=
  ((parts.filter (fun p => (genKept s f.job p.1).isNone)).map (fun p => (comparedIn s f g p.2).length)).sum

/-! ## A frame leaves its pipeline (R301) -/

def statAddr (s : State) (n : Fin 4) (k : Nat) : Nat :=
  fld s (F.SIGHT_STAT_BASE_LO n) + 2 ^ 32 * fld s (F.SIGHT_STAT_BASE_HI n) + k % camStatSlots s n * 2048
def profAddr (s : State) (n : Fin 4) (k : Nat) : Nat :=
  fld s (F.SIGHT_PROF_BASE_LO n) + 2 ^ 32 * fld s (F.SIGHT_PROF_BASE_HI n)
    + k % camProfSlots s n * fld s (F.SIGHT_PROF_STRIDE n)

/-- Write the frame's parts to the profile ring: the slot address of each. -/
def writeParts (s : State) (f : CamFrame) (g : Px) (parts : List (Nat × List Nat)) : State × List HltPart :=
  parts.foldl (fun (acc : State × List HltPart) p =>
    let (s, ps) := acc
    let a := profAddr s g.n (cam s g.n).profNext
    let k := ps.length
    let cols := camCols s g.n
    let s := dramPut s a (partBytes s f g k p)
    let s := modCam s g.n (fun c => { c with profNext := c.profNext + 1 })
    (s, ps ++ [⟨k, p.1, p.2.map (fun y => f.trigs.getD y 0), a, cols.1, cols.2⟩])) (s, [])

/-- Read the record lines of a frame: an uncorrectable one is counted and raised (R365). -/
def readRecords (s : State) (f : CamFrame) : State :=
  if f.byCompare then s
  else ((f.trigs.take f.lines.length).flatMap (fun l => [l - 1, l, l + 1])).eraseDups.foldl (fun s l =>
    if recHolds s f.jobId f.recStart l then dramReadEffect s (recAddr s f.recStart l) recBytes else s) s

/-- The context set of a frame: the one its first pixel met, else, for a frame without a pixel, the one in force (R300). -/
def frameCtx (s : State) (n : Fin 4) (f : CamFrame) : CtxSet :=
  f.ctx.getD ((cam s n).ctx.getD (ctxSnapshot s n (BitVec.ofNat 16 (fld s (F.SIGHT_CTX_TAG_COMMITTED n)))))

/-- Statistics, profiles, event SIGHT, and the frame waits to be scored. -/
def processFrame (s : State) (n : Fin 4) (f : CamFrame) : State :=
  let c := frameCtx s n f
  let g : Px := ⟨n, c, camWidth s n, camBits s n, f.lines⟩
  let s := readRecords s f
  let misses := if f.byCompare then 0
    else ((List.range f.lines.length).filter (fun y => recMiss s f (f.trigs.getD y 0))).length
  let all := if frameFlags f g / 8 % 2 = 1 then [] else partsOf s f
  let parts := all.take 4
  let noGen := noGenCount s f g parts
  let stat := statBytes s f g parts.length
  let skip := f.expUnknown || frameFlags f g / 8 % 2 == 1
  let (s, hp) := writeParts s f g parts
  let s := dramPut s (statAddr s n f.number) stat
  let s := addFld (addFld s (F.SIGHT_REC_MISS n) misses) (F.SIGHT_NO_GEN n) noGen
  let s := setFldB (setFld s (F.SIGHT_CAM_FRAME n) f.number) (F.SIGHT_CAM_STAT_PAUSED n) (dieThrottle s)
  let s := { s with fresh := s.fresh + 10, hlt := { s.hlt with frames := s.hlt.frames ++ [⟨n, f.number, f.job, f.jobId, f.recStart, skip, some c, hp⟩] } }
  dmaLine (setEventAll s 12) (9 + n)

/-- FRAME_PROCESSED: the frame of camera `n` whose pipeline is done; only the active's pipelines run (R283). -/
def execFrameProcessed (n : Fin 4) (s : State) : Res :=
  if !drives s then .next s
  else if spooled s n then
    match s.sight.pipe1 with
    | some (m, f) => .next (if m = n then processFrame { s with sight := { s.sight with pipe1 := none } } n f else s)
    | none => .next s
  else match (cam s n).closed with
    | f :: _ => .next (processFrame (modCam s n (fun c => { c with closed := c.closed.drop 1 })) n f)
    | [] => .next s

/-- PIPE_ON: pipelines that work (R293, R304). -/
def pipeOn (s : State) : Nat :=
  if !drives s then 0
  else if sharedMode s then
    (if camRuns s 0 then 1 else 0) + (if s.sight.pipe1.isSome then 2 else 0)
  else ((List.finRange 4).map (fun n => if camRuns s n then 2 ^ n.val else 0)).sum

/-! ## Generations (R277, R291, R308) -/

/-- The generation a job starts with. -/
def firstGen (s : State) : Gen := ⟨0, s.scr.live, stnWord s F.SCR_STITCH_MODE.addr, stnWord s F.SCR_TOFF_XOFF.addr, true, 0⟩

end Sys2Proof.Machine
end

