-- ==== Sys2Proof/Machine/Health.lean ====
section
/-! DEFINITION. The nozzle health loop (R307 to R326). -/
namespace Sys2Proof.Machine
open Sys2Proof

/-! ## Fields as they act (R325) -/

def hMinLive (s : State) : Nat := Nat.min 8 (fld s F.HLT_CTL_MIN_LIVE)
def hFastN (s : State) : Nat := atLeast 1 (fld s F.HLT_CTL_FAST_N)
def hMinW (s : State) : Nat := atLeast 1 (fld s F.HLT_CTL_MIN_W)
def hAlpha (s : State) : Nat := atLeast 1 (fld s F.HLT_CTL_ALPHA)
def hLead (s : State) : Nat := atLeast 1 (fld s F.HLT_CTL_HLT_LEAD)

/-! ## Arithmetic (R311, R312, R315) -/

/-- Nearest, halves away from 0. -/
def divRound (a b : Int) : Int :=
  if b = 0 then 0
  else
    let q := (2 * (a.natAbs : Int) + b.natAbs) / (2 * b.natAbs)
    if decide (a < 0) != decide (b < 0) then -q else q

def clampInt (lo hi v : Int) : Int := if v < lo then lo else if hi < v then hi else v

/-- The correction g(D) (R315). -/
def gainFor (d : Int) : Int :=
  let q := 256 + d
  if q = 0 then 127 else clampInt (-128) 127 (divRound (-256 * d) q)

/-- A score record (R312). -/
structure Score where
  d : Int
  w : Nat
  f : Nat
deriving DecidableEq, Repr

/-- A signed 16-bit number from two little-endian bytes. -/
def s16At (m : List Host.Cell) (a : Nat) : Int :=
  let v := memNat m a 2
  if 32768 ≤ v then (v : Int) - 65536 else v

def scoreOf (s : State) (e : Nat) : Score :=
  let a := hltBase s + 8 * e
  ⟨s16At s.dram a, (memGet s.dram (a + 2)).toNat, (memGet s.dram (a + 3)).toNat⟩

/-- The score after the sample `d` (R312). -/
def Score.next (x : Score) (d : Int) (alpha tMiss : Nat) : Score :=
  { d := x.d + ((d - x.d) * alpha + 128) / 256, w := Nat.min 255 (x.w + 1),
    f := if d ≤ -(tMiss : Int) then Nat.min 255 (x.f + 1) else 0 }

def putScore (s : State) (e : Nat) (x : Score) (d : Int) : State :=
  dramPut s (hltBase s + 8 * e)
    (leBytes 2 (x.d % 65536).toNat ++ [BitVec.ofNat 8 x.w, BitVec.ofNat 8 x.f] ++ leBytes 2 (d % 65536).toNat ++ leBytes 2 0)

/-! ## The newest state of a nozzle (R313) -/

/-- The kept fields after one health decision that is queued or in the batch. -/
def afterDecision (e : Nat) (k : BitVec 16) (x : LqEntry) : BitVec 16 :=
  match x.data with
  | .health n _ st g _ _ _ _ =>
    if n = e then
      let k := (k &&& ~~~ 0xF) ||| BitVec.ofNat 16 (st % 16)
      match g with
      | some v => (k &&& 0x00FF) ||| (v.setWidth 16 <<< 8)
      | none => k
    else k
  | _ => k

/-- The kept fields of the newest version after the loop's own decisions. -/
def newestKept (s : State) (e : Nat) : BitVec 16 :=
  (s.scr.lq ++ s.hlt.batch).foldl (afterDecision e) (keptGet (readMap s) e)

/-- Nozzles in rotation in a bar column, over every pod that serves it (R314). -/
def columnLive (s : State) (c : Nat) : Nat :=
  ((servers s c).flatMap (fun p => (colRows s p (c - colBase s p)).filter (fun r =>
    inRotation (newestKept s (entryOf s p r ((c - colBase s p) / ilOf s p)))))).length

/-! ## Decisions (R313, R314) -/

/-- A decision: new STATE, a GAIN to write, the reason, and whether a mask was held. -/
structure HDecision where
  st : Nat
  gain : Option Int
  reason : Nat
  held : Bool
deriving DecidableEq, Repr

/-- A mask decided by row 1 or row 2, or what it is held back to (R314). -/
def maskOr (s : State) (c : Nat) (x : Score) (row reason : Nat) : HDecision :=
  let left := columnLive s c - 1
  let hold := !fldB s F.HLT_CTL_MASK_EN || decide (left < (if row = 1 then hMinLive s else Nat.max 1 (hMinLive s)))
  if hold then ⟨2, if fldB s F.HLT_CTL_GAIN_EN then some (gainFor x.d) else none, 6, true⟩ else ⟨3, none, reason, false⟩

/-- The first row of R313 that matches. -/
def decideRow (s : State) (k : BitVec 16) (c : Nat) (x : Score) : Option HDecision :=
  let st := kState k
  let ad := x.d.natAbs
  let ge := fldB s F.HLT_CTL_GAIN_EN
  if 2 < st then none
  else if hFastN s ≤ x.f then some (maskOr s c x 1 4)
  else if hMinW s ≤ x.w ∧ fld s F.HLT_THR0_T_MASK ≤ ad then some (maskOr s c x 2 5)
  else if st ≤ 1 ∧ hMinW s ≤ x.w ∧ fld s F.HLT_THR0_T_WEAK ≤ ad then
    if ge then some ⟨2, some (gainFor x.d), 2, false⟩ else if st = 0 then some ⟨1, none, 0, false⟩ else none
  else if st = 0 ∧ fld s F.HLT_THR0_T_WATCH ≤ ad then some ⟨1, none, 0, false⟩
  else if st = 1 ∧ ad + fld s F.HLT_THR0_HYST < fld s F.HLT_THR0_T_WATCH then some ⟨0, none, 1, false⟩
  else if st = 2 ∧ ge ∧ fld s F.HLT_THR1_GAIN_STEP ≤ (gainFor x.d - kGain k).natAbs then
    some ⟨2, some (gainFor x.d), 3, false⟩
  else none

/-- The batch's earlier decision for a nozzle, if it holds one. -/
def inBatch (s : State) (e : Nat) : Option LqEntry :=
  s.hlt.batch.find? (fun x => match x.data with | .health n _ _ _ _ _ _ _ => n == e | _ => false)

/-- Put a decision into the open batch; a new one replaces the nozzle's earlier one, a full batch takes none (R317). -/
def toBatch (s : State) (e : Nat) (k : BitVec 16) (dec : HDecision) (camera : Nat) (d : Int) (frame : Nat) : State :=
  let from0 := match inBatch s e with
    | some x => (match x.data with | .health _ f _ _ _ _ _ _ => f | _ => kState k)
    | none => kState k
  let rest := s.hlt.batch.filter (fun x => match x.data with | .health n _ _ _ _ _ _ _ => n != e | _ => true)
  if rest.length < 256 then
    let x : LqEntry := ⟨0, .health e from0 dec.st (dec.gain.map (BitVec.ofInt 8)) dec.reason camera d (frame % 65536), none⟩
    { s with hlt := { s.hlt with batch := rest ++ [x] } }
  else s

/-- A hold counts, and the first of a job raises health-held (R314). -/
def noteHeld (s : State) (e : Nat) : State :=
  let s := incFld s F.HLT_HELD
  if s.hlt.heldNoted then s
  else alarm { s with hlt := { s.hlt with heldNoted := true } } 236 [BitVec.ofNat 32 e]

/-- One sample of entry `e` in column `c` (R309, R312, R313, R314). -/
def takeSample (camera frame : Nat) (s : State) (x : Nat × Nat × Int) : State :=
  let (e, c, d) := x
  let k := newestKept s e
  if !inRotation (keptGet (readMap s) e) then s
  else
    let s := incFld s F.HLT_SAMPLES
    let sc := (scoreOf s e).next d (hAlpha s) (fld s F.HLT_THR1_T_MISS)
    let s := putScore s e sc d
    match decideRow s k c sc with
    | none => s
    | some dec =>
      let s := if dec.held then noteHeld s e else s
      toBatch s e k dec camera sc.d frame

/-! ## Samples of a part (R309 to R311, R320) -/

/-- The camera line that sampled `l` counts for the ink: no record miss, no row-line mark in its three lines. -/
def inkLine (s : State) (f : HltFrame) (l : Nat) : Bool :=
  l != 0 && [l - 1, l, l + 1].all (fun x => recUsable s f.jobId f.recStart x
    && (allRows s).all (fun r => recMark s f.recStart x r.1 r.2 == 0))

/-- K and n of entry (c, φ) (R310). -/
def inkOf (s : State) (f : HltFrame) (ctx : CtxSet) (g : Gen) (part : HltPart) (c ph : Nat) : Nat × Nat :=
  let den := ctxKerSum ctx f.camera
  (part.trigs.filter (inkLine s f)).foldl (fun acc l =>
    match phaseFor s f.recStart g l c with
    | some (_, x) =>
      if x = ph then
        let ink := ctxDd ctx f.camera (recCode s f.recStart l c) - ctxDd ctx f.camera 0
        (acc.1 + (ctxKer ctx f.camera 4 * ink + den / 2) / den, acc.2 + 1)
      else acc
    | none => acc) (0, 0)

/-- SUM and CNT of entry (c, φ) of a part, from its profile slot (R302). -/
def profSum (s : State) (part : HltPart) (c ph : Nat) : Int × Nat :=
  let a := part.addr + 0x40 + 128 * (c - part.c0) + 16 * ph
  let v := memNat s.dram a 4
  ((if 2 ^ 31 ≤ v then (v : Int) - 2 ^ 32 else v), memNat s.dram (a + 8) 2)

/-- The word of slots of pod `p` and column `c` in the section of generation `k`, if that section holds a record of
them: LIVE and the row of each slot (R308, R326). -/
def sectionRow (s : State) (k recs p c : Nat) : Option (Nat × Nat) :=
  (List.range recs).findSome? (fun i =>
    let a := slotLogAt s k + 8 * i
    if memNat s.dram a 2 = c ∧ memNat s.dram (a + 2) 1 = p then some (memNat s.dram (a + 3) 1, memNat s.dram (a + 4) 4)
    else none)

/-- The newest record of pod `p` and column `c` at or below generation `k`, among the sections kept (R309). -/
def newestRecord (s : State) (k p c : Nat) : Option (Nat × Nat) :=
  (List.range 16).findSome? (fun i =>
    if k < i then none else (genKept s s.sight.jobNo (k - i)).bind (fun g => sectionRow s (k - i) g.recs p c))

/-- The row that held slot `ph` of column `c` of pod `p` in generation `k`: by the newest record, else by the canonical
numbering (R309, R186). -/
def rowAtSlot (s : State) (k : Nat) (g : Gen) (p c ph : Nat) : Option Nat :=
  match newestRecord s k p c with
  | some (live, rows) => if ph < live then some (rows / 16 ^ ph % 16) else none
  | none => (liveRows s g.map p (c - colBase s p))[ph]?

/-- The map entry that held slot φ of the responsible pod in column `c` (R309). -/
def entryFor (s : State) (f : HltFrame) (g : Gen) (part : HltPart) (c ph : Nat) : Option Nat :=
  (part.trigs.findSome? (fun l => match phaseFor s f.recStart g l c with
    | some (p, x) => if x = ph then some p else none
    | none => none)).bind (fun p =>
      (rowAtSlot s part.gen g p c ph).map (fun r => entryOf s p r ((c - colBase s p) / ilOf s p)))

/-- The sample of entry (c, φ) (R311). With MIN_INK 0 and no ink asked for the quotient is not stated: the `u`-th next
free value. -/
def sampleOf (s : State) (u : Nat) (sum : Int) (cnt k n : Nat) : Option Int :=
  if cnt < fld s F.HLT_MIN_MIN_CNT ∨ k < fld s F.HLT_MIN_MIN_INK * n then none
  else if cnt * k = 0 then some (clampInt (-256) 256 (Config.freeWord (s.fresh + u)).toInt)
  else some (clampInt (-256) 256 (divRound (256 * sum * n) (cnt * k)))

/-- The samples of a part: entry, column and d. -/
def samplesOf (s : State) (f : HltFrame) (ctx : CtxSet) (g : Gen) (part : HltPart) : List (Nat × Nat × Int) :=
  (List.range part.ncol).flatMap (fun i => (List.range 8).filterMap (fun ph =>
    let c := part.c0 + i
    let (sum, cnt) := profSum s part c ph
    let (k, n) := inkOf s f ctx g part c ph
    match sampleOf s (8 * i + ph) sum cnt k n, entryFor s f g part c ph with
    | some d, some e => some (e, c, d)
    | _, _ => none))

/-- The bad codewords of some bytes are found by their reader (R365). -/
def findBad (s : State) (a n : Nat) : State :=
  (s.poison.filter (fun c => decide (cwFirst a ≤ c) && decide (c < cwFirst a + cwCount a n))).foldl noteUncorrectable s

/-- One part is scored, or counted as suspect or not attributable (R307, R308, R320, R365). -/
def scorePart (f : HltFrame) (s : State) (part : HltPart) : State :=
  let size := 64 + 128 * part.ncol
  let st := statAddr s f.camera f.number
  let bad := dramBad s st 2048 || dramBad s part.addr size || dramBad s (hltBase s) 0x490000
  match genKept s f.job part.gen with
  | none => incFld s F.HLT_NOATTR
  | some g =>
    if bad then incFld (findBad (findBad (findBad s st 2048) part.addr size) (hltBase s) 0x490000) F.HLT_NOATTR
    else if !g.attrib then incFld s F.HLT_NOATTR
    else
      let ctx := f.ctx.getD (ctxSnapshot s f.camera 0)
      let xs := samplesOf s f ctx g part
      let miss := (xs.filter (fun x => decide (x.2.2 ≤ -(fld s F.HLT_THR1_T_MISS : Int)))).length
      let s := { s with fresh := s.fresh + 8 * part.ncol }
      if fld s F.HLT_SUSPECT < miss then
        alarm (incFld s F.HLT_SUSPECT_PARTS) (237 + f.camera)
          [BitVec.ofNat 32 f.number]
      else xs.foldl (takeSample f.camera f.number) s

/-- HEALTH_FRAME_SCORE: the next processed frame of camera `n` (R307, R313). -/
def execHealthFrameScore (n : Fin 4) (s : State) : Res :=
  match s.hlt.frames.find? (fun f => f.camera == n) with
  | none => .next s
  | some f =>
    let s := { s with hlt := { s.hlt with frames := s.hlt.frames.erase f } }
    if f.skip || fldB s (F.SIGHT_CAM_STAT_PAUSED n) || !fldB s F.HLT_CTL_EN || s.hlt.off then .next (addFld s F.HLT_NOATTR f.parts.length)
    else .next (f.parts.foldl (scorePart f) s)

/-- X of decisions issued now: SCR_HORIZON + HLT_LEAD (R317). -/
def hltLine (s : State) : Nat := horizon1 s + hLead s - 1

/-- A batch of the loop is in the queue. -/
def batchQueued (s : State) : Bool :=
  s.scr.lq.any (fun e => match e.data with | .health _ _ _ _ _ _ _ _ => true | _ => false)

/-- HEALTH_BATCH_ISSUE (R317). -/
def execHealthBatchIssue (s : State) : Res :=
  if s.hlt.batch.isEmpty || batchQueued s || decide (lqFree s < s.hlt.batch.length) then .next s
  else
    let x := hltLine s
    let es := s.hlt.batch.map (fun e => { e with line := x })
    .next (es.foldl armLq { s with hlt := { s.hlt with batch := [] } })

/-! ## Host routines (R321, R322) -/

/-- A result byte outside the tolerance, or out of range (R321). -/
def scanDead (rtol c : Nat) : Bool :=
  c == 1 || c == 255 || decide (100 * c < 128 * (100 - rtol)) || decide (128 * (100 + rtol) < 100 * c)

/-- Apply one scan result: the state, how many set DEAD and how many set OK. -/
def scanEntry (rtol : Nat) (good : Bool) (acc : State × Nat × Nat) (e : Nat) : State × Nat × Nat :=
  let (s, nd, nok) := acc
  let c := (memGet s.dram (scanBase s + e)).toNat
  let k := keptGet s.scr.live e
  let set := fun (s : State) (st : Nat) =>
    let s := { s with scr := { s.scr with live := keptPut s.scr.live e ((k &&& ~~~ 0xF) ||| BitVec.ofNat 16 st) } }
    let s := changeLog (clearScore s e) e (kState k) st 9 (kGain k) 0xFF (2 ^ 32 - 1) 0 0
    journal s (.hlt ⟨2 ^ 32 - 1, .reset e st false, none⟩)
  if c = 0 then acc
  else if scanDead rtol c then (if kState k = 4 then (s, nd + 1, nok) else (set s 4, nd + 1, nok))
  else if good ∧ kState k = 4 then (set s 0, nd, nok + 1)
  else acc

/-- HLT_SCAN_APPLY without a job: result words are the counts (R321). -/
def scanApply (s : State) (rtol : Nat) (good : Bool) : State × Nat × Nat :=
  let old := s.scr.live
  let es := (entryBases s).flatMap (fun b => (List.range (rowsOf s b.1 * nprOf s b.1)).map (fun i => b.2 + i))
  let (s, nd, nok) := es.foldl (scanEntry rtol good) (s, 0, 0)
  let new := s.scr.live
  let cols := changedColumns s old new es
  let m := cols.foldl (fun m c => renumberCanon s m c.1 c.2) new
  let s := noteChanged { s with scr := { s.scr with live := m } } old m (2 ^ 32 - 1)
  let s := setEventAll s 14
  (if cols.isEmpty then s else noteOrphans s (some old) m, nd, nok)

/-- HLT_RESET (R322): the writes, armed or at once; the result is X. -/
def hltReset (s : State) (first count st : Nat) (zero : Bool) : State × Nat :=
  let x := hltLine s
  ((List.range count).foldl (fun s i => armLq s ⟨x, .reset (first + i) st zero, none⟩) s, x)

/-! ## At a job's start (R308, R312, R326) -/

/-- The geometry by which scores persist. -/
def scoreGeo (s : State) : List (Nat × Nat × Nat) :=
  (List.range 24).map (fun p => ((stnWord s (F.SCR_POD_CFG_FITTED p).addr).toNat, nprOf s p, entryBase s p))

/-- The map entries of a pod under a geometry: ROT_DEPTH rows' worth of nozzles from POD_ENTRY on; none unless FITTED. -/
def geoEntries (x : Nat × Nat × Nat) : List Nat :=
  let cfg : Word := BitVec.ofNat 32 x.1
  if fldOf (F.SCR_POD_CFG_FITTED 0) cfg = 1 then
    (List.range (fldOf (F.SCR_POD_CFG_ROT_DEPTH 0) cfg * (1 + fldOf (F.SCR_POD_CFG_INTERLEAVE 0) cfg) * x.2.1)).map (fun i => x.2.2 + i)
  else []

/-- Clear the scores of pods whose geometry has changed, where the map has them now and where it had them; start the
slot log; check the work area. -/
def healthAtJobStart (s : State) : State :=
  let g := scoreGeo s
  let moved := (List.range 24).filter (fun p => s.hlt.geo.getD p (0, 0, 0) != g.getD p (0, 0, 0))
  let es := moved.flatMap (fun p => geoEntries (g.getD p (0, 0, 0)) ++ geoEntries (s.hlt.geo.getD p (0, 0, 0)))
  let s := es.foldl clearScore s
  let bad := fldB s F.HLT_CTL_EN && decide (dramUsable s < hltBase s + 0x490000)
  let s := { s with hlt := { s.hlt with geo := g, off := bad, heldNoted := false }, sight := { s.sight with gens := [firstGen s], genCount := 0 } }
  let s := setFldB s F.HLT_STAT_AREA_BAD bad
  if bad then alarm s 241 [] else s

/-- A change of role: scores, batch and change log start empty (R324). -/
def healthAtRole (s : State) : State :=
  let s := if hltBase s + 0x490000 ≤ dramUsable s then dramClear s (hltBase s) (8 * 327680) else s
  setFld { s with hlt := { s.hlt with batch := [], frames := [] } } F.HLT_LOGIDX 0

end Sys2Proof.Machine
end

