-- ==== Sys2Proof/Machine/Jobs.lean ====
section
/-! DEFINITION. Job declarations, their checks, job start and job end (R49, R137 to R140, R151, R177, R199, R215,
R223, R224, R230, R260, R264, R551). -/
namespace Sys2Proof.Machine
open Sys2Proof

/-! ## The declaration (R137) -/

/-- A field of a little-endian byte string. -/
def leField (pl : List Byte) (o n : Nat) : Nat := leNat ((pl.drop o).take n)

/-- The declaration that 48 payload bytes spell; reserved bits are ignored (R10). -/
def declOf (pl : List Byte) : Decl :=
  { jobId := leField pl 0 4, xres := leField pl 4 1, yres := leField pl 5 1, depth := leField pl 6 1,
    ratio := leField pl 7 1, samples := leField pl 8 2, firstCol := leField pl 0x0A 2, maxRate := leField pl 0x0C 4,
    storeBase := leField pl 0x10 8, storeRows := leField pl 0x18 4, flags := leField pl 0x1C 1 % 2,
    libBase := leField pl 0x20 8, libSlotRows := leField pl 0x28 4, libSlots := leField pl 0x2C 4 }

def hasLib (d : Decl) : Bool := d.libSlotRows != 0 && d.libSlots != 0
/-- End of the store with its page records (R142). -/
def storeEnd (d : Decl) : Nat := recordsAddr d + 16384
def libEnd (d : Decl) : Nat := d.libBase + d.libSlots * d.libSlotRows * strideOf d

/-- STORE_ROWS that R144 asks for. -/
def storeRowsMin (s : State) (d : Decl) : Nat := (dRow s + 64 + 2 * kOf d - 1) / (2 * kOf d) + 2

/-- The refusal cases of R138 with their DETAIL, rising. -/
def declCases (s : State) (d : Decl) : List (Nat × Bool) :=
  [(0x00, d.jobId == 0), (0x04, !(d.xres == 1 || d.xres == 2)), (0x05, !(d.yres == 1 || d.yres == 2)),
   (0x06, !(d.depth == 8 || d.depth == 10 || d.depth == 12)), (0x07, !(d.ratio == 2 || d.ratio == 3 || d.ratio == 4)),
   (0x08, d.samples == 0 || decide (57344 < d.firstCol + d.samples * aOf d)),
   (0x0A, decide (57343 < d.firstCol)), (0x0C, d.maxRate == 0 || decide (320000 < d.maxRate)),
   (0x10, d.storeBase % 4096 != 0 || decide (dramUsable s < storeEnd d)),
   (0x18, decide (d.storeRows < storeRowsMin s d)),
   (0x20, d.libBase % 4096 != 0
      || (hasLib d && (decide (dramUsable s < libEnd d)
           || (decide (d.libBase < storeEnd d) && decide (d.storeBase < libEnd d))))),
   (0x2C, decide (65535 < d.libSlots))]

def declFail (s : State) (d : Decl) : Option Nat := ((declCases s d).find? (fun c => c.2)).map (fun c => c.1)

/-! ## Geometry (R177) -/

/-- The rules about one pod. -/
def podBad (s : State) (p : Nat) : Bool :=
  let npr := nprOf s p
  let f := fld s (F.SCR_POD_FMAX p)
  decide (npr < 1) || decide (16384 < npr) || decide (depthOf s p < 1) || decide (8 < depthOf s p)
    || decide (8 < rowsOf s p) || decide (16384 < rowsOf s p * npr) || decide (57344 < colBase s p + spanOf s p)
    || decide (f < 1000) || decide (64000 < f)

/-- The rules about a pod and the fitted pod before it. -/
def pairBad (s : State) (q p : Nat) : Bool :=
  let overlap := colBase s q + spanOf s q - colBase s p
  decide (colBase s p ≤ colBase s q) || decide (1024 < overlap) || decide (spanOf s p ≤ 2 * overlap)
    || decide (spanOf s q ≤ 2 * overlap)

/-- Pod `p` and two fitted pods below it serve one column. -/
def tripleBad (s : State) (p : Nat) : Bool :=
  let below := (pods s).filter (fun q => decide (q < p))
  below.any (fun a => below.any (fun b => decide (a < b)
    && decide (Nat.max (colBase s a) (Nat.max (colBase s b) (colBase s p))
        < Nat.min (colBase s a + spanOf s a) (Nat.min (colBase s b + spanOf s b) (colBase s p + spanOf s p)))))

/-- The fitted pod before `p`. -/
def podBefore (s : State) (p : Nat) : Option Nat := ((pods s).filter (fun q => decide (q < p))).getLast?

def geomBad (s : State) (p : Nat) : Bool :=
  podBad s p || (match podBefore s p with | some q => pairBad s q p | none => false) || tripleBad s p
    || ((pods s).getLast? == some p && decide (327680 < entryBase s p + rowsOf s p * nprOf s p))

/-- The lowest pod that a rule of R177 names. -/
def geomFail (s : State) : Option Nat := (pods s).find? (geomBad s)

/-! ## The pod checks (R260, R264) -/

/-- Nanoseconds of a waveform word (R262). -/
def waveNs (w : Nat) : Nat :=
  let npre := w % 4
  npre * (w / 4 % 64) * 10 + (npre - 1) * (w / 256 % 64) * 20 + (if npre = 0 then 0 else w / 16384 % 64 * 20)
    + w / 2 ^ 20 % 256 * 10
def wavePre (w : Nat) : Nat := w / 4 % 64 * 10

/-- The waveforms in use of a pod (R263, R264). -/
def wavesUsed (s : State) (p : Nat) : List Nat :=
  if (fld s (F.PODL_ID p 4)).testBit 7 then [fld s (F.PODL_WAVE p 1)]
  else ((List.range 13).map (fun n => fld s (F.PODL_WAVE p (n + 1)))).filter
    (fun w => w % 4 != 0 || w / 2 ^ 20 % 256 != 0)

def podGroups (s : State) (p : Nat) : Nat := fld s (F.PODL_ID p 4) % 128

/-- DETAIL 0x300 + p. -/
def podLinkBad (s : State) (p : Nat) : Bool :=
  let g := fld s (F.PODL_ID p 1)
  !podUp s p || !podSupports s p (fld s (F.PODL_CTL_RATE p))
    || g % 16 != rowsOf s p || g / 16 % 2 != ilOf s p - 1 || g / 32 % 32768 != nprOf s p
    || decide (fld s (F.PODL_ID p 2) % 2 ^ 17 < fld s (F.SCR_POD_FMAX p))

/-- DETAIL 0x320 + p. -/
def podWaveBad (s : State) (p maxRate : Nat) : Bool :=
  let ws := wavesUsed s p
  let tg := fld s (F.PODL_CTL_TG p)
  let sweep : Int := podGroups s p * tg
  ws.any (fun w => decide (fld s (F.PODL_ID p 4) / 256 % 65536 < wavePre w) || decide (tg < waveNs w))
    || decide (tg < fld s (F.PODL_ID p 3) / 65536)
    || decide (1000000000 < sweep * fld s (F.SCR_POD_FMAX p))
    || decide (8 * (64 - ((fldInt s (F.PLC_OFS_F p) - fldInt s (F.PLC_OFS_R p)).natAbs : Int)) * 1000000000
        < sweep * 64 * maxRate)

/-- DETAIL 0x340 + p: bits per line against 85 % of the line rate (R260). -/
def podLoadBad (s : State) (p maxRate : Nat) : Bool :=
  let i := ilOf s p
  let sr := (nprOf s p + 63) / 64
  let f := i * ((sr + 15) / 16)
  let bytes := 33 * i * sr + 20 * f + 56 * i
  let bits := 10 * bytes + 16 * (f + 2 * i)
  decide (85 * rate2 (fld s (F.PODL_CTL_RATE p)) * 1000000 < 200 * bits * maxRate)

/-- The pod checks in rising DETAIL (R551). -/
def podFail (s : State) (maxRate : Nat) : Option Nat :=
  match (pods s).find? (podLinkBad s) with
  | some p => some (0x300 + p)
  | none => match (pods s).find? (fun p => podWaveBad s p maxRate) with
    | some p => some (0x320 + p)
    | none => ((pods s).find? (fun p => podLoadBad s p maxRate)).map (0x340 + ·)

/-! ## The budget (R49, R51) -/

/-- Columns a pod decides: its span less the overlap with the fitted pod before it (R39, R49). -/
def decidedFrom (s : State) (p : Nat) : Nat :=
  match podBefore s p with
  | some q => Nat.max (colBase s p) (colBase s q + spanOf s q)
  | none => colBase s p
def decidedCols (s : State) (p : Nat) : Nat := colBase s p + spanOf s p - decidedFrom s p

/-- Columns that engine `k` decides: those of pods 4k to 4k + 3. -/
def engineCols (s : State) (k : Nat) : Nat := (((pods s).filter (fun p => p / 4 == k)).map (decidedCols s)).sum

/-- Print columns of the job among those a pod decides. -/
def jobCols (s : State) (d : Decl) (p : Nat) : Nat :=
  Nat.min (colBase s p + spanOf s p) (d.firstCol + d.samples * aOf d) - Nat.max (decidedFrom s p) d.firstCol

/-- Σ over pods of rows × columns of the job. -/
def rowCols (s : State) (d : Decl) : Nat := ((pods s).map (fun p => rowsOf s p * jobCols s d p)).sum

/-- The sum of two fractions. -/
def addFrac (x y : Nat × Nat) : Nat × Nat := (x.1 * y.2 + y.1 * x.2, x.2 * y.2)

/-- The DRAM streams of the job in bytes/s, as fractions (R49). -/
def dramStreams (s : State) (d : Decl) : List (Nat × Nat) :=
  [(d.samples * d.maxRate * d.depth, 8 * kOf d * d.ratio),
   (rowCols s d * d.maxRate * d.depth, 8 * aOf d * kOf d * d.ratio)]
  ++ (if sharedMode s then ([1, 2, 3] : List Nat).filterMap (fun n =>
        if fldB s (F.SIGHT_CAM_CTL_ENABLE n) then
          let r := camRate s n d.maxRate
          some (2 * camWidth s n * camBits s n * r.1, 8 * r.2)
        else none) else [])
  ++ [(57344 * d.maxRate, 1), (4000000000, 1)]

/-- Data rate in MT/s of a rate code (R430). -/
def dramMts (c : Nat) : Nat := [3200, 4266, 6400, 7500, 8533].getD c 8533

/-- The streams with inline ECC exceed 73 % of the peak, or a channel is not trained (R51). -/
def dramOver (s : State) (d : Decl) : Bool :=
  let (n, m) := (dramStreams s d).foldl addFrac (0, 1)
  fld s F.DRAM_STAT_TRAINED != 15
    || decide (73 * 16000000 * dramMts (fld s F.DRAM_CFG_RATE) * 15 * m < 100 * 16 * n)

/-- The first failing row of the table of R49, from 1. -/
def overBudget (s : State) (d : Decl) : Option Nat :=
  let r := d.maxRate
  let k := kOf d
  let rows : List (Nat × Bool) :=
    [(1, (List.range 6).any (fun e => decide (3400000000 < engineCols s e * r))),
     (2, decide (100000000000 * k < d.samples * r * d.depth)),
     (3, decide (12000000000 * k < d.samples * r)),
     (4, decide (48000000000 * k * aOf d < rowCols s d * r)),
     (6, dramOver s d)]
  (rows.find? (fun x => x.2)).map (fun x => x.1)

def badLetter : Nat := 0x10
def overBudgetCode : Nat := 0x15

/-- The refusal of a JOB letter of the right length: receipt code and DETAIL, in the order of R551. -/
def jobRefusal (s : State) (d : Decl) : Option (Nat × Nat) :=
  if s.jobs.running.isSome && s.jobs.next.isSome then some (badLetter, 0)
  else match declFail s d with
  | some x => some (badLetter, x)
  | none => match geomFail s with
    | some p => some (badLetter, 0x100 + p)
    | none =>
      if fld s F.PLC_NUM = 0 ∨ fld s F.PLC_DEN = 0 ∨ 4 * fld s F.PLC_DEN < fld s F.PLC_NUM then some (badLetter, 0x200)
      else match podFail s d.maxRate with
      | some x => some (badLetter, x)
      | none => (overBudget s d).map (fun x => (overBudgetCode, x))

/-! ## Job start (R223) -/

/-- A declared job with nothing fed. -/
def JobRun.declared (d : Decl) : JobRun :=
  { decl := d, pages := [], nextFirst := 0, lastPage := none, records := 0, jobEnd := none, lastLine := none,
    taken := [], held := [], ring := [], firstPair := none, decided := [], late := [], halt := none, startW := 0 }

/-- The library survives (R151). -/
def sameLib (a b : Decl) : Bool :=
  a.depth == b.depth && a.ratio == b.ratio && a.samples == b.samples && a.libBase == b.libBase
    && a.libSlotRows == b.libSlotRows && a.libSlots == b.libSlots

def libMatches (s : State) (d : Decl) : Bool := match s.jobs.lib with | some l => sameLib l d | none => false

/-- Each pod with a class below the declared rate raises overspeed with its smallest such class (R199). -/
def capacityAlarms (s : State) (d : Decl) : State :=
  (pods s).foldl (fun s p =>
    match ((List.range 8).map (· + 1)).find? (fun m =>
        classHolds s s.scr.live p m && decide (m * fld s (F.SCR_POD_FMAX p) < d.maxRate)) with
    | some m => alarm s (74 + p) [BitVec.ofNat 32 m, 1]
    | none => s) s

/-- The counters that count within a job start at 0. -/
def jobCounters (s : State) : State :=
  let s := setFld (setFld (setFld s F.FEED_LATE 0) F.FEED_CRC 0) F.FEED_OTHER 0
  let s := setFld (setFld (setFld (setFld s F.PKR_COARSE 0) F.PKR_VERIFY_RETRY 0) F.PKR_VERIFY_FAULT 0) F.PKR_CONCEAL 0
  let s := setFld (setFld (setFld s F.SCR_LATE_LQ 0) F.SCR_SPITS 0) F.PLC_SKIPS 0
  let s := setFld (setFld s F.TWN_RT_MAX 0) F.TWN_HSIZE_MAX 0
  (List.range 24).foldl (fun s p => setFld s (F.PODL_UNDERRUN p) 0) s

/-- The engines at line 0: nothing decided, nothing fired, the grid anchored 80 lines on (R223). -/
def anchorGrid (s : State) (t0 : Int) : State :=
  { s with
    scr := { s.scr with
      version := none, olds := [], credit := Vector.replicate 192 0, hist := Vector.replicate 192 [], skipped := [],
      decidedTo := Vector.replicate 192 0, leadLine := 0 }
    plc := { s.plc with
      encFault := false, encAlarmed := false, wmax := some t0, anchors := [(0, t0 + 80 * 64)], boundary := 0,
      scLine := none }
    plc2 := { s.plc2 with nextFire := Vector.replicate 192 0, trig := [], noFire := false, skipLine := none, debtHigh := false }
    pods := { s.pods with lines := [] } }

/-- Reasons ENCODER and ALIGN speak of the present job only (R345); the count of hampers behind ALIGN starts anew
(R236), and the next job is fed from its start (R360). -/
def clearJobReasons (s : State) : State :=
  setNotElig (setNotElig { s with
    plc2 := { s.plc2 with twinErr := 0 }, twin := { s.twin with blank := false } } 5 false) 6 false

/-- The job `j` becomes the running one (R223, R377, R186, R268, R79). -/
def runJob (s : State) (j : JobRun) : State :=
  let s := clearJobReasons (closeAllSlots s)
  let w := wNow s
  let keep := libMatches s j.decl
  let s := { s with jobs := { s.jobs with
    running := some { j with startW := w }, lib := some j.decl,
    libRows := if keep then s.jobs.libRows else [], libBad := if keep then s.jobs.libBad else [] } }
  let s := anchorGrid (jobCounters s) w
  let s := setFld (setFld (setPodEntries s) F.SCR_HORIZON (2 ^ 32 - 1)) F.SCR_PEND (2 ^ 32 - 1)
  let s := renumberAll s
  let s := noteOrphans s none s.scr.live
  let s := capacityAlarms s j.decl
  let s := camsAtJobStart s j.decl.maxRate
  let s := healthAtJobStart s
  let s := clearPods s
  placeContiguous (setEventAll s 17)

/-- JOB_START: geometry is checked again on the device that runs the bar; a job that fails ends with reason geometry
(R177). -/
def startJob (s : State) (j : JobRun) : State :=
  if (isActive s || solo s) && (geomFail s).isSome then
    let s := alarm (setFld { s with jobs := { s.jobs with ended := some .geometry } } F.FEED_HALTED 0) 11 []
    setEventAll (journal s (.jobEnd 1)) 17
  else runJob s j

/-- An accepted declaration (R139, R140). -/
def declareJob (s : State) (d : Decl) : State :=
  let s := journal s (.jobDecl d)
  if jobRuns s then { s with jobs := { s.jobs with next := some (JobRun.declared d) } }
  else startJob s (JobRun.declared d)

/-! ## Job end (R224) -/

/-- Reasons as the hamper carries them. -/
def reasonNum : EndReason → Nat
  | .normal => 0
  | .geometry => 1
  | .feedLate => 2
  | .encoder => 3
def reasonOf (n : Nat) : EndReason := if n = 1 then .geometry else if n = 2 then .feedLate else if n = 3 then .encoder else .normal

/-- The page that holds the job's contone line number `n` (from 1) among the announced ones. -/
def pageHolding : List Page → Nat → Option Page
  | [], _ => none
  | p :: t, n => if n ≤ p.count then some p else pageHolding t (n - p.count)

/-- E (R224): known once JOB_END has come and the page of the last contone line is placed. -/
def lastOf (j : JobRun) : Option Nat :=
  match j.lastLine, j.jobEnd with
  | some e, _ => some e
  | none, some n => if n = 0 then none else (pageHolding j.pages n).bind (pageLast j.decl)
  | none, none => none

/-- The lines of the ended job, each with its record line (R277): up to its last line, else those that a row began or
passed. -/
def jobLines (s : State) (j : JobRun) : Nat :=
  match lastOf j with
  | some e => e + 1
  | none => s.plc2.nextFire.toList.foldl Nat.max s.scr.leadLine

/-- JOB_END: the running job ends; queued screening-bound writes take effect (R205), the pods are cleared (R268), an
armed hand-over and the declared next job follow (R352, R139). -/
def endJob (s : State) (r : EndReason) : State :=
  match s.jobs.running with
  | none => s
  | some j =>
    let tail : SightJob := ⟨s.sight.jobNo, j.decl.jobId, s.plc.anchors, jobLines s j - 1, s.sight.recStart⟩
    let s := retireVersion s
    let s := dropTails { s with
      jobs := { s.jobs with running := none, next := none, ended := some r }
      sight := { s.sight with tails := s.sight.tails ++ [tail], recStart := s.sight.recStart + jobLines s j }
      pods := { s.pods with lines := [] }
      scr := { s.scr with olds := [] }
      plc := { s.plc with wmax := none, scLine := none, encFault := false, encAlarmed := false } }
    let s := setFldB (clearJobReasons s) F.FEED_HALTED (r == .feedLate)
    let s := flushLq s
    let s := clearPods s
    let s := setEventAll (journal s (.jobEnd (reasonNum r))) 17
    let s := if s.tho.armed then startHandover { s with tho := { s.tho with armed := false } } else s
    s

/-- The device ends jobs on its own inputs: the active, or a device without a twin (R140). -/
def endsJobs (s : State) : Bool := isActive s || solo s

/-- The job that was declared to follow starts (R139). -/
def endAndNext (s : State) (r : EndReason) : State :=
  let next := s.jobs.next
  let s := endJob s r
  match next with
  | some j =>
    let s := startJob s j
    -- a job of no page whose JOB_END came before its start has no line to fire (R224); a standby waits for its hamper
    if endsJobs s && j.jobEnd == some 0 && j.pages.isEmpty then endJob s .normal else s
  | none => s

/-- W stands where it is. -/
def holdW (s : State) (t : Nat) : State :=
  { s with plc := { s.plc with
    refW := fix (wAt s t), refT := t, mode := .stopped, speed := 0, clean := 0, afterStop := 0 } }

/-- 20 ms after an encoder fault: W advances no further, no row fires again, the job ends (R230). -/
def execExtrapolationEnd (t : Nat) (s : State) : Res :=
  let s := plcTime s t
  .next (if jobRuns s && s.plc.encFault then
    let s := holdW { s with plc2 := { s.plc2 with noFire := true } } t
    if endsJobs s then endAndNext s .encoder else s
  else s)

end Sys2Proof.Machine
end

