-- ==== Sys2Proof/Machine/Packer.lean ====
section
/-! DEFINITION. The customer's exact-mode job slot (R165 to R171). -/
namespace Sys2Proof.Machine
open Sys2Proof

/-- RESULT codes of PKR_STAT (R165). -/
def rOk : Nat := 0
def rOutFull : Nat := 1
def rInputEnd : Nat := 2
def rFormat : Nat := 3
def rVerifyFault : Nat := 4
def rBadState : Nat := 5
def rBadParam : Nat := 6
def rDramEcc : Nat := 7
def rRoleChange : Nat := 8

def pkrStat (s : State) (state result : Nat) : State :=
  setFld (setFld s F.PKR_STATE state) F.PKR_RESULT result

/-- The job ends with a RESULT and the slot holds no stopped job. -/
def pkrEnd (s : State) (result : Nat) : State :=
  { pkrStat s 3 result with pkr := { s.pkr with run := none, stopped := none } }

/-- A 64-bit address of two stations. -/
def fld64 (s : State) (lo hi : Fld) : Nat := fld s lo + 2 ^ 32 * fld s hi

/-- The 4,128 bytes of a state record (R169). -/
def stateRecord (j : PkrJob) : List Byte :=
  let head := leBytes 4 (1 + bit8 j.dir + 2 * bit8 j.finalSeen) ++ leBytes 4 j.hist.length
    ++ leBytes 8 j.inTotal.toNat ++ leBytes 8 j.outTotal.toNat
  let hist := List.replicate (4096 - j.hist.length) (0 : Byte) ++ j.hist
  head ++ leBytes 4 (crc32c (head ++ hist)).toNat ++ leBytes 4 0 ++ hist
where
  bit8 (b : Bool) : Nat := if b then 256 else 0

/-- What a RESTORE finds in a state record (R169): history, totals and FINAL_SEEN, or none when it is bad. -/
def loadRecord (bs : List Byte) (dir : Bool) : Option (List Byte × BitVec 64 × BitVec 64 × Bool) :=
  let w := leNat (bs.take 4)
  let hl := leNat ((bs.drop 4).take 4)
  let hist := (bs.drop 32).take 4096
  let crc := leNat ((bs.drop 24).take 4)
  let rsv := leNat ((bs.drop 28).take 4)
  if (crc32c (bs.take 24 ++ hist)).toNat = crc ∧ w % 256 = 1 ∧ w / 2 ^ 10 = 0 ∧ rsv = 0 ∧ hl ≤ 4096
      ∧ decide (w / 256 % 2 = 1) = dir then
    some (hist.drop (4096 - hl), BitVec.ofNat 64 (leNat ((bs.drop 8).take 8)),
      BitVec.ofNat 64 (leNat ((bs.drop 16).take 8)), decide (w / 512 % 2 = 1))
  else none

/-- The checks of R167 on the present parameters. -/
def pkrBadParam (s : State) : Bool :=
  let u := dramUsable s
  let src := fld64 s F.PKR_SRC_LO F.PKR_SRC_HI
  let dst := fld64 s F.PKR_DST_LO F.PKR_DST_HI
  let sl := fld s F.PKR_SRC_LEN
  let dl := fld s F.PKR_DST_LEN
  let st := fld64 s F.PKR_STATE_LO F.PKR_STATE_HI
  let dir := fldB s F.PKR_DIR
  let cont := fldB s F.PKR_CONT
  let restore := fldB s F.PKR_RESTORE
  decide (u < src + sl) || decide (u < dst + dl)
    || decide (u < st + 4128)
    || (sl != 0 && dl != 0 && decide (src < dst + dl) && decide (dst < src + sl))
    || (!dir && !fldB s F.PKR_FINAL && decide (sl % 256 ≠ 0))
    || (cont && (match s.pkr.stopped with | some j => j.dir != dir | none => true))
    || (cont && restore)

/-- The job with the parameters latched at GO (R165). -/
def pkrLatch (s : State) (hist : List Byte) (inT outT : BitVec 64) (fin : Bool) : PkrJob :=
  { dir := fldB s F.PKR_DIR, save := fldB s F.PKR_SAVE, final := fldB s F.PKR_FINAL,
    src := fld64 s F.PKR_SRC_LO F.PKR_SRC_HI, srcLen := fld s F.PKR_SRC_LEN,
    dst := fld64 s F.PKR_DST_LO F.PKR_DST_HI, dstLen := fld s F.PKR_DST_LEN,
    stateAt := fld64 s F.PKR_STATE_LO F.PKR_STATE_HI, hist := hist, inTotal := inT, outTotal := outT,
    finalSeen := fin }

def pkrRun (s : State) (j : PkrJob) : State :=
  { pkrStat s 1 rOk with pkr := { run := some j, stopped := none } }

/-- GO: rejected while a job runs, else the job starts, or ends at once (R165 to R169). -/
def pkrGo (s : State) (v : Word) : State :=
  if s.pkr.run.isSome then setFld s F.PKR_REJECT 1
  else
    let s := setStnWord s F.PKR_DIR.addr (v &&& 0x3E)
    let s := if fldB s F.PKR_CONT then s else { s with pkr := { s.pkr with stopped := none } }
    let s := setFld (setFld s F.PKR_IN_DONE 0) F.PKR_OUT_DONE 0
    if pkrBadParam s then
      -- the stopped job of a refused CONT stays in the slot
      pkrStat s 3 rBadParam
    else if fldB s F.PKR_RESTORE then
      let a := fld64 s F.PKR_STATE_LO F.PKR_STATE_HI
      let bad := dramBad s a 4128
      let s := dramReadEffect s a 4128
      if bad then pkrEnd s rDramEcc
      else match loadRecord (dramBytes s a 4128) (fldB s F.PKR_DIR) with
        | none => pkrEnd s rBadState
        | some (h, i, o, fin) =>
          if fin && fldB s F.PKR_DIR then pkrEnd s rOk else pkrRun s (pkrLatch s h i o fin)
    else match fldB s F.PKR_CONT, s.pkr.stopped with
      | true, some j => pkrRun s (pkrLatch s j.hist j.inTotal j.outTotal j.finalSeen)
      | _, _ => pkrRun s (pkrLatch s [] 0 0 false)

/-- A write of PKR_JOB (R165): with GO it starts a job; without, its fields stand for the next GO. -/
def pkrJobWrite (s : State) (v : Word) : State :=
  if v.getLsbD 0 then pkrGo s v else setStnWord s F.PKR_DIR.addr (v &&& 0x3E)

/-- GO with DIR 0. -/
def execPkrCompress (v : Word) (s : State) : Res := .next (pkrGo s (v &&& ~~~ 2))
/-- GO with DIR 1. -/
def execPkrDecompress (v : Word) (s : State) : Res := .next (pkrGo s (v ||| 2))

/-- One record done: its bytes counted, the output written (R168). -/
def pkrAdvance (s : State) (j : PkrJob) (used : Nat) (out : List Byte) (hist : List Byte) : State × PkrJob :=
  let o := fld s F.PKR_OUT_DONE
  let s := dramWrite s (j.dst + o) out
  let s := setFld s F.PKR_IN_DONE (fld s F.PKR_IN_DONE + used)
  let s := setFld s F.PKR_OUT_DONE (o + out.length)
  (s, { j with hist := hist, inTotal := j.inTotal + BitVec.ofNat 64 used,
               outTotal := j.outTotal + BitVec.ofNat 64 out.length })

/-- A verify mismatch that remains after re-encoding (R171): the re-encoding counts in VERIFY_RETRY and the fault in
VERIFY_FAULT; codec-fault, hand-over or withdrawal. -/
def verifyFault (s : State) : State :=
  faultHandover (alarm (incFld (incFld s F.PKR_VERIFY_RETRY) F.PKR_VERIFY_FAULT) 33 []) 8

/-- What the verification of record `n` finds (R171): nothing, a mismatch that re-encoding cures, or one that
remains. -/
def recordVerify (bad : List (Nat × Bool)) (n : Nat) : Option Bool := (bad.find? (fun b => b.1 == n)).map (fun b => b.2)

/-- Records one after another from record `n` of this run, until the job stops or ends: the state, the job, whether it
is resumable, RESULT. -/
def pkrRecords (bad : List (Nat × Bool)) : Nat → Nat → State → PkrJob → State × PkrJob × Bool × Nat
  | 0, _, s, j => (s, j, true, rInputEnd)
  | fuel + 1, n, s, j =>
    let i := fld s F.PKR_IN_DONE
    let left := j.srcLen - i
    let room := j.dstLen - fld s F.PKR_OUT_DONE
    if j.dir then
      let src := dramBytes s (j.src + i) (Nat.min left 600)
      match decodeRecord src j.hist with
      | .short =>
        if dramBad s (j.src + i) (Nat.min left 600) then
          (dramReadEffect s (j.src + i) (Nat.min left 600), j, false, rDramEcc)
        else (s, j, true, rInputEnd)
      | .format =>
        if dramBad s (j.src + i) (Nat.min left 600) then
          (dramReadEffect s (j.src + i) (Nat.min left 600), j, false, rDramEcc)
        else (s, j, false, rFormat)
      | .ok r =>
        if dramBad s (j.src + i) r.used then (dramReadEffect s (j.src + i) r.used, j, false, rDramEcc)
        else if room < r.piece.length then (s, j, true, rOutFull)
        else
          let s := dramReadEffect s (j.src + i) r.used
          let (s, j) := pkrAdvance s j r.used r.piece r.hist
          if r.final then (s, { j with finalSeen := true }, false, rOk) else pkrRecords bad fuel (n + 1) s j
    else if left = 0 then (s, j, false, rOk)
    else
      let size := Nat.min left 256
      let fin := j.final && decide (left ≤ 256)
      if dramBad s (j.src + i) size then (dramReadEffect s (j.src + i) size, j, false, rDramEcc)
      else
        let piece := dramBytes s (j.src + i) size
        let rec1 := encodeRecord piece j.hist fin
        -- the record is verified before anything of it is written
        if recordVerify bad n = some true then (verifyFault (dramReadEffect s (j.src + i) size), j, false, rVerifyFault)
        else
          let s := if recordVerify bad n = some false then incFld s F.PKR_VERIFY_RETRY else s
          if room < rec1.length then (s, j, true, rOutFull)
          else
            let s := dramReadEffect s (j.src + i) size
            let (s, j) := pkrAdvance s j size rec1 (piece.foldl histPush j.hist)
            if fin then (s, { j with finalSeen := true }, false, rOk) else pkrRecords bad fuel (n + 1) s j

/-- The running job stops or ends (R168, R169, R171). `bad`: the records of this run whose verification failed once, or
(true) also after re-encoding. -/
def execPkrJobStop (bad : List (Nat × Bool)) (s : State) : Res :=
  match s.pkr.run with
  | none => .next s
  | some j =>
    -- suspended between records under a die throttle (R493)
    if fldB s F.PWR_STAT_THROTTLE then .next s
    else
      let (s, j, resume, res) := pkrRecords bad (j.srcLen + 1) 0 s j
      let s := if j.save then dramWrite s j.stateAt (stateRecord j) else s
      if resume then .next { pkrStat s 2 res with pkr := { run := none, stopped := some j } }
      else .next (pkrEnd s res)

/-- At a change of role the slot shows ended, ROLE_CHANGE, and holds no stopped job (R170). -/
def pkrRoleChange (s : State) : State := pkrEnd s rRoleChange

end Sys2Proof.Machine
end

