-- ==== Sys2Proof/Machine/Feed.lean ====
section
/-! DEFINITION. The feed: frames, pages, the store ring, deadlines and the library (R132 to R152, R171, R224). -/
namespace Sys2Proof.Machine
open Sys2Proof

/-! ## Checks of a frame (R134, R136) -/

/-- Frame content, header and payload, as the CRC covers it. -/
def feedBytes (f : FeedFrame) : List Byte :=
  leBytes 4 f.jobId.toNat ++ [f.ftype, f.rsv] ++ leBytes 2 f.slot.toNat ++ leBytes 4 f.number.toNat
    ++ leBytes 4 f.len.toNat ++ f.payload

/-- LEN that R134 gives a frame type. -/
def feedLen (d : Decl) (t : Nat) : Nat :=
  if t = 1 then (d.samples * d.depth + 63) / 64 * 8
  else if t = 4 then (bprOf d * blkOf d + 7) / 8 * 8
  else if t = 5 then 4
  else 8

/-- The job a frame belongs to: the running one (false) or the declared next one (true). -/
def feedJob (s : State) (id : Nat) : Option (Bool × JobRun) :=
  match s.jobs.running, s.jobs.next with
  | some j, n => if j.decl.jobId = id then some (false, j)
    else (match n with | some k => if k.decl.jobId = id then some (true, k) else none | none => none)
  | none, some k => if k.decl.jobId = id then some (true, k) else none
  | none, none => none

def putJob (s : State) (next : Bool) (j : JobRun) : State :=
  if next then { s with jobs := { s.jobs with next := some j } }
  else { s with jobs := { s.jobs with running := some j } }

def discardCrc (s : State) : State := incFld s F.FEED_CRC
def discardOther (s : State) : State := incFld s F.FEED_OTHER

/-- The checks that do not depend on the frame's type. -/
def feedFits (d : Decl) (f : FeedFrame) : Bool := f.len.toNat == feedLen d f.ftype.toNat
def headerFits (f : FeedFrame) : Bool :=
  decide (1 ≤ f.ftype.toNat) && decide (f.ftype.toNat ≤ 5) && f.rsv == 0
    && (f.slot == 0 || f.ftype == 3 || f.ftype == 4)

/-! ## What has been fired -/

/-- Every row has fired print line `l`. -/
def firedAll (s : State) (l : Nat) : Bool := (allRows s).all (fun x => decide (l < s.plc2.nextFire[rowIx x.1 x.2]))

/-- A page fired by every row; a page of the next job has not been. -/
def pageFired (s : State) (next : Bool) (d : Decl) (p : Page) : Bool :=
  !next && (match pageLast d p with | some l => firedAll s l | none => false)

/-- The last print line of the pair of contone lines from `c`, an even line, in page `p`. -/
def pairLast (d : Decl) (p : Page) (c : Nat) : Option Nat :=
  p.p.map (fun q => q + kOf d * (Nat.min (c + 1) (p.first + p.count - 1) - p.first) + kOf d - 1)

/-- The ring entry of a pair still holds a pair that some row has yet to fire (R145). -/
def entryBusy (s : State) (next : Bool) (j : JobRun) (pair : Nat) : Bool :=
  match j.ring.find? (fun e => e.1 == pair % j.decl.storeRows) with
  | none => false
  | some e =>
    !(!next && (match (pageOfLine j (2 * e.2)).bind (fun p => pairLast j.decl p (2 * e.2)) with
      | some l => firedAll s l
      | none => false))

/-! ## LINE (R135, R136, R142, R145, R171) -/

/-- The samples of a LINE payload. -/
def lineSamples (d : Decl) (pl : List Byte) : List Nat := (List.range d.samples).map (packedSample d.depth pl)

/-- The 32 samples of block `b` (R142, R154): beyond SAMPLES the last sample. -/
def blockOf (d : Decl) (top bot : List Nat) (b : Nat) : List Nat :=
  let at1 := fun (x : List Nat) (i : Nat) => x.getD (Nat.min (16 * b + i) (d.samples - 1)) 0
  (List.range 16).map (at1 top) ++ (List.range 16).map (at1 bot)

/-- The pair with lines `top` and `bot` is coded, verified and written. An overrun line of the declared next job counts
in FEED_LATE as the present job shows it, and, being late already, not again in its own job (DESIGN CHOICE, log
entry 109). -/
def writePair (s : State) (next : Bool) (j : JobRun) (c : Nat) (top bot : List Nat) (mismatches : Nat) : State :=
  let d := j.decl
  let pair := c / 2
  if mismatches = 2 then
    -- not written; a good copy may still come (R171)
    verifyFault (putJob s next { j with taken := j.taken.filter (fun x => x / 2 != pair) })
  else
    let s := if mismatches = 1 then incFld s F.PKR_VERIFY_RETRY else s
    let blocks := (List.range (bprOf d)).map (blockOf d top bot)
    let coarse := (blocks.filter (fun x => decide (designStep d.ratio < blockStep d.depth d.ratio x))).length
    let s := if next then s else addFld s F.PKR_COARSE coarse
    if entryBusy s next j pair then
      -- each line counts once in FEED_LATE (R146)
      let fresh := [c, c + 1].filter (fun x => !j.late.contains x)
      let s := addFld (putJob s next { j with late := j.late ++ fresh }) F.FEED_LATE fresh.length
      alarm s 31 []
    else
      let s := dramWrite s (storeAddr d pair 0) (blocks.flatMap (encodeBlock d.depth d.ratio))
      putJob s next { j with
        ring := spPut (fun _ => 2 ^ 40) j.ring (pair % d.storeRows) pair
        firstPair := j.firstPair <|> some pair }

/-- A good LINE for contone line `c` of page `p` is taken. -/
def takeFeedLine (s : State) (next : Bool) (j : JobRun) (p : Page) (c : Nat) (x : List Nat) (mismatches : Nat) : State :=
  -- an even line whose partner a later number passes over is lost (R142)
  let kept := j.held.filter (fun h => h.1 % 2 == 1 || decide (c ≤ h.1 + 1))
  let j := { j with taken := j.taken ++ [c], held := kept }
  if c % 2 = 0 ∧ c = p.first + p.count - 1 then writePair s next j c x x mismatches
  else
    let mate := if c % 2 = 0 then c + 1 else c - 1
    match kept.find? (fun h => h.1 == mate) with
    | some h =>
      let j := { j with held := kept.filter (fun h => h.1 != mate) }
      if c % 2 = 0 then writePair s next j c x h.2 mismatches else writePair s next j mate h.2 x mismatches
    | none => putJob s next { j with held := kept ++ [(c, x)] }

/-- A LINE frame (R136). A line inside an announced REPLAY page, whose content comes from its slot, is discarded like
one outside every page (DEDUCED, log entry 108). -/
def feedLineFrame (s : State) (next : Bool) (j : JobRun) (f : FeedFrame) (mismatches : Nat) : State :=
  let c := f.number.toNat
  match j.pages.find? (fun p => p.recorded && p.slot.isNone && decide (p.first ≤ c) && decide (c < p.first + p.count)) with
  | none => discardOther s
  | some p =>
    if j.taken.contains c then discardOther s
    else takeFeedLine s next j p c (lineSamples j.decl f.payload) mismatches

/-! ## PAGE and REPLAY (R143, R149) -/

/-- The pages that have or had a record, in order. -/
def recorded (j : JobRun) : List Page := j.pages.filter (fun p => p.recorded)

/-- A new page finds a record free, or the oldest one's page fired by every row (R143). -/
def recordFree (s : State) (next : Bool) (j : JobRun) : Bool :=
  let rs := recorded j
  decide (rs.length < 1024) || (match rs[rs.length - 1024]? with | some p => pageFired s next j.decl p | none => true)

/-- The record's 16 bytes; no rule gives the code of its source: a free value. -/
def writeRecord (s : State) (j : JobRun) (number first count : Nat) : State :=
  let s := dramWrite s (recordsAddr j.decl + (recorded j).length % 1024 * 16)
    (leBytes 4 number ++ leBytes 4 first ++ leBytes 4 count ++ leBytes 4 (Config.freeWord s.fresh).toNat)
  useFree s

def feedPageFrame (s : State) (next : Bool) (j : JobRun) (f : FeedFrame) (slot : Option Nat) : State :=
  let first := leField f.payload 0 4
  let count := leField f.payload 4 4
  let after := match j.lastPage with | some n => decide (n < f.number.toNat) | none => true
  if !after || first != j.nextFirst || count == 0 then discardOther s
  else
    let free := recordFree s next j
    let s := if free then writeRecord s j f.number.toNat first count else s
    let p : Page := ⟨f.number.toNat, first, count, slot, free, none⟩
    let s := putJob s next { j with
      pages := j.pages ++ [p], nextFirst := first + (count + 1) / 2 * 2, lastPage := some f.number.toNat,
      records := Nat.min 1024 (if free then j.records + 1 else j.records) }
    if next then s else placeContiguous s

/-! ## LIB (R148, R150) -/

/-- A page not yet fired by every row replays the slot. -/
def slotReplayed (s : State) (slot : Nat) : Bool :=
  (match s.jobs.running with
   | some j => j.pages.any (fun p => p.slot == some slot && !pageFired s false j.decl p)
   | none => false)
  || (match s.jobs.next with
      | some j => j.pages.any (fun p => p.slot == some slot)
      | none => false)

/-- The blocks of a LIB payload. -/
def libBlocks (d : Decl) (pl : List Byte) : List (List Byte) :=
  (List.range (bprOf d)).map (fun b => (pl.drop (b * blkOf d)).take (blkOf d))

/-- A whole slot is written. -/
def slotWhole (d : Decl) (rows : List (Nat × Nat)) (slot : Nat) : Bool :=
  (List.range d.libSlotRows).all (fun r => rows.contains (slot, r))

def feedLibFrame (s : State) (j : JobRun) (f : FeedFrame) : State :=
  let d := j.decl
  let slot := f.slot.toNat
  let row := f.number.toNat
  if d.libSlots ≤ slot ∨ d.libSlotRows ≤ row then discardOther s
  else if slotReplayed s slot then alarm (discardOther s) 32 []
  else
    let mine := libMatches s d
    if !(libBlocks d f.payload).all (blockValid d.depth d.ratio) then
      let s := if mine then { s with jobs := { s.jobs with
        libRows := s.jobs.libRows.filter (fun x => x.1 != slot)
        libBad := if s.jobs.libBad.contains slot then s.jobs.libBad else s.jobs.libBad ++ [slot] } } else s
      discardOther s
    else
      let s := dramWrite s (libAddr d slot row 0) (f.payload.take (bprOf d * blkOf d))
      if mine then
        let rows := if s.jobs.libRows.contains (slot, row) then s.jobs.libRows else s.jobs.libRows ++ [(slot, row)]
        { s with jobs := { s.jobs with
          libRows := rows
          libBad := if slotWhole d rows slot then s.jobs.libBad.filter (fun x => x != slot) else s.jobs.libBad } }
      else s

/-! ## JOB_END (R224) -/

def announcedLines (j : JobRun) : Nat := (j.pages.map (fun p => p.count)).sum

def feedEndFrame (s : State) (next : Bool) (j : JobRun) (f : FeedFrame) : State :=
  let n := leField f.payload 0 4
  if j.jobEnd.isSome || decide (n < announcedLines j) then discardOther s
  else if n = 0 ∧ !next then
    let s := putJob s next { j with
      jobEnd := some 0, lastLine := if s.scr.leadLine = 0 then none else some (s.scr.leadLine - 1) }
    -- E stands before line 0, or is fired already: nothing is left to fire
    if endsJobs s && (s.scr.leadLine == 0 || firedAll s (s.scr.leadLine - 1)) then endAndNext s .normal else s
  else
    let s := putJob s next { j with jobEnd := some n }
    -- the last line may have been fired before its number was known
    match next, lastOf { j with jobEnd := some n } with
    | false, some e => if endsJobs s && firedAll s e then endAndNext s .normal else s
    | _, _ => s

/-! ## A frame arrives -/

/-- The checks of R136 in their order, then the frame's effect. -/
def takeFeed (f : FeedFrame) (mismatches : Nat) (s : State) : State :=
  -- a block of another type: a framing error (R133), counted in CRC (R152)
  if !f.okBlocks then discardCrc s
  else if f.full then discardOther s
  else if crc32c (feedBytes f) ≠ f.crc ∨ !f.lenOk then discardCrc s
  else if !headerFits f then discardOther s
  else match feedJob s f.jobId.toNat with
  | none => discardOther s
  | some (next, j) =>
    if !feedFits j.decl f then discardOther s
    -- the job halts: its later frames are discarded (R146); no rule counts them
    else if j.halt.isSome then s
    else if f.ftype = 1 then feedLineFrame s next j f mismatches
    else if f.ftype = 2 then feedPageFrame s next j f none
    else if f.ftype = 3 then feedPageFrame s next j f (some f.slot.toNat)
    else if f.ftype = 4 then feedLibFrame s j f
    else feedEndFrame s next j f

def actFeedLine (f : FeedFrame) (mismatches : Fin 3) (s : State) : Res := .next (takeFeed f mismatches s)
def actFeedPage (f : FeedFrame) (s : State) : Res := .next (takeFeed f 0 s)
def actFeedReplay (f : FeedFrame) (s : State) : Res := .next (takeFeed f 0 s)
def actFeedLib (f : FeedFrame) (s : State) : Res := .next (takeFeed f 0 s)
def actFeedJobEnd (f : FeedFrame) (s : State) : Res := .next (takeFeed f 0 s)

/-! ## Deadlines (R146, R147) -/

/-- The first print line of contone line `c`. -/
def printLineOf (d : Decl) (p : Page) (c : Nat) : Option Nat := p.p.map (fun q => q + kOf d * (c - p.first))

/-- The first print line that reads contone line `c`: with INTERP_Y it may be the last one of the line before (R146). -/
def firstReader (s : State) (d : Decl) (p : Page) (c l : Nat) : Nat :=
  if fldB s F.SCR_CTL_INTERP_Y && kOf d == 2 && decide (p.first < c) then l - 1 else l

/-- W has reached the start of row `(p, r)`'s window for line `l`, 64 print lines before it fires it (R144). -/
def fetchOpen (s : State) (p r l : Nat) : Bool := decide (fireTarget s p r l - 64 * 64 ≤ wNow s)

/-- The deadline of the contone line that print line `l` is the first to read has come: the leading row's fetch of `l`
starts (R146). -/
def deadlinePassed (s : State) (l : Nat) : Bool :=
  match leadingRow s with
  | some x => fetchOpen s x.1 x.2 l
  | none => false

/-- A late line (R146): counted once, feed-late raised; under LATE_HALT a device that ends jobs on its own inputs
(R140) fixes the first line that no row fires. -/
def lateLine (s : State) (j : JobRun) (p : Page) (c l : Nat) : State :=
  let s := if j.late.contains c then s else incFld s F.FEED_LATE
  let s := alarm s 30 [BitVec.ofNat 32 p.number, BitVec.ofNat 32 l]
  let halt := if j.decl.flags = 1 ∧ endsJobs s then some (match j.halt with | some h => Nat.min h l | none => l) else j.halt
  let s := putJob s false { j with
    decided := j.decided ++ [c], late := if j.late.contains c then j.late else j.late ++ [c], halt := halt }
  match halt with
  | some h => if endsJobs s && (h == 0 || firedAll s (h - 1)) then endAndNext s .feedLate else s
  | none => s

/-- The deadline of contone line `c`: the handler re-checks, and a block row that is complete wins; `tie` says that it
became complete as the timer won (R147, R367). While W has not reached the deadline nothing happens: a standing web
passes none. -/
def actFeedDeadline (c : Nat) (tie : Bool) (s : State) : Res :=
  match s.jobs.running with
  | none => .next s
  | some j =>
    if j.decided.contains c then .next s
    else match pageOfLine j c with
    | none => .next s
    | some p => match printLineOf j.decl p c with
      | none => .next s
      | some l =>
        if p.first + p.count ≤ c ∨ !deadlinePassed s (firstReader s j.decl p c l) then .next s
        else if lineComplete s j p c && !j.late.contains c then
          .next (putJob (if tie then lateWin s else s) false { j with decided := j.decided ++ [c] })
        else .next (lateLine s j p c l)

/-! ## What the stations show (R152) -/

/-- The real lines of a pair: the higher one. -/
def pairTop (j : JobRun) (pair : Nat) : Nat :=
  match pageOfLine j (2 * pair) with
  | some p => Nat.min (2 * pair + 1) (p.first + p.count - 1)
  | none => 2 * pair

/-- FEED_WRITTEN. -/
def feedWritten (s : State) : Word :=
  match s.jobs.running with
  | none => BitVec.allOnes 32
  | some j => match j.ring with
    | [] => BitVec.allOnes 32
    | e :: t => BitVec.ofNat 32 ((t.map (fun x => pairTop j x.2)).foldl Nat.max (pairTop j e.2))

/-- The contone line that the leading row's fetch has reached: the one after the last whose deadline has passed, on
either twin. -/
def fetchLine (j : JobRun) : Nat := j.decided.foldl (fun acc c => Nat.max acc (c + 1)) 0

/-- The complete block rows of the announced pages, as pairs of contone lines. -/
def rowsComplete (s : State) (j : JobRun) : List Nat :=
  j.pages.flatMap (fun p => ((List.range (pageEven p / 2)).map (fun i => p.first / 2 + i)).filter
    (fun q => lineComplete s j p (2 * q)))

/-- FEED_LEAD: the complete block rows at and after the leading row's fetch; where there is none, the distance by which
the last complete row lies behind it, negative (DEDUCED, log entry 110). -/
def feedLead (s : State) : Word :=
  match s.jobs.running with
  | none => 0
  | some j =>
    let at1 := fetchLine j / 2
    let ahead := (rowsComplete s j).filter (fun q => decide (at1 ≤ q))
    if ahead.isEmpty then BitVec.ofInt 32 (((rowsComplete s j).foldl (fun acc q => Nat.max acc (q + 1)) 0 : Nat) - (at1 : Int))
    else BitVec.ofNat 32 ahead.length

end Sys2Proof.Machine
end

