-- ==== Sys2Proof/Machine/Fire.lean ====
section
/-! DEFINITION. A row decides a line (R144, R185 to R197, R201 to R212, R257) and a row's trigger passes (R221, R222,
R234, R278). -/
namespace Sys2Proof.Machine
open Sys2Proof

/-! ## Decision -/

/-- The leading row begins line `l`: version, skips, record line (R201, R233, R277). -/
def beginLine (s : State) (l : Nat) : State :=
  let s := activateVersion s l
  let s := skipDecision s l
  let s := openRecord s l
  { s with scr := { s.scr with leadLine := l + 1 } }

/-- SCR_HORIZON takes the line (R206). -/
def raiseHorizon (s : State) (l : Nat) : State := if horizon1 s ≤ l then setFld s F.SCR_HORIZON l else s

/-- Parity errors in the map or in a threshold array (R212). -/
def parityFault (s : State) : State := faultHandover (alarm s 45 []) 9

/-- The row's IDLE counts and its decision of the next line are kept. -/
def noteDecided (s : State) (p : Fin 24) (r : Fin 8) (l : Nat) (idle : List (Nat × Byte)) : State :=
  { s with scr := { s.scr with idle := idle, decidedTo := s.scr.decidedTo.set (rowIx p r) (l + 1) } }

/-- The decided codes enter the pod's line buffer, unless the row-line has left already (R259, R222). -/
def bufferLine (s : State) (p : Fin 24) (r : Fin 8) (l : Nat) (codes : List (Nat × BitVec 4)) : State :=
  if (findLine s p r l).isSome || decide (l < s.plc2.nextFire[rowIx p r]) then s
  else { s with pods := { s.pods with lines := s.pods.lines ++ [⟨p, r, l, codes, 0, none, false, false⟩] } }

/-- A version retires when the trailing row has decided its line (R203). -/
def retireAfter (s : State) (p r l : Nat) : State :=
  match s.scr.version with
  | some v => if trailingRow s == some (p, r) && decide (v.x ≤ l) then retireVersion s else s
  | none => s

/-- A standby's decoder lanes keep each row's decode window current (R327): they read the blocks of the row's next line
and decide nothing. -/
def followLine (s : State) (j : JobRun) (p : Fin 24) (r : Fin 8) (l : Nat) : State :=
  let s := (rowBlocks s (mkView s j l [] []) p r).foldl (fun s b => readBlock s (mkView s j l [] []) b) s
  { s with scr := { s.scr with decidedTo := s.scr.decidedTo.set (rowIx p r) (l + 1) } }

/-- A standby takes line `l` as the row's next one to read. -/
def follows (s : State) (p : Fin 24) (r : Fin 8) (l : Nat) : Bool :=
  s.twin.role == .standby && s.boot.phase == .ready && fitted s p && decide (r.val < rowsOf s p)
    && l == Nat.max s.scr.decidedTo[rowIx p r] s.plc2.nextFire[rowIx p r] && fetchOpen s p r l

/-- ROW_LINE_DECISION: row `r` of pod `p` decides line `l`, the next line it decides. A row other than the leading
one follows it; a row waits while its pod's line buffer has no room, before its fetch window opens (R144), and until
the deadline handler has decided what the line reads (R147). That it comes 16 lines ahead of the trigger is timing
(log entry 111).  On a standby the row only reads (R327). -/
def execRowLineDecision (p : Fin 24) (r : Fin 8) (l : Nat) (parity thrParity : List Nat) (s : State) : Res :=
  let leads := leadingRow s == some (p.val, r.val)
  if drives s && fitted s p && decide (r.val < rowsOf s p) && l == s.scr.decidedTo[rowIx p r]
      && (leads || decide (l < s.scr.leadLine)) && fetchOpen s p r l then
    match s.jobs.running with
    | none => .next s
    | some j0 =>
      if !linesDecided s j0 l then .next s
      else
      let s1 := if leads && l == s.scr.leadLine then beginLine s l
        else if recHolds s j0.decl.jobId s.sight.recStart l then s
        else openRecord s l            -- decided again after a take-over (R210)
      match s1.jobs.running with
      | none => .next s1
      | some j =>
        let v := mkView s1 j l parity thrParity
        let codes := rowCodes s1 v p r
        if !bufferRoom s1 p codes then .next s
        else
          let idle := rowIdle s1 v p r codes
          let blocks := rowBlocks s1 v p r
          let s2 := blocks.foldl (fun s b => readBlock s v b) s1
          let s2 := if parity.isEmpty && thrParity.isEmpty then s2 else parityFault s2
          let s2 := bufferLine (noteDecided s2 p r l idle) p r l codes
          .next (retireAfter (raiseHorizon s2 l) p r l)
  else match s.jobs.running with
    | some j => .next (if follows s p r l && linesDecided s j l then followLine s j p r l else s)
    | none => .next s

/-! ## Trigger -/

/-- How a row-line whose trigger passes stands. -/
inductive Fate1 where
  | settled                    -- its FIRE copies have left, or it holds no code
  | cancelled
  | foreign
  | unsendable                 -- link not UP or HV enable low
  | missed
deriving DecidableEq, Repr

/-- The row-line's trigger at `t` falls before the first FIRE that went to the pod in this role (R278), or before the
fence of a forced take-over (R348). -/
def beforeOurs (s : State) (p : Fin 24) (t : Nat) : Bool :=
  !(link s p).firedOnce || (s.pods.forced && (match (link s p).answered with | some a => decide (t < a + 12800) | none => true))

/-- The fate of the row-line whose trigger passes at `t` (R222, R254, R278, R348). -/
def fateOf (s : State) (p : Fin 24) (t : Nat) (x : Option RowLine) (cancel : Bool) : Fate1 :=
  if !isActive s then .foreign
  else match x with
  | none => if beforeOurs s p t then .foreign else if !podUp s p ∨ !hvOn s p then .unsendable else .missed
  | some y =>
    if y.done then .settled
    else if beforeOurs s p t then .foreign
    else if !podUp s p ∨ !hvOn s p then .unsendable
    else if cancel then .cancelled
    else if y.codes.isEmpty then .settled
    else .missed

/-- FIRE copies with CANCEL clear the data that the pod holds (R254); a device that has stopped for a hand-over sends
none (R353). -/
def sendCancel (s : State) (p : Fin 24) (r : Fin 8) (l t : Nat) (x : Option RowLine) : State :=
  match x with
  | some y => if y.codes.isEmpty || s.tho.stopped then s else sendFire s p r l true (segCount s p) t t
  | none => s

/-- The mark and the count of a fate. -/
def settle (s : State) (p : Fin 24) (r : Fin 8) (l t : Nat) (x : Option RowLine) : Fate1 → State
  | .settled => s
  | .foreign => setMark s p r l markForeign
  | .unsendable => setMark s p r l markNot
  | .cancelled => sendCancel (setMark s p r l markCancelled) p r l t x
  | .missed => sendCancel (incFld (setMark s p r l markNot) F.PLC_MISSED) p r l t x

/-- The row goes on to its next line. -/
def nextLine (s : State) (p : Fin 24) (r : Fin 8) (l : Nat) : State :=
  { s with
    plc2 := { s.plc2 with nextFire := s.plc2.nextFire.set (rowIx p r) (l + 1) }
    pods := { s.pods with lines := s.pods.lines.filter (fun x => !(x.p == p && x.r == r && x.l == l)) } }

/-- The trailing row has fired the last line: the job ends (R224, R146). -/
def endIfDone (s : State) (j : JobRun) : State :=
  if endsJobs s then
    match j.halt, lastOf j with
    | some h, _ => if firedAll s (h - 1) then endAndNext s .feedLate else s
    | none, some e => if firedAll s e then endAndNext s .normal else s
    | none, none => s
  else s

/-- The row may fire line `l`: not after the end of extrapolation (R230), not from the line that LATE_HALT named
(R146). -/
def rowFires (s : State) (j : JobRun) (l : Nat) : Bool :=
  !s.plc2.noFire && (match j.halt with | some h => decide (l < h) | none => true)

/-- ROW_TRIGGER: W reaches the target of the row's next line. On a standby the row passes the line all the same, and
its own record marks it foreign (R278). -/
def actRowTrigger (p : Fin 24) (r : Fin 8) (t : Nat) (s : State) : Res :=
  let s := plcTime s t
  match s.jobs.running with
  | none => .next s
  | some j =>
    let l := s.plc2.nextFire[rowIx p r]
    if fitted s p && decide (r.val < rowsOf s p) && rowFires s j l && decide (fireTarget s p r l ≤ wAt s t) then
      let s := if !isActive s && !recHolds s j.decl.jobId s.sight.recStart l then openRecord s l else s
      let x := findLine s p r l
      let issued := match x with | some y => y.trig.isSome | none => false
      let (s, trips) := if issued || !isActive s then (s, false) else issueTrigger s p r l t
      let s := settle s p r l t x (fateOf s p t x (trips || (match x with | some y => y.cancel | none => false)))
      .next (endIfDone (nextLine s p r l) j)
    else .next s

end Sys2Proof.Machine
end

