-- ==== Sys2Proof/Machine/Power.lean ====
section
/-! DEFINITION. The power manager: the core rail, the slack loop, pod high voltage and the thermal models (R481 to
R496). -/
namespace Sys2Proof.Machine
open Sys2Proof

/-- A value outside a stated range acts as the nearer limit (R496). -/
def within (lo hi v : Nat) : Nat := if v < lo then lo else if hi < v then hi else v

/-! ## Rail faults (R482) -/

/-- A phase exceeds PH_ILIM in two periods: it is disabled until reset. `current` in 10 mA. -/
def execPhaseOvercurrent (n : Fin 8) (current : Nat) (s : State) : Res :=
  .next (if alive s then
    let s := setFld s F.PWR_RAIL_FAULT_PHASE (fld s F.PWR_RAIL_FAULT_PHASE ||| 2 ^ n.val)
    alarm { s with pwr := { s.pwr with off := s.pwr.off ||| (1#8 <<< n.val) } } (328 + n.val) [1, BitVec.ofNat 32 current]
  else s)

def execCoreUndervoltage (mv : Nat) (s : State) : Res :=
  .next (if alive s then alarm (setFld s F.PWR_RAIL_FAULT_UV 1) 328 [2, BitVec.ofNat 32 mv] else s)

/-! ## The slack loop (R44, R483, R484) -/

/-- The slack target in percent: 4 under a die throttle (R493). -/
def slackTarget (s : State) : Nat := if dieThrottle s then 4 else within 4 30 (fld s F.PWR_SLACK_TARGET)

/-- The job at whose declared maximum line rate the loop holds its engines: the running one, else the next. -/
def slackJob (s : State) : Option Decl :=
  match s.jobs.running with
  | some j => some j.decl
  | none => s.jobs.next.map (fun j => j.decl)

/-- The line interval the loop uses, in ps: I (R219), and while the web stands that of the declared maximum rate (R44). -/
def slackInterval (s : State) : Nat :=
  match s.plc.mode, slackJob s with
  | .stopped, some d => 1000000000000 / Nat.max 1 d.maxRate
  | _, _ => 1000 * lineInterval s

/-- One minus the share `used / cap`, in 1/1024 rounded down; nothing used leaves all of it. -/
def slackOf (used cap : Nat) : Int :=
  if used = 0 then 1024 else if cap = 0 then -32768 else max (-32768) (((cap : Int) - used) * 1024 / cap)

/-- The compressor's slack, against the feed rate at the declared maximum line rate (R173). -/
def compSlack (s : State) (cap : Nat) : Int :=
  match slackJob s with
  | some d => slackOf (d.samples * d.maxRate) (kOf d * cap)
  | none => 1024

/-- The slacks of the Sight pipelines in use, against the camera rates at the declared maximum line rate (R296). -/
def pipeSlacks (s : State) (cap : Nat) : List Int :=
  match slackJob s with
  | some d =>
    (List.finRange 4).filterMap (fun (n : Fin 4) =>
      if (pipeOn s).testBit n.val then
        let r := camPixels s (if sharedMode s && n == 1 then [1, 2, 3] else [n]) d.maxRate
        some (slackOf r.1 (r.2 * cap))
      else none)
  | none => []

/-- The slacks of the engines in use: of every line that a fitted pod's screening engine completed, of the compressor and
the decoder lanes, and of the pipelines in use; on a standby only the compressor and the lanes count (R483). -/
def slacks (s : State) (m : SlackMeas) : List Int :=
  compSlack s m.compCap :: m.lanes.map (fun u => slackOf u 1024)
    ++ (if isActive s then
        (m.work.filter (fun x => fitted s x.1)).map (fun x => slackOf x.2 (slackInterval s)) ++ pipeSlacks s m.pipeCap
      else [])

/-- s_min of the interval in 1/1024: the least slack; an urgent pod counts as 0 on the active. -/
def slackMin (s : State) (m : SlackMeas) : Int :=
  let least := (slacks s m).foldl min 1024
  if isActive s && (List.range 24).any (urgent s) then min least 0 else least

/-- VFLOOR and VSET in 2.5 mV after a change, within 0.600 V and 0.900 V. -/
def setRail (s : State) (vfloor vset : Int) : State :=
  let f := max 240 (min 360 vfloor)
  setFldInt (setFldInt s F.PWR_STAT_VFLOOR f) F.PWR_STAT_VSET (max f (min 360 vset))

/-- One evaluation, on what was measured since the last; `replica` is below 0 when the express replica's margin is below
its low mark. -/
def evalSlack (s : State) (meas : SlackMeas) (replica : Int) : State :=
  let m := slackMin s meas
  let s := setFldInt s F.PWR_SLACK_MIN m
  let vset : Int := fld s F.PWR_STAT_VSET
  let vfloor : Int := fld s F.PWR_STAT_VFLOOR
  let stepMax : Int := fld s F.PWR_CFG_STEP_MAX
  let t : Int := slackTarget s
  let above := decide ((t + 2) * 1024 < 100 * m)
  let n := if above then s.pwr.down + 1 else 0
  let downN := Nat.max 1 (fld s F.PWR_CFG_DOWN_N)
  let urg := isActive s && (List.range 24).any (urgent s)
  let keep := fun (s : State) (k : Nat) => { s with pwr := { s.pwr with down := k } }
  if replica < 0 then
    let f := min 360 (vfloor + 2)
    setRail (keep s n) f (if vset < f then f else vset + stepMax)
  else if urg ∨ m ≤ 0 then setRail (keep s n) vfloor (vset + stepMax)
  else if 100 * m < (t - 2) * 1024 then setRail (keep s n) vfloor (vset + fld s F.PWR_CFG_STEP_UP)
  else if downN ≤ n then setRail (keep s 0) vfloor (vset - 1)
  else setRail (keep s n) vfloor vset

/-- 10 µs without a boundary. -/
def execSlackTimer (m : SlackMeas) (replica : Int) (s : State) : Res := .next (evalSlack s m replica)

/-- The replica's margin has stayed above its high mark for 1 ms: VFLOOR falls, VSET stays. -/
def execVfloorFall (s : State) : Res :=
  .next (setFld s F.PWR_STAT_VFLOOR (Nat.max 240 (fld s F.PWR_STAT_VFLOOR - 1)))

/-! ## Pod high voltage (R485 to R487) -/

def podBit (p : Nat) : Nat := 2 ^ p
def setBit24 (v p : Nat) : Nat := v ||| podBit p
def clearBit24 (v p : Nat) : Nat := v &&& (2 ^ 24 - 1 - podBit p)

/-- The POWER section (R495). -/
def journalPower (s : State) : State :=
  journal s (.power (BitVec.ofNat 24 (fld s F.PODPWR_HV_EN)) (BitVec.ofNat 24 (fld s F.PODPWR_HV_FAULT))
    (BitVec.ofNat 24 (fld s F.PODPWR_PZ_INHIBIT)))

/-- Enables that may never be raised. -/
def hvBarred (s : State) : Nat := fld s F.PODPWR_HV_FAULT ||| fld s F.PODPWR_PZ_INHIBIT

/-- Raise the next requested enable in pod order. -/
def hvRaise (s : State) : State :=
  match (List.range 24).find? (fun p => s.pwr.hvReq.getLsbD p && !(hvBarred s).testBit p) with
  | some p =>
    let s := { s with pwr := { s.pwr with hvReq := s.pwr.hvReq &&& ~~~ (1#24 <<< p), hvLast := some s.clk.now } }
    setFld s F.PODPWR_HV_STAT (setBit24 (fld s F.PODPWR_HV_STAT) p)
  | none => { s with pwr := { s.pwr with hvReq := 0 } }

/-- No enable rose in the last HV_GAP µs. -/
def hvGapOver (s : State) : Bool :=
  match s.pwr.hvLast with
  | some t => decide (t + within 50 10000 (fld s F.PODPWR_HV_GAP) * 3200 ≤ s.clk.now)
  | none => true

/-- A write to HV_EN: bits cleared lower their enables at once, bits set ask for theirs. A standby only keeps it. -/
def hvWrite (s : State) (v : Word) : State :=
  let w := v.toNat % 2 ^ 24
  let s := setFld s F.PODPWR_HV_EN w
  let s := journalPower s
  if drives s then
    let s := setFld s F.PODPWR_HV_STAT (fld s F.PODPWR_HV_STAT &&& w)
    let ask := w &&& (2 ^ 24 - 1 - (fld s F.PODPWR_HV_STAT ||| hvBarred s))
    let s := { s with pwr := { s.pwr with hvReq := (s.pwr.hvReq &&& BitVec.ofNat 24 w) ||| BitVec.ofNat 24 ask } }
    if hvGapOver s then hvRaise s else s
  else s

/-- HV_SEQUENCE_STEP: HV_GAP has passed since an enable last rose. -/
def execHvSequenceStep (s : State) : Res := .next (if drives s && hvGapOver s then hvRaise s else s)

/-- Nanoseconds of a pod's sweep (R261). -/
def sweepNs (s : State) (p : Nat) : Nat := podGroups s p * fld s (F.PODL_CTL_TG p)

/-- The record marks of an abort (R487): sweeps under way are cancelled, FIREs not reached yet are not fired. -/
def abortMarks (s : State) (p : Fin 24) : State :=
  let now := s.clk.now
  let s := (s.plc2.trig.filter (fun e => e.1 / 8 == p.val && decide (e.2.2 ≤ now)
      && decide (10 * (now - e.2.2) < 32 * sweepNs s p))).foldl (fun s e => setMark s p (e.1 % 8) e.2.1 markCancelled) s
  (s.pods.lines.filter (fun x => x.p == p && x.done && (match x.trig with | some t => decide (now < t) | none => true))).foldl
    (fun s x => setMark s p x.r x.l markNot) s

/-- Lower a pod's enable and abort its sweeps. -/
def hvAbort (s : State) (p : Fin 24) (inhibit : Bool) : State :=
  let s := abortPod s p inhibit
  let s := setFld s F.PODPWR_HV_STAT (clearBit24 (fld s F.PODPWR_HV_STAT) p)
  abortMarks { s with pwr := { s.pwr with hvReq := s.pwr.hvReq &&& ~~~ (1#24 <<< p.val) } } p

/-- A pod enters HV fault (R486): detail 1 for the HV flag, 2 for current, then the current in mA. -/
def hvFault (s : State) (p : Fin 24) (detail : Nat) : State :=
  let s := hvAbort s p false
  let s := setFld s F.PODPWR_HV_FAULT (setBit24 (fld s F.PODPWR_HV_FAULT) p)
  alarm (journalPower s) (336 + p) [BitVec.ofNat 32 detail, BitVec.ofNat 32 (fld s (F.PODPWR_PZ_I p))]

/-- HV_OK_MS after the enable rose the pod still shows HV = 0. -/
def execHvOkTimeout (p : Fin 24) (s : State) : Res :=
  .next (if drives s && hvOn s p && !fldB s (F.PODL_STAT_HV p) then hvFault s p 1 else s)

/-! ## Thermal models (R489, R490) -/

/-- Narrowed to an s32 (R11). -/
def wrapS32 (i : Int) : Int := (BitVec.ofInt 32 i).toInt

/-- P × RTH in °C with 16 fraction bits. -/
def heat (power : Int) (rth : Nat) : Int := wrapS32 ((power * rth * 65536).tdiv 1000000)

/-- One 1 µs step of a model; TAU 0, for which no rule gives a step, moves T by a free value. -/
def zoneStep (z : Zone) (rth tau fresh : Nat) : Zone :=
  let d := wrapS32 (wrapS32 (z.amb + heat z.power rth) - z.t)
  { z with t := wrapS32 (z.t + (if tau = 0 then (Config.freeWord fresh).toInt else d.tdiv tau)) }

/-- A reading comes: the first sets the model (R489). -/
def zoneReading (z : Zone) (tm : Int) (rth : Nat) : Zone :=
  if z.seen then { z with tm := tm, fresh := true }
  else { z with seen := true, fresh := false, t := tm, tm := tm, amb := wrapS32 (tm - heat z.power rth) }

/-- The end of a round that brought a fresh reading anchors the model. -/
def zoneAnchor (z : Zone) (anchor : Nat) : Zone :=
  if z.fresh then { z with fresh := false, amb := wrapS32 (z.amb + wrapS32 ((z.tm - z.t) * anchor / 256)) } else z

/-- The compared temperature. -/
def Zone.tc (z : Zone) : Int := max z.t z.tm

/-- A level with its hysteresis: reached at `lvl`, left below `lvl - hyst` (R490). -/
def levelNow (was : Bool) (tc lvl hyst : Int) : Bool := if was then decide (lvl - hyst ≤ tc) else decide (lvl ≤ tc)

/-- °C with 16 fraction bits, and those in 1/16 °C. -/
def deg (c : Nat) : Int := c * 65536
def sixteenths (t : Int) : Int := t / 4096
def tempWord (t : Int) : Word := BitVec.ofInt 32 (sixteenths t)

def podZone (s : State) (p : Fin 24) : Zone := s.pwr.podZ[p]
def setPodZone (s : State) (p : Fin 24) (z : Zone) : State := { s with pwr := { s.pwr with podZ := s.pwr.podZ.set p z } }
def setDie (s : State) (z : Zone) : State := { s with pwr := { s.pwr with die := z } }

/-- A pod shutdown (R492). -/
def podShutdown (s : State) (p : Fin 24) : State :=
  let s := hvAbort s p true
  let s := setFld s F.PODPWR_PZ_INHIBIT (setBit24 (fld s F.PODPWR_PZ_INHIBIT) p)
  alarm (journalPower s) (304 + p) []

/-- The levels of a pod after a step (R490 to R492). -/
def podLevels (s : State) (p : Fin 24) : State :=
  let z := podZone s p
  let h := deg (fld s (F.PODPWR_HYST p))
  let y := { z with
    warn := levelNow z.warn z.tc (deg (fld s (F.PODPWR_WARN p))) h
    throt := levelNow z.throt z.tc (deg (fld s (F.PODPWR_THROT p))) h
    shut := levelNow z.shut z.tc (deg (fld s (F.PODPWR_SHUT p))) h }
  let s := setPodZone s p y
  let s := setFld s F.PODPWR_PZ_WARNED
    (if y.warn then setBit24 (fld s F.PODPWR_PZ_WARNED) p else clearBit24 (fld s F.PODPWR_PZ_WARNED) p)
  let s := if y.warn && !z.warn then alarm s (256 + p) [tempWord y.tc, tempWord y.tm] else s
  if y.shut && !z.shut && drives s then podShutdown s p else s

/-- The pod zones that are modelled: fitted pods with their link UP. -/
def stepPod (s : State) (p : Fin 24) : State :=
  if fitted s p && podUp s p && (podZone s p).seen then
    let s1 := setPodZone s p (zoneStep (podZone s p) (fld s (F.PODPWR_RTH p)) (fld s (F.PODPWR_TAU p)) s.fresh)
    podLevels (if fld s (F.PODPWR_TAU p) = 0 then useFree s1 else s1) p
  else s

/-- A pod's temperature arrives with a STATUS, in 1/16 °C (R489, R495). -/
def podReading (s : State) (p : Fin 24) (temp : Int) : State :=
  if fitted s p then setPodZone s p (zoneReading (podZone s p) (temp * 4096) (fld s (F.PODPWR_RTH p))) else s

/-- A new active starts each pod model afresh (R495). -/
def podZonesAtRole (s : State) : State :=
  let s := { s with pwr := { s.pwr with podZ := Vector.replicate 24 Zone.init, thrNoted := 0, overI := Vector.replicate 24 0 } }
  setFld (setFld s F.PODPWR_PZ_THROT 0) F.PODPWR_PZ_WARNED 0

/-- Every lane is electrically idle: the links are down. -/
def lanesDark (s : State) : State :=
  let dn := fun (p : Port) => { p with up := false }
  { s with
    round := { s.round with east := dn s.round.east, west := dn s.round.west }
    twin := { s.twin with port := dn s.twin.port } }

/-- The press outputs in their reset state (R36): ACTIVE_OUT, LINE_SYNC_OUT and the HV enables low. -/
def pressOutputsLow (s : State) : State :=
  let s := setFld s F.PODPWR_HV_STAT 0
  { s with pins := { s.pins with activeOut := false, lineSync := false }, pwr := { s.pwr with hvReq := 0 } }

/-- The core phases are off (R494): no steward executes, and the DMA engine and the Packer hold no work. -/
def coreOff (s : State) : State :=
  { s with
    stewards := s.stewards.map (fun w => { w with run := .halted })
    dma := State.reset.dma, pkr := State.reset.pkr }

/-- DIE_SHUTDOWN (R494): the latch; the express record leaves; then everything but the status word has stopped. -/
def dieShutdown (s : State) : State :=
  let s := { s with boot := { s.boot with thermalLatch := true } }
  let s := drainMail (alarm s 255 [])
  let s := coreOff (lanesDark (pressOutputsLow s))
  { s with boot := { s.boot with phase := .shut }, twin := { s.twin with role := .electing, joined := false } }

/-- CAM_STAT.PAUSED of every camera. -/
def pauseCameras (s : State) : State :=
  (List.range 4).foldl (fun s n => setFld s (F.SIGHT_CAM_STAT_PAUSED n) 1) s

/-- The levels of the die after a step (R490, R493, R494). -/
def dieLevels (s : State) : State :=
  let z := s.pwr.die
  let h := deg 5
  let y := { z with
    warn := levelNow z.warn z.tc (deg 100) h
    throt := levelNow z.throt z.tc (deg 110) h
    shut := z.shut || decide (deg 120 ≤ z.tc) }
  let s := setDie s y
  let s := setFldB s F.PWR_STAT_WARN y.warn
  let s := if y.warn && !z.warn then alarm s 253 [tempWord y.tc, tempWord y.tm] else s
  let s := setFldB s F.PWR_STAT_THROTTLE y.throt
  let s := if y.throt && !z.throt then pauseCameras (alarm s 254 []) else s
  if y.shut && !z.shut then dieShutdown s else s

/-- THERMAL_MODEL_STEP: every zone takes its 1 µs step and its levels are compared. The die's power is VDD_CORE times
the summed phase currents, plus DIE_POTHER. -/
def actThermalModelStep (vcore icore : Nat) (s : State) : Res :=
  if alive s then
    let s := setFld (setFld s F.PWR_MEAS_VCORE vcore) F.PWR_MEAS_ICORE icore
    let z := { s.pwr.die with power := vcore * icore / 100 + fld s F.PWR_DIE_POTHER }
    let s := setDie s z
    let s := if z.seen then
        let s1 := setDie s (zoneStep z (fld s F.PWR_DIE_RTH) (fld s F.PWR_DIE_TAU) s.fresh)
        dieLevels (if fld s F.PWR_DIE_TAU = 0 then useFree s1 else s1)
      else s
    .next (if s.boot.phase == .shut then s else (List.finRange 24).foldl stepPod s)
  else .next s

/-! ## The housekeeping round (R488) -/

/-- mV of a channel code over a scale. -/
def hkCode (codes : List (BitVec 12)) (c : Nat) : Nat := (codes.getD c 0).toNat

/-- HK_VAL of every channel. -/
def writeHk (s : State) (codes : List (BitVec 12)) : State :=
  (List.range 32).foldl (fun s c => setFld s (F.PWR_HK_VAL c) (hkCode codes c)) s

/-- One pod's supply current and power, and the current check of R486. -/
def hkPod (codes : List (BitVec 12)) (s : State) (p : Fin 24) : State :=
  if fitted s p then
    let ma := Nat.min 65535 (hkCode codes (fld s (F.PODPWR_I_CH p)) * fld s (F.PODPWR_I_SCALE p) / 100)
    let rail := hkCode codes (fld s F.PODPWR_HV_CH) * fld s F.PODPWR_HV_SCALE
    let mw := Nat.min 65535 (ma * rail / 1000)
    let s := setFld (setFld s (F.PODPWR_PZ_I p) ma) (F.PODPWR_PZ_P p) mw
    let s := setPodZone s p (zoneAnchor { podZone s p with power := mw } (fld s F.PWR_ANCHOR))
    let n := if hvOn s p && decide (fld s (F.PODPWR_IMAX p) < ma) then s.pwr.overI[p] + 1 else 0
    let s := { s with pwr := { s.pwr with overI := s.pwr.overI.set p n } }
    if 2 ≤ n ∧ drives s then hvFault { s with pwr := { s.pwr with overI := s.pwr.overI.set p 0 } } p 2 else s
  else s

/-- HK_PERIOD in ns: 0.25 ms units, 1 to 64 (R488). -/
def hkPeriodNs (s : State) : Nat := Nat.max 1 (fld s F.PWR_HK_PERIOD) * 250000

/-- The hottest of the on-die sensors, in 1/16 °C. -/
def hottest : List Int → Int
  | [] => 0
  | [x] => x
  | x :: t => max x (hottest t)

/-- A housekeeping round ends: `codes` are the 32 channels, `dieT` the on-die sensors in 1/16 °C. -/
def actHousekeepingRoundEnd (codes : List (BitVec 12)) (dieT : List Int) (s : State) : Res :=
  if alive s && s.pwr.hk then
    let s := writeHk { s with pwr := { s.pwr with hk := false } } codes
    let s := setFld s F.MOT_VBUS_MV
      (Nat.min 65535 (hkCode codes (fld s F.MOT_VBUS_VBUS_CH) * fld s F.MOT_VBUS_VBUS_LSB / 1000))
    let tm := hottest dieT * 4096
    let z := zoneAnchor (zoneReading s.pwr.die tm (fld s F.PWR_DIE_RTH)) (fld s F.PWR_ANCHOR)
    let s := { s with pwr := { s.pwr with die := z, dieTemp := within 0 255 (hottest dieT / 16).toNat } }
    .next ((List.finRange 24).foldl (hkPod codes) s)
  else .next s

/-! ## Throttles at a boundary (R491) -/

/-- A pod's throttle comes into force, or ends, at a fire line boundary. -/
def throttleAtBoundary (s : State) : State :=
  (List.finRange 24).foldl (fun s p =>
    let on := (podZone s p).throt
    let was := throttled s p
    if on == was then s
    else
      let s := setFld s F.PODPWR_PZ_THROT
        (if on then setBit24 (fld s F.PODPWR_PZ_THROT) p else clearBit24 (fld s F.PODPWR_PZ_THROT) p)
      if on then { s with pwr := { s.pwr with thrNoted := s.pwr.thrNoted &&& ~~~ (1#24 <<< p.val) } } else s) s

end Sys2Proof.Machine
end

