-- ==== Sys2Proof/Machine/Compare.lean ====
section
/-! DEFINITION. The compare units (R398 to R401) and the AUX balls they and others drive (R545, R546). -/
namespace Sys2Proof.Machine
open Sys2Proof

/-! ## AUX balls -/

/-- The ball of a pin function (R545). -/
def auxBall (f : Nat) : Nat := if f < 8 then f else if f = 0x0C then 7 else f - 8
/-- The function of higher priority on the ball of CMP_OUT `k` (R545). -/
def auxAbove (k : Nat) : Option Nat := if k < 4 then some (k + 8) else if k = 7 then some 0x0C else none
def auxHeld (s : State) (f : Nat) : Bool := !(claimants s 2 f).isEmpty
/-- The ball carries this function (R546). -/
def auxCarries (s : State) (f : Nat) : Bool :=
  auxHeld s f && (decide (8 ≤ f) || (match auxAbove f with
    | some g => !auxHeld s g
    | none => true))
/-- A pulse of a function at time `t`, on its ball if that carries it. -/
def auxPulse (s : State) (f : Nat) (t : Nat) : State :=
  if auxCarries s f then emit s (.pulse (1 + auxBall f) t) else s

/-! ## Compare units -/

/-- The target lies behind: (s32)(TARGET − value) ≤ 0 (R400). -/
def tmcBehind (s : State) (u : Nat) : Bool :=
  decide ((BitVec.ofNat 32 (fld s (F.TIME_TARGET u)) - tbVal s (tmcBase s u)).toInt ≤ 0)
/-- PERIOD in force (R401). -/
def tmcPeriod (s : State) (u : Nat) : Nat :=
  let p := fld s (F.TIME_PERIOD u)
  if p = 0 then 0 else atLeast 1000 p
def setHeld (s : State) (u : Nat) (b : Bool) : State :=
  { s with clk := { s.clk with held := if b then s.clk.held ||| (1#8 <<< u) else s.clk.held &&& ~~~ (1#8 <<< u) } }

/-- Start a housekeeping round, or count the overlap (R399). -/
def startHk (s : State) : State :=
  if s.pwr.hk then incFld s F.TIME_TMC_OVERLAP_HK else { s with pwr := { s.pwr with hk := true } }
/-- Start a motion cycle; a second start at the same tick is an overlap (R399). -/
def startMotion (s : State) : State :=
  if s.mot.last = some (tbVal s 3) then incFld s F.TIME_TMC_OVERLAP_MOTION else motionCycle s

/-- What a firing does (R398, R399, R455, R545). -/
def tmcAct (s : State) (u : Fin 8) (t : Nat) : State :=
  let s := setFld s (F.TIME_TMC_LAST u) (tbVal s (tmcBase s u)).toNat
  let s := wrapFld s (F.TIME_FIRED u)
  let s := setEventClaimants s (2 + u.val) 3 u
  let s := auxPulse (dmaLine s u) u t
  let s := if fldB s (F.TIME_TMC_CTL_HK u) then startHk s else s
  let s := if fldB s (F.TIME_TMC_CTL_MOTION u) then startMotion s else s
  compareTriggers s u t

/-- PERIOD is added until TARGET lies ahead (R401): `n` periods passed over. -/
def tmcCatchUp (s : State) (u : Fin 8) (t : Nat) : State :=
  if !tmcBehind s u then s
  else
    let per := tmcPeriod s u
    let n := (tbVal s (tmcBase s u) - BitVec.ofNat 32 (fld s (F.TIME_TARGET u))).toNat / per + 1
    let s := if fldB s (F.TIME_TMC_CTL_POLICY u) then s
      else setFldB (tmcAct s u t) (F.TIME_TMC_STAT_LATE u) true
    addFld (setFld s (F.TIME_TARGET u) (fld s (F.TIME_TARGET u) + n * per)) (F.TIME_TMC_STAT_MISSED u) n

/-- A firing: one-shot disarms, periodic goes on (R401). -/
def tmcFire (s : State) (u : Fin 8) (t : Nat) : State :=
  let s := setHeld (tmcAct s u t) u false
  let per := tmcPeriod s u
  if per = 0 then setFldB s (F.TIME_TMC_STAT_ARMED u) false
  else tmcCatchUp (setFld s (F.TIME_TARGET u) (fld s (F.TIME_TARGET u) + per)) u t

/-- COMPARE_UNIT_FIRE: the base reaches the target.  A unit held by LATE_HOLD fires only once the base has been below
TARGET again. -/
def execCompareUnitFire (u : Fin 8) (t : Nat) (s : State) : Res :=
  let s := advanceTo s t
  .next (if !fldB s (F.TIME_TMC_STAT_ARMED u) then s
  else if tmcDiff s u < 0 then setHeld s u false
  else if s.clk.held.getLsbD u then s
  else tmcFire s u t)

/-- ARM = 1, the other fields of TMC_CTL stored already (R400). -/
def tmcArm (s : State) (u : Fin 8) : State :=
  let s := setHeld (setFldB s (F.TIME_TMC_STAT_ARMED u) true) u false
  if !tmcBehind s u then s
  else if fldB s (F.TIME_TMC_CTL_POLICY u) then setHeld s u true
  else tmcFire (setFldB s (F.TIME_TMC_STAT_LATE u) true) u s.clk.now

def tmcDisarm (s : State) (u : Fin 8) : State := setHeld (setFldB s (F.TIME_TMC_STAT_ARMED u) false) u false

/-- A write of TMC_CTL with its WO bits; with both, ARM wins (R402). -/
def tmcCtl (s : State) (u : Fin 8) (v : Word) : State :=
  if v.getLsbD 3 then tmcArm s u else if v.getLsbD 6 then tmcDisarm s u else s

end Sys2Proof.Machine
end

