-- ==== Sys2Proof/Machine/Dma.lean ====
section
/-! DEFINITION. The DMA engine (R446 to R461). -/
namespace Sys2Proof.Machine
open Sys2Proof

/-! ## Stations and results -/

def dmaState (s : State) (c : Nat) : Nat := fld s (F.DMA_CH_STAT_STATE c)
def setDmaState (s : State) (c n : Nat) : State := setFld s (F.DMA_CH_STAT_STATE c) n

def stStopped : Nat := 0
def stIdle : Nat := 1
def stRunning : Nat := 2
def stPausing : Nat := 3
def stPaused : Nat := 4
def stError : Nat := 5

def resOk : Nat := 0
def resBadDesc : Nat := 1
def resAccess : Nat := 2
def resSrcEcc : Nat := 3
def resTimeout : Nat := 4
def resAborted : Nat := 5
def resNotOwned : Nat := 6

def dmaCur (s : State) (c : Fin 16) : Option DmaDesc := s.dma.cur[c]
def setDmaCur (s : State) (c : Fin 16) (d : Option DmaDesc) : State := { s with dma := { s.dma with cur := s.dma.cur.set c d } }

/-- RING_LOG and the burst, with their limits (R461). -/
def ringLog (s : State) (c : Nat) : Nat := Nat.max 1 (Nat.min 12 (fld s (F.DMA_CH_CTL_RING_LOG c)))
def burstBytes (s : State) (c : Nat) : Nat := 64 * 2 ^ Nat.min 6 (fld s (F.DMA_CH_CTL_BURST_LOG c))

/-- Descriptors given and not ended. -/
def ringFill (s : State) (c : Nat) : Nat := (fld s (F.DMA_HEAD c) + 65536 - fld s (F.DMA_TAIL c)) % 65536

/-- The address of the descriptor at TAIL (R447). -/
def descAddr (s : State) (c : Nat) : Nat :=
  fld s (F.DMA_RING_BASE_LO c) + 2 ^ 32 * fld s (F.DMA_RING_BASE_HI c) + fld s (F.DMA_TAIL c) % 2 ^ ringLog s c * 32

/-! ## Addresses (R450, R451) -/

def srcShm (d : DmaDesc) : Bool := d.ctrl.getLsbD 0
def dstShm (d : DmaDesc) : Bool := d.ctrl.getLsbD 1
def noCopy (d : DmaDesc) : Bool := d.ctrl.getLsbD 3

/-- Bytes of the space an address counts in: shared memory or usable DRAM. -/
def spaceBytes (s : State) (shm : Bool) : Nat := if shm then 0x1FFA00 else dramUsable s

/-- The copy runs descending (R452). -/
def descending (d : DmaDesc) : Bool :=
  !noCopy d && srcShm d == dstShm d && decide (d.src < d.dst) && decide (d.dst < d.src + d.len)

/-- The result that a descriptor has before any byte moves (R457). -/
def descCheck (s : State) (d : DmaDesc) : Option Nat :=
  if d.len = 0 ∨ d.ctrl.toNat / 32 % 2 ^ 26 ≠ 0 then some resBadDesc
  else if spaceBytes s (srcShm d) < d.src + d.len ∨ (!noCopy d ∧ spaceBytes s (dstShm d) < d.dst + d.len) then
    some resAccess
  else none

/-! ## Stations of the running descriptor (R458) -/

def showAddr (s : State) (lo hi : Fld) (a : Nat) : State := setFld (setFld s lo a) hi (a / 2 ^ 32)

/-- CUR_SRC, CUR_DST and CUR_LEFT. -/
def showCur (s : State) (c : Nat) (d : DmaDesc) : State :=
  let moved := if descending d then 0 else d.len - d.left
  let s := showAddr s (F.DMA_CUR_SRC_LO c) (F.DMA_CUR_SRC_HI c) (d.src + moved)
  let s := showAddr s (F.DMA_CUR_DST_LO c) (F.DMA_CUR_DST_HI c) (d.dst + moved)
  setFld s (F.DMA_CUR_LEFT c) d.left

/-! ## Taking a descriptor (R447, R448) -/

/-- The channel stops. -/
def dmaStop (s : State) (c last : Nat) : State :=
  setFld (setFld (setDmaState s c stError) (F.DMA_CH_CTL_RUN c) 0) (F.DMA_CH_STAT_LAST_RESULT c) last

/-- The 32 bytes of the descriptor at TAIL. Beyond usable DRAM no rule gives them: free values. -/
def descBytes (s : State) (c : Nat) : List Byte × State :=
  if descAddr s c + 32 ≤ dramUsable s then (dramBytes s (descAddr s c) 32, dramReadEffect s (descAddr s c) 32)
  else ((List.range 8).flatMap (fun i => leBytes 4 (Config.freeWord (s.fresh + i)).toNat), { s with fresh := s.fresh + 8 })

/-- A channel with RUN set and no descriptor takes the one at TAIL. -/
def dmaTake (s : State) (c : Fin 16) : State :=
  if (dmaCur s c).isSome ∨ !fldB s (F.DMA_CH_CTL_RUN c) then s
  else if fldB s (F.DMA_CH_CTL_PAUSE c) then setDmaState s c stPaused
  else if ringFill s c = 0 then setDmaState s c stIdle
  else
    let bad := decide (descAddr s c + 32 ≤ dramUsable s) && dramBad s (descAddr s c) 32
    let (bs, s) := descBytes s c
    let f := fun o n => leNat ((bs.drop o).take n)
    let ctrl := BitVec.ofNat 32 (f 0x14 4)
    if bad then dmaStop s c resSrcEcc
    else if !ctrl.getLsbD 31 then dmaStop s c resNotOwned
    else
      let s := if ctrl.getLsbD 2 then s else setFld s (F.DMA_CUR_CRC c) (2 ^ 32 - 1)
      let d : DmaDesc := ⟨f 0 8, f 8 8, f 0x10 4, ctrl, BitVec.ofNat 32 (fld s (F.DMA_CUR_CRC c)), f 0x10 4, none⟩
      let d := { d with result := descCheck s d }
      setDmaState (showCur (setDmaCur s c (some d)) c d) c stRunning

/-! ## Moving bytes (R452 to R454) -/

def spaceRead (s : State) (shm : Bool) (a n : Nat) : List Byte := if shm then memBytes s.shared a n else dramBytes s a n
def spaceWrite (s : State) (shm : Bool) (a : Nat) (bs : List Byte) : State :=
  if shm then { s with shared := memStore s.shared a bs } else dramWrite s a bs

/-- Uncorrectable codewords that a source range meets. -/
def badWords (s : State) (shm : Bool) (a n : Nat) : List Nat :=
  if shm then [] else s.poison.filter (fun w => decide (cwFirst a ≤ w) && decide (w < cwFirst a + cwCount a n))

/-- The part of the burst [a, a + n) that can be read before an uncorrectable codeword, in copy order. -/
def readable (s : State) (d : DmaDesc) (a n : Nat) : Nat × Nat :=
  match badWords s (srcShm d) a n with
  | [] => (a, n)
  | w :: t =>
    if descending d then
      let top := t.foldl Nat.max w
      (Nat.min (a + n) (32 * top + 32), a + n - Nat.min (a + n) (32 * top + 32))
    else
      let low := t.foldl Nat.min w
      (a, Nat.max a (32 * low) - a)

/-- The running register after `n` zero bytes. -/
def crcZeros (r : Word) : Nat → Word
  | 0 => r
  | n + 1 => crcZeros (crcByte r 0) n

/-- `reg` covers `n` bytes from `start`; the register with the bytes `bs` put below them (R453). -/
def crcBelow (reg start : Word) (n : Nat) (bs : List Byte) : Word := reg ^^^ crcZeros (start ^^^ bs.foldl crcByte start) n

/-- One burst of at most `n` bytes of the running descriptor moves. -/
def dmaMove (s : State) (c : Fin 16) (d : DmaDesc) (n : Nat) : State :=
  let n := Nat.min n d.left
  let desc := descending d
  let off := if desc then d.left - n else d.len - d.left
  let (a, m) := readable s d (d.src + off) n
  let bs := spaceRead s (srcShm d) a m
  let hit := m != n
  let s := if srcShm d then s else dramReadEffect s (d.src + off) n
  let s := if noCopy d then s else spaceWrite s (dstShm d) (d.dst + (a - d.src)) bs
  -- the running register covers the bytes read, in ascending order
  let reg := BitVec.ofNat 32 (fld s (F.DMA_CUR_CRC c))
  let crc := if desc then crcBelow reg d.start (d.len - d.left) bs else bs.foldl crcByte reg
  let d := { d with left := d.left - m, result := if hit then some resSrcEcc else d.result }
  let s := setFld s (F.DMA_CUR_CRC c) crc.toNat
  showCur (setDmaCur s c (some d)) c d

/-- Every byte that is left moves, burst by burst. -/
def dmaMoveAll (c : Fin 16) : Nat → State → State
  | 0, s => s
  | fuel + 1, s =>
    match dmaCur s c with
    | some d => if d.left = 0 ∨ d.result.isSome then s else dmaMoveAll c fuel (dmaMove s c d (burstBytes s c))
    | none => s

/-! ## The end of a descriptor (R451, R457) -/

/-- STATUS shows that the copy ran descending; with a descriptor that failed its check none ran (R450, R457). -/
def ranDescending (d : DmaDesc) (result : Nat) : Bool :=
  descending d && result != resBadDesc && result != resAccess

/-- STATUS and CRC, then CTRL without OWN, event DMA, TAIL; after any result but OK the channel stops. -/
def dmaFinish (s : State) (c : Fin 16) (d : DmaDesc) (result : Nat) : State :=
  let a := descAddr s c
  let reg := BitVec.ofNat 32 (fld s (F.DMA_CUR_CRC c))
  let put := fun (s : State) (o : Nat) (bs : List Byte) => if a + 32 ≤ dramUsable s then dramWrite s (a + o) bs else s
  let s := put s 0x18 (leBytes 4 (result + if ranDescending d result then 256 else 0) ++ leBytes 4 (~~~ reg).toNat)
  let s := put s 0x14 (leBytes 4 (d.ctrl.toNat % 2 ^ 31))
  let s := setDmaCur s c none
  let s := setFld s (F.DMA_TAIL c) ((fld s (F.DMA_TAIL c) + 1) % 65536)
  let s := wrapFld (setFld s (F.DMA_CH_STAT_LAST_RESULT c) result) (F.DMA_COMPLETED c)
  let s := if d.ctrl.getLsbD 4 then setEventClaimants s 11 4 c else s
  if result = resOk then dmaTake s c else dmaStop s c result

/-- DMA_DESCRIPTOR_END: an unpaced descriptor moves what is left; one that a failure or an abort ends, ends so. -/
def execDmaDescriptorEnd (c : Fin 16) (s : State) : Res :=
  match dmaCur s c with
  | none => .next s
  | some d0 =>
    let runs := dmaState s c == stRunning
    let s := if runs && d0.result.isNone && !fldB s (F.DMA_CH_CTL_PACED c) then dmaMoveAll c (d0.len + 1) s else s
    match dmaCur s c with
    | none => .next s
    | some d => match d.result with
      | some r => .next (dmaFinish s c d r)
      | none => if d.left = 0 ∧ (runs ∨ dmaState s c = stPausing) then .next (dmaFinish s c d resOk) else .next s

/-! ## Bursts (R455, R456) -/

/-- The request line of a paced channel is asserted. -/
def requested (s : State) (c : Nat) : Bool :=
  let r := fld s (F.DMA_CH_CTL_REQ c)
  if r < 13 then s.dma.lines.getLsbD r else (fld s F.DMA_SWREQ).testBit (r - 13)

/-- The grant clears a latched line. -/
def grant (s : State) (c : Nat) : State :=
  let r := fld s (F.DMA_CH_CTL_REQ c)
  if r < 13 then { s with dma := { s.dma with lines := s.dma.lines &&& ~~~ (1#13 <<< r) } } else s

/-- A granted burst moves and counts; a level request withdrawn after the grant counts too. -/
def pacedBurst (s : State) (c : Fin 16) (d : DmaDesc) (withdrawn : Bool) : State :=
  let level := decide (13 ≤ fld s (F.DMA_CH_CTL_REQ c))
  let s := dmaMove (grant s c) c d (burstBytes s c)
  let s := incFld s (F.DMA_BURSTS c)
  if withdrawn && level then incFld s (F.DMA_WITHDRAWN c) else s

/-- DMA_BURST: one burst of a running channel moves; a paced one needs its request. -/
def execDmaBurst (c : Fin 16) (withdrawn : Bool) (s : State) : Res :=
  match dmaCur s c with
  | none => .next s
  | some d =>
    if dmaState s c = stRunning ∧ d.left ≠ 0 ∧ d.result = none then
      if fldB s (F.DMA_CH_CTL_PACED c) then
        (if requested s c then .next (pacedBurst s c d withdrawn) else .next s)
      else .next (dmaMove s c d (burstBytes s c))
    else .next s

/-- REQ_TMO passes; a request that is there wins (R456, R367). -/
def execDmaRequestTimeout (c : Fin 16) (s : State) : Res :=
  match dmaCur s c with
  | none => .next s
  | some d =>
    if dmaState s c = stRunning ∧ d.left ≠ 0 ∧ d.result = none ∧ fldB s (F.DMA_CH_CTL_PACED c) ∧ fld s (F.DMA_REQ_TMO c) ≠ 0 then
      (if requested s c then .next (lateWin (pacedBurst s c d false)) else .next (dmaFinish s c d resTimeout))
    else .next s

/-- A write of DMA_SWREQ. -/
def dmaSwreq (s : State) (v : Word) : State := setFld s F.DMA_SWREQ v.toNat

/-! ## Control (R447, R457 to R459) -/

/-- A write of HEAD; one that would overfill the ring is ignored. A standby, whose TAIL does not move, keeps the mirrored
value (R460). -/
def dmaHead (s : State) (c : Fin 16) (v : Word) : State :=
  let h := v.toNat % 65536
  if s.twin.role = .standby then setFld s (F.DMA_HEAD c) h
  else if 2 ^ ringLog s c < (h + 65536 - fld s (F.DMA_TAIL c)) % 65536 then setFld s (F.DMA_CH_STAT_HEAD_IGNORED c) 1
  else dmaTake (setFld s (F.DMA_HEAD c) h) c


/-- RUN written 1: the channel starts at TAIL with a fresh running register. A standby holds RUN at 0 (R460). -/
def dmaStart (s : State) (c : Fin 16) : State :=
  if drives s && !fldB s (F.DMA_CH_CTL_RUN c) && (dmaCur s c).isNone then
    dmaTake (setFld (setFld s (F.DMA_CH_CTL_RUN c) 1) (F.DMA_CUR_CRC c) (2 ^ 32 - 1)) c
  else s

/-- RUN written 0: a running descriptor drains and ends with ABORTED. -/
def dmaHalt (s : State) (c : Fin 16) : State :=
  if fldB s (F.DMA_CH_CTL_RUN c) then
    let s := setFld s (F.DMA_CH_CTL_RUN c) 0
    match dmaCur s c with
    | none => setDmaState s c stStopped
    | some d =>
      setDmaState (setDmaCur s c (some { d with result := some (d.result.getD resAborted) })) c
        (if dmaState s c = stPaused then stPaused else stPausing)
  else s

/-- PAUSE written 1. -/
def dmaHold (s : State) (c : Fin 16) : State :=
  let s := setFld s (F.DMA_CH_CTL_PAUSE c) 1
  match dmaCur s c with
  | some _ => if dmaState s c = stRunning then setDmaState s c stPausing else s
  | none => if fldB s (F.DMA_CH_CTL_RUN c) then setDmaState s c stPaused else s

/-- PAUSE written 0: the channel goes on from exactly the state of the pause. -/
def dmaGoOn (s : State) (c : Fin 16) : State :=
  let s := setFld s (F.DMA_CH_CTL_PAUSE c) 0
  match dmaCur s c with
  | some d => if d.result = some resAborted then s
    else if dmaState s c = stPaused ∨ dmaState s c = stPausing then setDmaState s c stRunning else s
  | none => if dmaState s c = stPaused then dmaTake s c else s


/-- The reads under way are complete: pausing becomes paused. -/
def execDmaPauseDrained (c : Fin 16) (s : State) : Res :=
  .next (if dmaState s c = stPausing then setDmaState s c stPaused else s)

/-- STATE running, pausing or paused: configuration writes are ignored (R459). -/
def dmaBusy (s : State) (c : Nat) : Bool :=
  dmaState s c == stRunning || dmaState s c == stPausing || dmaState s c == stPaused

/-- A write of CH_CTL: its configuration bits, then PAUSE, then RUN. -/
def dmaCtl (s : State) (c : Fin 16) (v : Word) : State :=
  let old := stnWord s (F.DMA_CH_CTL_RUN c).addr
  let cfg : Word := 0x3FFC
  let s := if old &&& cfg = v &&& cfg then s
    else if dmaBusy s c then setFld s (F.DMA_CH_STAT_CFG_IGNORED c) 1
    else setStnWord s (F.DMA_CH_CTL_RUN c).addr ((old &&& ~~~ cfg) ||| (v &&& cfg))
  let s := if v.getLsbD 1 = fldB s (F.DMA_CH_CTL_PAUSE c) then s else if v.getLsbD 1 then dmaHold s c else dmaGoOn s c
  if v.getLsbD 0 then dmaStart s c else dmaHalt s c

/-- A write of RING_BASE. -/
def dmaRingBase (s : State) (c : Fin 16) (a : Nat) (v : Word) : State :=
  if dmaBusy s c then setFld s (F.DMA_CH_STAT_CFG_IGNORED c) 1 else setStnWord s a v

/-! ## Roles (R460) -/

/-- The new active starts every channel stopped. -/
def dmaAtRole (s : State) : State :=
  (List.finRange 16).foldl (fun s c =>
    let s := setDmaState (setDmaCur s c none) c stStopped
    setFld (setFld (setFld (setFld s (F.DMA_CH_CTL_RUN c) 0) (F.DMA_CH_CTL_PAUSE c) 0) (F.DMA_HEAD c) 0) (F.DMA_TAIL c) 0) s

/-- The old active aborts each running descriptor. -/
def dmaAbortAll (s : State) : State := (List.finRange 16).foldl dmaHalt s

/-- DMA_STAT.ACTIVE: channels running or pausing. -/
def dmaActive (s : State) : Nat :=
  ((List.finRange 16).map (fun c : Fin 16 => if dmaState s c = stRunning ∨ dmaState s c = stPausing then 2 ^ c.val else 0)).sum

end Sys2Proof.Machine
end

