-- ==== Sys2Proof/Machine/Lanes.lean ====
section
/-! DEFINITION. The serial lanes: service, loss of signal and lock, group alignment, test paths and kept tuning
(chapter 18, R462 to R480). -/
namespace Sys2Proof.Machine
open Sys2Proof

/-- What a lane serves (R462). -/
inductive LaneUse where
  | round (west : Bool)
  | feed
  | twin
  | pod (p : Fin 24)
  | cam (n : Fin 4) (second : Bool)
deriving DecidableEq, Repr

def laneUse (l : Fin 42) : LaneUse :=
  if l.val < 2 then .round false
  else if l.val < 4 then .round true
  else if l.val < 8 then .feed
  else if l.val < 10 then .twin
  else if l.val < 34 then .pod (Fin.ofNat 24 (l.val - 10))
  else .cam (Fin.ofNat 4 ((l.val - 34) / 2)) (l.val % 2 == 1)

def laneTesting (s : State) (l : Fin 42) : Bool := fldB s (F.LANE_CTL_TEST l)

/-- In service (R475); a lane in test is not (R477). -/
def laneInService (s : State) (l : Fin 42) : Bool :=
  s.boot.phase == .ready && !laneTesting s l && (match laneUse l with
    | .round _ => true
    | .twin => !solo s
    | .feed => jobDeclared s
    | .pod p => isActive s && fldB s (F.PODL_CTL_ENABLE p)
    | .cam n second => isActive s && fldB s (F.SIGHT_CAM_CTL_ENABLE n) && (!second || fldB s (F.SIGHT_CAM_CTL_TWO_CONN n)))

/-- What a lane in service takes with it when its signal or lock goes (R102, R247, R287). -/
def laneConsequence (s : State) (l : Fin 42) : State :=
  match laneUse l with
  | .round west => linkGoesDown s (roundLink west)
  | .twin => linkGoesDown s .twin
  | .feed => s
  | .pod p => portLost s p
  | .cam n _ => camLinkDown s n

/-- LOS or LOL is declared (R474, R475): the lane is neither aligned nor adapted any more. -/
def laneLoses (s : State) (l : Fin 42) (los : Bool) : State :=
  let flag := if los then F.LANE_STAT_LOS l else F.LANE_STAT_LOL l
  if fldB s flag then s
  else
    let s := setFldB s flag true
    let s := setFldB (setFldB s (F.LANE_STAT_ALIGNED l) false) (F.LANE_STAT_SETTLED l) false
    if laneInService s l then
      let s := incFld s (if los then F.LANE_EVENTS_LOS_COUNT l else F.LANE_EVENTS_LOL_COUNT l)
      laneConsequence (alarm s (370 + l.val) [if los then 0 else 1]) l
    else s

def actLaneLos (l : Fin 42) (s : State) : Res := .next (if alive s then laneLoses s l true else s)
def actLaneLol (l : Fin 42) (s : State) : Res := .next (if alive s then laneLoses s l false else s)

/-- The amplitude is back (R474). -/
def execLaneLosRelease (l : Fin 42) (s : State) : Res :=
  .next (if alive s then setFldB s (F.LANE_STAT_LOS l) false else s)

/-- Lock is back: block lock, comma or frame alignment (R474, R467, R471, R473). -/
def actLaneLolRelease (l : Fin 42) (s : State) : Res :=
  .next (if alive s then
    let s := setFldB (setFldB s (F.LANE_STAT_LOL l) false) (F.LANE_STAT_ALIGNED l) true
    match laneUse l with
    | .pod p => setFldB s (F.PODL_STAT_LOCK p) true
    | _ => s
  else s)

/-- The rate a lane runs at, as the key of its stored results (R478). -/
def laneRate (s : State) (l : Fin 42) : Nat :=
  match laneUse l with
  | .pod p => (s.pods.links[p]).rate
  | .cam n _ => if fld s (F.SIGHT_CAM_STAT_LINK n) = 2 then 1 + fld s (F.SIGHT_CAM_CTL_SPEED n) else 0
  | _ => 0

/-- Results for this lane and rate are stored; a pod's count only for the pod they were taken from (R478, R514). -/
def tuned (s : State) (l : Fin 42) : Bool :=
  s.lanes.stored.contains (l.val, laneRate s l) && (match laneUse l with
    | .pod p => podKnown s p
    | _ => true)

/-- The results go to the thermos with the next settings commit, a pod's with its PD_ID (R478, R505). -/
def storeTuning (s : State) (l : Fin 42) : State :=
  let k := (l.val, laneRate s l)
  let ids := match laneUse l with
    | .pod p => s.lanes.podIds.filter (fun e => e.1 != p.val) ++ [(p.val, BitVec.ofNat 32 (fld s (F.PODL_ID p 0)))]
    | _ => s.lanes.podIds
  { s with
    lanes := { s.lanes with stored := s.lanes.stored.filter (fun e => e != k) ++ [k], podIds := ids }
    therm := { s.therm with dirty := true } }

/-- Adaptation has settled (R467): results for a rate that has none go to the thermos (R478). -/
def execLaneSettled (l : Fin 42) (s : State) : Res :=
  .next (if (laneInService s l || (alive s && laneTesting s l)) && !fldB s (F.LANE_STAT_LOS l) && !fldB s (F.LANE_STAT_LOL l) then
    (let s := setFldB s (F.LANE_STAT_SETTLED l) true
     if tuned s l then s else storeTuning s l) else s)

/-- Four lanes' markers agree: a group is deskewed (R471). -/
def actGroupAligned (g : Fin 4) (s : State) : Res := .next (if alive s then setAligned s g true else s)
/-- Group alignment is lost (R471, R474): no LOL; frames are discarded until it returns. -/
def actGroupAlignmentLost (g : Fin 4) (s : State) : Res := .next (setAligned s g false)

/-! ## Station writes -/

/-- Setting TEST is ignored (R477). -/
def testIgnored (s : State) (l : Fin 42) (v : Word) : Bool :=
  v.getLsbD 2 && !laneTesting s l && (jobDeclared s || (laneUse l == .twin && s.twin.joined))

def laneChk (s : State) (l : Fin 42) : State := setFld s (F.LANE_ERR l) 0

/-- The checker counts: the lane is in test with a pattern (R476). -/
def laneChecks (s : State) (l : Fin 42) : Bool := laneTesting s l && fldB s (F.LANE_CTL_PRBS l)

/-- The checker stops with the errors that it has counted, a free value: no command brings a received bit. -/
def checkerStops (s : State) (l : Fin 42) : State :=
  setFld { s with fresh := s.fresh + 1 } (F.LANE_ERR l) (Config.freeWord s.fresh).toNat

/-- The lane is taken out of service: its link is down. A pod's port is lost when its STATUS stays away (R247). -/
def enterTest (s : State) (l : Fin 42) : State :=
  match laneUse l with
  | .pod _ => s
  | _ => laneConsequence s l

/-- Back in service the link trains again (R477): a camera's bring-up starts. -/
def leaveTest (s : State) (l : Fin 42) : State :=
  match laneUse l with
  | .cam n _ => if fld s (F.SIGHT_CAM_STAT_LINK n) = 0 then camBringUp s n else s
  | _ => s

/-- A write of LANE_CTL (R476, R477): a Round lane in test is a port with its link down. -/
def laneCtl (s : State) (l : Fin 42) (v : Word) : State :=
  if testIgnored s l v then setFldB s (F.LANE_STAT_TEST_IGNORED l) true
  else
    let was := laneTesting s l
    let counted := laneChecks s l
    let s := setStnWord s (F.LANE_CTL_TEST l).addr (v &&& 0x7F)
    let s := if counted && !laneChecks s l then checkerStops s l else s
    let s := if v.getLsbD 7 then laneChk s l else s
    if v.getLsbD 2 && !was then enterTest s l else if was && !v.getLsbD 2 then leaveTest s l else s

/-- What a write of LANE_TX stores (R466). -/
def laneTxStored (v : Word) : Word :=
  let pre := Nat.min 12 (v.toNat % 16)
  let post := Nat.min 24 (v.toNat / 16 % 32)
  let post := if 28 < pre + post then 28 - pre else post
  BitVec.ofNat 32 (pre + 16 * post + 512 * (v.toNat / 512 % 8))

/-! ## LONG 6 (R479) -/

/-- The receivers that lane retune restarts. -/
def laneRetunes (s : State) (l : Fin 42) : Bool := laneInService s l && !(laneUse l == .twin && s.twin.joined)

/-- One lane at the end of lane retune; bit `l` of `ok` says that it settled. -/
def retuneLane (ok : BitVec 42) (s : State) (l : Fin 42) : State :=
  if !laneRetunes s l || fldB s (F.LANE_STAT_LOS l) then s
  else if ok.getLsbD l then storeTuning (setFldB s (F.LANE_STAT_SETTLED l) true) l
  else alarm (setFldB s (F.LANE_STAT_SETTLED l) false) (370 + l.val) [2]

def retuneEnd (s : State) (ok : BitVec 42) : State := (List.finRange 42).foldl (retuneLane ok) s

end Sys2Proof.Machine
end

