-- ==== Sys2Proof/Machine/DramCtl.lean ====
section
/-! DEFINITION. The DRAM controller beside its ECC: scrubbing, refresh, temperature, drift tracking and the change of
the data rate (chapter 16, R436 to R445). -/
namespace Sys2Proof.Machine
open Sys2Proof

/-- The scrubber reads the codeword at a usable address (R436): it writes back what it corrects, counts what it
cannot, and poisons nothing. -/
def scrubCodeword (s : State) (addr : Nat) (ecc : Fin 3) : State :=
  let s := readCheck (newEccError s addr ecc) (addr / 32)
  if s.poison.contains (addr / 32) then s else { s with single := s.single.filter (fun c => c != addr / 32) }

def actDramScrub (addr : Nat) (ecc : Fin 3) (s : State) : Res :=
  .next (if alive s && fldB s F.DRAM_SCRUB_SCRUB_H && s.round.busy.isNone && decide (addr < dramUsable s) then
    scrubCodeword s addr ecc else s)

/-- A per-bank refresh (R439); the bank's row is closed. -/
def execDramRefresh (ch : Fin 4) (bank : Fin 16) (s : State) : Res :=
  let i : Fin 64 := ⟨16 * ch.val + bank.val, by omega⟩
  .next (if alive s then
    let s := modChan s ch (fun c => { c with rows := c.rows.filter (fun x => x.1 % 16 != bank.val) })
    { s with drm := { s.drm with refreshes := s.drm.refreshes.set i (s.drm.refreshes[i] + 1) } }
  else s)

/-- Mode register 4 is read (R439, R440): the refresh rate, and HOT above the part's range. -/
def execDramMr4Poll (ch : Fin 4) (hot : Bool) (rate : BitVec 5) (s : State) : Res :=
  .next (if alive s then
    let s := { s with drm := { s.drm with mr4 := s.drm.mr4.set ch rate } }
    if hot then setFldB s F.DRAM_STAT_HOT true else s
  else s)

/-- Drift tracking while a job runs (R442): at most one step. -/
def execDramDriftTrack (ch : Fin 4) (up : Option Bool) (s : State) : Res :=
  .next (if jobRuns s then
    let d : Int := match up with
      | none => 0
      | some true => 1
      | some false => -1
    { s with drm := { s.drm with drift := s.drm.drift.set ch (s.drm.drift[ch] + d) } }
  else s)

/-- A change of rate is ignored (R444). -/
def freqIgnored (s : State) : Bool :=
  let n := fld s F.DRAM_FREQ_NEXT_RATE
  jobDeclared s || s.round.busy.isSome || fldB s F.DRAM_STAT_FREQ_BUSY || decide (4 < n)
    || !(fld s F.DRAM_CFG_RATE_MASK).testBit n

/-- GO = 1, NEXT_RATE and USE_SHADOW stored already (R444 steps 1 and 2). -/
def freqGo (s : State) : State :=
  if freqIgnored s then setFldB s F.DRAM_STAT_FREQ_IGNORED true else setFldB (drainDram s) F.DRAM_STAT_FREQ_BUSY true

/-- The live timing words: those of the shadow set, or the device's own set for the rate, which no rule states. -/
def freqTimings (s : State) : State :=
  if fldB s F.DRAM_FREQ_USE_SHADOW then
    setStnWord (setStnWord (setStnWord s 0x4D000040 (stnWord s 0x4D000050)) 0x4D000044 (stnWord s 0x4D000054))
      0x4D000048 (stnWord s 0x4D000058)
  else
    let f := s.fresh
    let s := useFree (useFree (useFree s))
    setStnWord (setStnWord (setStnWord s 0x4D000040 (Config.freeWord f)) 0x4D000044 (Config.freeWord (f + 1)))
      0x4D000048 (Config.freeWord (f + 2) &&& 0xFFFF)

/-- The channels that hold training results for a rate. -/
def trainedAt (s : State) (rate : Nat) : Nat :=
  (((List.finRange 4).filter (fun k : Fin 4 => (s.drm.tuned[k]).getLsbD rate)).map (fun k : Fin 4 => 2 ^ k.val)).sum

/-- Steps 4 to 6 of R444: TRAINED tells which channels hold results for the new rate. -/
def execDramFreqDone (s : State) : Res :=
  .next (if fldB s F.DRAM_STAT_FREQ_BUSY then
    let n := fld s F.DRAM_FREQ_NEXT_RATE
    let s := setFld (freqTimings s) F.DRAM_STAT_TRAINED (trainedAt s n)
    admitDram (setFldB (setFld s F.DRAM_CFG_RATE n) F.DRAM_STAT_FREQ_BUSY false)
  else s)

end Sys2Proof.Machine
end

