-- ==== Sys2Proof/Machine/Elig.lean ====
section
/-! DEFINITION. Joined and eligible: the reasons of NOT_ELIG (R344, R345, R360). -/
namespace Sys2Proof.Machine
open Sys2Proof

/-- A feed lane is locked: it has block lock (R471, R152). -/
def feedLocked (s : State) (n : Nat) : Bool := fldB s (F.LANE_STAT_ALIGNED (4 + n))
def feedLockBits (s : State) : Nat := ((List.range 4).map (fun n => if feedLocked s n then 2 ^ n else 0)).sum

/-- A contone line of a page that some row has yet to fire. -/
def lineUnfired (s : State) (d : Decl) (p : Page) (c : Nat) : Bool :=
  match printLineOf d p c with
  | some l => !firedAll s (l + kOf d - 1)
  | none => true

/-- A fed page lacks a line at or below the highest one written. -/
def pageHole (s : State) (j : JobRun) (p : Page) : Bool :=
  p.recorded && (List.range p.count).any (fun i =>
    let c := p.first + i
    decide (c ≤ (feedWritten s).toNat) && !lineUsable s j p c && lineUnfired s j.decl p c)

/-- A replayed page whose slot has not arrived whole. -/
def slotHole (s : State) (j : JobRun) (p : Page) (sl : Nat) : Bool :=
  !pageFired s false j.decl p && (s.jobs.libBad.contains sl || !slotWhole j.decl s.jobs.libRows sl)

/-- The trailing row's next unfired line lies past the first contone line pair that the device wrote complete (R360). -/
def pastFirstPair (s : State) (j : JobRun) : Bool :=
  match j.firstPair with
  | none => false
  | some pair => match (pageOfLine j (2 * pair)).bind (fun p => pairLast j.decl p (2 * pair)) with
    | some l => firedAll s l
    | none => false

/-- Reason STORE: the page store or library lacks a block that a line not yet fired by every row may read. -/
def storeLacks (s : State) : Bool :=
  match s.jobs.running with
  | none => false
  | some j => (s.twin.blank && !pastFirstPair s j) || (!j.ring.isEmpty && j.pages.any (fun p => p.slot.isNone && pageHole s j p))
      || j.pages.any (fun p => match p.slot with
          | some sl => slotHole s j p sl
          | none => false)

/-- An uncorrectable error in the page store within the last second. -/
def pageErrRecent (s : State) : Bool :=
  match s.twin.pageErr with
  | some t => decide (s.clk.now ≤ t + 3200000000)
  | none => false

/-- VERSION of the running resident image. -/
def runningImage (s : State) : Option FwSlot := s.therm.slots[s.boot.slot]
def residentVersion (s : State) : Word := match runningImage s with
  | some f => f.version
  | none => 0

/-- Whether reason `b` of R345 holds on this device; 5 to 9 and 13 are latched as their causes arise. -/
def reasonHolds (s : State) (b : Nat) : Bool :=
  match b with
  | 0 => !s.twin.joined
  | 1 => !fldB s F.TWN_CFG_ELIG_EN
  | 2 => (match s.twin.peer with
    | some c => c.version != residentVersion s
    | none => false)
  | 3 => decide (feedLockBits s ≠ 15) || !groupIsAligned s 2
  | 4 => storeLacks s
  | 10 => pageErrRecent s || fldB s F.DRAM_STAT_RETRAIN_FAIL
  | 11 => s.pwr.die.throt
  | 12 => pairMismatch s
  | _ => s.twin.notElig.getLsbD b

/-- This device's reasons. -/
def reasons (s : State) : BitVec 16 :=
  BitVec.ofNat 16 (((List.range 14).map (fun b => if reasonHolds s b then 2 ^ b else 0)).sum)

/-- A joined standby without a reason is eligible (R345). -/
def selfEligible (s : State) : Bool := s.twin.role == .standby && reasons s == 0

end Sys2Proof.Machine
end

