-- ==== Sys2Proof/Machine/Sync.lean ====
section
/-! DEFINITION. Round time synchronisation and the resident's anchor (R130, R131, R389, R393 to R395), steps (R386). -/
namespace Sys2Proof.Machine
open Sys2Proof

/-- Add a step that applies at the next tick (R386). -/
def addStep (s : State) (b : Fin 4) (v : Word) : State :=
  { s with clk := { s.clk with step := s.clk.step.set b (s.clk.step[b] + v) } }

/-- TB_STEP of base b, 1 to 3; TB-PRESS has no step station (R402). -/
def tbStep (s : State) (b : Fin 4) (v : Word) : State := if b = 0 then s else addStep s b v

/-- The resident writes its anchor (R389). -/
def execTbAnchorUpdate (s : State) : Res :=
  .next (setFld (setFld s F.TIME_TB_ANCHOR_LO (s.clk.ext.toNat % 2 ^ 32)) F.TIME_TB_ANCHOR_HI (s.clk.ext.toNat / 2 ^ 32))

/-- The states of R394 as TB_SYNC_STAT.STATE codes them. -/
def syncFree : Nat := 0
def syncAcquire : Nat := 1
def syncLocked : Nat := 2
def syncHold : Nat := 3

/-- The latch of extended TB-PRESS that a port takes of a START block at time `t` (R130), in 2^-16 ns: the time base as it
stands, moved by the ticks between now and `t`. -/
def pressLatch (s : State) (t : Nat) : Int :=
  ((s.clk.ext.toNat : Int) * 2 ^ 28 + ((s.clk.acc[0].toNat % 2 ^ 28 : Nat) : Int)
    + ((t / 8 : Nat) - (s.clk.now / 8 : Nat) : Int) * tbInc s 0) / 2 ^ 12

/-- The offset of R393 in 2^-16 ns; `ingress` is the ingress latch. -/
def syncOffset (s : State) (west : Bool) (pl : List Byte) (ingress : Int) : Int :=
  (leNat (pl.take 8) : Int) * 65536 + leNat ((pl.drop 8).take 8)
    + (if west then s.clk.delayWest else s.clk.delayEast) - ingress

/-- Rounded to whole ns. -/
def roundNs (o : Int) : Int := (o + 32768) / 65536

/-- Saturate to 32 signed bits. -/
def sat32 (i : Int) : Int := if 2 ^ 31 ≤ i then 2 ^ 31 - 1 else if i < -(2 ^ 31) then -(2 ^ 31) else i

/-- Enter ACQUIRE with a step of round(o), at every entry (DEDUCED, log entry 128); outside the first acquisition it raises
time-sync-lost (R394, R395). -/
def syncStep (s : State) (o : Int) : State :=
  let n := roundNs o
  let s := setFld s F.TIME_TB_SYNC_STAT_STATE syncAcquire
  let s := addStep s 0 (BitVec.ofInt 32 n)
  let s := incFld s F.TIME_TB_SYNC_STAT_STEPS
  -- the resident's extended count takes what lies beyond the 32 bits of the step
  let s := { s with clk := { s.clk with
      ext := s.clk.ext + (BitVec.ofInt 64 n - (BitVec.ofInt 32 n).signExtend 64), big := 0, good := 0 } }
  if s.clk.acquired then alarm s 369 [1, BitVec.ofInt 32 n] else { s with clk := { s.clk with acquired := true } }

/-- An offset the loop uses sets INC, to the value its filter gives, within the limits of R385. -/
def useOffset (s : State) (inc : Word) : State := setFld s (F.TIME_TB_INC 0) (clampInc inc.toNat)

/-- A SYNC taken with offset `o` (R394). -/
def takeSync (s : State) (o : Int) (inc : Word) : State :=
  let small := decide (o.natAbs < 100 * 65536)
  let large := decide (200 * 65536 < o.natAbs)
  let s := setFldInt s F.TIME_TB_OFFSET (sat32 (o / 4096))
  let st := fld s F.TIME_TB_SYNC_STAT_STATE
  if st = syncFree then syncStep s o
  else if st = syncHold then
    if small then setFld { s with clk := { s.clk with big := 0, good := 0 } } F.TIME_TB_SYNC_STAT_STATE syncLocked
    else syncStep s o
  else if st = syncLocked then
    if large then
      if s.clk.big = 3 then syncStep s o else { s with clk := { s.clk with big := s.clk.big + 1 } }
    else useOffset { s with clk := { s.clk with big := 0 } } inc
  else
    let s := useOffset s inc
    if small then
      if 7 ≤ s.clk.good then setFld { s with clk := { s.clk with good := 0, big := 0 } } F.TIME_TB_SYNC_STAT_STATE syncLocked
      else { s with clk := { s.clk with good := s.clk.good + 1 } }
    else { s with clk := { s.clk with good := 0 } }

/-- 8 PERIOD intervals without a SYNC taken: HOLDOVER, INC held (R394). Before the first SYNC there is none. -/
def execSyncHoldover (s : State) : Res :=
  let st := fld s F.TIME_TB_SYNC_STAT_STATE
  .next (if st = syncLocked ∨ st = syncAcquire then setFld s F.TIME_TB_SYNC_STAT_STATE syncHold else s)

/-- HOLDOVER has lasted 4 s: time-sync-lost, reason 0, ms since the last SYNC (R395). -/
def execHoldoverAlarm (s : State) : Res :=
  .next (if fld s F.TIME_TB_SYNC_STAT_STATE = syncHold then
    alarm s 369 [0, BitVec.ofNat 32 ((s.clk.now - s.clk.lastSync) / 3200000)]
  else s)

end Sys2Proof.Machine
end

