-- ==== Sys2Proof/Machine/StationRead.lean ====
section
/-! DEFINITION. What a read of a scalar or vector station returns (R9, R73, R519): the stored word, or what its engine
shows at the instant of the read. -/
namespace Sys2Proof.Machine
open Sys2Proof

def wNat (n : Nat) : Word := BitVec.ofNat 32 n
def wBit (b : Bool) (i : Nat) : Nat := if b then 2 ^ i else 0
/-- A 16-bit two's-complement field. -/
def s16 (i : Int) : Nat := (i % 65536).toNat
/-- `w` with field `f` showing `v`. -/
def shows (w : Word) (f : Fld) (v : Nat) : Word := fldPut f w v

/-- ROUND (R529). -/
def readRound (s : State) (a : Nat) : Word :=
  let w := stnWord s a
  if a = 0x40000000 then wNat (wBit s.round.east.up 0 + wBit s.round.east.wrapped 1)
  else if a = 0x40000010 then wNat (wBit s.round.west.up 0 + wBit s.round.west.wrapped 1)
  else if a = 0x40000020 then
    wNat ((ownSrc s).toNat + 256 * (match s.therm.pair with
      | some p => p.toNat
      | none => 0xFF))
  else if a = 0x40000024 then shows w F.ROUND_RND_DEAD_ENTRIES s.round.dead.length
  else if a = 0x40000028 then (match s.round.busy with
    | some b => wNat b.op
    | none => 0)
  else w

/-- FEED (R152). -/
def readFeed (s : State) (a : Nat) : Word :=
  let w := stnWord s a
  if a = 0x41000000 then
    wNat (feedLockBits s + wBit (groupIsAligned s 2) 4 + wBit (jobRuns s) 5 + wBit s.jobs.next.isSome 6
      + wBit (fldB s F.FEED_HALTED) 7)
  else if a = 0x41000004 then feedWritten s
  else if a = 0x41000008 then feedLead s
  else w

/-- PLC_STAT.MOTION (R239). -/
def plcMotion (s : State) : Nat :=
  match s.plc.mode with
  | .frozen => if s.plc.speed = 0 then (if s.plc.dirs.headD true then 1 else 2) else 3
  | .stopped => 0
  | _ => if s.plc.dirs.headD true then 1 else 2
/-- A class has skipped within the last 256 lines (R235). -/
def plcSkipping (s : State) : Bool :=
  match s.plc2.skipLine with
  | some l => jobRuns s && decide (s.plc.boundary ≤ l + 256)
  | none => false
/-- S in 1/16 line/s: one line is 64 sub-lines, one second 3,200,000,000 units (R216, R239). -/
def plcSpeed (s : State) : Int := sat32 (s.plc.speed * 800000000 / 2 ^ 32)

/-- PLC (R239). -/
def readPlc (s : State) (a : Nat) : Word :=
  let w := stnWord s a
  if a = 0x45000040 then shows (shows w F.PLC_STAT_MOTION (plcMotion s)) F.PLC_STAT_SKIPPING (wBit (plcSkipping s) 0)
  else if a = 0x45000044 then BitVec.ofInt 32 (wNow s)
  else if a = 0x45000048 then BitVec.ofInt 32 (wNow s / 2 ^ 32) &&& 0xFFFF
  else if a = 0x4500004C then BitVec.ofInt 32 (plcSpeed s)
  else if a = 0x45000050 then wNat (lineInterval s)
  else if a = 0x45000054 then wNat (debt s)
  else if a = 0x4500006C then BitVec.ofInt 32 (sat32 s.plc.slip)
  else w

/-- PODL (R275). -/
def readPodl (s : State) (a : Nat) : Word :=
  let w := stnWord s a
  let o := a - 0x46000000
  let p := o / 0x100
  if p < 24 ∧ o % 0x100 = 0x04 then shows w (F.PODL_STAT_URGENT p) (wBit (urgent s p) 0)
  else if p < 24 ∧ o % 0x100 = 0x10 then wNat (fillOf s p + 2 ^ 17 * leadOf s p)
  else w

/-- Frames of camera `n` are scored (R307, R325). -/
def scores (s : State) (n : Fin 4) : Bool :=
  drives s && fldB s F.HLT_CTL_EN && !s.hlt.off && camRuns s n && !fldB s (F.SIGHT_CAM_STAT_PAUSED n)

/-- HLT (R325). -/
def readHlt (s : State) (a : Nat) : Word :=
  let w := stnWord s a
  if a = 0x4800001C then
    wNat (((List.finRange 4).map (fun n => wBit (scores s n) n.val)).sum + wBit (!s.hlt.batch.isEmpty) 4
      + wBit (batchQueued s) 5 + wBit (fldB s F.HLT_STAT_AREA_BAD) 6)
  else w

def roleNum : Role → Nat
  | .electing => 0
  | .active => 1
  | .standby => 2
  | .none => 3
/-- NOT_ELIG as TWN_STAT shows it: on the active, the twin's reasons (R345). -/
def shownReasons (s : State) : BitVec 16 :=
  if isActive s then (match s.twin.peer with
    | some c => c.notElig
    | none => 1)
  else reasons s
def shownEligible (s : State) : Bool := if isActive s then twinEligible s else selfEligible s

/-- TWN (R361). -/
def readTwn (s : State) (a : Nat) : Word :=
  if a = 0x49000004 then
    wNat (roleNum s.twin.role + wBit s.twin.joined 2 + wBit (shownEligible s) 3 + wBit s.twin.pinLive 4
      + wBit s.twin.pcLive 5 + wBit s.tho.armed 6 + wBit (isActive s && !s.twin.joined) 7
      + 256 * (shownReasons s).toNat)
  else if a = 0x49000008 then s.twin.epoch
  else if a = 0x4900000C then s.twin.hseq
  else if a = 0x49000024 then wNat (Nat.min (2 ^ 32 - 1) ((s.clk.now - s.twin.roleAt) / 3200000000))
  else if a = 0x4900002C then wNat (Nat.min 65535 s.round.held.length)
  else stnWord s a

/-- A word of a slot's record as it stands (R375, R383). -/
def slotRecWord (s : State) (n i : Nat) : Word :=
  let x := slotGet s n
  wNat (leNat (((alarmBytes n x 0 0 x.count x.last).drop (8 + 4 * i)).take 4))

/-- MBG (R383). -/
def readMbg (s : State) (a : Nat) : Word :=
  if a = 0x4A000008 then wNat (Nat.min 65535 s.mbx.queue.length + 65536 * Nat.min 65535 s.mbx.ring.length)
  else if 0x4A001000 ≤ a then
    let n := (a - 0x4A001000) / 0x40
    let o := (a - 0x4A001000) % 0x40
    if o < 0x30 then slotRecWord s n (o / 4)
    else wNat (wBit (slotGet s n).isOpen 0 + wBit (s.mbx.queue.any (fun q => q.slot == n)) 1)
  else stnWord s a

/-- TIME (R402). -/
def readTime (s : State) (a : Nat) : Word :=
  if 0x4B000020 ≤ a ∧ a < 0x4B000030 then tbVal s (Fin.ofNat 4 ((a - 0x4B000020) / 4))
  else if a = 0x4B000050 then
    if s.clk.lastSync = 0 then BitVec.allOnes 32 else wNat (Nat.min (2 ^ 32 - 1) ((s.clk.now - s.clk.lastSync) / 3200))
  else stnWord s a

/-- AX_STAT (R428). -/
def axStat (s : State) (x : Fin 4) : Nat :=
  let a := ax s x
  (if a.brake then 0 else a.mode) + wBit (a.v != 0) 2 + wBit a.hold 3 + wBit (x == 1 && lockOn s) 4 + 32 * a.qlog
    + 65536 * (a.seg % 256)

/-- MOT (R428). -/
def readMot (s : State) (a : Nat) : Word :=
  if 0x4C000100 ≤ a ∧ a < 0x4C000300 then
    let x : Fin 4 := Fin.ofNat 4 ((a - 0x4C000100) / 0x80)
    let o := (a - 0x4C000100) % 0x80
    if o = 0x30 then wNat (axStat s x)
    else if o = 0x38 then BitVec.ofInt 32 (cmdPos s x)
    else if o = 0x3C then BitVec.ofInt 32 (encPos s x)
    else if o = 0x40 then BitVec.ofInt 32 (sat32 ((ax s x).v / fx))
    else if o = 0x5C then BitVec.ofInt 32 (ax s x).encOfs
    else stnWord s a
  else stnWord s a

/-- LANE (R480): the eye of a receiver with signal and lock, and the error count of a lane in test, are free. -/
def readLane (s : State) (a : Nat) : Word :=
  if a = 0x4F000000 then (if s.boot.phase = .ready then 0x1F else 0)
  else if 0x4F000100 ≤ a ∧ a < 0x4F000B80 then
    let l : Fin 42 := Fin.ofNat 42 ((a - 0x4F000100) / 0x40)
    let o := (a - 0x4F000100) % 0x40
    if o = 0x08 then shows (stnWord s a) (F.LANE_STAT_SERVICE l) (wBit (laneInService s l) 0)
    else if o = 0x10 then
      if fldB s (F.LANE_STAT_LOS l) || fldB s (F.LANE_STAT_LOL l) then 0 else Config.freeWord s.fresh &&& 0xFFFFF
    else if o = 0x0C then
      if laneChecks s l then Config.freeWord s.fresh else stnWord s a
    else stnWord s a
  else stnWord s a

/-- The phases that may switch: fitted and not disabled (R482). -/
def phasesUsable (s : State) : Nat :=
  ((List.range 8).map (fun n =>
    wBit (decide (n < within 1 8 (fld s F.PWR_CFG_PH_N)) && !s.pwr.off.getLsbD n) n)).sum

/-- The lowest set bit of a mask, by itself. -/
def lowBit8 (m : Nat) : Nat := (((List.range 8).find? (fun n => m.testBit n)).map (fun n => 2 ^ n)).getD 0

/-- The phases that switch: which of the usable ones follows the load and is free, never fewer than one (R482). -/
def phasesOn (s : State) (x : Word) : Nat :=
  let on := x.toNat % 256 &&& phasesUsable s
  if on = 0 then lowBit8 (phasesUsable s) else on

/-- PWR (R496). -/
def readPwr (s : State) (a : Nat) : Word :=
  if a = 0x5000000C then shows (stnWord s a) F.PWR_STAT_PH_ON (phasesOn s (Config.freeWord s.fresh))
  else if a = 0x50000018 then wNat (s16 (sixteenths s.pwr.die.t) + 65536 * s16 (sixteenths s.pwr.die.tm))
  else stnWord s a

/-- PODPWR (R496). -/
def readPodpwr (s : State) (a : Nat) : Word :=
  if 0x51000100 ≤ a ∧ (a - 0x51000100) % 0x20 = 0x10 then
    let p : Fin 24 := Fin.ofNat 24 ((a - 0x51000100) / 0x20)
    shows (stnWord s a) (F.PODPWR_PZ_T p) (s16 (sixteenths (podZone s p).t))
  else stnWord s a

/-- THM (R517). -/
def readThm (s : State) (a : Nat) : Word :=
  let t := s.therm
  let w := stnWord s a
  if a = 0x52000000 then
    wNat (t.bootSlot.val + 2 * (match t.pending with
        | none => 0
        | some p => p.val + 1)
      + wBit (s.boot.kind == 3) 3 + 256 * t.newest.val + wBit t.csRequired 9)
    ||| (w &&& 0x4F0)
  else if a = 0x52000004 then (match t.banks[t.newest] with
    | some b => b.seq
    | none => 0)
  else if a = 0x52000008 then t.dieId.setWidth 32
  else if a = 0x5200000C then (t.dieId >>> 32).setWidth 32
  else if a = 0x52000010 then wNat (((List.finRange 4).map (fun i => (t.keyState[i]).val * 4 ^ i.val)).sum)
  else if a = 0x52000014 then
    wNat (t.floor.toNat % 65536 + 65536 * (match runningImage s with
      | some f => f.svn.toNat % 65536
      | none => 0))
  else if a = 0x52000018 then residentVersion s
  else if a = 0x5200001C then (match t.pending with
    | some p => (match t.slots[p] with
      | some f => f.version
      | none => 0)
    | none => 0)
  else if a = 0x52000020 then wNat (t.wear.toNat + 65536 * t.spares)
  else if a = 0x52000024 then powerSeconds s
  else if a = 0x52000028 then wNat (s.boot.kind + 256 * t.resets.toNat)
  else w

/-- The bank of trace stations of the steward that reads (R379). -/
def readTrace (s : State) (k : Fin 8) (a : Nat) : Word :=
  let b := (stw s k).trace
  if a = 0x4A000040 then b.pmLo
  else if a = 0x4A000044 then b.pmHi
  else if a = 0x4A000048 then b.d0
  else if a = 0x4A00004C then b.d1
  else if a = 0x4A000050 then b.d2
  else 0

/-- What the station at `a` shows now. -/
def readWord (s : State) (a : Nat) : Word :=
  match (a - 0x40000000) / 0x1000000 with
  | 0 => readRound s a
  | 1 => readFeed s a
  | 3 => scrWordRead s a
  | 5 => readPlc s a
  | 6 => readPodl s a
  | 7 => if a = 0x47000004 then shows (stnWord s a) F.SIGHT_STAT_PIPE_ON (pipeOn s) else stnWord s a
  | 8 => readHlt s a
  | 9 => readTwn s a
  | 10 => readMbg s a
  | 11 => readTime s a
  | 12 => readMot s a
  | 14 => if a = 0x4E000004 then wNat (dmaActive s) else stnWord s a
  | 15 => readLane s a
  | 16 => readPwr s a
  | 17 => readPodpwr s a
  | 18 => readThm s a
  | _ => stnWord s a

/-- The low words whose read fixes the high word read next (R239, R389, R445, R458, R461, R517). -/
def latchesHigh (a : Nat) : Bool :=
  a == 0x45000044 || a == 0x45000074 || a == 0x4B000048 || a == 0x52000008
    || (decide (0x4D000080 ≤ a) && decide (a < 0x4D0000C0) && a % 16 == 8)
    || (decide (0x4E000100 ≤ a) && decide (a < 0x4E000500)
        && (a % 0x40 == 0x04 || a % 0x40 == 0x18 || a % 0x40 == 0x20))

/-- Reads of these use up a free value. -/
def readsFree (a : Nat) : Bool :=
  a == 0x5000000C || (decide (0x4F000100 ≤ a) && decide (a < 0x4F000B80) && (a % 0x40 == 0x10 || a % 0x40 == 0x0C))

/-- A read of a scalar station: the word, and the state with the high word kept or taken. -/
def readStation (s : State) (a : Nat) : Word × State :=
  match s.hiw.find? (fun e => e.1 == a) with
  | some e => (e.2, { s with hiw := s.hiw.filter (fun e => e.1 != a) })
  | none =>
    let w := readWord s a
    let s := if readsFree a then useFree s else s
    (w, if latchesHigh a then { s with hiw := (a + 4, readWord s (a + 4)) :: s.hiw.filter (fun e => e.1 != a + 4) } else s)

/-- A read of a vector station (R528): the nozzle map as R203 says, else as stored. -/
def readVec (s : State) (a : Nat) : Vec :=
  match vView a with
  | some (.nmap q g) => nmapView s q g
  | _ => vecGet s a

end Sys2Proof.Machine
end

