-- ==== Sys2Proof/Machine/StationStore.lean ====
section
/-! DEFINITION. Stores to stations: the checks of R74, the fields a store reaches (R9), the conditions under which
chapters ignore a write, what each write does in its engine, and the journal entry of a mirrored store (R522). -/
namespace Sys2Proof.Machine
open Sys2Proof

/-! ## The checks of R74 -/

def readOnlyGroup (a : Nat) : Bool := stnClass a == .readOnly
def bankedStation (a : Nat) : Bool := stnClass a == .banked

/-- The steward's program has claimed the station's group, compare unit or DMA channel (R74, R402, R461). -/
def claimed (s : State) (k : Fin 8) (a : Nat) : Bool :=
  match tmcUnit a, dmaChannelOf a, stnGroup a with
  | some u, _, _ => hasClaim s k 3 u
  | _, some c, _ => hasClaim s k 4 c
  | _, _, some g => hasClaim s k 1 g
  | _, _, none => false

/-- The claim check, which letters and PEER_WRITE do not make. -/
def mayStore (s : State) (k : Option (Fin 8)) (a : Nat) : Bool :=
  match k with
  | some k => claimed s k a
  | none => !bankedStation a

/-- A scalar station exists at `a`. -/
def scalarExists (a : Nat) : Bool := a % 4 == 0 && (stnRow a).isSome
/-- An immediate store to the scalar station at `a` passes R74, its claim apart. -/
def immediateOk (a : Nat) : Bool :=
  a % 4 == 0 && !readOnlyGroup a && (match stnRow a with
    | some r => r.writable && !r.isLQ
    | none => false)
/-- A line-qualified store to the scalar station at `a` passes R74, its claim apart. -/
def lineQualifiedOk (a : Nat) : Bool :=
  a % 4 == 0 && (match stnRow a with
    | some r => r.isLQ
    | none => false)
def vecImmediateOk (a : Nat) : Bool := match vView a with
  | some v => v.rw
  | none => false
def vecLineQualifiedOk (a : Nat) : Bool := match vView a with
  | some v => v.lq
  | none => false

/-! ## The plain effect of a store -/

/-- RW fields take the written bits, W1C fields clear where 1 is written, everything else stays (R9, R74). -/
def plainStore (s : State) (a : Nat) (v : Word) : State :=
  match stnRow a with
  | none => s
  | some r =>
    let old := stnWord s a
    let rw := BitVec.ofNat 32 r.rw
    let w1c := BitVec.ofNat 32 r.w1c
    setStnWord s a (((old &&& ~~~ rw) ||| (v &&& rw)) &&& ~~~ (v &&& w1c))

/-- A plain store whose bits under `keep` do not change. -/
def maskedStore (s : State) (a : Nat) (v keep : Word) : State :=
  plainStore s a ((v &&& ~~~ keep) ||| (stnWord s a &&& keep))

/-! ## Blocks with effects of their own -/

/-- Geometry stations and SCR_CTL (R178). -/
def isGeometry (a : Nat) : Bool :=
  a == 0x43000000 || (decide (0x43000100 ≤ a) && decide (a < 0x43000700)
    && (let o := a % 0x40
        decide (o < 0x0C) || decide (0x20 ≤ o)))

/-- SCR: geometry while no job runs or is declared (R178); SLOT and LIVE then follow from it by R186 (R183). -/
def storeScr (s : State) (a : Nat) (v : Word) : State :=
  if isGeometry a then
    if jobDeclared s then setFldB s F.SCR_GEOM_IGNORED true else renumberAll (plainStore s a v)
  else plainStore s a v

/-- PLC (R239, R227): some fields do not change while a job runs or is declared; ENC_FAULT is not cleared in a job. -/
def storePlc (s : State) (a : Nat) (v : Word) : State :=
  if a = 0x45000020 then pagecmpWrite s v
  else if a = 0x45000068 then plainStore s a (if jobRuns s then v &&& ~~~ 1 else v)
  else if jobDeclared s then
    if a = 0x45000000 then maskedStore s a v 0x3E03
    else if a = 0x45000004 ∨ a = 0x45000008 then s
    else plainStore s a v
  else if a = 0x45000004 ∨ a = 0x45000008 then rescale (plainStore s a v)
  else plainStore s a v

/-- What PODL_CTL stores: BG 14 and 15 store 0 (R275). -/
def podlCtlStored (v : Word) : Word := if 14 ≤ (v.toNat / 2048) % 16 then v &&& ~~~ 0x7800 else v

/-- A write of PODL_CTL: setting ENABLE brings the link up, clearing it ends the link (R242). -/
def podlCtl (s : State) (p : Fin 24) (a : Nat) (v : Word) : State :=
  let was := fldB s (F.PODL_CTL_ENABLE p)
  let s := plainStore s a (podlCtlStored v)
  if v.getLsbD 0 && !was then (if isActive s then bringUp s p false else s)
  else if was && !v.getLsbD 0 then
    modLink (setFldB (setFldB s (F.PODL_STAT_LOCK p) false) (F.PODL_STAT_UP p) false) p (fun x => { x with step := .idle })
  else s

def storePodl (s : State) (a : Nat) (v : Word) : State :=
  let o := a - 0x46000000
  let p := o / 0x100
  if h : p < 24 then
    if o % 0x100 = 0 ∨ (0x40 ≤ o % 0x100 ∧ o % 0x100 < 0x80) then
      if jobDeclared s then setFldB s F.PODL_GSTAT_CFG_IGNORED true
      else if o % 0x100 = 0 then podlCtl s ⟨p, h⟩ a v
      else plainStore s a v
    else plainStore s a v
  else if a = 0x4600200C then purgeGo s v
  else plainStore s a v

/-- A write of CAM_CTL: ENABLE at any time, the rest while no job runs or is declared (R304, R282). -/
def camCtl (s : State) (n : Fin 4) (a : Nat) (v : Word) : State :=
  let was := fldB s (F.SIGHT_CAM_CTL_ENABLE n)
  let old := stnWord s a
  let s := if jobDeclared s && ((old ^^^ v) &&& 0xFFFFFFFE) != 0 then
      maskedStore (setFldB s F.SIGHT_STAT_CFG_IGNORED true) a v 0xFFFFFFFE
    else plainStore s a v
  if v.getLsbD 0 && !was then camBringUp s n
  else if was && !v.getLsbD 0 then camLinkDown s n
  else s

def storeSight (s : State) (a : Nat) (v : Word) : State :=
  if a = 0x47000000 ∨ (0x47000008 ≤ a ∧ a ≤ 0x47000010) then
    if jobDeclared s then setFldB s F.SIGHT_STAT_CFG_IGNORED true else plainStore s a v
  else if 0x47000400 ≤ a ∧ a < 0x47001400 then
    let n : Fin 4 := Fin.ofNat 4 ((a - 0x47000400) / 0x400)
    let o := (a - 0x47000400) % 0x400
    if o = 0 then camCtl s n a v
    else if (4 ≤ o ∧ o ≤ 0x1C) ∨ (0x60 ≤ o ∧ o ≤ 0x80) then
      if jobDeclared s then setFldB s F.SIGHT_STAT_CFG_IGNORED true else plainStore s a v
    else if o = 0x48 then (if v.getLsbD 0 && isActive s then expGo s n else s)
    else plainStore s a v
  else if 0x47002000 ≤ a ∧ a < 0x47002400 ∧ a % 0x100 = 0x78 then
    if v.getLsbD 0 && isActive s then ctxCommit s (Fin.ofNat 4 ((a - 0x47002000) / 0x100)) else s
  else plainStore s a v

def storeHlt (s : State) (a : Nat) (v : Word) : State :=
  if (a = 0x48000014 ∨ a = 0x48000018) ∧ jobDeclared s then s else plainStore s a v

def clearHidden (s : State) : State := setNotElig s 13 false
def storeTwn (s : State) (a : Nat) (v : Word) : State :=
  let s := plainStore s a v
  if a = 0x49000000 && v.getLsbD 6 then clearHidden s else s

def storeMbg (s : State) (a : Nat) (v : Word) : State := if a = 0x4A000004 then mbClear s v else plainStore s a v

/-- A store of a steward to its bank of trace stations (R379). -/
def storeTrace (s : State) (k : Fin 8) (a : Nat) (v : Word) : State :=
  if a = 0x4A000054 then trGo s k (v.setWidth 16)
  else modStw s k (fun w => { w with trace :=
    (let b := w.trace
     if a = 0x4A000040 then { b with pmLo := v }
     else if a = 0x4A000044 then { b with pmHi := v }
     else if a = 0x4A000048 then { b with d0 := v }
     else if a = 0x4A00004C then { b with d1 := v }
     else { b with d2 := v }) })

def storeTime (s : State) (a : Nat) (v : Word) : State :=
  match tmcUnit a with
  | some u =>
    let s := plainStore s a v
    if a = (F.TIME_TMC_CTL_ARM u).addr then tmcCtl s u v else s
  | none =>
    if 0x4B000014 ≤ a ∧ a < 0x4B000020 then setStnWord s a (wNat (clampInc v.toNat))
    else if 0x4B000034 ≤ a ∧ a < 0x4B000040 then tbStep s (Fin.ofNat 4 ((a - 0x4B000030) / 4)) v
    else plainStore s a v

/-- The stations of axis `x` at offset `o`; only the active's generators take the commands (R426). -/
def storeAxis (s : State) (x : Fin 4) (o a : Nat) (v : Word) : State :=
  if o = 0x10 then
    if isActive s then
      if motIgnores s x then noteIgnored s x else motTargetWrite (plainStore s a v) x v
    else plainStore s a v
  else if o = 0x2C then
    let s := plainStore s a v
    if v.getLsbD 16 && isActive s then segGoWrite s x else s
  else if o = 0x48 then (if isActive s then setPosWrite s x v else s)
  else if o = 0x54 then
    let s := plainStore s a v
    if isActive s then axCmpCtl s x v else s
  else plainStore s a v

/-- Unit 7 starts the motion cycles with PERIOD = MOT_CTL.CYCLE_US (R405). -/
def cyclePeriod (s : State) : State := setFld s (F.TIME_PERIOD 7) (cycleUs s * 1000)

def storeMot (s : State) (a : Nat) (v : Word) : State :=
  if a = 0x4C000000 then
    if isActive s && motCtlIgnored s v then setFldB s F.MOT_GSTAT_IGNORED true else cyclePeriod (plainStore s a v)
  else if a = 0x4C000018 then (if isActive s then motCmd s v else s)
  else if 0x4C000100 ≤ a ∧ a < 0x4C000300 then
    storeAxis s (Fin.ofNat 4 ((a - 0x4C000100) / 0x80)) ((a - 0x4C000100) % 0x80) a v
  else plainStore s a v

def storeDram (s : State) (a : Nat) (v : Word) : State :=
  let s := plainStore s a v
  if a = 0x4D000004 && v.getLsbD 4 then freqGo s else s

def storeDma (s : State) (a : Nat) (v : Word) : State :=
  match dmaChannelOf a with
  | some c =>
    let o := a % 0x40
    if o = 0x00 then dmaCtl s c v
    else if o = 0x04 ∨ o = 0x08 then dmaRingBase s c a v
    else if o = 0x0C then dmaHead s c v
    else plainStore s a v
  | none => if a = 0x4E000000 then dmaSwreq s v else plainStore s a v

def storeLane (s : State) (a : Nat) (v : Word) : State :=
  let l : Fin 42 := Fin.ofNat 42 ((a - 0x4F000100) / 0x40)
  let o := (a - 0x4F000100) % 0x40
  if o = 0x00 then laneCtl s l v
  else if o = 0x04 then setStnWord s a (laneTxStored v)
  else plainStore s a v

/-- PWR: unit 6 starts the housekeeping rounds with PERIOD = HK_PERIOD × 0.25 ms (R488). -/
def storePwr (s : State) (a : Nat) (v : Word) : State :=
  let s := plainStore s a v
  if a = 0x50000024 then setFld s (F.TIME_PERIOD 6) (hkPeriodNs s) else s

def storePodpwr (s : State) (a : Nat) (v : Word) : State :=
  if a = 0x51000000 then hvWrite s v
  else if a = 0x51000008 then journalPower (plainStore s a v)
  else plainStore s a v

/-- The effect of an immediate store that passed its checks. -/
def storeEffect (s : State) (a : Nat) (v : Word) : State :=
  match (a - 0x40000000) / 0x1000000 with
  | 2 => if a = 0x42000000 then pkrJobWrite s v else plainStore s a v
  | 3 => storeScr s a v
  | 5 => storePlc s a v
  | 6 => storePodl s a v
  | 7 => storeSight s a v
  | 8 => storeHlt s a v
  | 9 => storeTwn s a v
  | 10 => storeMbg s a v
  | 11 => storeTime s a v
  | 12 => storeMot s a v
  | 13 => storeDram s a v
  | 14 => storeDma s a v
  | 15 => storeLane s a v
  | 16 => storePwr s a v
  | 17 => storePodpwr s a v
  | _ => plainStore s a v

/-- A changed kept value waits for the next settings commit (R505). -/
def noteKept (s s' : State) (a : Nat) : State :=
  match stnRow a with
  | some r => if r.kept != 0 && stnWord s a != stnWord s' a then { s' with therm := { s'.therm with dirty := true } } else s'
  | none => s'

/-- A store to a mirrored group is journaled (R522). -/
def journalStore (s : State) (a : Nat) (v : Word) : State :=
  if stnClass a == .mirrored then journal s (.stn a v) else s

/-- STATION_STORE: an immediate store that passed its checks; `k` is the steward that stores, if one does. -/
def storeStation (s : State) (k : Option (Fin 8)) (a : Nat) (v : Word) : State :=
  if bankedStation a then (match k with
    | some k => storeTrace s k a v
    | none => s)
  else
    let s := { s with hiw := s.hiw.filter (fun e => e.1 != a) }
    noteKept s (storeEffect (journalStore s a v) a v) a

/-- An immediate store to a vector station: threshold arrays by R208, Sight tables into the shadow set (R298). -/
def storeVec (s : State) (a : Nat) (v : Vec) : State :=
  let s := journal s (.vstn a v)
  match vView a with
  | some (.thr _ _ _) =>
    if jobDeclared s then setFldB s F.SCR_THR_IGNORED true
    else setFldB (setVec s a v) F.THM_STAT_BULK_DIRTY true
  | some (.sight _ _) => setFldB (setVec s a v) F.THM_STAT_BULK_DIRTY true
  | _ => s

/-! ## The commands that are station writes -/

/-- The device takes station writes: it is ready (R516). -/
def takesStores (s : State) : Bool := s.boot.phase == .ready
def storeCmd (s : State) (a : Nat) (v : Word) : Res := .next (if takesStores s then storeStation s none a v else s)

/-- A store reaches its station: without a steward, or with one whose claims cover it (R74, R524). -/
def actStationStore (k : Option (Fin 8)) (addr v : Word) (s : State) : Res :=
  .next (if takesStores s && immediateOk addr.toNat && mayStore s k addr.toNat then storeStation s k addr.toNat v else s)

def execPagecmpArm (v : Word) (s : State) : Res := storeCmd s F.PLC_PAGECMP_HI.addr (v ||| 0x20000)
def execPodlEnable (p : Fin 24) (s : State) : Res :=
  storeCmd s (F.PODL_CTL_ENABLE p).addr (stnWord s (F.PODL_CTL_ENABLE p).addr ||| 1)
def execPodlPurgeGo (v : Word) (s : State) : Res := storeCmd s F.PODL_PURGE_GO_POD.addr v
def execCamEnable (n : Fin 4) (s : State) : Res :=
  storeCmd s (F.SIGHT_CAM_CTL_ENABLE n).addr (stnWord s (F.SIGHT_CAM_CTL_ENABLE n).addr ||| 1)
def execCtxCommit (n : Fin 4) (s : State) : Res := storeCmd s (F.SIGHT_CTX_COMMIT n).addr 1
def execExpGo (n : Fin 4) (s : State) : Res := storeCmd s (F.SIGHT_EXP_GO n).addr 1
def execTbStep (b : Fin 4) (v : Word) (s : State) : Res :=
  if b = 0 then .next s else storeCmd s (F.TIME_TB_STEP b).addr v
def execTmcArm (u : Fin 8) (v : Word) (s : State) : Res := storeCmd s (F.TIME_TMC_CTL_ARM u).addr (v ||| 8)
def execTmcDisarm (u : Fin 8) (s : State) : Res :=
  storeCmd s (F.TIME_TMC_CTL_ARM u).addr ((stnWord s (F.TIME_TMC_CTL_ARM u).addr ||| 0x40) &&& ~~~ 8)
def execMotTarget (x : Fin 4) (v : Word) (s : State) : Res := storeCmd s (F.MOT_TARGET x).addr v
def execSegGo (x : Fin 4) (v : Word) (s : State) : Res := storeCmd s (F.MOT_SEG_CTL_GO x).addr (v ||| 0x10000)
def execMotStop (mask : BitVec 4) (s : State) : Res := storeCmd s F.MOT_CMD_STOP.addr (mask.setWidth 32)
def execMotRetract (s : State) : Res := storeCmd s F.MOT_CMD_RETRACT.addr 0x10
def execRetractRelease (s : State) : Res := storeCmd s F.MOT_GSTAT_RETRACT.addr 1
def execSetPos (x : Fin 4) (v : Word) (s : State) : Res := storeCmd s (F.MOT_SET_POS x).addr v
def execLiftLockWrite (v : Word) (s : State) : Res := storeCmd s F.MOT_CTL_LIFT_LOCK.addr v
def execAxisCmpArm (x : Fin 4) (v : Word) (s : State) : Res := storeCmd s (F.MOT_CMP_CTL_ARM x).addr (v ||| 1)
def execAxisCmpDisarm (x : Fin 4) (s : State) : Res :=
  storeCmd s (F.MOT_CMP_CTL_ARM x).addr ((stnWord s (F.MOT_CMP_CTL_ARM x).addr ||| 0x10) &&& ~~~ 1)
def execDramFreqGo (v : Word) (s : State) : Res := storeCmd s F.DRAM_FREQ_GO.addr (v ||| 0x10)
def execDmaHeadWrite (c : Fin 16) (v : Word) (s : State) : Res := storeCmd s (F.DMA_HEAD c).addr v
def execDmaRun (c : Fin 16) (s : State) : Res :=
  storeCmd s (F.DMA_CH_CTL_RUN c).addr (stnWord s (F.DMA_CH_CTL_RUN c).addr ||| 1)
def execDmaAbort (c : Fin 16) (s : State) : Res :=
  storeCmd s (F.DMA_CH_CTL_RUN c).addr (stnWord s (F.DMA_CH_CTL_RUN c).addr &&& ~~~ 1)
def execDmaPause (c : Fin 16) (s : State) : Res :=
  storeCmd s (F.DMA_CH_CTL_RUN c).addr (stnWord s (F.DMA_CH_CTL_RUN c).addr ||| 2)
def execDmaResume (c : Fin 16) (s : State) : Res :=
  storeCmd s (F.DMA_CH_CTL_RUN c).addr (stnWord s (F.DMA_CH_CTL_RUN c).addr &&& ~~~ 2)
def execDmaSwreq (v : Word) (s : State) : Res := storeCmd s F.DMA_SWREQ.addr v
def execLaneTest (l : Fin 42) (v : Word) (s : State) : Res := storeCmd s (F.LANE_CTL_TEST l).addr (v ||| 4)
def execLaneChk (l : Fin 42) (s : State) : Res :=
  storeCmd s (F.LANE_CTL_CHK l).addr (stnWord s (F.LANE_CTL_CHK l).addr ||| 0x80)
def execHvEnWrite (v : Word) (s : State) : Res := storeCmd s F.PODPWR_HV_EN.addr v
def actClearHidden (s : State) : Res :=
  storeCmd s F.TWN_CFG_CLEAR_HIDDEN.addr (stnWord s F.TWN_CFG_CLEAR_HIDDEN.addr ||| 0x40)

end Sys2Proof.Machine
end

