-- ==== Sys2Proof/Machine/Hamper.lean ====
section
/-! DEFINITION. Frames of the twin link: postcards, hampers and bulk frames as they are sent (R332, R337 to R339,
R342). -/
namespace Sys2Proof.Machine
open Sys2Proof

/-! ## Sending on the twin link (R337) -/

/-- The header that stands beside a twin frame in the replay buffer; twin frames carry no envelope. -/
def twinEnv : Env :=
  { west := false, dest := 0, src := 0, cls := 0, stream := 0, kind := 0, seq := 0, hops := 0, retx := false,
    wrapped := false, first := true, last := true, bad := false, aux := 0 }

/-- The same beside a bulk frame, which lets a waiting hamper pass. -/
def bulkEnv : Env := { twinEnv with cls := 2 }

/-- A frame enters its space of the twin link with its bytes; its contents go out with it. -/
def sendTwin (s : State) (sp : Space) (e : Env) (bytes : List Byte) (o : Out) : State :=
  emit (queueFrame s .twin sp e bytes) o

/-- `n` bytes of twin-link content whose layout no rule states: free values. -/
def layoutBytes (n : Nat) : List Byte := (List.range n).map Config.layoutByte

/-- SILENCE_US in force (R361). -/
def silenceUs (s : State) : Nat := within 2 20 (fld s F.TWN_CFG_SILENCE_US)

/-! ## Postcards (R332) -/

/-- The postcard this device sends now. -/
def ownPostcard (s : State) (release : Bool) : Postcard :=
  { pairPos := s.boot.strap, role := BitVec.ofNat 2 (roleNum s.twin.role), joined := s.twin.joined,
    eligible := selfEligible s, release := release, hbSeen := s.twin.pinLive, notElig := reasons s,
    epoch := s.twin.epoch, hseq := s.twin.hseq, bseq := if isActive s then s.twin.bseqOut else s.twin.bseqIn,
    pcseq := s.twin.pcseq + 1, tbPress := tbVal s 0, pair := BitVec.ofNat 8 (s.therm.pair.getD 0xFF).toNat,
    version := residentVersion s }

/-- Its 32 bytes. -/
def postcardBytes (c : Postcard) : List Byte :=
  [0x01, BitVec.ofNat 8 (c.role.toNat + bit c.joined 2 + bit c.eligible 3 + bit c.release 4 + bit c.hbSeen 5)]
    ++ leBytes 2 c.notElig.toNat ++ leBytes 4 c.epoch.toNat ++ leBytes 4 c.hseq.toNat ++ leBytes 4 c.bseq.toNat
    ++ leBytes 4 c.pcseq.toNat ++ leBytes 4 c.tbPress.toNat ++ leBytes 4 (c.pair.toNat + bit c.pairPos 8)
    ++ leBytes 4 c.version.toNat

/-- Postcards are sent from readiness on, in every role (R331). -/
def sendPostcard (s : State) (release : Bool) : State :=
  if s.boot.phase = .ready then
    let c := ownPostcard s release
    sendTwin { s with twin := { s.twin with pcseq := c.pcseq } } .express twinEnv (postcardBytes c) (.postcard c)
  else s

/-! ## The sections of a hamper (R338, R339) -/

/-- The kind of the section that holds an effect. -/
def sectionKind : JEntry → Nat
  | .place _ _ _ => 0x01
  | .skip _ _ => 0x02
  | .stn _ _ => 0x03
  | .vstn _ _ => 0x04
  | .lq _ _ _ => 0x05
  | .vlq _ _ _ => 0x06
  | .mapAct _ _ => 0x07
  | .mapRet _ => 0x07
  | .hlt _ => 0x08
  | .round _ _ _ _ _ => 0x09
  | .scratch _ _ _ => 0x0A
  | .motion _ _ _ => 0x0B
  | .power _ _ _ => 0x0C
  | .jobDecl _ => 0x0D
  | .jobEnd _ => 0x0D
  | .ctxCommit _ _ => 0x0E
  | .expGo _ _ => 0x0E
  | .pods _ _ _ => 0x0F
  | .load _ => 0x10
  | .unload _ => 0x10
  | .halt _ => 0x10
  | .restart _ => 0x10
  | .bulk _ _ _ => 0x11

/-- A conditional health write: line, entry, from-STATE, new STATE, GAIN and its valid bit. -/
def hltBytes (e : LqEntry) : Option (List Byte) :=
  match e.data with
  | .health n from0 to0 g _ _ _ _ =>
    some (leBytes 4 e.line ++ leBytes 4 n ++ [BitVec.ofNat 8 from0, BitVec.ofNat 8 to0, g.getD 0, if g.isSome then 1 else 0])
  | _ => none

/-- The bytes of an effect in its section, where R338 states them. -/
def statedBytes : JEntry → Option (List Byte)
  | .skip l cs => some (leBytes 4 l ++ leBytes 24 ((cs.eraseDups.map (fun c => 2 ^ c)).sum))
  | .stn a v => some (leBytes 4 a ++ leBytes 4 v.toNat)
  | .vstn a v => some (leBytes 4 a ++ leBytes 32 v.toNat)
  | .lq l a v => some (leBytes 4 l ++ leBytes 4 a ++ leBytes 4 v.toNat)
  | .vlq l a v => some (leBytes 4 l ++ leBytes 4 a ++ leBytes 32 v.toNat)
  | .hlt e => hltBytes e
  | .scratch k chunk v => some ([BitVec.ofNat 8 k.val, BitVec.ofNat 8 chunk, 0, 0] ++ leBytes 32 v.toNat)
  | .bulk src stream seq => some ([src, stream.setWidth 8, 0, 0] ++ leBytes 4 seq.toNat)
  | _ => none

/-- The bytes of an effect in its section. The sections whose layout no rule states take free bytes: at most 56 for an
effect, the room that R339 leaves an express letter's stream change and outcome record beside its LQ section (log
entry 21). -/
def entryBytes (e : JEntry) : List Byte := (statedBytes e).getD (layoutBytes (Config.entryLen (sectionKind e) % 57))

/-- One section: KIND, 0, LEN, its content, zeros up to a multiple of 4. -/
def sectionOf (kind : Nat) (content : List Byte) : List Byte :=
  [BitVec.ofNat 8 kind, 0] ++ leBytes 2 content.length ++ content ++ List.replicate ((4 - content.length % 4) % 4) 0

/-- The sections of these effects: each kind once, in the order of R338's table. -/
def sectionsOf (es : List JEntry) : List (List Byte) :=
  (List.range 18).filterMap (fun k =>
    let own := es.filter (fun e => sectionKind e == k)
    if own.isEmpty then none else some (sectionOf k (own.flatMap entryBytes)))

/-- The bytes of these effects in a hamper. -/
def fillBytes (es : List JEntry) : Nat := (sectionsOf es).flatten.length

/-- The filling hamper has room for a letter other than express: its effects leave the express reserve free (R339). -/
def fillRoom (s : State) : Bool := decide (fillBytes s.twin.fill - s.twin.fillX ≤ 12288 - 1024)

/-! ## Closing (R338) -/

/-- Each row's first line that it has not fired; with FINAL, the first for which no FIRE was sent (R236, R353). -/
def placeNext (s : State) (final : Bool) : List Nat :=
  (List.range 192).map (fun i =>
    let n := s.plc2.nextFire[Fin.ofNat 192 i]
    if final then
      ((s.pods.lines.filter (fun x => (rowIx x.p x.r).val == i && x.done)).map (fun x => x.l + 1)).foldl Nat.max n
    else n)

/-- The placement fields (R236). -/
def placeSnap (s : State) (final : Bool) : PlaceSnap :=
  { anchors := s.plc.anchors, wmax := s.plc.wmax.getD 0, nextLine := placeNext s final, credits := s.scr.credit.toList,
    hist := s.scr.hist.toList, pages := (match s.jobs.running with | some j => j.pages | none => []),
    cmp := s.plc2.cmp, cmpBelow := s.plc2.cmpBelow, cueW := s.plc2.cueW }

/-- The PLACE section (R236). -/
def placeSection (s : State) (final : Bool) : JEntry :=
  .place (s.plc.scLine.getD 0) (tbVal s 0).toNat (placeSnap s final)

/-- The PODS section (R273, R338). -/
def podsSections (s : State) : List JEntry :=
  (podsFin s).map (fun p => .pods p (BitVec.ofNat 32 (fld s (F.PODL_COAST p))) (BitVec.ofNat 32 (fld s (F.PODL_EPOCH p))))

/-- The 32-byte header (R338). -/
def hamperHead (h : Hamper) (nsec : Nat) : List Byte :=
  [0x02, BitVec.ofNat 8 (bit h.final 0 + bit h.timed 1 + bit h.early 2)] ++ leBytes 2 nsec ++ leBytes 4 h.hseq.toNat
    ++ leBytes 4 h.epoch.toNat ++ leBytes 4 h.line.toNat ++ leBytes 4 h.tbPress.toNat ++ leBytes 4 h.horizon.toNat
    ++ leBytes 4 h.pend.toNat ++ leBytes 4 h.jobId.toNat

/-- The whole content of a hamper. -/
def hamperBytes (h : Hamper) : List Byte :=
  let secs := sectionsOf h.entries
  hamperHead h secs.length ++ secs.flatten

/-- HAMPER_CLOSE: the hamper that fills is closed and sent, and the next one is empty.  Its size is held to the most that
R339 allows: the free sizes of PLACE, MOTION and PODS are not checked against it (log entry 21). -/
def closeHamper (s : State) (final timed early : Bool) : State :=
  if mirrors s then
    let es := s.twin.fill ++ [placeSection s final, motionSection s] ++ podsSections s
    let h : Hamper :=
      { final := final, timed := timed, early := early, hseq := s.twin.hseq + 1, epoch := s.twin.epoch, line := scLine s,
        tbPress := tbVal s 0, horizon := BitVec.ofNat 32 (fld s F.SCR_HORIZON), pend := BitVec.ofNat 32 (fld s F.SCR_PEND),
        jobId := (match s.jobs.running with | some j => BitVec.ofNat 32 j.decl.jobId | none => 0),
        bytes := Nat.min 12288 (32 + fillBytes es), entries := es }
    let s := { s with twin := { s.twin with
      hseq := h.hseq, sent := s.twin.sent ++ [h], fill := [], fillX := 0 } }
    let s := setFld s F.TWN_HSIZE_LAST h.bytes
    let s := setFld s F.TWN_HSIZE_MAX (Nat.max (fld s F.TWN_HSIZE_MAX) h.bytes)
    let s := sendTwin s .ordinary twinEnv (hamperBytes h) (.hamper h)
    auxPulse s 9 s.clk.now
  else { s with twin := { s.twin with fill := [], fillX := 0 } }

/-! ## Bulk frames (R337, R342) -/

/-- The bytes of page records; of a piece whose layout no rule states, the model counts the words of its numbers (log
entry 116). -/
def pageWords (ps : List Page) : Nat := 24 * ps.length

/-- The content bytes of a piece of bulk content. -/
def bulkSize : Bulk → Nat
  | .dram _ data => 8 + data.length
  | .firmware im => im.length
  | .peerWrite ws => 8 * ws.length
  | .stations ws vs => 8 * ws.length + 36 * vs.length
  | .mapCopy kept slots => 8 * kept.length + 8 * slots.length
  | .version _ _ kept slots stn => 8 + 8 * kept.length + 8 * slots.length + 8 * stn.length
  | .queue es => 40 * es.length
  | .streams rs => 32 * rs.length
  | .jobs r n _ => 2048 + pageWords ((r.map (fun x => x.pages)).getD [] ++ (n.map (fun x => x.pages)).getD [])
  | .sight sets exps => (sets.map (fun x => 8 * x.words.length + 36 * x.tabs.length)).sum + 16 * exps.length
  | .image im => 32 + 8 * im.claims.length + im.code.length + im.data.length
  | .libRow _ _ data => 8 + data.length
  | .ranges rs => 12 * rs.length
  | .snapshotEnd => 4

/-- The most content of a bulk frame beside its TYPE byte (R337). -/
def bulkMax : Nat := 4095

/-- The frames a piece of bulk content is cut into (R337). -/
def bulkFrames (b : Bulk) : Nat := Nat.max 1 ((bulkSize b + bulkMax - 1) / bulkMax)

/-- Send one frame of a piece of bulk content. -/
def sendBulkFrame (b : Bulk) (n : Nat) (s : State) (i : Nat) : State :=
  sendTwin { s with twin := { s.twin with bseqOut := s.twin.bseqOut + 1 } } .ordinary bulkEnv
    (0x03 :: layoutBytes (Nat.min bulkMax (bulkSize b - bulkMax * i))) (.bulk b i n)

/-- Send a piece of bulk content. -/
def sendBulk (s : State) (b : Bulk) : State := (List.range (bulkFrames b)).foldl (sendBulkFrame b (bulkFrames b)) s

/-- `data` in pieces of at most 4,080 bytes, so that a frame with its header stays within 4,096; `n` bounds them. -/
def bulkPieces (addr : Nat) : Nat → List Byte → List Bulk
  | 0, _ => []
  | _, [] => []
  | n + 1, b :: bs => .dram addr ((b :: bs).take 4080) :: bulkPieces (addr + 4080) n ((b :: bs).drop 4080)

def sendDram (s : State) (addr : Nat) (data : List Byte) : State :=
  (bulkPieces addr (data.length / 4080 + 1) data).foldl sendBulk s

/-! ## Ranges of mirrored DRAM_WRITE letters (R342, R359) -/

/-- Add a range, merged with those it meets; newest last. -/
def addRange (rs : List (Nat × Nat)) (a n : Nat) : List (Nat × Nat) :=
  let meets := rs.filter (fun r => decide (r.1 ≤ a + n) && decide (a ≤ r.1 + r.2))
  let lo := meets.foldl (fun m r => Nat.min m r.1) a
  let hi := meets.foldl (fun m r => Nat.max m (r.1 + r.2)) (a + n)
  rs.filter (fun r => !(decide (r.1 ≤ a + n) && decide (a ≤ r.1 + r.2))) ++ [(lo, hi - lo)]

def rangesFit (rs : List (Nat × Nat)) : Bool :=
  decide (rs.length ≤ 16) && decide ((rs.map (fun r => r.2)).sum ≤ 2 ^ 28)

/-- Drop the oldest ranges until the rest fits. -/
def trimRanges : List (Nat × Nat) → List (Nat × Nat)
  | [] => []
  | r :: rs => if rangesFit (r :: rs) then r :: rs else trimRanges rs

/-- Track a range; the active that must drop one raises mirror-range. -/
def trackRange (s : State) (a n : Nat) : State :=
  let rs := addRange s.twin.ranges a n
  let s1 := { s with twin := { s.twin with ranges := trimRanges rs } }
  if rangesFit rs then s1 else if isActive s then alarm s1 251 [] else s1

end Sys2Proof.Machine
end

