-- ==== Sys2Proof/Machine/Signature.lean ====
section
/-! DEFINITION. The signatures of firmware images (R509, R510): SHA-384 and the verification of ECDSA over P-384.  The
spec names them by FIPS 186-5 and does not write them out; the numbers and the steps below are the standard's
(PRESUMED, log entry 13). -/
namespace Sys2Proof.Machine

/-! ## SHA-384 -/

/-- The initial hash value of SHA-384. -/
def shaInit : List (BitVec 64) :=
  [0xCBBB9D5DC1059ED8, 0x629A292A367CD507, 0x9159015A3070DD17, 0x152FECD8F70E5939, 0x67332667FFC00B31,
    0x8EB44A8768581511, 0xDB0C2E0D64F98FA7, 0x47B5481DBEFA4FA4]

/-- The round constants of the SHA-512 family. -/
def shaRoundWords : List (BitVec 64) :=
  [0x428A2F98D728AE22, 0x7137449123EF65CD, 0xB5C0FBCFEC4D3B2F, 0xE9B5DBA58189DBBC, 0x3956C25BF348B538,
    0x59F111F1B605D019, 0x923F82A4AF194F9B, 0xAB1C5ED5DA6D8118, 0xD807AA98A3030242, 0x12835B0145706FBE]
  ++ [0x243185BE4EE4B28C, 0x550C7DC3D5FFB4E2, 0x72BE5D74F27B896F, 0x80DEB1FE3B1696B1, 0x9BDC06A725C71235,
    0xC19BF174CF692694, 0xE49B69C19EF14AD2, 0xEFBE4786384F25E3, 0x0FC19DC68B8CD5B5, 0x240CA1CC77AC9C65]
  ++ [0x2DE92C6F592B0275, 0x4A7484AA6EA6E483, 0x5CB0A9DCBD41FBD4, 0x76F988DA831153B5, 0x983E5152EE66DFAB,
    0xA831C66D2DB43210, 0xB00327C898FB213F, 0xBF597FC7BEEF0EE4, 0xC6E00BF33DA88FC2, 0xD5A79147930AA725]
  ++ [0x06CA6351E003826F, 0x142929670A0E6E70, 0x27B70A8546D22FFC, 0x2E1B21385C26C926, 0x4D2C6DFC5AC42AED,
    0x53380D139D95B3DF, 0x650A73548BAF63DE, 0x766A0ABB3C77B2A8, 0x81C2C92E47EDAEE6, 0x92722C851482353B]
  ++ [0xA2BFE8A14CF10364, 0xA81A664BBC423001, 0xC24B8B70D0F89791, 0xC76C51A30654BE30, 0xD192E819D6EF5218,
    0xD69906245565A910, 0xF40E35855771202A, 0x106AA07032BBD1B8, 0x19A4C116B8D2D0C8, 0x1E376C085141AB53]
  ++ [0x2748774CDF8EEB99, 0x34B0BCB5E19B48A8, 0x391C0CB3C5C95A63, 0x4ED8AA4AE3418ACB, 0x5B9CCA4F7763E373,
    0x682E6FF3D6B2B8A3, 0x748F82EE5DEFB2FC, 0x78A5636F43172F60, 0x84C87814A1F0AB72, 0x8CC702081A6439EC]
  ++ [0x90BEFFFA23631E28, 0xA4506CEBDE82BDE9, 0xBEF9A3F7B2C67915, 0xC67178F2E372532B, 0xCA273ECEEA26619C,
    0xD186B8C721C0C207, 0xEADA7DD6CDE0EB1E, 0xF57D4F7FEE6ED178, 0x06F067AA72176FBA, 0x0A637DC5A2C898A6]
  ++ [0x113F9804BEF90DAE, 0x1B710B35131C471B, 0x28DB77F523047D84, 0x32CAAB7B40C72493, 0x3C9EBE0A15C9BEBC,
    0x431D67C49C100D4C, 0x4CC5D4BECB3E42B6, 0x597F299CFC657E2A, 0x5FCB6FAB3AD6FAEC, 0x6C44198C4A475817]

def rotr64 (x : BitVec 64) (n : Nat) : BitVec 64 := (x >>> n) ||| (x <<< (64 - n))
def shaSmall0 (x : BitVec 64) : BitVec 64 := rotr64 x 1 ^^^ rotr64 x 8 ^^^ (x >>> 7)
def shaSmall1 (x : BitVec 64) : BitVec 64 := rotr64 x 19 ^^^ rotr64 x 61 ^^^ (x >>> 6)
def shaBig0 (x : BitVec 64) : BitVec 64 := rotr64 x 28 ^^^ rotr64 x 34 ^^^ rotr64 x 39
def shaBig1 (x : BitVec 64) : BitVec 64 := rotr64 x 14 ^^^ rotr64 x 18 ^^^ rotr64 x 41

/-- One round: the eight working words, and the window of the next sixteen schedule words. -/
def shaRound (x : List (BitVec 64) × List (BitVec 64)) (k : BitVec 64) : List (BitVec 64) × List (BitVec 64) :=
  match x.1 with
  | [a, b, c, d, e, f, g, h] =>
    let w := fun i : Nat => x.2.getD i 0
    let t1 := h + shaBig1 e + ((e &&& f) ^^^ (~~~ e &&& g)) + k + w 0
    let t2 := shaBig0 a + ((a &&& b) ^^^ (a &&& c) ^^^ (b &&& c))
    ([t1 + t2, a, b, c, d + t1, e, f, g], x.2.drop 1 ++ [shaSmall1 (w 14) + w 9 + shaSmall0 (w 1) + w 0])
  | _ => x

/-- A number from big-endian bytes. -/
def beNat (bs : List Byte) : Nat := bs.foldl (fun n b => n * 256 + b.toNat) 0
/-- A number as `n` big-endian bytes. -/
def beBytes (n x : Nat) : List Byte := (List.range n).map (fun i => BitVec.ofNat 8 (x / 2 ^ (8 * (n - 1 - i))))

/-- One block of 128 bytes. -/
def shaBlock (h : List (BitVec 64)) (bs : List Byte) : List (BitVec 64) :=
  let ws := (List.range 16).map (fun i => BitVec.ofNat 64 (beNat ((bs.drop (8 * i)).take 8)))
  h.zipWith (· + ·) (shaRoundWords.foldl shaRound (h, ws)).1

/-- `n` blocks, one after another. -/
def shaBlocks : Nat → List (BitVec 64) → List Byte → List (BitVec 64)
  | 0, h, _ => h
  | n + 1, h, bs => shaBlocks n (shaBlock h (bs.take 128)) (bs.drop 128)

/-- The padded message: a 1 bit, zeros, and its length in bits in the last 16 bytes. -/
def shaPad (bs : List Byte) : List Byte :=
  let n := bs.length
  bs ++ (0x80 : Byte) :: List.replicate ((239 - n % 128) % 128) 0 ++ beBytes 16 (8 * n)

/-- SHA-384, 48 bytes. -/
def sha384 (bs : List Byte) : List Byte :=
  let m := shaPad bs
  ((shaBlocks (m.length / 128) shaInit m).take 6).flatMap (fun w => beBytes 8 w.toNat)

/-! ## ECDSA over P-384 -/

/-- The prime of the field, the order of the base point, the curve's b and the base point. -/
def p384 : Nat := 2 ^ 384 - 2 ^ 128 - 2 ^ 96 + 2 ^ 32 - 1
def p384Order : Nat :=
  0xFFFFFFFFFFFFFFFFFFFFFFFFFFFFFFFFFFFFFFFFFFFFFFFFC7634D81F4372DDF581A0DB248B0A77AECEC196ACCC52973
def p384B : Nat :=
  0xB3312FA7E23EE7E4988E056BE3F82D19181D9C6EFE8141120314088F5013875AC656398D8A2ED19D2A85C8EDD3EC2AEF
def p384Gx : Nat :=
  0xAA87CA22BE8B05378EB1C71EF320AD746E1D3B628BA79B9859F741E082542A385502F25DBF55296C3A545E3872760AB7
def p384Gy : Nat :=
  0x3617DE4A96262C6F5D9E98BF9292DC29F8F41DBD289A147CE9DA3113B5F0B8C00A60B1CE1D7E819D7A431D7C90EA0E5F

def fmul (a b : Nat) : Nat := a * b % p384
def fadd (a b : Nat) : Nat := (a + b) % p384
def fsub (a b : Nat) : Nat := (a + (p384 - b % p384)) % p384

/-- `b` to the power `e` modulo `m`, for an exponent of 384 bits. -/
def powMod (m b e : Nat) : Nat :=
  ((List.range 384).reverse).foldl (fun x i => if e.testBit i then x * x % m * b % m else x * x % m) 1

/-- A point by the coordinates X / Z², Y / Z³; Z = 0 is the point at infinity. -/
abbrev CurvePoint := Nat × Nat × Nat

def pointDouble (q : CurvePoint) : CurvePoint :=
  let (x, y, z) := q
  let dd := fmul z z
  let g := fmul y y
  let b := fmul x g
  let a := fmul 3 (fmul (fsub x dd) (fadd x dd))
  let x3 := fsub (fmul a a) (8 * b)
  (x3, fsub (fmul a (fsub (4 * b) x3)) (8 * fmul g g), fmul 2 (fmul y z))

def pointAdd (q r : CurvePoint) : CurvePoint :=
  let (x1, y1, z1) := q
  let (x2, y2, z2) := r
  if z1 = 0 then r
  else if z2 = 0 then q
  else
    let u1 := fmul x1 (fmul z2 z2)
    let u2 := fmul x2 (fmul z1 z1)
    let s1 := fmul y1 (fmul z2 (fmul z2 z2))
    let s2 := fmul y2 (fmul z1 (fmul z1 z1))
    let h := fsub u2 u1
    let w := fsub s2 s1
    if h = 0 then (if w = 0 then pointDouble q else (1, 1, 0))
    else
      let h2 := fmul h h
      let h3 := fmul h2 h
      let v := fmul u1 h2
      let x3 := fsub (fmul w w) (h3 + 2 * v)
      (x3, fsub (fmul w (fsub v x3)) (fmul s1 h3), fmul h (fmul z1 z2))

/-- The sum of `a` times `q` and `b` times `r`. -/
def pointSum (a b : Nat) (q r : CurvePoint) : CurvePoint :=
  let both := pointAdd q r
  ((List.range 384).reverse).foldl (fun x i =>
    let x := pointDouble x
    match a.testBit i, b.testBit i with
    | true, true => pointAdd x both
    | true, false => pointAdd x q
    | false, true => pointAdd x r
    | false, false => x) (1, 1, 0)

/-- A point of the curve that is not at infinity, in SEC1's uncompressed form of 97 bytes. -/
def keyPoint (key : List Byte) : Option CurvePoint :=
  let x := beNat ((key.drop 1).take 48)
  let y := beNat (key.drop 49)
  if key.length = 97 ∧ key.head? = some 0x04 ∧ x < p384 ∧ y < p384
      ∧ fmul y y = fadd (fsub (fmul x (fmul x x)) (3 * x)) p384B then some (x, y, 1)
  else none

/-- The signature `r ‖ s` (96 bytes) of a message verifies under the key. -/
def ecdsaVerify (key msg sig : List Byte) : Bool :=
  let r := beNat (sig.take 48)
  let s := beNat (sig.drop 48)
  match keyPoint key with
  | none => false
  | some q =>
    if sig.length = 96 ∧ 1 ≤ r ∧ r < p384Order ∧ 1 ≤ s ∧ s < p384Order then
      let w := powMod p384Order s (p384Order - 2)
      let t := pointSum (beNat (sha384 msg) * w % p384Order) (r * w % p384Order) (p384Gx, p384Gy, 1) q
      if t.2.2 = 0 then false
      else
        let i := powMod p384 t.2.2 (p384 - 2)
        decide (fmul t.1 (fmul i i) % p384Order = r)
    else false

end Sys2Proof.Machine
end

