-- ==== Sys2Proof/Machine/Thermos.lean ====
section
/-! DEFINITION. The thermos: commits, the map journal and its folding, firmware images and keys (R500 to R513,
R323). -/
namespace Sys2Proof.Machine
open Sys2Proof

/-! ## Settings commits (R504 to R507) -/

/-- The kept bits of a station word; the other bits as after a reset. -/
def keptWord (a : Nat) (w : Word) : Word :=
  match stnRow a with
  | some r => (w &&& BitVec.ofNat 32 r.kept) ||| (stnInit a &&& ~~~ BitVec.ofNat 32 r.kept)
  | none => stnInit a

/-- The kept station words that differ from their factory values. -/
def keptSmall (s : State) : List (Nat × Word) :=
  s.stn.filterMap (fun e => if keptWord e.1 e.2 = stnInit e.1 then none else some (e.1, keptWord e.1 e.2))

def newestBank (s : State) : Option SetBank := s.therm.banks[s.therm.newest]
def other (b : Fin 2) : Fin 2 := if b = 0 then 1 else 0

/-- Write a small part that uses bulk part `bulk`, in the bank that does not hold the newest header (R505). -/
def commitBank (s : State) (bulk : Fin 2) : State :=
  let b : SetBank :=
    { seq := (match newestBank s with | some b => b.seq | none => 0) + 1, bulkBank := bulk, pairPos := s.boot.strap,
      small := keptSmall s, dramTuned := s.drm.tuned, ranks2 := fldB s F.DRAM_CFG_RANKS2, lanesTuned := s.lanes.stored,
      podIds := s.lanes.podIds }
  let n := other s.therm.newest
  let pm := postmark s false
  let s := useFree { s with therm := { s.therm with banks := s.therm.banks.set n (some b), newest := n, dirty := false } }
  setFld s F.THM_LAST_COMMIT pm.toNat

/-- BULK_BANK of the newest header. -/
def bulkInUse (s : State) : Fin 2 := match newestBank s with | some b => b.bulkBank | none => 0

/-- Few spare pages are left (R503). -/
def spareCheck (s : State) : State := if s.therm.spares < 24 then alarm s 12 [7] else s

/-- What the controller's page counts have come to (R503): the highest count, and a spare page less for each page it has
swapped (log entry 127). -/
def wearPages (s : State) (wear : BitVec 16) (swapped : Nat) : State :=
  let s' := { s with therm := { s.therm with
    wear := if s.therm.wear.toNat < wear.toNat then wear else s.therm.wear, spares := s.therm.spares - swapped } }
  if swapped = 0 then s' else spareCheck s'

/-- THERMOS_SETTINGS_COMMIT: a kept value has changed since the last commit. -/
def execThermosSettingsCommit (wear : BitVec 16) (swapped : Nat) (s : State) : Res :=
  .next (if s.boot.phase == .ready && s.therm.dirty then wearPages (commitBank s (bulkInUse s)) wear swapped else s)

/-- THERMOS_COUNTER_WRITE: epoch, address and pair number reach their counters. -/
def execThermosCounterWrite (s : State) : Res :=
  .next (if s.boot.phase = .ready then
    { s with therm := { s.therm with epoch := s.twin.epoch, keptAddr := s.therm.devAddr, keptPair := s.therm.pair } }
  else s)

/-! ## The map (R323, R506, R508) -/

/-- The kept bits of an entry as a journal record holds them. -/
def journalWord (k : BitVec 16) : BitVec 16 := k &&& 0xFF3F

/-- The live copy's kept fields as a checkpoint copy. -/
def mapCheckpoint (s : State) : List (Nat × BitVec 16) := s.scr.live.kept.map (fun e => (e.1, journalWord e.2))

/-- A whole new copy in the inactive checkpoint copy, then selected. -/
def freshCheckpoint (s : State) : State :=
  let n := other s.therm.ckptSel
  { s with therm := { s.therm with
      ckpt := s.therm.ckpt.set n (mapCheckpoint s), ckptGood := s.therm.ckptGood.set n true, ckptSel := n, journal := [] } }

/-- Append the changed entries, or write a whole new copy when the journal lacks room (R508). -/
def appendJournal (s : State) (es : List Nat) : State :=
  if s.therm.journal.length + es.length ≤ 32768 then
    { s with therm := { s.therm with
        journal := s.therm.journal ++ es.map (fun e => (e, journalWord (keptGet s.scr.live e))) } }
  else freshCheckpoint s

/-- MAP_JOURNAL: the entries of retired versions are journaled and HLT_KEPT takes the version's X (R323). -/
def execMapJournal (s : State) : Res :=
  match s.hlt.changedX with
  | none => .next s
  | some x =>
    let s := appendJournal s s.hlt.changed
    .next (setFld { s with hlt := { s.hlt with changed := [], changedX := none } } F.HLT_KEPT x)

/-- One record folded into a checkpoint copy. -/
def foldRecord (c : List (Nat × BitVec 16)) (r : Nat × BitVec 16) : List (Nat × BitVec 16) := spPut (fun _ => 0) c r.1 r.2

/-- JOURNAL_FOLD: the oldest record is folded into the selected copy. -/
def execJournalFold (s : State) : Res :=
  .next (match s.therm.journal with
    | [] => s
    | r :: rs =>
      let n := s.therm.ckptSel
      { s with therm := { s.therm with journal := rs, ckpt := s.therm.ckpt.set n (foldRecord s.therm.ckpt[n] r) } })

/-- LONG 3 (R506): bulk part, small part, the journal folded, a fresh copy of the map selected. -/
def fullCommit (s : State) : State :=
  let b := other (bulkInUse s)
  let s := { s with therm := { s.therm with bulks := s.therm.bulks.set b s.vstn } }
  let s := commitBank s b
  let n := s.therm.ckptSel
  let s := { s with therm := { s.therm with ckpt := s.therm.ckpt.set n (s.therm.journal.foldl foldRecord s.therm.ckpt[n]) } }
  setFldB (freshCheckpoint s) F.THM_STAT_BULK_DIRTY false

/-! ## Firmware images (R509, R510, R512) -/

/-- The header fields of an image. -/
def fwMagicOk (im : List Byte) : Bool := leField im 0 4 == 0x52464D57 && leField im 4 2 == 1
def fwVersion (im : List Byte) : Word := BitVec.ofNat 32 (leField im 8 4)
def fwSvn (im : List Byte) : Word := BitVec.ofNat 32 (leField im 0x0C 4)
def fwBody (im : List Byte) : List Byte := im.drop 512
def fwLengthsOk (im : List Byte) : Bool :=
  decide (512 ≤ im.length) && leField im 0x10 4 == (fwBody im).length && decide ((fwBody im).length ≤ 1048064)
def fwSlice (im : List Byte) (o n : Nat) : List Byte := (im.drop o).take n
def fwVendorOk (s : State) (im : List Byte) : Bool :=
  sha384 (fwSlice im 0x20 97) == s.therm.keyDigest[(0 : Fin 4)]
    && ecdsaVerify (fwSlice im 0x20 97) (fwSlice im 0 0x81 ++ fwBody im) (fwSlice im 0x81 96)
def fwCsDigest (im : List Byte) : List Byte := sha384 (fwSlice im 0xE1 97)
def fwCsOk (s : State) (im : List Byte) : Bool :=
  (List.finRange 4).any (fun i => s.therm.keyState[i] == 1 && s.therm.keyDigest[i] == fwCsDigest im)
    && ecdsaVerify (fwSlice im 0xE1 97) (fwSlice im 0 0x142) (fwSlice im 0x142 96)

/-- An image is valid (R510). -/
def fwValid (s : State) (im : List Byte) : Bool :=
  fwMagicOk im && fwLengthsOk im && fwVendorOk s im && decide (s.therm.floor.toNat ≤ (fwSvn im).toNat)
    && (!s.therm.csRequired || fwCsOk s im)

/-- An image as a slot holds it; the digest tells which key countersigned it, if one did. -/
def fwSlotOf (im : List Byte) : FwSlot :=
  { version := fwVersion im, svn := fwSvn im, valid := true,
    csDigest := if (fwSlice im 0xE1 97).all (· == 0) then [] else fwCsDigest im, image := im }

/-- Write an image to slot `n`. -/
def writeSlot (s : State) (n : Fin 2) (im : List Byte) : State :=
  { s with therm := { s.therm with slots := s.therm.slots.set n (some (fwSlotOf im)) } }

/-- FIRMWARE's end (R512): the slot that is not BOOT_SLOT, verified, pending with TRIES 0. -/
def installFw (s : State) (im : List Byte) : State :=
  let n := other s.therm.bootSlot
  let s := writeSlot s n im
  { s with therm := { s.therm with pending := some n, tries := 0 } }

/-- A slot's image can boot (R513). The factory image stands for itself. -/
def slotBoots (s : State) (f : Option FwSlot) : Bool :=
  match f with
  | some x => if x.image.isEmpty then x.valid else fwValid s x.image
  | none => false

/-! ## Keys (R510, R511) -/

def enrollKey (s : State) (i : Fin 4) (digest : List Byte) : State :=
  { s with therm := { s.therm with
      keyState := s.therm.keyState.set i 1, keyDigest := s.therm.keyDigest.set i digest, csRequired := true } }

def revokeKey (s : State) (i : Fin 4) : State :=
  { s with therm := { s.therm with keyState := s.therm.keyState.set i 2 } }

/-- The image in BOOT_SLOT is countersigned by the key of slot `i` (R511). -/
def bootSignedBy (s : State) (i : Fin 4) : Bool :=
  match s.therm.slots[s.therm.bootSlot] with
  | some f => !f.csDigest.isEmpty && f.csDigest == s.therm.keyDigest[i]
  | none => false

end Sys2Proof.Machine
end

