-- ==== Sys2Proof/Machine/Accept.lean ====
section
/-! DEFINITION. How a letter is taken: the busy check, classes and streams, the sequence, the outcome and its record,
the dead-letter queue, and the room of the filling hamper (R113 to R128, R339). -/
namespace Sys2Proof.Machine
open Sys2Proof

/-! ## Answers -/

/-- An outcome of a letter (R121): code, DETAIL, AUX, receipt data, and the envelopes that follow the receipt. -/
structure Ans where
  code : Nat
  detail : Nat
  aux : Word
  data : List Byte
  after : List (Env × List Byte)
deriving DecidableEq, Repr

def Ans.done : Ans := ⟨0, 0, 0, [], []⟩
def Ans.refuse (code detail : Nat) : Ans := ⟨code, detail, 0, [], []⟩
def Ans.result (data : List Byte) : Ans := ⟨0, 0, 0, data, []⟩

/-- What executing a letter gives: its outcome now, or later, or none. -/
inductive Reply where
  | now (a : Ans) (s : State)
  | later (s : State)
  | silent (s : State)
deriving DecidableEq, Repr

/-- A refusal, with nothing of the letter done. -/
def refuse (s : State) (code detail : Nat) : Reply := .now (Ans.refuse code detail) s
def done (s : State) : Reply := .now Ans.done s

/-! ## Kinds (R116) -/

/-- Repeatable kinds change no device state. -/
def repeatable (kind : Byte) : Bool := kind == 0x05 || kind == 0x06 || kind == 0x15 || kind == 0x28
/-- Ring management kinds. -/
def ringKind (kind : Byte) : Bool := decide (0x40 ≤ kind.toNat) && decide (kind.toNat ≤ 0x4A)
/-- The classes a sequenced kind allows: bulk parcels, express or normal, or normal. -/
def classFits (kind : Byte) (cls : BitVec 2) : Bool :=
  if kind = 0x10 ∨ kind = 0x14 ∨ kind = 0x21 then cls == 2
  else if kind = 0x01 ∨ kind = 0x02 then cls == 0 || cls == 1
  else cls == 1 && !ringKind kind
/-- Streams 0 to 3 carry express letters, 4 to 14 normal and bulk ones (R113). -/
def streamFits (e : Env) : Bool := if e.stream.toNat ≤ 3 then e.cls == 0 else e.cls == 1 || e.cls == 2
/-- Kinds a device that is not active executes (R124). -/
def standbyKind (kind : Byte) : Bool := repeatable kind || kind == 0x2A

/-! ## Bounces and immediate answers (R120) -/

def answerBytes (s : State) (e : Env) (rep : Bool) (a : Ans) (line : Word) : List Byte :=
  receiptHead s e (BitVec.ofNat 8 a.code) rep (BitVec.ofNat 16 a.detail) a.aux line ++ a.data

/-- An answer that leaves at once. -/
def answerNow (s : State) (e : Env) (a : Ans) : State := sendReceiptNow s e (answerBytes s e false a (scLine s))
def bounce (s : State) (e : Env) (code detail : Nat) (aux : Word) : State :=
  answerNow s e { Ans.refuse code detail with aux := aux }

/-- The longest a long operation lasts, ms (R127). -/
def opMaxMs (op : Nat) : Nat :=
  match op with
  | 1 => 40
  | 2 => 1200
  | 3 => 250
  | 4 => 3000
  | 5 => 2000
  | _ => 60

/-- BUSY: DETAIL the operation, AUX the upper bound of the time left, whole ms (R121, R125). -/
def bounceBusy (s : State) (e : Env) (b : Busy) : State :=
  let ran := s.clk.now - b.start
  let left := opMaxMs b.op * 3200000 - ran
  bounce s e 1 b.op (BitVec.ofNat 32 ((left + 3199999) / 3200000))

/-! ## The dead-letter queue (R126) -/

/-- LEN of the envelope `e` that ended a letter with payload `pl`: that of a parcel's last envelope is what lies behind its
AUX (R107, R118). -/
def envLen (e : Env) (pl : List Byte) : Nat := if e.first then pl.length else pl.length - e.aux.toNat

/-- A refused letter enters the queue; the oldest goes when it is full. The header kept for a parcel of several envelopes
is that of its last one (DEDUCED, log entry 103). -/
def deadLetter (s : State) (e : Env) (pl : List Byte) (code detail : Nat) : State :=
  let s := alarm s (15 + (code - 0x10)) []
  let d : DeadEntry :=
    { env := e, len := envLen e pl, code := BitVec.ofNat 8 code, detail := BitVec.ofNat 16 detail, pm := tbVal s 0,
      head := (pl ++ List.replicate 40 0).take 40 }
  let full := decide (64 ≤ s.round.dead.length)
  let s := if full then incFld s F.ROUND_RND_DEAD_OVERWRITES else s
  { s with round := { s.round with dead := (if full then s.round.dead.drop 1 else s.round.dead) ++ [d] } }

/-- Its 64 bytes; `i` is its index in the queue. -/
def deadBytes (s : State) (i : Nat) (d : DeadEntry) : List Byte :=
  envBytes d.env d.len ++ [d.code, if i = 0 then BitVec.ofNat 8 (fld s F.ROUND_RND_DEAD_OVERWRITES) else 0]
    ++ leBytes 2 d.detail.toNat ++ leBytes 4 d.pm.toNat ++ d.head

/-- Refused without any sequence check (R113). -/
def refuseUnsequenced (s : State) (e : Env) (pl : List Byte) : State :=
  deadLetter (answerNow s e (Ans.refuse badLetter 0)) e pl badLetter 0

/-! ## Streams (R119) -/

/-- The state of the letter's stream; a stream never opened is closed. -/
def streamOf (s : State) (e : Env) : Stream :=
  (s.round.streams.find? (isStreamOf e)).getD ⟨toPair e, e.src, e.stream, false, 0, []⟩

def putStream (s : State) (e : Env) (x : Stream) : State :=
  { s with round := { s.round with streams := x :: s.round.streams.filter (fun y => !isStreamOf e y) } }

/-- The changes of a pair-address stream are journaled (R122). -/
def journalStream (s : State) (e : Env) (x : Stream) (o : Option Outcome) : State :=
  if toPair e then journal s (.round e.src e.stream x.isOpen x.expected o) else s

/-- Add to a record of the last 16. -/
def record16 (os : List Outcome) (o : Outcome) : List Outcome := let l := os ++ [o]; l.drop (l.length - 16)

/-- The outcome as the record holds it. -/
def outcomeOf (s : State) (e : Env) (a : Ans) (due : Bool) : Outcome :=
  { seq := e.seq, repeatable := repeatable e.kind, code := BitVec.ofNat 8 a.code, detail := BitVec.ofNat 16 a.detail,
    aux := a.aux, line := scLine s, epoch := pairEpoch s, data := a.data, mode := (receiptClass e.cls).setWidth 8, due := due }

/-- The sequence advances, the outcome is recorded unless the letter is repeatable, and both are journaled. -/
def recordOutcome (s : State) (e : Env) (a : Ans) (due : Bool) : State :=
  let o := outcomeOf s e a due
  let x := streamOf s e
  let y := { x with expected := e.seq + 1, record := if o.repeatable then x.record else record16 x.record o }
  journalStream (putStream s e y) e y (if o.repeatable then none else some o)

/-- The letter's data travel in bulk frames that a hamper must name (R342). -/
def bulkMirrored (s : State) (e : Env) : Bool :=
  mirrors s && (e.kind == 0x10 || (toPair e && (e.kind == 0x14 || e.kind == 0x21)))

/-- The outcome leaves as R57 allows, with the envelopes that follow it. -/
def release (s : State) (e : Env) (rep : Bool) (a : Ans) : State :=
  let s := releaseReceipt s e (answerBytes s e rep a (scLine s)) (!rep && a.code == 0 && bulkMirrored s e)
  a.after.foldl (fun s x => holdEnv s e.west x.1 x.2 false) s

/-- An outcome is reached: a refusal is a dead letter, the stream moves on, the receipt leaves. -/
def settleLetter (s : State) (e : Env) (pl : List Byte) (a : Ans) : State :=
  let s := if a.code = 0 then s else deadLetter s e pl a.code a.detail
  release (recordOutcome s e a false) e false a

/-- A held receipt answers this very letter. -/
def receiptHeld (s : State) (e : Env) : Bool :=
  s.round.held.any (fun h => h.env.kind == 0x80 && h.env.stream == e.stream && h.env.seq == e.seq && h.env.dest == e.src
    && h.env.src == e.dest)

/-- A recorded outcome leaves again with REPEAT, no earlier than the first may (R119). -/
def resendRecord (s : State) (e : Env) (o : Outcome) : State :=
  let a : Ans := ⟨o.code.toNat, o.detail.toNat, o.aux, o.data, []⟩
  let pl := answerBytes s e true a o.line
  if receiptHeld s e then releaseReceipt s e pl false else sendReceiptNow s e pl

/-! ## Execution -/

/-- The header checks: NOT_ACTIVE, unknown class for the kind, class and stream (R113, R124, R125). No rule gives the order
of the first and the others (DESIGN CHOICE, log entry 104). -/
def headerRefusal (s : State) (e : Env) : Option (Nat × Nat) :=
  if !(isActive s || solo s) && !standbyKind e.kind then some (0x12, 0)
  else if !classFits e.kind e.cls then some (badLetter, 0)
  else if !streamFits e then some (badLetter, 0)
  else none

def runChecked (run : State → Env → List Byte → Reply) (s : State) (e : Env) (pl : List Byte) : Reply :=
  match headerRefusal s e with
  | some x => refuse s x.1 x.2
  | none => run s e pl

/-- Settle a reply; `later` leaves the stream's outcome outstanding. -/
def settleReply (e : Env) (pl : List Byte) : Reply → State
  | .now a s => settleLetter s e pl a
  | .later s => s
  | .silent s => s

/-- Bytes a settled letter has added to the filling hamper of `s` (R339). -/
def addedBytes (s s' : State) : Nat := fillBytes s'.twin.fill - fillBytes s.twin.fill

/-- Execute in the filling hamper (R339): an express letter at once, after an early close where its effects exceed the
reserve; another one only when they fit, else it waits (`none`). -/
def executeRoom (run : State → Env → List Byte → Reply) (s : State) (e : Env) (pl : List Byte) : Option State :=
  let s' := settleReply e pl (runChecked run s e pl)
  if !mirrors s then some s'
  else if e.cls = 0 then
    if s.twin.fillX + addedBytes s s' ≤ 1024 then
      some { s' with twin := { s'.twin with fillX := s.twin.fillX + addedBytes s s' } }
    else
      let c := closeHamper s false false true
      let c' := settleReply e pl (runChecked run c e pl)
      some { c' with twin := { c'.twin with fillX := addedBytes c c' } }
  else if fillRoom s' then some s' else none

/-- STREAM_OPEN (R119): the stream opens, its record is cleared, DONE is recorded. -/
def openStream (s : State) (e : Env) : State :=
  let s := if toPair e then journal s (.round e.src e.stream false 0 none) else s
  let s := putStream s e ⟨toPair e, e.src, e.stream, true, e.seq, []⟩
  release (recordOutcome s e Ans.done false) e false Ans.done

/-- A sequenced letter after the busy check (R119); `none` when it waits for the next hamper.  A repeatable letter that is
executed again and refused enters no dead-letter queue: its refusal entered when it was first taken (DEDUCED, log entry
105). -/
def acceptSequenced (run : State → Env → List Byte → Reply) (s : State) (e : Env) (pl : List Byte) : Option State :=
  let x := streamOf s e
  let d := (e.seq - x.expected).toInt
  let kept := x.record.find? (fun o => o.seq == e.seq)
  if e.kind = 0x2A ∧ ¬ (x.isOpen = true ∧ d < 0 ∧ kept.isSome = true) then some (openStream s e)
  else if !x.isOpen then some (bounce s e 4 0 0)
  else if 0 < d then some (bounce s e 2 0 x.expected)
  else if d < 0 then
    if repeatable e.kind then
      some (match runChecked run s e pl with
        | .now a s => release s e true a
        | .later s => s
        | .silent s => s)
    else match kept with
      | some o => some (resendRecord s e o)
      | none => some (bounce s e 3 0 x.expected)
  else executeRoom run s e pl

/-- A ring management letter executes on every copy and is answered at once (R123). -/
def acceptRing (run : State → Env → List Byte → Reply) (s : State) (e : Env) (pl : List Byte) : State :=
  if ringKind e.kind then
    match run s e pl with
    | .now a s => answerNow (if a.code = 0 then s else deadLetter s e pl a.code a.detail) e a
    | .later s => s
    | .silent s => s
  else refuseUnsequenced s e pl

/-- Two sequenced letters of one stream (R119). -/
def sameStream (x e : Env) : Bool :=
  x.src == e.src && x.stream == e.stream && toPair x == toPair e && x.cls != 3 && e.cls != 3

/-- An outcome of the letter's stream is outstanding: its letters wait (R119). -/
def streamWaits (s : State) (e : Env) : Bool :=
  s.round.calls.any (fun c => sameStream c.1 e) || s.tho.letters.any (fun x => sameStream x e)

/-- The envelopes of the inbox that arrived before this one. -/
def arrivedBefore (s : State) (e : Env) (pl : List Byte) : List (Env × List Byte) :=
  s.round.inbox.takeWhile (fun x => x != (e, pl))

/-- An older letter of its stream has not been handled: a stream takes its letters in arrival order (R119). -/
def olderWaits (s : State) (e : Env) (pl : List Byte) : Bool :=
  (arrivedBefore s e pl).any (fun x => sameStream x.1 e)

/-- The fabric level of a class: express, then normal and ring management, then bulk (R41, R46). -/
def classLevel (c : BitVec 2) : Nat := if c = 0 then 0 else if c = 2 then 2 else 1

/-- A letter of a higher level waits at the Round interface and could be executed: it goes first (R41, R370). -/
def outranked (s : State) (e : Env) : Bool :=
  s.round.inbox.any (fun x => decide (classLevel x.1.cls < classLevel e.cls) && !streamWaits s x.1)

/-- The letter's turn has come: nothing of its stream is outstanding or older, and no letter of a higher level waits. -/
def letterTurn (s : State) (e : Env) (pl : List Byte) : Bool :=
  !streamWaits s e && !olderWaits s e pl && !outranked s e

/-- A letter that has been taken; `none` when it waits. -/
def acceptTaken (run : State → Env → List Byte → Reply) (s : State) (e : Env) (pl : List Byte) : Option State :=
  match s.round.busy with
  | some b => some (bounceBusy s e b)
  | none =>
    if (e.cls == 3) != (e.stream == 15) then some (refuseUnsequenced s e pl)
    else if e.cls = 3 then some (acceptRing run s e pl)
    else acceptSequenced run s e pl

def inInbox (s : State) (e : Env) (pl : List Byte) : Bool := s.round.inbox.contains (e, pl)
def unbox (s : State) (e : Env) (pl : List Byte) : State :=
  { s with round := { s.round with inbox := s.round.inbox.erase (e, pl) } }

/-- An envelope of this kind is handled: one that a hop has brought, or that arrives now; after a stop for a hand-over
none is executed or answered (R353).  A busy device answers each one at once (R128); else it waits for its turn.  Where
`go` has no answer yet, it waits as it is. -/
def acceptWith (kind : Byte) (go : State → Env → List Byte → Option State) (s : State) (e0 : Env) (pl : List Byte) :
    State :=
  let e := { e0 with kind := kind }
  if s.boot.phase != .ready then s
  else
    let s := if inInbox s e pl then s else deliver s e pl
    if !inInbox s e pl then s
    else if s.tho.stopped then unbox s e pl
    else if s.round.busy.isNone && !letterTurn s e pl then s
    else (go (unbox s e pl) e pl).getD s

/-- The unfinished parcel of the envelope's stream (R118). -/
def parcelIn (e : Env) (p : Parcel) : Bool :=
  p.src == e.src && p.stream == e.stream
    && (decide (0x40 ≤ p.dest.toNat) && decide (p.dest.toNat ≤ 0x5F)) == toPair e
/-- It is discarded. -/
def dropParcel (s : State) (e : Env) : State :=
  { s with round := { s.round with parcels := s.round.parcels.filter (fun p => !parcelIn e p) } }

/-- A letter in one envelope; it ends an unfinished parcel of its stream (R118). -/
def accept (kind : Byte) (run : State → Env → List Byte → Reply) (s : State) (e : Env) (pl : List Byte) : State :=
  acceptWith kind (fun s e pl => acceptTaken run (dropParcel s e) e pl) s e pl

/-! ## Letters whose outcome comes later -/

/-- The payload of a CALL (R116). -/
def callBytes (routine : Nat) (args : List Word) : List Byte :=
  leBytes 2 routine ++ [0, 0] ++ args.flatMap (fun w => leBytes 4 w.toNat)

/-- A routine that waits reaches its outcome. -/
def settleCall (s : State) (c : Env × Nat × List Word) (a : Ans) : State :=
  settleLetter { s with round := { s.round with calls := s.round.calls.erase c } } c.1 (callBytes c.2.1 c.2.2) a

/-- A long operation begins: the device is busy from here, and unfinished parcels are discarded (R118, R128). -/
def beginLong (s : State) (op : Nat) (letter : Option Env) (image : List Byte) : State :=
  let s := { s with round := { s.round with busy := some ⟨op, letter, image, s.clk.now⟩, parcels := [] } }
  setFldB s F.THM_STAT_COMMIT_BUSY (op == 3)

/-- It ends: the starting letter's outcome leaves, and what waited for the end goes (R128). -/
def endLong (s : State) (b : Busy) : State :=
  let s := { s with round := { s.round with busy := none } }
  let s := if b.op = 3 then setFldB s F.THM_STAT_COMMIT_BUSY false else s
  let s := match b.letter with
    | some e => settleLetter s e [] Ans.done
    | none => s
  drainMail s

end Sys2Proof.Machine
end

