-- ==== Sys2Proof/Machine/Gyeno.lean ====
section
/-! DEFINITION. The steward instructions that reach stations, control registers, events and mailboxes, and the ends of
waits (R73 to R90). -/
namespace Sys2Proof.Machine
open Sys2Proof

/-- A word that is fetched and not executed: one whose instruction memory fails its parity check is a PARITY fault,
one that R66 does not list an ILLEGAL fault (R87). -/
def execIllegal (k : Fin 8) (w : Word) (parity : Bool) (s : State) : Res :=
  if parity then onSteward s k (fun s => stewardFaultFree s k 0x08)
  else if gyenoLegal w then .next s
  else onSteward s k (fun s => faultIllegal s k)

/-! ## Station instructions (R73 to R77) -/

/-- What steward `k` reads at a scalar station: its own trace bank, or the station (R379, R523). -/
def stewardRead (s : State) (k : Fin 8) (a : Nat) : Word × State :=
  if bankedStation a then (readTrace s k a, s) else readStation s a

/-- The station window of R63: a station instruction aimed outside it is an ACCESS fault. -/
def inStations (a : Word) : Bool := decide (0x40000000 ≤ a.toNat) && decide (a.toNat < 0x80000000)

/-- The address checks of a station instruction, in the order alignment, window, station (log entry 95): `act` runs
where all pass. -/
def stationAccess (s : State) (k : Fin 8) (x : Word) (n kind : Nat) (ok : Bool) (act : State) : State :=
  if x.toNat % n ≠ 0 then faultMisaligned s k x
  else if !inStations x then faultAccess s k kind x
  else if ok then act
  else faultStation s k kind x

def execSld (k : Fin 8) (d a : Fin 32) (imm : BitVec 16) (s : State) : Res :=
  onSteward s k (fun s =>
    let x := effAddr (stw s k) a imm
    let r := stewardRead s k x.toNat
    stationAccess s k x 4 kLoad (scalarExists x.toNat) (finG r.2 k d r.1))

/-- Queue a line-qualified write, or wait for room (R75). -/
def armOrWait (s : State) (k : Fin 8) (e : LqEntry) : State :=
  if lqSize e ≤ lqFree s then modStw (armLq s e) k Steward.fin
  else modStw s k (fun w => { w with run := .queueing e })

def execSsq (k : Fin 8) (d a b : Fin 32) (s : State) : Res :=
  onSteward s k (fun s =>
    let w := stw s k
    let x := regAddr w a
    stationAccess s k x 4 kLq (lineQualifiedOk x.toNat && claimed s k x.toNat)
      (armOrWait s k ⟨(w.gr d).toNat, .scalar x.toNat (w.gr b), some k⟩))

def execVsld (k : Fin 8) (vd : Fin 16) (a : Fin 32) (imm : BitVec 16) (s : State) : Res :=
  onSteward s k (fun s =>
    let x := effAddr (stw s k) a imm
    stationAccess s k x 32 kVLoad (vView x.toNat).isSome (finV s k vd (readVec s x.toNat)))

def execVsst (k : Fin 8) (vd : Fin 16) (a : Fin 32) (imm : BitVec 16) (s : State) : Res :=
  onSteward s k (fun s =>
    let x := effAddr (stw s k) a imm
    stationAccess s k x 32 kVStore (vecImmediateOk x.toNat && claimed s k x.toNat)
      (modStw (storeVec s x.toNat ((stw s k).vr vd)) k Steward.fin))

def execVssq (k : Fin 8) (vd : Fin 16) (a c : Fin 32) (s : State) : Res :=
  onSteward s k (fun s =>
    let w := stw s k
    let x := regAddr w a
    stationAccess s k x 32 kLq (vecLineQualifiedOk x.toNat && claimed s k x.toNat)
      (armOrWait s k ⟨(w.gr c).toNat, .vector x.toNat (w.vr vd), some k⟩))

/-- Entries have freed: a waiting SSQ or VSSQ goes into the queue (R75). -/
def execLqQueueRoom (k : Fin 8) (s : State) : Res :=
  .next (match (stw s k).run with
    | .queueing e =>
      if lqSize e ≤ lqFree s then modStw (armLq s e) k (fun w => { w with run := .running }.fin) else s
    | _ => s)

/-! ## Control registers (R78) -/

/-- SC_STATUS. -/
def scStatus (s : State) : Word :=
  wNat (wBit (isActive s) 0 + wBit (!solo s) 1 + wBit (jobRuns s) 2 + wBit s.round.busy.isSome 3 + 65536 * lqFree s)

/-- SC_WDOG as it stands: what is left of the load, in µs begun (R90). -/
def wdogLeft (s : State) (w : Steward) : Word := wNat ((w.wdog.toNat * 1000 - (s.clk.ns - w.wdogAt) + 999) / 1000)

/-- The control register `n` of steward `k`, if it is listed. -/
def controlReg (s : State) (k : Fin 8) (n : Nat) : Option Word :=
  let w := stw s k
  match n with
  | 0x000 => some (wNat (k.val + wBit (isResident k) 3))
  | 0x001 => some (scStatus s)
  | 0x002 => some w.fault
  | 0x003 => some w.epc
  | 0x004 => some w.faddr
  | 0x005 => some w.evmask
  | 0x006 => some w.evpend
  | 0x007 => some (wdogLeft s w)
  | 0x008 => some w.latewin
  | 0x009 => some w.dwin
  | 0x00A => some (scLine s)
  | 0x00B => some w.instret
  | 0x010 => some (tbVal s 0)
  | 0x011 => some (tbVal s 1)
  | 0x012 => some (tbVal s 2)
  | 0x013 => some (tbVal s 3)
  | 0x020 => some w.start
  | _ => none

def execScr (k : Fin 8) (d : Fin 32) (n : BitVec 16) (s : State) : Res :=
  onSteward s k (fun s =>
    match controlReg s k n.toNat with
    | some w => finG s k d w
    | none => faultIllegal s k)

/-- A write of a control register that is RW; a write of SC_WDOG reloads it (R78, R90). -/
def setControlReg (s : State) (w : Steward) (n : Nat) (v : Word) : Option Steward :=
  match n with
  | 0x005 => some { w with evmask := v }
  | 0x007 => some { w with wdog := v &&& 0xFFFFFF, wdogAt := s.clk.ns }
  | 0x009 => some { w with dwin := v &&& 0x1F }
  | _ => none

def execScw (k : Fin 8) (d : Fin 32) (n : BitVec 16) (s : State) : Res :=
  onSteward s k (fun s =>
    match setControlReg s (stw s k) n.toNat ((stw s k).gr d) with
    | some w => setStw s k w.fin
    | none => faultIllegal s k)

/-- FENCE (R85): accesses complete in order here, so a legal fence only advances. -/
def execFence (k : Fin 8) (imm : BitVec 16) (s : State) : Res :=
  onSteward s k (fun s => if imm = 0 ∨ 7 < imm.toNat then faultIllegal s k else modStw s k Steward.fin)

/-! ## Events (R79 to R81) -/

/-- Take the lowest pending enabled event into `d` (R80). -/
def Steward.takeEvent (w : Steward) (d : Fin 32) : Steward :=
  let n := lowestBit w.enabled
  ({ w with evpend := w.evpend &&& ~~~ ((1 : Word) <<< n), run := .running }.setG d (wNat n)).fin

/-- No event came: `d` takes 32. -/
def Steward.noEvent (w : Steward) (d : Fin 32) : Steward := ({ w with run := .running }.setG d 32).fin

def waitOn (s : State) (k : Fin 8) (d : Fin 32) (timed : Bool) : State :=
  modStw s k (fun w => if w.enabled = 0 then { w with run := .sleeping d timed } else w.takeEvent d)
def pollOn (s : State) (k : Fin 8) (d : Fin 32) : State :=
  modStw s k (fun w => if w.enabled = 0 then w.noEvent d else w.takeEvent d)

def execWait (k : Fin 8) (d : Fin 32) (s : State) : Res := onSteward s k (fun s => waitOn s k d false)
def execWaitt (k : Fin 8) (d a : Fin 32) (s : State) : Res :=
  onSteward s k (fun s => if (stw s k).gr a = 0 then pollOn s k d else waitOn s k d true)
def execEvpoll (k : Fin 8) (d : Fin 32) (s : State) : Res := onSteward s k (fun s => pollOn s k d)

/-- The steward that a register names, by its low three bits (R80). -/
def stewardNamed (w : Word) : Fin 8 := Fin.ofNat 8 (w.toNat % 8)

def execEvsig (k : Fin 8) (a b : Fin 32) (s : State) : Res :=
  onSteward s k (fun s =>
    let n := ((stw s k).gr b).toNat
    if 24 ≤ n ∧ n ≤ 31 then modStw (setEvent n s (stewardNamed ((stw s k).gr a))) k Steward.fin
    else faultIllegal s k)

/-- An enabled event is pending: a sleeping steward takes it. -/
def execStewardWake (k : Fin 8) (s : State) : Res :=
  .next (match (stw s k).run with
    | .sleeping d _ => if (stw s k).enabled = 0 then s else modStw s k (fun w => w.takeEvent d)
    | _ => s)

/-- WAITT's time is over: an arrival wins and counts (R81). -/
def execWaittTimeout (k : Fin 8) (s : State) : Res :=
  .next (match (stw s k).run with
    | .sleeping d true =>
      modStw s k (fun w => if w.enabled = 0 then w.noEvent d else { w with latewin := satInc w.latewin }.takeEvent d)
    | _ => s)

/-! ## Mailboxes (R80, R82) -/

/-- The ACCESS fault of MSEND; no rule gives its KIND or SC_FADDR. -/
def faultMsend (s : State) (k : Fin 8) : State :=
  stewardFault (useFree (useFree s)) k 0x03 ((Config.freeWord s.fresh).toNat % 8) (Config.freeWord (s.fresh + 1))

/-- Deposit an entry; a mailbox that becomes non-empty sets MBOX. -/
def deposit (s : State) (t k : Fin 8) (v : Word) : State :=
  let was := (stw s t).mbox
  let s := modStw s t (fun w => { w with mbox := w.mbox ++ [(v, k)] })
  if was.isEmpty then setEvent 10 s t else s

def execMsend (k : Fin 8) (d a b : Fin 32) (s : State) : Res :=
  onSteward s k (fun s =>
    let t := stewardNamed ((stw s k).gr a)
    if !isResident k && isResident t then faultMsend s k
    else if (stw s t).mbox.length < 16 then finG (deposit s t k ((stw s k).gr b)) k d 1
    else finG s k d 0)

def execMrecv (k : Fin 8) (d b : Fin 32) (s : State) : Res :=
  onSteward s k (fun s =>
    match (stw s k).mbox with
    | [] => modStw s k (fun w => ((w.setG d 0).setG b 0).fin)
    | (v, from') :: rest =>
      modStw s k (fun w => (({ w with mbox := rest }.setG d v).setG b (wNat (0x80000000 + from'.val))).fin))

/-- SC_WDOG has counted to 0 (R87, R90): it stays at 0, which is off. -/
def execWatchdogExpiry (k : Fin 8) (s : State) : Res :=
  .next (if (stw s k).run = .halted ∨ (stw s k).wdog = 0 then s
    else stewardFaultFree (modStw s k (fun w => { w with wdog := 0 })) k 0x06)

end Sys2Proof.Machine
end

