-- ==== Sys2Proof/Machine/Letters.lean ====
section
/-! DEFINITION. The letters that one envelope carries: their checks and their effects (R116, R117, R125). -/
namespace Sys2Proof.Machine
open Sys2Proof

/-! ## Lengths and reserved fields (R125) -/

/-- A payload that must hold exactly `n` bytes. -/
def lengthBad (pl : List Byte) (n : Nat) : Option Nat :=
  if pl.length < n then some pl.length else if n < pl.length then some n else none

/-- A payload of 1 to `limit` items of `size` bytes. -/
def itemsBad (pl : List Byte) (size limit : Nat) : Option Nat :=
  if limit * size < pl.length then some (limit * size)
  else if pl.length = 0 ∨ pl.length % size ≠ 0 then some pl.length
  else none

/-- The first byte of a field of zeros that is not 0. -/
def zerosBad (pl : List Byte) (o n : Nat) : Option Nat := ((List.range n).map (· + o)).find? (fun i => leField pl i 1 != 0)

/-- A one-byte field with three zero bytes after it. -/
def byteFieldBad (pl : List Byte) : Option Nat := lengthBad pl 4 <|> zerosBad pl 1 3

/-- Refuse as BAD_LETTER where a check has found an offset. -/
def orBad (s : State) (bad : Option Nat) (run : Reply) : Reply :=
  match bad with
  | some d => refuse s badLetter d
  | none => run

/-! ## Station letters -/

/-- The checks of a letter of station items: counts, express capability, then the checks of R74 (R47, R125). -/
def itemRefusal (e : Env) (pl : List Byte) (size limit addrAt : Nat) (ok : Nat → Bool) : Option (Nat × Nat) :=
  let n := pl.length / size
  let addr := fun i => leField pl (size * i + addrAt) 4
  if e.cls = 0 ∧ 16 < n then some (0x11, 16)
  else match itemsBad pl size (if e.cls = 0 then 16 else limit) with
  | some d => some (badLetter, d)
  | none =>
    match (List.range n).find? (fun i => e.cls == 0 && !expressCapable (addr i)) with
    | some i => some (0x11, i)
    | none => ((List.range n).find? (fun i => !ok (addr i))).map (fun i => (0x13, i))

/-- The items of a payload. -/
def itemsOf (pl : List Byte) (size : Nat) : List (List Byte) :=
  (List.range (pl.length / size)).map (fun i => (pl.drop (size * i)).take size)

def word32 (pl : List Byte) (o : Nat) : Word := BitVec.ofNat 32 (leField pl o 4)
def vec32 (pl : List Byte) (o : Nat) : Vec := vecOfBytes ((pl.drop o).take 32)

def itemLetter (e : Env) (pl : List Byte) (size limit addrAt : Nat) (ok : Nat → Bool) (s : State) (run : Reply) : Reply :=
  match itemRefusal e pl size limit addrAt ok with
  | some x => refuse s x.1 x.2
  | none => run

def runWrite (s : State) (e : Env) (pl : List Byte) : Reply :=
  itemLetter e pl 8 256 0 (fun a => immediateOk a && !bankedStation a) s
    (done ((itemsOf pl 8).foldl (fun s b => storeStation s none (leField b 0 4) (word32 b 4)) s))

/-- A letter of line-qualified writes takes effect whole or not at all (R75). -/
def armAll (s : State) (need : Nat) (es : List LqEntry) : Reply :=
  if lqFree s < need then refuse s 0x14 (lqFree s) else done (es.foldl armLq s)

def runArm (s : State) (e : Env) (pl : List Byte) : Reply :=
  itemLetter e pl 12 256 4 (fun a => lineQualifiedOk a && !bankedStation a) s
    (armAll s (pl.length / 12) ((itemsOf pl 12).map (fun b => ⟨leField b 0 4, .scalar (leField b 4 4) (word32 b 8), none⟩)))

def runVwrite (s : State) (e : Env) (pl : List Byte) : Reply :=
  itemLetter e pl 36 64 0 (fun a => a % 32 == 0 && vecImmediateOk a) s
    (done ((itemsOf pl 36).foldl (fun s b => storeVec s (leField b 0 4) (vec32 b 4)) s))

def runVarm (s : State) (e : Env) (pl : List Byte) : Reply :=
  itemLetter e pl 40 64 4 (fun a => a % 32 == 0 && vecLineQualifiedOk a) s
    (armAll s (8 * (pl.length / 40))
      ((itemsOf pl 40).map (fun b => ⟨leField b 0 4, .vector (leField b 4 4) (vec32 b 8), none⟩)))

/-- Reads in order, each with the effect of a read. -/
def readAll (s : State) : List Nat → List Byte × State
  | [] => ([], s)
  | a :: as =>
    let (w, s) := readStation s a
    let (bs, s) := readAll s as
    (leBytes 4 w.toNat ++ bs, s)

def runRead (s : State) (e : Env) (pl : List Byte) : Reply :=
  itemLetter e pl 4 60 0 (fun a => scalarExists a && !bankedStation a) s
    (let (bs, s) := readAll s ((itemsOf pl 4).map (fun b => leField b 0 4))
     .now (Ans.result bs) s)

def runVread (s : State) (e : Env) (pl : List Byte) : Reply :=
  itemLetter e pl 4 7 0 (fun a => a % 32 == 0 && (vView a).isSome) s
    (.now (Ans.result ((itemsOf pl 4).flatMap (fun b => bytesOfVec (readVec s (leField b 0 4))))) s)

/-! ## INBOX -/

/-- Every page of these shared-memory bytes is claimed by steward `k` (R125). -/
def pagesClaimed (s : State) (k : Fin 8) (off n : Nat) : Bool :=
  (List.range ((off + n - 1) / 4096 - off / 4096 + 1)).all (fun i => hasClaim s k 5 (off / 4096 + i))

def runInbox (s : State) (_e : Env) (pl : List Byte) : Reply :=
  if pl.length < 9 then refuse s badLetter pl.length
  else if 4096 < pl.length then refuse s badLetter 4096
  else if 7 < leField pl 0 1 then refuse s badLetter 0
  else orBad s (zerosBad pl 1 3)
    (let k : Fin 8 := Fin.ofNat 8 (leField pl 0 1)
     let a := leField pl 4 4
     let data := pl.drop 8
     if a < 0x20000000 ∨ 0x201FFA00 < a + data.length then refuse s 0x1C 0
     else if pagesClaimed s k (a - 0x20000000) data.length then
       done (setEvent 13 { s with shared := memStore s.shared (a - 0x20000000) data } k)
     else refuse s 0x1C 0)

/-! ## Programs (R62, R91 to R95) -/

/-- Start a loaded steward at its entry point (R62); SC_FAULT holds no fault since this entry (R78).  R62 does not name
SC_EVPEND, SC_WDOG, SC_DWIN, SC_LATEWIN, SC_EPC, SC_FADDR and the mailbox: after a restart or a load they keep what they
hold (DESIGN CHOICE, log entry 97). -/
def startSteward (s : State) (k : Fin 8) (reason : Nat) : State :=
  match (stw s k).prog with
  | some im =>
    modStw s k (fun w => { w with
      g := (Vector.replicate 32 0).set 1 (BitVec.ofNat 32 reason), v := Vector.replicate 16 0,
      p := (Vector.replicate 8 0).set 0 (BitVec.allOnes 64), pc := BitVec.ofNat 32 im.entry, run := .running,
      evmask := 0, instret := 0, start := BitVec.ofNat 32 reason, fault := 0 })
  | none => s

/-- A customer steward at a change of role (R61): its image stays, with its initialised local data; no other state of it
survives. -/
def Steward.forget (w : Steward) : Steward :=
  { Steward.init with
    prog := w.prog, imem := w.imem, trace := w.trace,
    dmem := (match w.prog with
      | some im => memStore [] 0 im.data
      | none => []) }

/-- Stewards 0 to 5. -/
def customers : List (Fin 8) := [0, 1, 2, 3, 4, 5]

/-- The end of the shared-memory pages that the resident does not claim (R369), as an offset. -/
def customerShared : Nat := 448 * 4096

/-- Everything of the customer stewards but their images and mirrored scratch goes: registers, local data, mailboxes and
the shared memory that is not the resident's (R61; log entry 98). -/
def forgetCustomers (s : State) : State :=
  let s := customers.foldl (fun s k => modStw s k Steward.forget) s
  { s with shared := memClear s.shared 0 customerShared }

def haltStw (s : State) (k : Fin 8) : State := modStw s k (fun w => { w with run := .halted })
def unloadStw (s : State) (k : Fin 8) : State := modStw s k (fun w => { w with run := .halted, prog := none })

/-- A letter that names a steward with a program. -/
def stewardLetter (s : State) (pl : List Byte) (run : Fin 8 → State) : Reply :=
  orBad s (byteFieldBad pl)
    (if 7 < leField pl 0 1 then refuse s badLetter 0
     else
       let k : Fin 8 := Fin.ofNat 8 (leField pl 0 1)
       if isResident k || (stw s k).prog.isNone then refuse s 0x19 0 else done (run k))

def runUnload (s : State) (_e : Env) (pl : List Byte) : Reply :=
  stewardLetter s pl (fun k => unloadStw (journal s (.unload k)) k)
def runRestart (s : State) (_e : Env) (pl : List Byte) : Reply :=
  stewardLetter s pl (fun k => startSteward (journal s (.restart k)) k 2)
def runHalt (s : State) (_e : Env) (pl : List Byte) : Reply :=
  stewardLetter s pl (fun k => haltStw (journal s (.halt k)) k)

/-! ## DRAM_READ (R116, R365) -/

/-- Usable DRAM holds these bytes. -/
def dramFits (s : State) (a n : Nat) : Bool := decide (a + n ≤ dramUsable s)

/-- PARCEL_OUT envelopes of at most 4,096 bytes, BAD where a codeword is uncorrectable; `n` bounds their number. -/
def parcelOut (s : State) (e : Env) (a off left : Nat) : Nat → List (Env × List Byte)
  | 0 => []
  | n + 1 =>
    if left = 0 then []
    else
      let k := Nat.min 4096 left
      let env := { receiptEnv s e 0x81 1 (BitVec.ofNat 32 off) with
        first := off == 0, last := decide (left ≤ 4096), bad := dramBad s (a + off) k }
      (env, dramBytes s (a + off) k) :: parcelOut s e a (off + k) (left - k) n

def runDramRead (s : State) (e : Env) (pl : List Byte) : Reply :=
  orBad s (lengthBad pl 12)
    (let a := leField pl 0 8
     let n := leField pl 8 4
     if 2 ^ 28 < n then refuse s badLetter 8
     else if dramFits s a n then
       let after := parcelOut s e a 0 n (n / 4096 + 1)
       .now { Ans.done with aux := BitVec.ofNat 32 n, after := after } (dramReadEffect s a n)
     else refuse s 0x1C 0)

/-! ## JOB (R137 to R140) -/

def runJobLetter (s : State) (_e : Env) (pl : List Byte) : Reply :=
  orBad s (lengthBad pl 48)
    (match jobRefusal s (declOf pl) with
     | some x => refuse s x.1 x.2
     | none => done (declareJob s (declOf pl)))

/-! ## LONG (R127, R128, R260) -/

/-- A long operation that LONG starts is refused while a job runs. -/
def startLong (s : State) (e : Env) (op : Nat) : Reply :=
  if op = 2 ∧ ¬ dramFits s (scanBase s) 327680 then refuse s 0x1C 0
  else
    let s := beginLong s op (some e) []
    let s := if op = 2 then startScan s else s
    let s := if op = 6 then
        (List.finRange 42).foldl (fun s l => if laneRetunes s l then setFldB s (F.LANE_STAT_SETTLED l) false else s) s
      else s
    .later s

def runLong (s : State) (e : Env) (pl : List Byte) : Reply :=
  orBad s (byteFieldBad pl)
    (let op := leField pl 0 1
     if op = 1 ∨ op = 2 ∨ op = 3 ∨ op = 6 then
       if jobRuns s then refuse s 0x1A 0 else startLong s e op
     else refuse s badLetter 0)

/-! ## HANDOVER (R352) -/

/-- A hand-over at once: its outcome leaves from the new active, or, when declined, from here. -/
def handoverAtOnce (s : State) (e : Env) : Reply :=
  let s' := startHandover s
  if s'.tho.ho = .no then done s'
  else .later { s' with tho := { s'.tho with letters := s'.tho.letters ++ [e] } }

def runHandover (s : State) (e : Env) (pl : List Byte) : Reply :=
  orBad s (byteFieldBad pl)
    (match leField pl 0 1 with
     | 0 => handoverAtOnce s e
     | 1 => if jobRuns s then done { s with tho := { s.tho with armed := true } } else handoverAtOnce s e
     | 2 => done { s with tho := { s.tho with armed := false } }
     | _ => refuse s badLetter 0)

/-! ## Dead letters (R126) -/

def runDeadRead (s : State) (_e : Env) (pl : List Byte) : Reply :=
  orBad s (lengthBad pl 4)
    (let n := leField pl 1 1
     if n = 0 ∨ 63 < n then refuse s badLetter 1
     else if leField pl 2 2 ≠ 0 then refuse s badLetter 2
     else
       let all := (List.range s.round.dead.length).zip s.round.dead
       .now (Ans.result (((all.drop (leField pl 0 1)).take n).flatMap (fun x => deadBytes s x.1 x.2))) s)

def runDeadClear (s : State) (_e : Env) (pl : List Byte) : Reply :=
  orBad s (lengthBad pl 0)
    (done (setFld { s with round := { s.round with dead := [] } } F.ROUND_RND_DEAD_OVERWRITES 0))

/-! ## STREAM_OPEN -/

/-- R119 opens the stream before any check of the letter; what reaches here is a copy answered from the record. -/
def runStreamOpen (s : State) (_e : Env) (_pl : List Byte) : Reply := done s

/-! ## Ring management (R112, R123, R553) -/

def runEnumerate (s : State) (e : Env) (pl : List Byte) : Reply :=
  orBad s (lengthBad pl 0)
    (.now (Ans.result (leBytes 8 s.therm.dieId.toNat ++ [ownSrc s, s.therm.pair.getD 0xFF,
      BitVec.ofNat 8 (bit s.boot.strap 0), BitVec.ofNat 8 (roleNum s.twin.role)] ++ leBytes 4 (pairEpoch s).toNat
      ++ [e.hops, 0, 0, 0])) s)

/-- A device whose die identity differs does nothing and stays silent. -/
def runAssign (s : State) (_e : Env) (pl : List Byte) : Reply :=
  orBad s (lengthBad pl 12)
    (if leField pl 4 8 ≠ s.therm.dieId.toNat then .silent s
     else if 0x3F < leField pl 0 1 then refuse s badLetter 0
     else if 31 < leField pl 1 1 then refuse s badLetter 1
     else orBad s (zerosBad pl 2 2)
       (done (alarmMismatch (pairMismatch s) { s with therm := { s.therm with
          devAddr := some (BitVec.ofNat 8 (leField pl 0 1)), pair := some (BitVec.ofNat 8 (leField pl 1 1)) } })))

/-- One port's 12 bytes. -/
def portStatus (s : State) (p : Port) (i : Nat) : List Byte :=
  [BitVec.ofNat 8 (bit p.up 0), BitVec.ofNat 8 (bit p.wrapped 0), 0, 0]
    ++ leBytes 4 (fld s (F.ROUND_RND_PORT_RESENDS i)) ++ leBytes 4 (fld s (F.ROUND_RND_PORT_DISCARDS i))

def runLinkStatus (s : State) (_e : Env) (pl : List Byte) : Reply :=
  orBad s (lengthBad pl 0) (.now (Ans.result (portStatus s s.round.east 0 ++ portStatus s s.round.west 1)) s)

def runStatus (s : State) (_e : Env) (pl : List Byte) : Reply :=
  orBad s (lengthBad pl 0) (.now (Ans.result (leBytes 4 (scStatus s).toNat)) s)

/-! ## The commands -/

def execWrite (e : Env) (pl : List Byte) (s : State) : Res := .next (accept 0x01 runWrite s e pl)
def execArm (e : Env) (pl : List Byte) (s : State) : Res := .next (accept 0x02 runArm s e pl)
def execVwrite (e : Env) (pl : List Byte) (s : State) : Res := .next (accept 0x03 runVwrite s e pl)
def execVarm (e : Env) (pl : List Byte) (s : State) : Res := .next (accept 0x04 runVarm s e pl)
def execRead (e : Env) (pl : List Byte) (s : State) : Res := .next (accept 0x05 runRead s e pl)
def execVread (e : Env) (pl : List Byte) (s : State) : Res := .next (accept 0x06 runVread s e pl)
def execInbox (e : Env) (pl : List Byte) (s : State) : Res := .next (accept 0x09 runInbox s e pl)
def execUnload (e : Env) (pl : List Byte) (s : State) : Res := .next (accept 0x11 runUnload s e pl)
def execRestart (e : Env) (pl : List Byte) (s : State) : Res := .next (accept 0x12 runRestart s e pl)
def execHaltSteward (e : Env) (pl : List Byte) (s : State) : Res := .next (accept 0x13 runHalt s e pl)
def execDramRead (e : Env) (pl : List Byte) (s : State) : Res := .next (accept 0x15 runDramRead s e pl)
def execJob (e : Env) (pl : List Byte) (s : State) : Res := .next (accept 0x18 runJobLetter s e pl)
def execLong (e : Env) (pl : List Byte) (s : State) : Res := .next (accept 0x20 runLong s e pl)
def execLongDramRetrain (e : Env) (s : State) : Res := .next (accept 0x20 runLong s e [1, 0, 0, 0])
def execLongPodScan (e : Env) (s : State) : Res := .next (accept 0x20 runLong s e [2, 0, 0, 0])
def execLongThermosCommit (e : Env) (s : State) : Res := .next (accept 0x20 runLong s e [3, 0, 0, 0])
def execLongLaneRetune (e : Env) (s : State) : Res := .next (accept 0x20 runLong s e [6, 0, 0, 0])
def execHandover (e : Env) (pl : List Byte) (s : State) : Res := .next (accept 0x22 runHandover s e pl)
def execHandoverNow (e : Env) (s : State) : Res := .next (accept 0x22 runHandover s e [0, 0, 0, 0])
def execHandoverArm (e : Env) (s : State) : Res := .next (accept 0x22 runHandover s e [1, 0, 0, 0])
def execHandoverCancel (e : Env) (s : State) : Res := .next (accept 0x22 runHandover s e [2, 0, 0, 0])
def execDeadRead (e : Env) (pl : List Byte) (s : State) : Res := .next (accept 0x28 runDeadRead s e pl)
def execDeadClear (e : Env) (pl : List Byte) (s : State) : Res := .next (accept 0x29 runDeadClear s e pl)
def execStreamOpen (e : Env) (pl : List Byte) (s : State) : Res := .next (accept 0x2A runStreamOpen s e pl)
def execEnumerate (e : Env) (pl : List Byte) (s : State) : Res := .next (accept 0x40 runEnumerate s e pl)
def actAssign (e : Env) (pl : List Byte) (s : State) : Res := .next (accept 0x41 runAssign s e pl)
def execLinkStatus (e : Env) (pl : List Byte) (s : State) : Res := .next (accept 0x42 runLinkStatus s e pl)
def execStatus (e : Env) (pl : List Byte) (s : State) : Res := .next (accept 0x43 runStatus s e pl)

/-! ## The end of a long operation (R127) -/

/-- DRAM retrain (R443): bit `k` of `ok` says that channel `k` trained; one that failed goes on with its previous
results. -/
def retrainEnd (s : State) (ok : BitVec 42) : State :=
  let m := (ok.toNat) % 16
  let mask := BitVec.ofNat 5 (fld s F.DRAM_CFG_RATE_MASK)
  let s := setFld (setFld s F.DRAM_STAT_TRAINED (fld s F.DRAM_STAT_TRAINED ||| m)) F.DRAM_STAT_RETRAIN_FAIL (15 - m)
  { s with
    drm := { s.drm with
      tuned := Vector.ofFn (fun k : Fin 4 => if ok.getLsbD k then mask else s.drm.tuned[k])
      drift := Vector.ofFn (fun k : Fin 4 => if ok.getLsbD k then 0 else s.drm.drift[k]) }
    therm := { s.therm with dirty := true } }

/-- What the operation leaves. -/
def longEffect (s : State) (b : Busy) (ok : BitVec 42) : State :=
  match b.op with
  | 1 => retrainEnd s ok
  | 3 => fullCommit s
  | 4 => installFw s b.image
  | 6 => retuneEnd s ok
  | _ => s

/-- LONG_OPERATION_END: the operation is over; the resistance scan ends when no pod scans, the resync at RESYNC_END. -/
def execLongOperationEnd (okMask : BitVec 42) (s : State) : Res :=
  .next (match s.round.busy with
    | none => s
    | some b =>
      if b.op = 5 ∨ (b.op = 2 ∧ (podsFin s).any (fun p => (link s p).scanning)) then s
      else endLong (longEffect s b okMask) b)

end Sys2Proof.Machine
end

