-- ==== Sys2Proof/Machine/Parcels.lean ====
section
/-! DEFINITION. Parcels and the letters they carry: LOAD, DRAM_WRITE and FIRMWARE (R118, R91 to R95, R342, R512). -/
namespace Sys2Proof.Machine
open Sys2Proof

/-- Kinds that travel as bulk parcels. -/
def parcelKind (kind : Byte) : Bool := kind == 0x10 || kind == 0x14 || kind == 0x21
/-- The most bytes of a parcel. -/
def parcelMax : Nat := 2 ^ 28

/-! ## Envelopes of a parcel (R118) -/

/-- The whole letter is refused: it would pass 256 MiB. -/
def runTooLong (s : State) (_e : Env) (_pl : List Byte) : Reply := refuse s badLetter 0xFFFF

/-- The letter's data go to the twin in bulk frames (R342): a DRAM_WRITE to the pair address. -/
def mirrorsData (s : State) (e : Env) : Bool := mirrors s && e.kind == 0x14 && toPair e

/-- They go as the envelopes arrive: `all` is the payload up to the end of this envelope, which began at `off`. -/
def sendPart (s : State) (e : Env) (all : List Byte) (off : Nat) : State :=
  let start := Nat.max 8 off
  let a := leField all 0 8 + (start - 8)
  if mirrorsData s e && decide (start < all.length) && dramFits s a (all.length - start) then
    sendDram s a (all.drop start)
  else s

/-- FIRST, not LAST: the sequence is checked, and a parcel opens at offset 0. -/
def firstEnvelope (s : State) (e : Env) (pl : List Byte) : State :=
  let s := dropParcel s e
  let x := streamOf s e
  let d := (e.seq - x.expected).toInt
  if e.cls = 3 ∨ e.stream = 15 then refuseUnsequenced s e pl
  else if !x.isOpen then bounce s e 4 0 0
  else if 0 < d then bounce s e 2 0 x.expected
  else if d < 0 then
    match x.record.find? (fun o => o.seq == e.seq) with
    | some o => resendRecord s e o
    | none => bounce s e 3 0 x.expected
  else if e.aux = 0 then
    let s' := sendPart s e pl 0
    { s' with round := { s'.round with
        parcels := s'.round.parcels ++ [⟨e.dest, e.src, e.stream, e.seq, e.kind, pl.length, pl, mirrorsData s e⟩] } }
  else s

/-- The envelope is the parcel's next one. -/
def nextOf (e : Env) (p : Parcel) : Bool := p.seq == e.seq && p.kind == e.kind && e.aux.toNat == p.aux

/-- Not FIRST, not LAST: the open parcel grows; anything else discards it. `none` when a refusal waits for room. -/
def middleEnvelope (s : State) (e : Env) (pl : List Byte) : Option State :=
  match s.round.parcels.find? (parcelIn e) with
  | none => some s
  | some p =>
    if nextOf e p then
      if parcelMax < p.aux + pl.length then executeRoom runTooLong (dropParcel s e) e (p.data ++ pl)
      else
        let q := { p with aux := p.aux + pl.length, data := p.data ++ pl, sent := p.sent && mirrorsData s e }
        let s := if q.sent then sendPart s e q.data p.aux else s
        some { s with round := { s.round with parcels := s.round.parcels.map (fun x => if parcelIn e x then q else x) } }
    else some (dropParcel s e)

def goEnvelope (s : State) (e : Env) (pl : List Byte) : Option State :=
  match s.round.busy with
  | some b => some (if e.first then bounceBusy s e b else s)
  | none => if e.first then some (firstEnvelope s e pl) else middleEnvelope s e pl

/-- PARCEL_ENVELOPE: an envelope that is not the last of its parcel. -/
def execParcelEnvelope (e : Env) (pl : List Byte) (s : State) : Res :=
  .next (if parcelKind e.kind && !e.last then acceptWith e.kind goEnvelope s e pl else s)

/-- A parcel of one envelope that would be taken has an offset out of order (R118): its sequence fits, its AUX is not 0. -/
def badOffset (s : State) (e : Env) : Bool :=
  s.round.busy.isNone && e.cls != 3 && e.stream != 15 && (streamOf s e).isOpen && e.seq == (streamOf s e).expected
    && e.aux != 0

/-- LAST: the letter executes on the whole payload; alone (FIRST and LAST) it is a parcel of one envelope. -/
def goLast (run : State → Env → List Byte → Reply) (s : State) (e : Env) (pl : List Byte) : Option State :=
  if e.first then
    if badOffset s e then some (dropParcel s e) else acceptTaken run (dropParcel s e) e pl
  else if s.round.busy.isSome then some s
  else match s.round.parcels.find? (parcelIn e) with
  | none => some s
  | some p =>
    if nextOf e p then
      (executeRoom (if parcelMax < p.aux + pl.length then runTooLong else run) s e (p.data ++ pl)).map
        (fun t => dropParcel t e)
    else some (dropParcel s e)

def acceptParcel (kind : Byte) (run : State → Env → List Byte → Reply) (s : State) (e : Env) (pl : List Byte) : State :=
  if e.last then acceptWith kind (goLast run) s e pl else s

/-- PARCEL_TIMEOUT: 100 ms without a next envelope; one that has arrived is taken and counts (R118, R367). -/
def execParcelTimeout (dest src : Byte) (stream : BitVec 4) (s : State) : Res :=
  .next (match s.round.parcels.find? (fun p => p.dest == dest && p.src == src && p.stream == stream) with
    | none => s
    | some p =>
      if s.round.inbox.any (fun x => parcelIn x.1 p && nextOf x.1 p && !x.1.first) then lateWin s
      else { s with round := { s.round with parcels := s.round.parcels.erase p } })

/-! ## LOAD (R91 to R95) -/

def loadMagic : Nat := 0x6F6E7947

/-- Claim record `i` of an image. -/
def claimAt (pl : List Byte) (i : Nat) : Claim :=
  { kind := leField pl (32 + 8 * i) 1, excl := leField pl (33 + 8 * i) 1 % 2 == 1, first := leField pl (34 + 8 * i) 2,
    count := leField pl (36 + 8 * i) 4 }

def imageOf (pl : List Byte) : Image :=
  let nc := leField pl 7 1
  let code := leField pl 0x0C 4
  let data := leField pl 0x10 4
  { steward := leField pl 6 1, claims := (List.range nc).map (claimAt pl), entry := leField pl 8 4,
    code := (pl.drop (32 + 8 * nc)).take code, data := (pl.drop (32 + 8 * nc + code)).take data,
    zeroed := leField pl 0x14 4 }

/-- Magic, version, sizes and CRC of an image (R91, R94). -/
def imageOk (pl : List Byte) : Bool :=
  let nc := leField pl 7 1
  let code := leField pl 0x0C 4
  let data := leField pl 0x10 4
  decide (32 ≤ pl.length) && leField pl 0 4 == loadMagic && leField pl 4 2 == 1 && decide (leField pl 6 1 ≤ 5)
    && decide (nc ≤ 64) && leField pl 8 4 % 4 == 0 && decide (leField pl 8 4 < 65536) && code % 4 == 0
    && decide (code ≤ 65536) && decide (data + leField pl 0x14 4 ≤ 131072) && leField pl 0x1C 4 == 0
    && pl.length == 32 + 8 * nc + code + data && leField pl 0x18 4 == (crc32c (pl.drop 32)).toNat

/-- A malformed claim record (R93). -/
def claimMalformed (pl : List Byte) (i : Nat) : Bool :=
  let c := claimAt pl i
  decide (c.kind < 1) || decide (5 < c.kind) || decide (2 ≤ leField pl (33 + 8 * i) 1) || c.count == 0
    || decide (claimTop c.kind < c.first + c.count - 1)

/-- The ball of a pin function (R545), by which claims conflict (R546). -/
def claimBall (idx : Nat) : Nat := auxBall idx

/-- Two claims conflict: the same index, or functions of one ball, unless both are shared (R94, R546). -/
def claimsConflict (a b : Claim) : Bool :=
  a.kind == b.kind && (a.excl || b.excl) &&
    (if a.kind = 2 then
      (List.range a.count).any (fun i => (List.range b.count).any (fun j =>
        claimBall (a.first + i) == claimBall (b.first + j)))
    else decide (a.first < b.first + b.count) && decide (b.first < a.first + a.count))

/-- A claim meets the resident's (R369): any claim on those indices, or on a function of READY's ball. -/
def residentConflict (c : Claim) : Bool :=
  (List.range c.count).any (fun i =>
    residentClaims c.kind (c.first + i) || (c.kind == 2 && claimBall (c.first + i) == claimBall 0x0C))

/-- The claims of the loaded programs. -/
def loadedClaims (s : State) : List Claim :=
  s.stewards.toList.flatMap (fun w => match w.prog with
    | some im => im.claims
    | none => [])

/-- An exclusive claim on the trace stations (R521). -/
def traceExclusive (c : Claim) : Bool := c.kind == 1 && c.excl && decide (c.first ≤ 0x11) && decide (0x11 < c.first + c.count)

/-- The first claim record that conflicts: with the resident, a loaded program, or an earlier record of the image. -/
def conflictAt (s : State) (cs : List Claim) : Option Nat :=
  (List.range cs.length).find? (fun i =>
    match cs[i]? with
    | some c => residentConflict c || traceExclusive c || (loadedClaims s).any (claimsConflict c)
        || (cs.take i).any (claimsConflict c)
    | none => false)

/-- Install an image: code, local data and its zeroed part; the steward stays halted.  What no part of the image covers,
in instruction memory beyond the code and in local data beyond the two sizes, keeps its bytes (DESIGN CHOICE, log
entry 99). -/
def installImage (s : State) (im : Image) : State :=
  modStw s (Fin.ofNat 8 im.steward) (fun w => { w with
    prog := some im, run := .halted, imem := memStore w.imem 0 im.code,
    dmem := memClear (memStore w.dmem 0 im.data) im.data.length im.zeroed })

/-- The steward that an image names. -/
def imageSteward (im : Image) : Fin 8 := Fin.ofNat 8 im.steward

def runLoad (s : State) (_e : Env) (pl : List Byte) : Reply :=
  if !imageOk pl then refuse s 0x17 0
  else
    let im := imageOf pl
    match (List.range im.claims.length).find? (claimMalformed pl) with
    | some i => refuse s 0x17 i
    | none =>
      if (stw s (imageSteward im)).prog.isSome then refuse s 0x18 0
      else match conflictAt s im.claims with
      | some i => refuse s 0x16 i
      | none =>
        let s := if mirrors s then sendBulk s (.image im) else s
        done (startSteward (installImage (journal s (.load im)) im) (imageSteward im) 0)

def execLoad (e : Env) (pl : List Byte) (s : State) : Res := .next (acceptParcel 0x10 runLoad s e pl)

/-! ## DRAM_WRITE (R116, R342) -/

def runDramWrite (s : State) (e : Env) (pl : List Byte) : Reply :=
  if pl.length < 8 then refuse s badLetter pl.length
  else
    let a := leField pl 0 8
    let data := pl.drop 8
    if dramFits s a data.length then
      let sent := match s.round.parcels.find? (parcelIn e) with      -- what went as the envelopes arrived
        | some p => if p.sent then p.aux else 0
        | none => 0
      let s := sendPart (dramWrite s a data) e pl sent
      if toPair e && isActive s && !solo s then done (trackRange s a data.length) else done s
    else refuse s 0x1C 0

def execDramWrite (e : Env) (pl : List Byte) (s : State) : Res := .next (acceptParcel 0x14 runDramWrite s e pl)

/-! ## FIRMWARE (R127, R512) -/

def runFirmware (s : State) (e : Env) (pl : List Byte) : Reply :=
  if jobRuns s then refuse s 0x1A 0
  else if !fwValid s pl then refuse s 0x1B 0
  else
    let s := if mirrors s && toPair e then sendBulk s (.firmware pl) else s
    .later (beginLong s 4 (some e) pl)

def execFirmware (e : Env) (pl : List Byte) (s : State) : Res := .next (acceptParcel 0x21 runFirmware s e pl)

end Sys2Proof.Machine
end

