-- ==== Sys2Proof/Machine/Calls.lean ====
section
/-! DEFINITION. CALL and its resident routines (R116, R117, R552): cameras, health, claims, keys, restart and the twin's
local stations. -/
namespace Sys2Proof.Machine
open Sys2Proof

/-- ROUTINE_ERROR. -/
def fails (s : State) (detail : Nat) : Reply := refuse s 0x1D detail
/-- The argument lies outside its range and the routine names no DETAIL for it (R552). -/
def outOfRange (s : State) : Reply := fails s 0xFFFF
def resultWords (ws : List Word) : Ans := Ans.result (ws.flatMap (fun w => leBytes 4 w.toNat))

/-- The letter's argument words, and whether bytes of a further word follow them. -/
structure CallArgs where
  words : List Word
  more : Bool
deriving DecidableEq, Repr

/-- A routine takes exactly `n` words (R552): the first word that is missing or surplus is the DETAIL. -/
def withArgs (s : State) (args : CallArgs) (n : Nat) (run : List Word → Reply) : Reply :=
  if args.words.length < n then refuse s badLetter (4 + 4 * args.words.length)
  else if n < args.words.length ∨ args.more = true then refuse s badLetter (4 + 4 * n)
  else run args.words

def argNat (args : List Word) (i : Nat) : Nat := (args.getD i 0).toNat

/-- A routine that answers later waits with its letter. -/
def waitCall (s : State) (e : Env) (routine : Nat) (args : List Word) : State :=
  { s with round := { s.round with calls := s.round.calls ++ [(e, routine, args)] } }

/-! ## Cameras (R284) -/

def camRoutine (s : State) (e : Env) (routine : Nat) (args : List Word) : Reply :=
  let c := argNat args 0
  if 3 < c then outOfRange s
  else
    let n : Fin 4 := Fin.ofNat 4 c
    if fld s (F.SIGHT_CAM_STAT_LINK n) = 0 then fails s 1
    else .later (pushOps (waitCall s e routine args) n [.routine (routine == 0x0100) (args.getD 1 0) (args.getD 2 0)])

/-- The routine that waits for camera `n`, oldest first. -/
def camCall (s : State) (n : Fin 4) : Option (Env × Nat × List Word) :=
  s.round.calls.find? (fun c => (c.2.1 == 0x0100 || c.2.1 == 0x0101) && argNat c.2.2 0 == n.val)

/-- CAM_CONTROL_ACK: the outstanding command is answered; a routine reaches its outcome (R284). -/
def execCamControlAck (n : Fin 4) (ok : Bool) (v : Word) (s : State) : Res :=
  match (cam s n).ctl with
  | .routine read _ _ :: _ =>
    let s := camAck s n ok v
    .next (match camCall s n with
      | some c => settleCall s c (if ok then resultWords (if read then [v] else []) else Ans.refuse 0x1D 2)
      | none => s)
  | _ => .next (camAck s n ok v)

/-- CAM_ROUTINE_TIMEOUT: 10 ms without an answer; one that was taken wins and counts (R284, R367). -/
def execCamRoutineTimeout (n : Fin 4) (s : State) : Res :=
  .next (match camCall s n with
    | none => lateWin s
    | some c =>
      let ctl := (cam s n).ctl
      let isR := fun o : CamOp => match o with
        | .routine _ _ _ => true
        | _ => false
      let s := match ctl with
        | [] => s
        | o :: rest =>
          if isR o then popOp s n
          else modCam s n (fun x => { x with ctl := o :: rest.eraseP isR })
      settleCall s c (Ans.refuse 0x1D 3))

/-! ## Health (R321, R322) -/

def routineScanApply (s : State) (args : List Word) : Reply :=
  let rtol := argNat args 0
  if rtol < 1 ∨ 50 < rtol then outOfRange s
  else if jobDeclared s then fails s 1
  else
    let (s, dead, ok) := scanApply s rtol (argNat args 1 % 2 == 1)
    .now (resultWords [wNat dead, wNat ok]) s

def routineHltReset (s : State) (args : List Word) : Reply :=
  let first := argNat args 0
  let count := argNat args 1
  if count < 1 ∨ 256 < count ∨ 4 < argNat args 2 then outOfRange s
  else if 327680 < first + count then fails s 3
  else if lqFree s < count then fails s 2
  else
    let runs := jobRuns s
    let (s, x) := hltReset s first count (argNat args 2) (argNat args 3 % 2 == 1)
    .now (resultWords (if runs then [wNat x] else [])) s

/-! ## Claims (R371) -/

/-- The claim on an index is exclusive. -/
def claimExclusive (s : State) (kind idx : Nat) : Bool :=
  residentClaims kind idx || (loadedClaims s).any (fun c => claimCovers c kind idx && c.excl)

def routineClaimRead (s : State) (args : List Word) : Reply :=
  let kind := argNat args 0
  let idx := argNat args 1
  if kind < 1 ∨ 5 < kind ∨ claimTop kind < idx then fails s 1
  else
    let held := ((List.finRange 8).map (fun k => wBit (k.val != 7 && hasClaim s k kind idx) k.val)).sum
    .now (resultWords [wNat (held + wBit (claimExclusive s kind idx) 8)]) s

/-! ## Keys and restart (R511) -/

def routineKeyEnroll (s : State) (args : List Word) : Reply :=
  let i := argNat args 0
  if jobDeclared s then fails s 1
  else if i < 1 ∨ 3 < i then fails s 3
  else
    let k : Fin 4 := Fin.ofNat 4 i
    if s.therm.keyState[k] ≠ 0 then fails s 2
    else done (enrollKey s k ((args.drop 1).flatMap (fun w => leBytes 4 w.toNat)))

/-- A slot that holds no valid key has nothing to revoke: an argument out of range (R510). -/
def routineKeyRevoke (s : State) (args : List Word) : Reply :=
  let i := argNat args 0
  if jobDeclared s then fails s 1
  else if i < 1 ∨ 3 < i then fails s 3
  else
    let k : Fin 4 := Fin.ofNat 4 i
    if bootSignedBy s k then fails s 4
    else if s.therm.keyState[k] = 0 then outOfRange s
    else done (revokeKey s k)

/-- The reset comes 1 ms after the outcome leaves, as RESTART_RESET; MODE 1 resets the twin first. -/
def routinePairRestart (s : State) (args : List Word) : Reply :=
  let mode := argNat args 0
  if jobDeclared s then fails s 1
  else if 1 < mode then fails s 2
  else done { s with boot := { s.boot with restartDue := some mode } }

/-! ## PEER_WRITE (R525) -/

/-- The pairs of the arguments. -/
def peerPairs (args : List Word) : List (Nat × Word) :=
  (List.range (argNat args 0)).map (fun i => (argNat args (1 + 2 * i), args.getD (2 + 2 * i) 0))

/-- A station of a local group other than ROUND. -/
def peerLocal (a : Nat) : Bool := stnClass a == .local && stnGroup a != some 0

def peerWriteChecked (s : State) (e : Env) (args : List Word) : Reply :=
  let ws := peerPairs args
  if !(isActive s && s.twin.joined) then fails s 1
  else if ws.any (fun w => !peerLocal w.1) then fails s 2
  else match (List.range ws.length).find? (fun i => !immediateOk (ws.getD i (0, 0)).1) with
  | some i => .now { resultWords [wNat i] with code := 0x1D, detail := 3 } s
  | none =>
    let s := sendBulk s (.peerWrite ws)
    .later (waitCall s e 0x0500 (args ++ [s.twin.bseqOut]))

def routinePeerWrite (s : State) (e : Env) (args : CallArgs) : Reply :=
  if args.words.isEmpty then refuse s badLetter 4
  else if argNat args.words 0 < 1 ∨ 6 < argNat args.words 0 then outOfRange s
  else withArgs s args (1 + 2 * argNat args.words 0) (peerWriteChecked s e)

/-- A PEER_WRITE that waits: its letter and its words without the frame number, and the frame number. -/
def peerCall (c : Env × Nat × List Word) : (Env × Nat × List Word) × Word := ((c.1, c.2.1, c.2.2.dropLast), c.2.2.getLastD 0)

/-- It reaches its outcome. -/
def settlePeer (s : State) (c : Env × Nat × List Word) (a : Ans) : State :=
  let s := { s with round := { s.round with calls := s.round.calls.erase c } }
  settleCall s (peerCall c).1 a

/-- The twin has acknowledged frames up to BSEQ: those writes are DONE, with the twin's device address, which no frame
of the twin link carries: a free value. -/
def settlePeers (s : State) : State :=
  let ready := s.round.calls.filter (fun c => c.2.1 == 0x0500 && decide (((peerCall c).2 - s.twin.bseqAck).toInt ≤ 0))
  ready.foldl (fun s c => settlePeer (useFree s) c (resultWords [Config.freeWord s.fresh &&& 0x3F])) s

/-- PEER_WRITE_TIMEOUT: 1 ms without an acknowledgement; without a write that waits, it had arrived (R525, R367). -/
def execPeerWriteTimeout (s : State) : Res :=
  .next (match s.round.calls.find? (fun c => c.2.1 == 0x0500) with
    | none => lateWin s
    | some c => settlePeer s c (Ans.refuse 0x1D 4))

/-! ## CALL -/

/-- Run a routine by its number; an unknown one fails with DETAIL 0 (R125). -/
def routine (s : State) (e : Env) (n : Nat) (args : CallArgs) : Reply :=
  match n with
  | 0x0100 => withArgs s args 2 (camRoutine s e n)
  | 0x0101 => withArgs s args 3 (camRoutine s e n)
  | 0x0200 => withArgs s args 2 (routineScanApply s)
  | 0x0201 => withArgs s args 4 (routineHltReset s)
  | 0x0300 => withArgs s args 2 (routineClaimRead s)
  | 0x0400 => withArgs s args 13 (routineKeyEnroll s)
  | 0x0401 => withArgs s args 1 (routineKeyRevoke s)
  | 0x0402 => withArgs s args 1 (routinePairRestart s)
  | 0x0500 => routinePeerWrite s e args
  | _ => fails s 0

/-- The routines that the chapters define; each looks at its number of words itself (R552). -/
def knownRoutine (n : Nat) : Bool :=
  [0x0100, 0x0101, 0x0200, 0x0201, 0x0300, 0x0400, 0x0401, 0x0402, 0x0500].contains n

def argsOf (pl : List Byte) : List Word := (List.range ((pl.length - 4) / 4)).map (fun i => word32 pl (4 + 4 * i))

def runCall (s : State) (e : Env) (pl : List Byte) : Reply :=
  if pl.length < 4 then refuse s badLetter pl.length
  else if leField pl 2 2 ≠ 0 then refuse s badLetter 2
  else if !knownRoutine (leField pl 0 2) && decide (60 < pl.length) then refuse s badLetter 60
  else if !knownRoutine (leField pl 0 2) && pl.length % 4 != 0 then refuse s badLetter pl.length
  else routine s e (leField pl 0 2) ⟨argsOf pl, pl.length % 4 != 0⟩

def execCall (e : Env) (pl : List Byte) (s : State) : Res := .next (accept 0x08 runCall s e pl)
def execCamRead (e : Env) (args : List Word) (s : State) : Res := .next (accept 0x08 runCall s e (callBytes 0x0100 args))
def execCamWrite (e : Env) (args : List Word) (s : State) : Res := .next (accept 0x08 runCall s e (callBytes 0x0101 args))
def execHltScanApply (e : Env) (args : List Word) (s : State) : Res :=
  .next (accept 0x08 runCall s e (callBytes 0x0200 args))
def execHltReset (e : Env) (args : List Word) (s : State) : Res := .next (accept 0x08 runCall s e (callBytes 0x0201 args))
def execClaimRead (e : Env) (args : List Word) (s : State) : Res := .next (accept 0x08 runCall s e (callBytes 0x0300 args))
def execKeyEnroll (e : Env) (args : List Word) (s : State) : Res := .next (accept 0x08 runCall s e (callBytes 0x0400 args))
def execKeyRevoke (e : Env) (args : List Word) (s : State) : Res := .next (accept 0x08 runCall s e (callBytes 0x0401 args))
def execPairRestart (e : Env) (args : List Word) (s : State) : Res := .next (accept 0x08 runCall s e (callBytes 0x0402 args))
def execPeerWrite (e : Env) (args : List Word) (s : State) : Res := .next (accept 0x08 runCall s e (callBytes 0x0500 args))

/-! ## Kinds outside the table (R125) -/

/-- A kind that R116 lists, or that is no letter (R107). -/
def knownKind (k : Byte) : Bool :=
  [0x01, 0x02, 0x03, 0x04, 0x05, 0x06, 0x08, 0x09, 0x10, 0x11, 0x12, 0x13, 0x14, 0x15, 0x18, 0x20, 0x21, 0x22, 0x28,
   0x29, 0x2A, 0x40, 0x41, 0x42, 0x43, 0x48, 0x49, 0x4A, 0x80, 0x81, 0x90].contains k

def runUnknown (s : State) (_e : Env) (_pl : List Byte) : Reply := refuse s badLetter 0

/-- An unknown kind is BAD_LETTER in its sequence; in class and stream of ring management, unsequenced. -/
def execUnknownLetterKind (e : Env) (pl : List Byte) (s : State) : Res :=
  .next (if knownKind e.kind then s else accept e.kind runUnknown s e pl)

end Sys2Proof.Machine
end

