-- ==== Sys2Proof/Machine/Twin.lean ====
section
/-! DEFINITION. What the standby takes from its twin: the entries of hampers, bulk frames, and the snapshot the active
sends (R236, R338, R340, R342, R359, R360). -/
namespace Sys2Proof.Machine
open Sys2Proof

/-! ## PLACE (R236) -/

/-- The pages take the first print lines that the active gave them. -/
def placePages (s : State) (pages : List Page) : State :=
  match s.jobs.running with
  | some j =>
    let place := fun (p : Page) => match pages.find? (fun q => q.number == p.number) with
      | some q => { p with p := q.p }
      | none => p
    { s with jobs := { s.jobs with running := some { j with pages := j.pages.map place } } }
  | none => s

/-- The instant, in 312.5 ps units, of a TB-PRESS value just past. -/
def pressInstant (s : State) (tb : Nat) : Nat :=
  s.clk.now - (tbVal s 0 - BitVec.ofNat 32 tb).toNat * 16 / 5

/-- ALIGN takes `e` sub-lines more, and W with it. -/
def shiftAlign (s : State) (e : Int) : State :=
  { s with plc := { s.plc with align := s.plc.align + e, refW := s.plc.refW + fix e } }

/-- ALIGN follows T(L) − W at the boundary's time: outright after joining, else within 32 sub-lines; 16 hampers in a
row beyond them withdraw eligibility. -/
def alignTo (s : State) (line tb : Nat) : State :=
  let e := target s line - wAt s (pressInstant s tb)
  let s := setFldInt s F.PLC_TWIN_ERR e
  if s.plc2.firstHamper then
    shiftAlign { s with plc2 := { s.plc2 with firstHamper := false, twinErr := 0 } } e
  else if e.natAbs ≤ 32 then
    shiftAlign { s with plc2 := { s.plc2 with twinErr := 0 } } e
  else
    let s := { s with plc2 := { s.plc2 with twinErr := s.plc2.twinErr + 1 } }
    if s.plc2.twinErr = 16 then setNotElig (alarm s 122 []) 6 true else s

/-- Rows go on from the later of the two next lines. -/
def laterLines (own : Vector Nat 192) (h : List Nat) : Vector Nat 192 :=
  Vector.ofFn (fun i => Nat.max own[i] (h.getD i.val 0))

/-- The placement fields of the active, taken over (R236). -/
def takePlace (s : State) (x : PlaceSnap) : State :=
  placePages { s with
    plc := { s.plc with anchors := x.anchors, wmax := some x.wmax }
    plc2 := { s.plc2 with
      nextFire := laterLines s.plc2.nextFire x.nextLine, cmp := x.cmp, cmpBelow := x.cmpBelow, cueW := x.cueW }
    scr := { s.scr with
      credit := Vector.ofFn (fun i => x.credits.getD i.val 0), hist := Vector.ofFn (fun i => x.hist.getD i.val []) } }
    x.pages

/-- The PLACE section of a hamper; `measure` when its close was a line boundary. -/
def applyPlace (s : State) (line tb : Nat) (x : PlaceSnap) (measure : Bool) : State :=
  if jobRuns s then
    let s := takePlace s x
    let fresh := s.plc2.firstHamper || !s.twin.joined
    let s := if fresh && measure then
        { s with plc := { s.plc with boundary := line + 1, scLine := some line } }
      else s
    if measure && s.twin.joined then alignTo s line tb else s
  else s

/-! ## Entries (R338, R340) -/

/-- A version activates as the hamper reports it: the queued writes up to its effective line. -/
def applyMapAct (s : State) (named x : Nat) : State :=
  let es := byLine (s.scr.lq.filter (fun e => decide (e.line ≤ x)))
  buildVersion { s with scr := { s.scr with lq := s.scr.lq.filter (fun e => !decide (e.line ≤ x)) } } es named x

/-- A change of a pair-address stream: closed, it holds no record; open, it adds the outcome made. -/
def applyRound (s : State) (src : Byte) (stream : BitVec 4) (isOpen : Bool) (expected : Word) (o : Option Outcome) : State :=
  let same := fun (x : Stream) => x.pair && x.src == src && x.stream == stream
  let old := (s.round.streams.find? same).getD ⟨true, src, stream, false, 0, []⟩
  let rec' := if isOpen then (match o with
    | some o => record16 old.record o
    | none => old.record) else []
  { s with round := { s.round with
      streams := ⟨true, src, stream, isOpen, expected, rec'⟩ :: s.round.streams.filter (fun x => !same x) } }

/-- One effect of a hamper on the standby. -/
def applyEntry (measure : Bool) (s : State) : JEntry → State
  | .place line tb x => applyPlace s line tb x measure
  | .skip l cs => { s with scr := { s.scr with skipped := s.scr.skipped ++ cs.map (fun c => (l, c)) } }
  | .stn a v => noteKept s (storeEffect s a v) a
  | .vstn a v => storeVec s a v
  | .lq l a v => armLq s ⟨l, .scalar a v, none⟩
  | .vlq l a v => armLq s ⟨l, .vector a v, none⟩
  | .mapAct named x => applyMapAct s named x
  | .mapRet _ => retireVersion s
  | .hlt e => armLq s e
  | .round src stream isOpen expected o => applyRound s src stream isOpen expected o
  | .scratch k chunk v =>
    { s with shared := memStore s.shared (0x1FFA00 + k.val * 0x100 + chunk * 32) (bytesOfVec v) }
  | .motion axes retract lock => mirrorMotion s axes retract lock
  | .power hvEn hvFault inhibit =>
    setFld (setFld (setFld s F.PODPWR_HV_EN hvEn.toNat) F.PODPWR_HV_FAULT hvFault.toNat) F.PODPWR_PZ_INHIBIT inhibit.toNat
  | .jobDecl d => declareJob s d
  | .jobEnd r => endAndNext s (reasonOf r)
  | .ctxCommit n _ => ctxCommit s n
  | .expGo n _ => expGo s n
  | .pods p coast eacc =>
    setFld (setFld (modLink s p (fun x => { x with coast0 := some coast })) (F.PODL_COAST p) coast.toNat)
      (F.PODL_EPOCH p) eacc.toNat
  | .load im => installImage s im
  | .unload k => unloadStw s k
  | .halt k => haltStw s k
  | .restart _ => s
  | .bulk _ _ _ => s

/-- A hamper is applied; it is then the last accepted one. -/
def applyHamper (s : State) (h : Hamper) : State :=
  let s := h.entries.foldl (applyEntry (!h.timed && !h.early && jobRuns s)) s
  let s := setFld (setFld s F.SCR_HORIZON h.horizon.toNat) F.SCR_PEND h.pend.toNat
  let s := setFld s F.TWN_HLINE h.line.toNat
  let s := setFld (setFld s F.TWN_HSIZE_LAST h.bytes) F.TWN_HSIZE_MAX (Nat.max (fld s F.TWN_HSIZE_MAX) h.bytes)
  let e := if s.twin.epoch.toNat < h.epoch.toNat then h.epoch else s.twin.epoch
  { s with
    twin := { s.twin with hseq := h.hseq, epoch := e }
    tho := if h.final then { s.tho with ho := .final, finalHseq := h.hseq } else s.tho }

/-! ## The snapshot, on the joining device (R359, R360) -/

/-- The bits of a mirrored station that stores reach. -/
def mirroredMask (a : Nat) : Word :=
  match stnRow a with
  | some r => BitVec.ofNat 32 (r.rw ||| r.lq)
  | none => 0

/-- Give the stored bits of a station the value `v`. -/
def putMirrored (s : State) (a : Nat) (v : Word) : State :=
  setStnWord s a ((stnWord s a &&& ~~~ mirroredMask a) ||| (v &&& mirroredMask a))

/-- The mirrored stations as the active holds them; those it does not list are as after a reset. -/
def takeStations (s : State) (words : List (Nat × Word)) (vecs : List (Nat × Vec)) : State :=
  let own := (s.stn.map (fun e => e.1)).filter (fun a => stnClass a == .mirrored)
  let s := own.foldl (fun s a => putMirrored s a (stnInit a)) s
  let s := words.foldl (fun s w => putMirrored s w.1 w.2) s
  { s with vstn := vecs }

/-- A job of the snapshot; the store of a job the device was running already is kept. -/
def jobFrom (own : Option JobRun) (x : JobSnap) : JobRun :=
  let j := match own with
    | some j => if j.decl = x.decl then j else JobRun.declared x.decl
    | none => JobRun.declared x.decl
  { j with pages := x.pages, nextFirst := x.nextFirst, lastPage := x.lastPage, records := x.records, jobEnd := x.jobEnd,
           lastLine := x.lastLine }

def takeJobs (s : State) (running next : Option JobSnap) (place : Option PlaceSnap) : State :=
  let own := s.jobs.running
  let s := { s with
    jobs := { s.jobs with running := running.map (jobFrom own), next := next.map (jobFrom s.jobs.next) }
    twin := { s.twin with blank := (match running, own with
      | some x, some j => s.twin.blank || j.decl != x.decl
      | some _, none => true
      | none, _ => false) } }
  match running with
  | some x =>
    let keep := libMatches s x.decl
    let s := if own.any (fun j => j.decl == x.decl) then s
      else { (anchorGrid s 0) with jobs := { s.jobs with
          lib := some x.decl, libRows := if keep then s.jobs.libRows else [], libBad := if keep then s.jobs.libBad else [] } }
    (place.map (takePlace s)).getD s
  | none => s

/-- Committed Sight sets and accepted exposure sets, with their tags (R303). -/
def takeSight (s : State) (sets : List SightSet) (exps : List SightExp) : State :=
  let s := sets.foldl (fun s x =>
    setFld (modCam s x.camera (fun c => { c with pendCtx := some ⟨x.tag, x.words, x.tabs⟩ }))
      (F.SIGHT_CTX_TAG_COMMITTED x.camera) x.tag.toNat) s
  exps.foldl (fun s x =>
    setFld (modCam s x.camera (fun c => { c with newest := some ⟨x.ns, x.gain, x.tag⟩ }))
      (F.SIGHT_EXP_TAG_ACCEPTED x.camera) x.tag.toNat) s

/-- The device resyncs (R359). -/
def resyncing (s : State) : Bool := match s.round.busy with
  | some b => b.op == 5
  | none => false

/-- FIRMWARE to the pair on the standby (R512). -/
def takeFirmware (s : State) (im : List Byte) : State := if fwValid s im then installFw s im else alarm s 12 [8]

/-- The writes of PEER_WRITE: every one or none (R525). -/
def takePeerWrite (s : State) (ws : List (Nat × Word)) : State :=
  if ws.all (fun w => immediateOk w.1) then ws.foldl (fun s w => storeStation s none w.1 w.2) s else s

/-- A bulk frame is applied. -/
def applyBulk (s : State) : Bulk → State
  | .dram a data =>
    let s := dramWrite s a data
    if resyncing s then s else trackRange s a data.length
  | .firmware im => takeFirmware s im
  | .peerWrite ws => takePeerWrite s ws
  | .stations ws vs => takeStations s ws vs
  | .mapCopy kept slots => { s with scr := { s.scr with live := ⟨kept, slots⟩, version := none, olds := [] } }
  | .version named x kept slots stn => { s with scr := { s.scr with version := some ⟨named, x, ⟨kept, slots⟩, stn⟩ } }
  | .queue es => { s with scr := { s.scr with lq := es } }
  | .streams rs => rs.foldl (applyEntry false) s
  | .jobs running next place => takeJobs s running next place
  | .sight sets exps => takeSight s sets exps
  | .image im => if s.twin.joined then s else installImage s im
  | .libRow slot row data =>
    match s.jobs.running with
    | some j =>
      let s := dramWrite s (libAddr j.decl slot row 0) data
      { s with jobs := { s.jobs with libRows := if s.jobs.libRows.contains (slot, row) then s.jobs.libRows
          else s.jobs.libRows ++ [(slot, row)] } }
    | none => s
  | .ranges rs => { s with twin := { s.twin with ranges := rs } }
  | .snapshotEnd => { s with twin := { s.twin with snapshot := true } }

/-- TWIN_BULK_RECEIVE: the standby acknowledges a bulk frame by BSEQ, and applies a piece of content with its last
frame. -/
def actTwinBulkReceive (b : Bulk) (i n : Nat) (s : State) : Res :=
  .next (if s.boot.phase == .ready && s.twin.role == .standby then
    let s := { s with twin := { s.twin with bseqIn := s.twin.bseqIn + 1 } }
    if i + 1 = n then applyBulk s b else s
  else s)

/-! ## The snapshot, on the active (R359) -/

def jobSnap (j : JobRun) : JobSnap :=
  { decl := j.decl, pages := j.pages, nextFirst := j.nextFirst, lastPage := j.lastPage, records := j.records,
    jobEnd := j.jobEnd, lastLine := j.lastLine }

/-- One stream as entries: closed, then each outcome of its record. -/
def streamEntries (x : Stream) : List JEntry :=
  .round x.src x.stream false 0 none ::
    (if x.isOpen then
      (if x.record.isEmpty then [.round x.src x.stream true x.expected none]
       else x.record.map (fun o => .round x.src x.stream true x.expected (some o)))
     else [])

/-- The mirrored scratch that is not zero, in chunks. -/
def scratchEntries (s : State) : List JEntry :=
  (List.range 48).filterMap (fun i =>
    let bs := memBytes s.shared (0x1FFA00 + 32 * i) 32
    if bs.all (· == 0) then none else some (.scratch (Fin.ofNat 8 (i / 8)) (i % 8) (vecOfBytes bs)))

/-- The frames of the snapshot before the DRAM ranges. -/
def snapshotFrames (s : State) : List Bulk :=
  [.stations (s.stn.filter (fun e => stnClass e.1 == .mirrored)) s.vstn, .mapCopy s.scr.live.kept s.scr.live.slots]
    ++ (match s.scr.version with
        | some v => [.version v.named v.x v.map.kept v.map.slots v.stn]
        | none => [])
    ++ [.queue s.scr.lq,
        .sight ((List.finRange 4).filterMap (fun n => ((cam s n).pendCtx.orElse (fun _ => (cam s n).ctx)).map
            (fun c => ⟨n, c.tag, c.words, c.tabs⟩)))
          ((List.finRange 4).filterMap (fun n => (cam s n).newest.map (fun e => ⟨n, e.ns, e.gain, e.tag⟩)))]
    ++ s.stewards.toList.filterMap (fun w => w.prog.map Bulk.image)
    ++ [.jobs (s.jobs.running.map jobSnap) (s.jobs.next.map jobSnap)
          (if jobRuns s then some (placeSnap s false) else none),
        .streams ((s.round.streams.filter (fun x => x.pair)).flatMap streamEntries ++ scratchEntries s
          ++ s.scr.skipped.map (fun x => .skip x.1 [x.2])),
        .ranges s.twin.ranges]

/-- The block rows of the library slots, after the snapshot (R360). -/
def libFrames (s : State) : List Bulk :=
  match s.jobs.lib with
  | some d => s.jobs.libRows.map (fun x => .libRow x.1 x.2 (dramBytes s (libAddr d x.1 x.2 0) (strideOf d)))
  | none => []

/-- The active starts a resync of its twin: hampers from HSEQ 1 on, and the snapshot. -/
def sendSnapshot (s : State) : State :=
  let tw := { s.twin with
    joined := false, snapshot := true, hseq := 0, acked := 0, sent := [], fill := [], fillX := 0, bseqOut := 0,
    bseqAck := 0 }
  let s := { s with twin := tw, round := { s.round with parcels := s.round.parcels.map (fun p => { p with sent := false }) } }
  let s := (snapshotFrames s).foldl sendBulk s
  let s := s.twin.ranges.foldl (fun s r => sendDram s r.1 (dramBytes s r.1 r.2)) s
  (libFrames s).foldl sendBulk (sendBulk s .snapshotEnd)

end Sys2Proof.Machine
end

