-- ==== Sys2Proof/Machine/Roles.lean ====
section
/-! DEFINITION. Roles: election, hampers and postcards on both sides, take-over, hand-over, stand-down, resync, and the
pod and heartbeat events that bear on them (R327 to R360). -/
namespace Sys2Proof.Machine
open Sys2Proof

/-! ## Changes of role (R79, R361) -/

/-- The role changes: its time, its postmark, event ROLE. -/
def changeRole (s : State) (r : Role) : State :=
  let pm := postmark s false
  let s := useFree { s with twin := { s.twin with role := r, roleAt := s.clk.now } }
  setEventAll (setFld s F.TWN_LAST pm.toNat) 16

/-- Assert PEER_RST_OUT (R19, R30). -/
def assertPeerRst (s : State) (why : Nat) : State :=
  { s with twin := { s.twin with peerRst := .high, rstFor := why } }


/-- One more than the highest of this device's epoch and its twin's (R329). -/
def nextEpoch (s : State) : Word :=
  let p : Word := match s.twin.peer with
    | some c => c.epoch
    | none => 0
  (if s.twin.epoch.toNat < p.toNat then p else s.twin.epoch) + 1

/-- A pod link as the device takes the active role: nothing answered or fired yet (R273, R278, R329). -/
def newRole (x : PodLink) : PodLink := { x with accepted := false, answered := none, firedOnce := false, coasts := none }

/-- The engines resume at each row's next unfired line (R346, R350), with every IDLE at 0 (R211). -/
def resumeRows (s : State) (forced : Bool) : State :=
  let lead := match leadingRow s with
    | some (p, r) => s.plc2.nextFire[rowIx p r]
    | none => 0
  { s with
    scr := { s.scr with decidedTo := s.plc2.nextFire, idle := [], leadLine := Nat.max (horizon1 s) lead }
    pods := { s.pods with
      lines := [], forced := forced, links := s.pods.links.map newRole } }

/-- Receipts that a FINAL hamper left to the new active (R352). -/
def sendDue (s : State) : State :=
  let due := (s.round.streams.filter (fun x => x.pair)).flatMap (fun x => (x.record.filter (fun o => o.due)).map (fun o => (x, o)))
  let s := due.foldl (fun s xo =>
    let e : Env := { twinEnv with
      west := s.round.hostWest, dest := (s.therm.pair.getD 0) + 0x40, src := xo.1.src,
      cls := xo.2.mode.setWidth 2, stream := xo.1.stream, kind := 0x22, seq := xo.2.seq }
    sendReceiptNow s e (answerBytes s e false ⟨xo.2.code.toNat, xo.2.detail.toNat, xo.2.aux, xo.2.data, []⟩ xo.2.line)) s
  { s with round := { s.round with
      streams := s.round.streams.map (fun x => { x with record := x.record.map (fun o => { o with due := false }) }) } }

/-- Steps 3 to 7 of R346 for a device that follows a twin: pods without step 4, PWM and HV at the mirrored levels, rows,
stewards, cameras. -/
def takeBar (s : State) (epoch : Word) (forced : Bool) : State :=
  let s := { s with
    twin := { s.twin with
      epoch := epoch, joined := false, sent := [], fill := [], fillX := 0, acked := s.twin.hseq, bseqOut := 0,
      bseqAck := 0, buffered := [], snapshot := !forced }
    tho := { s.tho with
      ho := .no, armed := false, letters := [], stopped := false, since := none,
      handedBack := s.tho.handedBack && !forced }
    pins := { s.pins with activeOut := true } }
  let s := changeRole s .active
  let s := podZonesAtRole (dmaAtRole (motionAtRole s))
  let s := healthAtRole (camsAtRole (pkrRoleChange s))
  let up := fld s F.PODPWR_HV_EN &&& (2 ^ 24 - 1 - (fld s F.PODPWR_HV_FAULT ||| fld s F.PODPWR_PZ_INHIBIT))
  let s := setFld { s with pwr := { s.pwr with hvReq := 0 } } F.PODPWR_HV_STAT up
  let s := resumeRows s forced
  let s := (List.finRange 24).foldl (fun s p => bringUp s p true) s
  let s := customers.foldl (fun s k => startSteward s k 1) (forgetCustomers s)
  let s := (List.finRange 4).foldl camBringUp s
  sendPostcard (sendDue s) false

/-- A device becomes active by election (R328): it follows no twin. -/
def electActive (s : State) (epoch : Word) : State :=
  let s := { s with
    twin := { s.twin with epoch := epoch, joined := false, snapshot := false }
    pins := { s.pins with activeOut := true } }
  let s := camsAtRole (podZonesAtRole (changeRole s .active))
  let s := { s with pods := { s.pods with links := s.pods.links.map newRole } }
  let s := (List.finRange 24).foldl (fun s p => bringUp s p false) s
  let s := (List.finRange 4).foldl camBringUp s
  sendPostcard s false

/-- The bar is given up: outputs as in reset, stewards 0 to 5 halted, cameras and jobs of the DMA and Packer ended; the
device is standby. -/
def loseBar (s : State) : State :=
  let s := dmaAbortAll (pressOutputsLow s)
  let s := forgetCustomers (customers.foldl haltStw s)
  let s := camsAtRole ((List.finRange 4).foldl camLinkDown s)
  let s := healthAtRole (pkrRoleChange (motionHanded s))
  let s := { s with
    pods := { s.pods with lines := [], forced := false }
    round := { s.round with calls := [] }
    twin := { s.twin with joined := false, sent := [], fill := [], fillX := 0, bseqIn := 0, yielded := false } }
  changeRole s .standby

/-- The pod lanes go electrically idle (R273). -/
def idlePods (s : State) : State :=
  (List.finRange 24).foldl (fun (s : State) (p : Fin 24) =>
    modLink (setFldB (setFldB s (F.PODL_STAT_LOCK p) false) (F.PODL_STAT_UP p) false) p
      (fun x => { x with step := .idle, answered := none, echo := none, meas := [] })) s

/-! ## Resync (R359) -/

/-- Join as standby: long operation 5 begins, and pair-address streams are taken from the active. -/
def startResync (s : State) : State :=
  let s := if s.twin.role = .standby then s else changeRole s .standby
  let s := beginLong s 5 none []
  let s := { s with
    twin := { s.twin with joined := false, hseq := 0, bseqIn := 0, buffered := [], snapshot := false }
    round := { s.round with streams := s.round.streams.filter (fun x => !x.pair) } }
  let s := customers.foldl unloadStw s
  sendPostcard s false

/-- Hampers that follow on the last accepted one are applied in order; the rest goes. -/
def applyInOrder (s : State) : List Hamper → State
  | [] => s
  | h :: hs => if h.hseq = s.twin.hseq + 1 then applyInOrder (applyHamper s h) hs else applyInOrder s hs

/-- Joined: the first hamper from here sets ALIGN outright (R236). -/
def becomeJoined (s : State) : State :=
  { s with twin := { s.twin with joined := true }, plc2 := { s.plc2 with firstHamper := true, twinErr := 0 } }

/-- RESYNC_END: the snapshot is whole and the buffered hampers are applied. -/
def execResyncEnd (s : State) : Res :=
  .next (match s.round.busy with
    | some b =>
      if b.op = 5 ∧ s.twin.snapshot = true then
        let s := applyInOrder s s.twin.buffered
        let s := becomeJoined (freshCheckpoint { s with twin := { s.twin with buffered := [] } })
        sendPostcard (endLong s b) false
      else s
    | none => s)

def execResyncTimeout (s : State) : Res :=
  .next (match s.round.busy with
    | some b =>
      if b.op = 5 then
        endLong (alarm { s with twin := { s.twin with buffered := [], snapshot := false } } 252 []) b
      else s
    | none => s)

def execResyncRetry (s : State) : Res :=
  .next (if s.boot.phase == .ready && s.twin.role == .standby && !s.twin.joined && !s.twin.snapshot && s.round.busy.isNone
    then startResync s else s)

/-! ## The hamper on the standby (R340, R343, R344) -/

/-- The standby follows no more and rejoins. -/
def unjoin (s : State) : State := startResync { s with twin := { s.twin with joined := false, snapshot := false } }

/-- A hamper in order is applied and acknowledged by the next postcard. -/
def acceptHamper (s : State) (h : Hamper) : State :=
  let s := applyHamper s h
  let s := if s.twin.joined then s else becomeJoined s
  sendPostcard (auxPulse s 9 s.clk.now) false

def execHamperReceive (h : Hamper) (whole : Bool) (s : State) : Res :=
  .next (
    if s.twin.role != .standby || s.boot.phase != .ready || !whole || decide (h.epoch.toNat < s.twin.epoch.toNat) then s
    else if resyncing s then { s with twin := { s.twin with buffered := s.twin.buffered ++ [h] } }
    else if s.twin.joined || s.twin.snapshot then
      if h.hseq = s.twin.hseq + 1 then acceptHamper s h
      else if 0 < (h.hseq - s.twin.hseq).toInt then unjoin s
      else s
    else s)

/-- A silence decided by its handler: an arrival counts (R333, R367). -/
def twnLate (s : State) : State := incFld s F.TWN_LATEWIN

def execHamperTimeout (arrived : Bool) (s : State) : Res :=
  .next (if arrived then twnLate s
    else if s.twin.role == .standby && (s.twin.joined || s.twin.snapshot) && !resyncing s then unjoin (alarm s 250 [])
    else s)

/-! ## The active and its twin (R335, R342) -/

/-- The twin no longer follows: held receipts leave, a hand-over under way ends as declined, and the stopped device goes
on, with the stewards that the stop had halted. -/
def dropTwin (s : State) : State :=
  let hs := s.tho.letters
  let was := s.tho.stopped
  let ran := s.tho.ran
  let under := s.tho.ho != .no
  let s := releaseAll { s with
    twin := { s.twin with joined := false, snapshot := false, sent := [], fill := [], fillX := 0 }
    tho := { s.tho with ho := .no, stopped := false, letters := [], ran := [] } }
  let s := if was then ran.foldl (fun s k => startSteward s k 1) s else s
  let s := if under then declineHandover s else s
  hs.foldl (fun s e => settleLetter s e [] Ans.done) s

/-- The active resets its twin and goes on printing (R335). -/
def resetTwin (s : State) : State := alarm (dropTwin (assertPeerRst s 3)) 245 []

/-- The twin is joined or electing (R335). -/
def twinFollows (s : State) : Bool :=
  s.twin.joined || (match s.twin.peer with
    | some c => c.role == 0
    | none => false)

def execActiveTwinSilence (arrived : Bool) (s : State) : Res :=
  .next (if arrived then twnLate s
    else
      let s := { s with twin := { s.twin with pinLive := false, pcLive := false } }
      if isActive s && twinFollows s then resetTwin s else s)

def execHamperAckTimeout (arrived : Bool) (s : State) : Res :=
  .next (if arrived then twnLate s
    else if isActive s && !s.twin.sent.isEmpty && twinFollows s then resetTwin s
    else s)

/-! ## Acknowledgements (R340 to R342, R353) -/

/-- Step 3 of R353: the FINAL hamper is acknowledged; ACTIVE_OUT drops, IDLE frames with the old epoch go on over the pod
lanes, and RELEASE goes out.  The old active follows the
state it has handed over (R356); letters to its device address still owe their receipts. -/
def giveBar (s : State) : State :=
  let s := ((List.finRange 24).filter (fun p => podUp s p.val)).foldl sendIdle (releaseHeld s)
  let s := loseBar { s with round := { s.round with held := [] } }
  let s := { s with
    twin := { s.twin with snapshot := true }
    tho := { s.tho with
      ho := .released, armed := false, stopped := false, ran := [], since := none,
      handedBack := s.tho.handedBack && s.tho.since.isNone } }
  sendPostcard (incFld s F.TWN_EVENTS_HANDOVERS) true

/-- The standby's postcard acknowledges hampers and bulk frames; what waited for them goes on. -/
def takeAck (s : State) (c : Postcard) : State :=
  let new := decide (0 < (c.hseq - s.twin.acked).toInt) && s.twin.sent.any (fun h => h.hseq == c.hseq)
  let s := if new then
      match s.twin.sent.find? (fun h => h.hseq == c.hseq) with
      | some h =>
        let rt := Nat.min 65535 (tbVal s 0 - h.tbPress).toNat
        let s := setFld (setFld s F.TWN_HLINE h.line.toNat) F.TWN_RT_LAST rt
        let s := setFld s F.TWN_RT_MAX (Nat.max (fld s F.TWN_RT_MAX) rt)
        { s with twin := { s.twin with
            acked := c.hseq, sent := (s.twin.sent.dropWhile (fun h => h.hseq != c.hseq)).drop 1 } }
      | none => s
    else s
  let s := { s with twin := { s.twin with bseqAck := c.bseq } }
  settlePeers (releaseHeld (nameBulks s))

/-- What the active learns of a twin in the standby role: it starts its resync, joins, falls out or acknowledges. -/
def standbyPostcard (s : State) (c : Postcard) : State :=
  let restarted := decide ((c.bseq - s.twin.bseqAck).toInt < 0)
  if c.joined then
    let s := if s.twin.snapshot || s.twin.joined then { s with twin := { s.twin with joined := true } } else s
    let s := takeAck s c
    if s.tho.ho == .final && decide (0 ≤ (s.twin.acked - s.tho.finalHseq).toInt) then giveBar s else s
  else if s.twin.joined then sendSnapshot (dropTwin s)
  else if !s.twin.snapshot || restarted then sendSnapshot s
  else takeAck s c

/-! ## Stand-down (R336) -/

def standDown (s : State) : State :=
  let s := alarm (idlePods (loseBar { s with round := { s.round with held := [] } })) 246 []
  startResync { s with tho := TwinHo.init }

/-! ## Election (R328) -/

/-- This device wins over an electing twin: the higher kept epoch, then PAIR_POS 0. -/
def winsElection (s : State) (c : Postcard) : Bool :=
  decide (c.epoch.toNat < s.twin.epoch.toNat) || (c.epoch == s.twin.epoch && !s.boot.strap)

/-- An election that finds a twin sets the epoch to at least 1 (R330). Where the twin is active, no device wins and takes
a new epoch by R329: both devices take 1 (DEDUCED, log entry 115). -/
def pairFound (s : State) (c : Postcard) : State :=
  if solo s then { s with twin := { s.twin with epoch := if c.epoch = 0 then 1 else c.epoch } } else s

/-- A postcard to an electing device. -/
def electingPostcard (s : State) (c : Postcard) : State :=
  if c.pairPos = s.boot.strap then sendPostcard (alarm (changeRole s .none) 1 []) false
  else if pairMismatch s then sendPostcard (changeRole s .none) false
  else if c.role = 1 then startResync (pairFound s c)
  else if c.role = 0 then
    if s.twin.peerRst = .high ∧ s.twin.rstFor = 1 then s        -- decided already that no twin answers
    else if winsElection s c then (if c.release then electActive s (nextEpoch s) else s)
    else startResync (sendPostcard { s with twin := { s.twin with yielded := true } } true)
  else s

/-- HANDOVER letters to the old active's device address are answered with the new epoch (R352). -/
def settleHanded (s : State) : State :=
  let hs := s.tho.letters
  let s := { s with tho := { s.tho with letters := [] } }
  hs.foldl (fun s e => settleLetter s e [] Ans.done) s

/-- What the new active may compare within 10 ms (R357): pods that followed the old one, sound axes, enabled cameras. -/
def wellBefore (s : State) : List Nat :=
  ((podsFin s).filter (fun (p : Fin 24) => fld s (F.PODL_EPOCH p) == s.twin.epoch.toNat && s.twin.epoch != 0)).map (fun p => p.val)
    ++ ((List.finRange 4).filter (fun (x : Fin 4) => !axFaulted s x)).map (fun x => 24 + x.val)
    ++ ((List.finRange 4).filter (fun (n : Fin 4) => fldB s (F.SIGHT_CAM_CTL_ENABLE n))).map (fun n => 28 + n.val)

/-- Step 4 of R353: the twin's RELEASE hands the bar; the take-over alarm is raised as in R346. -/
def takeHandover (s : State) : State :=
  let well := wellBefore s
  let hidden := s.tho.handedBack
  let s := sendExpress (alarm (takeBar (incFld s F.TWN_EVENTS_HANDOVERS) (nextEpoch s) false) 247 [])
  { s with tho := { s.tho with since := some s.clk.now, wasUp := well, handedBack := hidden } }

/-- A postcard to a standby. -/
def activePostcard (s : State) (c : Postcard) : State :=
  if c.release && s.tho.ho == .final && s.twin.joined then takeHandover s
  else if c.role = 1 then
    let rises := decide (s.twin.epoch.toNat < c.epoch.toNat)
    let s := if rises then { s with twin := { s.twin with epoch := c.epoch } } else s
    if rises && !s.tho.letters.isEmpty then settleHanded s else s
  else s

/-- POSTCARD_RECEIVE (R328, R332, R336, R340, R353). -/
def actPostcardReceive (c : Postcard) (s : State) : Res :=
  .next (if s.boot.phase != .ready then s
  else
    let was := pairMismatch s
    let s := { s with twin := { s.twin with peer := some c, pcLive := true } }
    let s := if pairMismatch s && !was then alarm s 2 [] else s
    match s.twin.role with
    | .electing => electingPostcard s c
    | .active =>
      if c.role = 1 ∧ s.twin.epoch.toNat < c.epoch.toNat then standDown s
      else if c.role = 2 then standbyPostcard (pairFound s c) c
      else s
    | .standby => activePostcard s c
    | .none => s)

def execPostcardSend (s : State) : Res := .next (sendPostcard s false)

/-! ## Heartbeats (R331 to R334) -/

def execHbInEdge (s : State) : Res :=
  .next (if s.boot.phase == .ready then { s with twin := { s.twin with pinLive := true, hbSeen := true } } else s)

/-- A standby that finds the active gone resets it and takes over; one that is not eligible waits (R333, R346). -/
def execTwinSilence (arrived : Bool) (s : State) : Res :=
  .next (if s.twin.role != .standby || s.boot.phase != .ready then s
    else if arrived then twnLate s
    else
      let ok := selfEligible s
      let s := { s with twin := { s.twin with pinLive := false, pcLive := false } }
      if ok then assertPeerRst s 2 else alarm s 248 [])

/-- One path is silent while the other lives: an alarm and a count (R334). -/
def execTwinPathSilent (pin arrived : Bool) (s : State) : Res :=
  .next (if s.boot.phase != .ready then s
    else if arrived then twnLate s
    else
      let other := if pin then s.twin.pcLive else s.twin.pinLive
      let s := { s with twin := if pin then { s.twin with pinLive := false } else { s.twin with pcLive := false } }
      if other then alarm (incFld s F.TWN_EVENTS_PATH_FAULTS) (if pin then 243 else 244) [] else s)

/-! ## PEER_RST_OUT (R19, R30, R328, R346) -/

def execElectWaitExpiry (s : State) : Res :=
  .next (if s.boot.phase == .ready && s.twin.role == .electing && s.twin.peer.isNone then
    if s.twin.pinLive then alarm s 242 [] else assertPeerRst s 1
  else s)

/-- 1 µs after the assertion: the election is won, or the take-over takes the bar. -/
def execPeerResetWaitEnd (s : State) : Res :=
  .next (if s.twin.peerRst = .high then
    let s := { s with twin := { s.twin with peerRst := .waited } }
    if s.twin.rstFor = 1 ∧ s.twin.role = .electing then electActive s s.twin.epoch
    else if s.twin.rstFor = 2 ∧ s.twin.role = .standby then
      sendExpress (alarm (incFld (takeBar s (nextEpoch s) true) F.TWN_EVENTS_TAKEOVERS) 247 [])
    else s
  else s)

def execPeerRstRelease (s : State) : Res :=
  .next (if s.twin.peerRst = .waited then { s with twin := { s.twin with peerRst := .low } } else s)

/-! ## Timed closes and the stop for a hand-over (R338, R353) -/

/-- Step 1 and 2 of R353: no FIRE, no letter, stewards halted; the outcomes of HANDOVER letters to the pair go with the
FINAL hamper, to be released by the new active. -/
def stopForHandover (s : State) : State :=
  if isActive s && s.tho.ho == .due && mirrors s then
    let ran := customers.filter (fun k => (stw s k).run != .halted)
    let s := customers.foldl haltStw (dmaAbortAll { s with tho := { s.tho with stopped := true, ran := ran } })
    let pairs := s.tho.letters.filter toPair
    let s := pairs.foldl (fun s e => recordOutcome s e Ans.done true) s
    let s := { s with tho := { s.tho with letters := s.tho.letters.filter (fun e => !toPair e) } }
    let s := closeHamper s true false false
    { s with tho := { s.tho with ho := .final, finalHseq := s.twin.hseq } }
  else s

/-- HAMPER_TIMED_CLOSE: 10 µs since the last close; with the web at rest or without a job a hand-over stops here. -/
def execHamperTimedClose (s : State) : Res :=
  .next (if !mirrors s || s.tho.stopped then s
    else if s.tho.ho == .due && (!jobRuns s || s.plc.mode == .stopped) then stopForHandover s
    else closeHamper s false true false)

/-- HANDOVER_LANE_IDLE (R353, step 5). -/
def execHandoverLaneIdle (s : State) : Res :=
  .next (if s.tho.ho == .released && s.twin.role == .standby then
    { (idlePods s) with tho := { s.tho with ho := .no } } else s)

/-! ## Pods (R242, R250, R273, R329, R336) -/

/-- The pod's FOLLOW names this device's port: A on PAIR_POS 0, B on PAIR_POS 1 (R15). -/
def followsUs (s : State) (x : PodStatus) : Bool := x.follow == (if s.boot.strap then 2 else 1)

/-- The stations that a STATUS frame fills (R250, R275). -/
def statusStations (s : State) (p : Fin 24) (x : PodStatus) : State :=
  let s := setFld (setFld s (F.PODL_EPOCH p) x.eacc.toNat) (F.PODL_STAT_FOLLOW p) x.follow.toNat
  let s := setFldB (setFldB s (F.PODL_STAT_LOCK p) true) (F.PODL_STAT_OURS p) (followsUs s x)
  let s := setFldB (setFldB (setFldB s (F.PODL_STAT_HV p) x.hv) (F.PODL_STAT_INHIBIT p) x.inhibit)
    (F.PODL_STAT_COASTING p) x.coasting
  let s := setFld (setFld (setFld s (F.PODL_COAST p) x.coast.toNat) (F.PODL_DROPS p) x.drops.toNat)
    (F.PODL_POD_CRC p) x.crcErr.toNat
  setFld (setFld (setFld s (F.PODL_SEQ_ERR p) x.seqErr.toNat) (F.PODL_STALE p) x.stale.toNat) (F.PODL_TEMP p) x.temp.toNat

/-- A bring-up is under way. -/
def bringing (s : State) (p : Fin 24) : Bool := (link s p).step != .idle && (link s p).step != .abandoned

/-- The pod follows this device's port at this device's epoch, as an accepted frame leaves it (R270). -/
def podTaken (s : State) (x : PodStatus) : Bool := followsUs s x && x.eacc == s.twin.epoch

/-- The epoch rises above one that the pod holds from before (R329); a pod that shows this device's own has accepted its
frames. -/
def raiseEpoch (s : State) (p : Fin 24) (x : PodStatus) : State :=
  if podTaken s x then modLink s p (fun y => { y with accepted := true })
  else if bringing s p && !(link s p).accepted && !solo s && decide (s.twin.epoch.toNat ≤ x.eacc.toNat) then
    { s with twin := { s.twin with epoch := x.eacc + 1 } }
  else s

/-- The pod has been accepting frames of this device (R336). -/
def podAccepting (s : State) (p : Fin 24) : Bool := podUp s p || (!solo s && (link s p).accepted)

/-- The inhibit of a pod whose power was removed ends (R492). -/
def clearInhibit (s : State) (p : Fin 24) (x : PodStatus) : State :=
  if !podUp s p && !x.inhibit && (fld s F.PODPWR_PZ_INHIBIT).testBit p.val then
    journalPower (setFld s F.PODPWR_PZ_INHIBIT (clearBit24 (fld s F.PODPWR_PZ_INHIBIT) p.val))
  else s

/-- The first STATUS of this role: the rise of COAST since the last hamper counts as coast fires (R273). -/
def noteCoast (s : State) (p : Fin 24) (x : PodStatus) : State :=
  modLink s p (fun y => match y.coast0 with
    | some c => { y with coast0 := none, coasts := some (x.coast - c) }
    | none => y)

/-- POD_STATUS on the active. -/
def activeStatus (s : State) (p : Fin 24) (x : PodStatus) : State :=
  if podAccepting s p && decide (s.twin.epoch.toNat < x.eacc.toNat) then standDown s
  else if bringing s p && solo s && x.eacc != 0 then
    alarm (modLink s p (fun y => { y with step := .idle })) (196 + p) [1, x.eacc]
  else
    let s := clearInhibit (raiseEpoch s p x) p x
    let s := podReading s p x.temp.toInt
    statusWait (noteCoast s p x) p

/-- POD_STATUS: an upstream STATUS fills the stations; on the active it bears on bring-up, epoch and heat. -/
def execPodStatus (p : Fin 24) (st : PodStatus) (bad : Bool) (s : State) : Res :=
  .next (if s.boot.phase != .ready then s
    else if bad then discardUpstream s p
    else
      let s := statusStations (goodUpstream s p) p st
      if isActive s then activeStatus s p st else s)

/-- The step of R242 that a wait belongs to. -/
def bringStepNo : BringUp → Nat
  | .statusAtRate => 1
  | .statusAtZero => 2
  | .echo _ => 5
  | _ => 3

/-- POD_BRINGUP_TIMEOUT: step 1 falls back; any other wait abandons the bring-up (R242, R357). -/
def execPodBringupTimeout (p : Fin 24) (s : State) : Res :=
  .next (if !drives s then s
    else match (link s p).step with
    | .idle => s
    | .abandoned => s
    | .statusAtRate => fallBack s p
    | st =>
      let s := modLink s p (fun x => { x with step := .abandoned, echo := none })
      handBack (alarm s (196 + p) (if st = .statusAtZero then [2] else [3, wNat (bringStepNo st)])) p)

end Sys2Proof.Machine
end

