-- ==== Sys2Proof/Machine/Boundary.lean ====
section
/-! DEFINITION. The fire line boundary (R196, R220, R237, R338, R353, R483, R491). -/
namespace Sys2Proof.Machine
open Sys2Proof

/-- Tm of every class (R196); with SPIT_US 0 no spit is made. -/
def spitTurns (s : State) : State :=
  let tm := fun (i : Fin 192) =>
    let p : Fin 24 := Fin.ofNat 24 (i.val / 8)
    let m := i.val % 8 + 1
    if fitted s p then Nat.min 127 (Nat.max 1 (fld s (F.SCR_SPIT_US p) * 1000 / (m * lineInterval s))) else 0
  { s with scr := { s.scr with spitT := Vector.ofFn tm } }

/-- LINE_SYNC_OUT on a leading pair's active (R237). -/
def lineSyncOut (s : State) (t : Nat) : State :=
  if isActive s && fld s F.PLC_CTL_SYNC_MODE == 1 then emit s (.pulse 0 t) else s

/-- The hamper of the boundary, or the stop for a hand-over. -/
def boundaryHamper (s : State) : State :=
  if s.tho.ho == .due then stopForHandover s
  else if s.tho.stopped then s
  else if mirrors s then closeHamper s false false false
  else s

/-- FIRE_LINE_BOUNDARY: W reaches the target of the next boundary, which passes once. -/
def execFireLineBoundary (t : Nat) (m : SlackMeas) (replica : Int) (s : State) : Res :=
  let s := plcTime s t
  .next (if jobRuns s && decide (target s s.plc.boundary ≤ wAt s t) then
    let l := s.plc.boundary
    let s := { s with plc := { s.plc with boundary := l + 1, scLine := some l } }
    let s := setEventAll (spitTurns s) 0
    let s := auxPulse (lineSyncOut s t) 8 t
    let s := throttleAtBoundary (evalSlack (dmaLine s 8) m replica)
    boundaryHamper s
  else s)

end Sys2Proof.Machine
end

