-- ==== Sys2Proof/Machine/Startup.lean ====
section
/-! DEFINITION. Resets, the boot choice, the restore, readiness and the loss of power (R20, R36, R482, R497 to R499,
R511, R513 to R516). -/
namespace Sys2Proof.Machine
open Sys2Proof

/-! ## What a reset leaves (R498, R499) -/

/-- Every station, register and counter at its Initial value; the thermos stays, and so do the commands that wait, what
has left the block, and the strap. -/
def initialState (s : State) : State :=
  { State.reset with
    therm := { s.therm with powerS := powerSeconds s, dirty := false }
    boot := { Boot.init with strap := s.boot.strap, thermalLatch := s.boot.thermalLatch, slot := s.boot.slot }
    twin := { Twin.init with epoch := s.therm.epoch }
    out := s.out, fresh := s.fresh, pending := s.pending }

/-- Resets since manufacture; saturates. -/
def countReset (s : State) : State :=
  { s with therm := { s.therm with resets := if s.therm.resets = BitVec.allOnes 24 then s.therm.resets else s.therm.resets + 1 } }

/-- A reset of kind 0: nothing but the thermos is kept. -/
def resetKind0 (s : State) (strap : Bool) : State :=
  let s := countReset (initialState s)
  { s with
    boot := { s.boot with phase := .inReset, kind := 0, strap := strap, thermalLatch := false }
    therm := { s.therm with devAddr := none, pair := none } }

/-- What a reset of kind 1 to 3 keeps besides: the DRAM array (R499), the instruction and the cells of the JTAG port,
which runs from VDD_AON (R549), and DIE_TEMP (R548). -/
def warmState (s : State) : State :=
  { initialState s with
    dram := s.dram, single := s.single, poison := s.poison, jtag := { Jtag.init with ir := s.jtag.ir, cells := s.jtag.cells }
    pwr := { Pwr.init with dieTemp := s.pwr.dieTemp } }

def resetWarm (s : State) (kind : Nat) (p : Phase) : State :=
  let s := countReset (warmState s)
  { s with boot := { s.boot with phase := p, kind := kind } }

def powered (s : State) : Bool := s.boot.phase != .unpowered

/-! ## The boot choice (R513) -/

/-- The slot named boots, or the other one when its image is not valid; thermos-fault tells that. -/
def bootFrom (s : State) (n : Fin 2) (pend : Bool) : State :=
  if slotBoots s s.therm.slots[n] then
    { s with boot := { s.boot with phase := .starting, slot := n, pendingBoot := pend } }
  else
    let s := alarm s 12 [4]
    if slotBoots s s.therm.slots[other n] then
      { s with boot := { s.boot with phase := .starting, slot := other n, pendingBoot := false } }
    else { s with boot := { s.boot with phase := .noFirmware, pendingBoot := false } }

/-- The boot ROM: a pending image is tried once. With the thermal latch set nothing starts (R498). -/
def bootRom (s : State) : State :=
  if s.boot.thermalLatch then { s with boot := { s.boot with phase := .shut } }
  else match s.therm.pending with
    | some n =>
      if s.therm.tries = 0 then bootFrom { s with therm := { s.therm with tries := 1 } } n true
      else bootFrom s s.therm.bootSlot false
    | none => bootFrom s s.therm.bootSlot false

/-! ## The resets -/

/-- VDD_AON rises; the strap is read. -/
def execPowerOnReset (pairPos : Bool) (s : State) : Res := .next (resetKind0 s pairPos)

/-- The reset input is asserted. A kind 0 reset whose release has not come yet stays kind 0. -/
def execPinResetAssert (s : State) : Res :=
  .next (if powered s then
    (if s.boot.phase = .inReset ∧ s.boot.ovHold = false then s else resetWarm s 1 .inReset)
  else s)

/-- The reset input is released: the device starts up. -/
def execPinResetRelease (s : State) : Res :=
  .next (if s.boot.phase = .inReset ∧ s.boot.ovHold = false then bootRom s else s)

/-- 1 ms after PAIR_RESTART's outcome: MODE 1 asserts PEER_RST_OUT for 20 µs first (R511). -/
def execRestartReset (s : State) : Res :=
  .next (match s.boot.restartDue with
    | none => s
    | some 0 => if s.twin.peerRst = .low then bootRom (resetWarm s 2 .starting) else s
    | some _ =>
      let s := assertPeerRst s 4
      { s with boot := { s.boot with restartDue := some 0 } })

/-- A pending image has missed readiness within 1 s: PENDING is cleared and BOOT_SLOT boots. -/
def execFallbackReset (s : State) : Res :=
  .next (if s.boot.phase = .starting ∧ s.boot.pendingBoot = true then
    let s := resetWarm s 3 .starting
    bootRom { s with therm := { s.therm with pending := none } }
  else s)

/-- VDD_CORE above 0.95 V: every phase off, held in the state of the reset until the reset input is next asserted (R482). -/
def execCoreOvervoltage (mv : Nat) (s : State) : Res :=
  .next (if alive s then
    let k := s.boot.kind
    let s := warmState s
    alarm { s with boot := { s.boot with phase := .inReset, kind := k, ovHold := true } } 328 [3, BitVec.ofNat 32 mv]
  else s)

/-- The board removes the supplies: the outputs are as in reset and only the thermos lives on (R36, R497). -/
def execPowerLoss (s : State) : Res :=
  .next (if powered s then
    let s := initialState s
    { s with boot := { s.boot with phase := .unpowered, thermalLatch := false } }
  else s)

/-! ## The restore (R514, R515) -/

/-- The kept bits of one stored station word come back. -/
def restoreWord (s : State) (e : Nat × Word) : State :=
  match stnRow e.1 with
  | some r => setStnWord s e.1 ((e.2 &&& BitVec.ofNat 32 r.kept) ||| (stnWord s e.1 &&& ~~~ BitVec.ofNat 32 r.kept))
  | none => s

/-- The small part: kept station values, and the lane results that are stored (R478);
a pod lane's wait for the pod's PD_ID at bring-up. -/
def restoreSmall (s : State) : State :=
  match newestBank s with
  | some b =>
    let s := b.small.foldl restoreWord s
    let s := { s with lanes := { s.lanes with stored := b.lanesTuned, podIds := b.podIds } }
    let s := (b.lanesTuned.filter (fun e => e.1 < 10 || 34 ≤ e.1)).foldl (fun s e => setFldB s (F.LANE_STAT_STORED e.1) true) s
    setFldB s F.THM_STAT_SETTINGS_OK true
  | none => alarm s 12 [1]

/-- The bulk part: threshold arrays and Sight tables. -/
def restoreBulk (s : State) : State :=
  match newestBank s with
  | some b => setFldB { s with vstn := s.therm.bulks[b.bulkBank] } F.THM_STAT_BULK_OK true
  | none => alarm s 12 [2]

/-- A checkpoint copy with the journal replayed over it, as the live map's kept fields. -/
def replayed (s : State) (n : Fin 2) : MapCopy := ⟨s.therm.journal.foldl foldRecord s.therm.ckpt[n], []⟩

/-- The nozzle map: the selected copy, else the other one, else factory values. -/
def restoreMap (s : State) : State :=
  let put := fun (m : MapCopy) => renumberAll { s with scr := { s.scr with live := m } }
  let n := s.therm.ckptSel
  if s.therm.ckptGood[n] then setFldB (put (replayed s n)) F.THM_STAT_MAP_OK true
  else if s.therm.ckptGood[other n] then alarm (put (replayed s (other n))) 12 [3]
  else alarm (put ⟨[], []⟩) 12 [3]

/-- Device address and pair number, when the stored strap is this one's; the pair epoch always. -/
def restoreNumbers (s : State) : State :=
  let same := match newestBank s with
    | some b => b.pairPos == s.boot.strap
    | none => false
  { s with
    therm := { s.therm with devAddr := if same then s.therm.keptAddr else none, pair := if same then s.therm.keptPair else none }
    twin := { s.twin with epoch := s.therm.epoch } }

/-- Channel `k` has stored results for every rate of RATE_MASK, taken from parts with this rank count (R441, R514). -/
def storedResults (s : State) (part : DramPart) (k : Fin 4) : Bool :=
  match newestBank s with
  | some b => b.ranks2 == part.ranks2
      && (BitVec.ofNat 5 (fld s F.DRAM_CFG_RATE_MASK) &&& ~~~ b.dramTuned[k] == 0)
  | none => false

/-- DRAM training (R430, R441, R514): what the parts say of themselves; a channel whose stored results pass the fast check
takes them, another one takes the full path for every rate of RATE_MASK, and its results are stored in the background; a
channel that fails keeps TRAINED 0 and RETRAIN_FAIL 1 (R515). -/
def restoreDram (s : State) (trained fastOk : BitVec 4) (part : DramPart) : State :=
  let fast := fun k : Fin 4 => fastOk.getLsbD k && storedResults s part k
  let old := match newestBank s with
    | some b => b.dramTuned
    | none => Vector.replicate 4 0
  let mask := BitVec.ofNat 5 (fld s F.DRAM_CFG_RATE_MASK)
  let tuned : Vector (BitVec 5) 4 :=
    Vector.ofFn (fun k : Fin 4 => if !trained.getLsbD k then 0 else if fast k then old[k] else mask)
  let s := setFldB (setFld s F.DRAM_CFG_DENSITY part.density.val) F.DRAM_CFG_RANKS2 part.ranks2
  let s := setFldB s F.DRAM_STAT_RFM_REQ part.rfm
  let s := setFld (setFld s F.DRAM_STAT_TRAINED trained.toNat) F.DRAM_STAT_RETRAIN_FAIL (~~~ trained).toNat
  { s with
    drm := { s.drm with tuned := tuned }
    therm := { s.therm with dirty := s.therm.dirty || (List.finRange 4).any (fun k => trained.getLsbD k && !fast k) } }

def restoreAll (s : State) (trained fastOk : BitVec 4) (part : DramPart) : State :=
  restoreDram (restoreNumbers (restoreMap (setPodEntries (restoreBulk (restoreSmall s))))) trained fastOk part

/-! ## Readiness (R369, R513, R516) -/

/-- The running pending image becomes the boot image, and the floor follows it (R513). -/
def confirmImage (s : State) : State :=
  match s.therm.pending with
  | some n =>
    let svn := match s.therm.slots[n] with
      | some f => f.svn
      | none => 0
    { s with
      therm := { s.therm with bootSlot := n, pending := none, tries := 0, floor := if s.therm.floor.toNat < svn.toNat then svn else s.therm.floor }
      boot := { s.boot with pendingBoot := false } }
  | none => s

/-- Unit `u` runs periodically on TB-MOTION from now on; bit 4 starts housekeeping rounds, bit 5 motion cycles (R399). -/
def residentUnit (s : State) (u : Fin 8) (act : Nat) (period : Nat) : State :=
  let s := setFld (setFld s (F.TIME_TMC_CTL_BASE u) 3) ⟨(F.TIME_TMC_CTL_BASE u).addr, act, 1⟩ 1
  let s := setFld (setFld s (F.TIME_PERIOD u) period) (F.TIME_TARGET u) ((tbVal s 3).toNat + period)
  tmcArm s u

/-- The motion cycle (R405). -/
def cyclePeriodNs (s : State) : Nat := cycleUs s * 1000

/-- The resident runs on stewards 6 and 7 (R59), and its compare units are armed. -/
def startResident (s : State) : State :=
  let s := modStw (modStw s 6 (fun w => { w with run := .running })) 7 (fun w => { w with run := .running })
  residentUnit (residentUnit s 6 4 (hkPeriodNs s)) 7 5 (cyclePeriodNs s)

/-- The context last committed is in force again (R298, R306). -/
def restoreCtx (s : State) (n : Fin 4) : State :=
  let c := ctxSnapshot s n (BitVec.ofNat 16 (fld s (F.SIGHT_CTX_TAG_COMMITTED n)))
  let cam := { s.sight.cams[n] with ctx := some c }
  { s with sight := { s.sight with cams := s.sight.cams.set n cam } }

/-- THM_STAT bits [6:4]: what was restored. -/
def restoreBits (s : State) : Word :=
  BitVec.ofNat 32 (fld s F.THM_STAT_SETTINGS_OK + 2 * fld s F.THM_STAT_BULK_OK + 4 * fld s F.THM_STAT_MAP_OK)

/-- The records queued before readiness take their MSEQs in their order (R373). -/
def numberEarly (s : State) : List QRec → State
  | [] => s
  | q :: qs =>
    let (m, s) := takeMseq s 1
    numberEarly { s with mbx := { s.mbx with queue := s.mbx.queue ++ [{ q with mseq := m }] } } qs

/-- Device-started is the first record of stream 1; the earlier ones follow it (R373, R498). -/
def firstRecord (s : State) : State :=
  let early := s.mbx.queue
  let s := { s with mbx := { s.mbx with queue := [], started := true } }
  let s := alarm s 0 [BitVec.ofNat 32 s.boot.kind, BitVec.ofNat 32 s.boot.slot.val, restoreBits s]
  numberEarly s early

/-- The device becomes ready: it toggles HB_OUT and elects (R328). -/
def becomeReady (s : State) : State :=
  { s with
    boot := { s.boot with phase := .ready }
    twin := { s.twin with role := .electing, roleAt := s.clk.now } }

/-- READINESS: `trained` has a bit for each channel that the fast or the full path has trained, `fastOk` for each whose
mode registers and fast check agree with the stored results. -/
def execReadiness (trained fastOk : BitVec 4) (part : DramPart) (s : State) : Res :=
  .next (if s.boot.phase = .starting then
    let s := spareCheck (restoreAll s trained fastOk part)
    let s := if s.boot.pendingBoot then confirmImage s else s
    let s := (List.finRange 4).foldl restoreCtx (startResident s)
    firstRecord (becomeReady s)
  else s)

end Sys2Proof.Machine
end

