-- ==== Sys2Proof/Machine/Pins.lean ====
section
/-! DEFINITION. What the output balls show, read off the state (R20, R36, R327, R331, R403, R404, R414, R465, R540, R541,
R545, R546). -/
namespace Sys2Proof.Machine
open Sys2Proof

/-- What an output ball does. A high-impedance ball is held low by its internal pull-down (R540). -/
inductive Drive where
  | highZ
  | low
  | high
  | pwm (duty : Nat)           -- high for `duty` of 4,096 parts of each PWM period (R403, R414)
deriving DecidableEq, Repr

def level (b : Bool) : Drive := if b then .high else .low

/-! ## Motor outputs (R403, R404, R414) -/

/-- The two phases of an axis, and the two half-bridges of a phase (R535). -/
inductive Half where
  | ap
  | an
  | bp
  | bn
deriving DecidableEq, Repr

/-- The half-bridge's share of its phase's duty: a positive duty drives P and holds N low, a negative one the reverse. -/
def halfDuty (a : Axis) : Half → Nat
  | .ap => a.dutyA.toNat
  | .an => (-a.dutyA).toNat
  | .bp => a.dutyB.toNat
  | .bn => (-a.dutyB).toNat

/-- A PWM ball of axis `k`: the table of R404. -/
def pwmBall (s : State) (k : Fin 4) (h : Half) : Drive :=
  if !isActive s then .highZ
  else if !fldB s (F.MOT_AX_CTL_ENABLE k) then .low
  else if halfDuty (ax s k) h = 0 then .low
  else .pwm (halfDuty (ax s k) h)

/-- The PWM frequency in kHz (R403). -/
def pwmFreqKhz (s : State) : Nat := Nat.max 20 (Nat.min 100 (fld s F.MOT_CTL_PWM_KHZ))

/-! ## AUX balls (R36, R540, R545, R546) -/

/-- READY: from readiness until a reset, a thermal shutdown included (R545, R548). -/
def shownReady (s : State) : Bool := s.boot.phase == .ready || (s.boot.phase == .shut && s.mbx.started)

/-- The level of an AUX ball between pulses, from readiness on. A thermal shutdown stops every function but READY (log
entry 123). -/
def auxLevel (s : State) (ball : Nat) : Bool :=
  (ball == 2 && s.boot.phase == .ready && auxCarries s 0x0A && jobRuns s)
    || (ball == 3 && s.boot.phase == .ready && auxCarries s 0x0B && (List.finRange 24).any (fun p => urgent s p))
    || (ball == 7 && shownReady s)

/-- An AUX ball between pulses: high impedance until readiness. -/
def auxOut (s : State) (ball : Fin 8) : Drive := if shownReady s then level (auxLevel s ball) else .highZ

/-! ## Levels that are low in reset (R36) -/

def activeOutBall (s : State) : Bool := s.pins.activeOut
def peerRstBall (s : State) : Bool := s.twin.peerRst == .high
/-- LINE_SYNC_OUT between its pulses (R31, R237). -/
def lineSyncBall (s : State) : Bool := s.pins.lineSync
def hvBall (s : State) (p : Fin 24) : Bool := (fld s F.PODPWR_HV_STAT).testBit p

/-! ## The heartbeat (R331, R541) -/

/-- Ticks of 500 ns between two edges of HB_OUT. -/
def hbHalf : Nat := 1600

/-- HB_OUT: from readiness a 1 MHz square wave, in every role; static at 0 in reset, unpowered and from a thermal shutdown.
The phase against the device's clock is the model's (log entry 114). -/
def hbOut (s : State) : Bool := s.boot.phase == .ready && s.clk.now / hbHalf % 2 == 1

/-! ## Lanes (R36, R465, R476) -/

/-- The lane has a transmit ball (R462): feed and camera lanes have none. -/
def hasTransmit (l : Fin 42) : Bool := l.val < 4 || (8 ≤ l.val && l.val < 34)

/-- The transmit ball is electrically idle: in reset or unpowered, out of service, or in a near-end loopback. -/
def txIdle (s : State) (l : Fin 42) : Bool :=
  if laneTesting s l then !alive s || fld s (F.LANE_CTL_LOOP l) == 1 || fld s (F.LANE_CTL_LOOP l) == 2
  else !laneInService s l

/-- The uplink pair of camera `n` is driven on the active only (R283, R543). -/
def uplinkDriven (s : State) (n : Fin 4) : Bool := isActive s && fldB s (F.SIGHT_CAM_CTL_ENABLE n)

end Sys2Proof.Machine
end

