-- ==== Sys2Proof/Machine/Jtag.lean ====
section
/-! DEFINITION. The I²C status word and the JTAG port (R547 to R550). -/
namespace Sys2Proof.Machine
open Sys2Proof

/-! ## The status word (R548) -/

/-- ROLE of the word: 3 until readiness, 0 after a thermal shutdown, else that of TWN_STAT. -/
def shownRole (s : State) : Nat :=
  if s.boot.phase = .ready then roleNum s.twin.role else if shownReady s then 0 else 3

def busyOp (s : State) : Nat :=
  match s.round.busy with
  | some b => b.op
  | none => 0

def statusWord (s : State) : Word :=
  let run := s.boot.phase == .ready
  wNat (shownRole s + wBit (shownReady s) 2 + wBit (run && s.round.busy.isSome) 3
    + (if run then busyOp s % 8 * 16 else 0)
    + wBit (!shownReady s) 7 + wBit s.boot.thermalLatch 8 + wBit s.boot.ovHold 9
    + wBit (s.boot.phase == .noFirmware) 10 + wBit s.boot.strap 11 + wBit (run && s.twin.joined) 12
    + wBit (run && shownEligible s) 13 + wBit (run && jobRuns s) 14 + wBit (s.boot.kind == 3) 15
    + Nat.min 255 s.pwr.dieTemp * 65536
    + (match s.therm.devAddr with
        | some a => a.toNat
        | none => 0x7F) * 16777216)

/-- I2C_STATUS_READ: the four bytes of one snapshot, bits [7:0] first; an unpowered device does not answer. -/
def execI2cStatusRead (s : State) : Res :=
  .next (if s.boot.phase = .unpowered then s else emit s (.i2c (leBytes 4 (statusWord s).toNat)))

/-! ## The test access port (R549) -/

/-- The reset input is asserted. -/
def resetAsserted (s : State) : Bool := s.boot.phase == .inReset && !s.boot.ovHold

/-- The condition of an instruction code holds. -/
def jtagAllowed (s : State) (c : Byte) : Bool :=
  if c = 0x00 ∨ c = 0x03 ∨ c = 0x04 ∨ c = 0x05 ∨ c = 0x06 then resetAsserted s
  else if c = 0x20 ∨ c = 0x21 then s.boot.phase == .noFirmware
  else c = 0x01 || c = 0x02 || c = 0x22

/-- The instruction that acts: BYPASS in place of one whose condition does not hold, or of another code. -/
def jtagActs (s : State) : Byte := if jtagAllowed s s.jtag.ir then s.jtag.ir else 0xFF

/-- An instruction is loaded; the port runs whenever VDD_AON is up. -/
def loadIr (s : State) (c : Byte) : State :=
  if s.boot.phase = .unpowered then s else { s with jtag := { s.jtag with ir := c } }

/-- The `n` bits of a captured data register, as they leave TDO, bit 0 first. -/
def tdoBits (n v : Nat) : List Bool := (List.range n).map (fun i => v.testBit i)

/-- Load an instruction; what its data register captures leaves at TDO. BYPASS captures one 0. -/
def capture (s : State) (bits : List Bool) : State :=
  if s.boot.phase = .unpowered then s else emit s (.tdo bits)

def execTapReset (s : State) : Res := .next (loadIr s 0x01)

/-- An instruction of the boundary register: the preloaded cells stand there; as BYPASS, one 0. -/
def boundaryOp (s : State) (c : Byte) : State :=
  let s := loadIr s c
  capture s (if jtagActs s = 0xFF then [false] else s.jtag.cells)

def execExtest (s : State) : Res := .next (boundaryOp s 0x00)
def execExtestPulse (s : State) : Res := .next (boundaryOp s 0x03)
def execExtestTrain (s : State) : Res := .next (boundaryOp s 0x04)

/-- CLAMP and HIGHZ put BYPASS between TDI and TDO, as IEEE 1149.1 has it; the outputs hold the cells, or float. -/
def pinOp (s : State) (c : Byte) : State := capture (loadIr s c) [false]
def execClamp (s : State) : Res := .next (pinOp s 0x05)
def execHighz (s : State) : Res := .next (pinOp s 0x06)
def execBypass (_code : Byte) (s : State) : Res := .next (pinOp s 0xFF)

/-- IDCODE 0x1426_4A6B: version 1, part 0x4264, bit 0 set. -/
def jtagIdcode : Nat := 0x14264A6B
def execIdcode (s : State) : Res := .next (capture (loadIr s 0x01) (tdoBits 32 jtagIdcode))

/-- SAMPLE/PRELOAD: the cells take what is shifted in. What the pins show is the board's, and not in the block. -/
def execSamplePreload (cells : List Bool) (s : State) : Res :=
  .next (if s.boot.phase = .unpowered then s
  else
    let s := loadIr s 0x02
    { s with jtag := { s.jtag with cells := cells } })

/-! ## The firmware image (R550) -/

/-- The staging area holds 1 MiB. -/
def stagingMax : Nat := 1048576

def execImageLoad (s : State) : Res :=
  let s := loadIr s 0x20
  .next (if jtagActs s = 0x20 then { s with jtag := { s.jtag with staging := [], state := 0, overflow := false } }
  else capture s [false])

/-- One word appended, little-endian; more than 1 MiB sets OVERFLOW. -/
def execImageLoadUpdate (w : Word) (s : State) : Res :=
  .next (if jtagActs s = 0x20 then
    if s.jtag.staging.length + 4 ≤ stagingMax then
      { s with jtag := { s.jtag with staging := s.jtag.staging ++ leBytes 4 w.toNat } }
    else { s with jtag := { s.jtag with overflow := true } }
  else s)

/-- The staged image is good: not over 1 MiB, and valid by R510. -/
def stagedOk (s : State) : Bool := !s.jtag.overflow && fwValid s s.jtag.staging

def execImageCommit (s : State) : Res :=
  let s := loadIr s 0x21
  .next (if jtagActs s = 0x21 then
    if stagedOk s then
      let s := writeSlot s 0 s.jtag.staging
      { s with
        therm := { s.therm with pending := some 0, tries := 0 }
        jtag := { s.jtag with state := 2 } }
    else { s with jtag := { s.jtag with state := 3 } }
  else capture s [false])

/-- IMAGE_STATUS: STATE in bits [1:0], OVERFLOW in bit 2. -/
def imageStatusByte (s : State) : Nat := s.jtag.state % 4 + wBit s.jtag.overflow 2
def execImageStatus (s : State) : Res :=
  let s := loadIr s 0x22
  .next (capture s (tdoBits 8 (imageStatusByte s)))

end Sys2Proof.Machine
end

