-- ==== Sys2Proof/Machine/Flags.lean ====
section
/-! DEFINITION. The computed results of the steward instructions.  The Gyeno has no arithmetic flags: comparisons
write 0 or 1 to a register, or bits to a predicate (R67, R70); saturation and the nibble lanes stand here. -/
namespace Sys2Proof.Machine
open Sys2Proof

/-- 1 or 0 (R67). -/
def boolWord (b : Bool) : Word := if b then 1 else 0

/-- A signed result saturated at 0x7FFF_FFFF and 0x8000_0000 (ADDSS, SUBSS). -/
def satSigned (i : Int) : Word :=
  if 2 ^ 31 ≤ i then 0x7FFFFFFF else if i < -(2 ^ 31) then 0x80000000 else BitVec.ofInt 32 i

def minS (a b : Word) : Word := if a.slt b then a else b
def maxS (a b : Word) : Word := if a.slt b then b else a
def minU (a b : Word) : Word := if a.ult b then a else b
def maxU (a b : Word) : Word := if a.ult b then b else a

/-- Bits [63:32] of the exact signed product. -/
def mulHighS (a b : Word) : Word := BitVec.ofInt 32 (a.toInt * b.toInt / 2 ^ 32)
/-- Bits [63:32] of the exact unsigned product. -/
def mulHighU (a b : Word) : Word := BitVec.ofNat 32 (a.toNat * b.toNat / 2 ^ 32)

/-- Leading zeros, 0 to 32. -/
def clzNat (a : Word) : Nat := if a = 0 then 32 else 31 - a.toNat.log2
/-- Set bits of the low `n` bits. -/
def popNat {w : Nat} (a : BitVec w) : Nat → Nat
  | 0 => 0
  | n + 1 => (if a.getLsbD n then 1 else 0) + popNat a n

/-! ## Nibble lanes (R70) -/

/-- Lane `i` of a vector register. -/
def lane (v : Vec) (i : Nat) : BitVec 4 := v.extractLsb' (4 * i) 4

/-- The vector whose lane `i` is `f i`, for 64 lanes. -/
def ofLanes (f : Nat → BitVec 4) : Vec :=
  (List.range 64).foldl (fun acc i => acc ||| ((f i).setWidth 256 <<< (4 * i))) 0

/-- The predicate whose bit `i` is `f i`, for 64 lanes. -/
def ofBits (f : Nat → Bool) : Pred :=
  (List.range 64).foldl (fun acc i => acc ||| (if f i then (1 : Pred) <<< i else 0)) 0

/-- Merging: lanes whose governing bit is 0 keep their old value. -/
def mergeLanes (old : Vec) (g : Pred) (f : Nat → BitVec 4) : Vec :=
  ofLanes (fun i => if g.getLsbD i then f i else lane old i)

/-- Zeroing: lanes whose governing bit is 0 are written 0 in the destination predicate. -/
def zeroBits (g : Pred) (f : Nat → Bool) : Pred := ofBits (fun i => g.getLsbD i && f i)

/-- One lane replaced. -/
def putLane (v : Vec) (i : Nat) (x : BitVec 4) : Vec := ofLanes (fun j => if j = i then x else lane v j)

/-- Saturating lane sums and differences. -/
def addSat4 (a b : BitVec 4) : BitVec 4 := if 15 < a.toNat + b.toNat then 15 else a + b
def subSat4 (a b : BitVec 4) : BitVec 4 := if a.toNat < b.toNat then 0 else a - b
def min4 (a b : BitVec 4) : BitVec 4 := if a.ult b then a else b
def max4 (a b : BitVec 4) : BitVec 4 := if a.ult b then b else a

/-- Index of the lowest set bit of a predicate, or 64. -/
def firstBit (p : Pred) : Nat := ((List.range 64).find? (fun i => p.getLsbD i)).getD 64

/-- Sum of the lanes a predicate selects. -/
def sumLanes (v : Vec) (p : Pred) : Nat :=
  (List.range 64).foldl (fun acc i => acc + (if p.getLsbD i then (lane v i).toNat else 0)) 0

end Sys2Proof.Machine
end

