-- ==== Sys2Proof/Machine/Scalar.lean ====
section
/-! DEFINITION. The scalar steward instructions (R67 to R69): one meaning per row. -/
namespace Sys2Proof.Machine
open Sys2Proof

def execAdd (k : Fin 8) (d a b : Fin 32) (s : State) : Res := opT s k d a b (fun a b => a + b)
def execSub (k : Fin 8) (d a b : Fin 32) (s : State) : Res := opT s k d a b (fun a b => a - b)
def execAnd (k : Fin 8) (d a b : Fin 32) (s : State) : Res := opT s k d a b (fun a b => a &&& b)
def execOr (k : Fin 8) (d a b : Fin 32) (s : State) : Res := opT s k d a b (fun a b => a ||| b)
def execXor (k : Fin 8) (d a b : Fin 32) (s : State) : Res := opT s k d a b (fun a b => a ^^^ b)
def execSll (k : Fin 8) (d a b : Fin 32) (s : State) : Res := opT s k d a b (fun a b => a <<< (b.toNat % 32))
def execSrl (k : Fin 8) (d a b : Fin 32) (s : State) : Res := opT s k d a b (fun a b => a >>> (b.toNat % 32))
def execSra (k : Fin 8) (d a b : Fin 32) (s : State) : Res := opT s k d a b (fun a b => a.sshiftRight (b.toNat % 32))
def execSlt (k : Fin 8) (d a b : Fin 32) (s : State) : Res := opT s k d a b (fun a b => boolWord (a.slt b))
def execSltu (k : Fin 8) (d a b : Fin 32) (s : State) : Res := opT s k d a b (fun a b => boolWord (a.ult b))
def execMin (k : Fin 8) (d a b : Fin 32) (s : State) : Res := opT s k d a b (fun a b => minS a b)
def execMax (k : Fin 8) (d a b : Fin 32) (s : State) : Res := opT s k d a b (fun a b => maxS a b)
def execMinu (k : Fin 8) (d a b : Fin 32) (s : State) : Res := opT s k d a b (fun a b => minU a b)
def execMaxu (k : Fin 8) (d a b : Fin 32) (s : State) : Res := opT s k d a b (fun a b => maxU a b)
def execMul (k : Fin 8) (d a b : Fin 32) (s : State) : Res := opT s k d a b (fun a b => a * b)
def execMulh (k : Fin 8) (d a b : Fin 32) (s : State) : Res := opT s k d a b (fun a b => mulHighS a b)
def execMulhu (k : Fin 8) (d a b : Fin 32) (s : State) : Res := opT s k d a b (fun a b => mulHighU a b)
def execSlli (k : Fin 8) (d a : Fin 32) (n : Fin 32) (s : State) : Res := opI s k d a (fun a => a <<< n.val)
def execSrli (k : Fin 8) (d a : Fin 32) (n : Fin 32) (s : State) : Res := opI s k d a (fun a => a >>> n.val)
def execSrai (k : Fin 8) (d a : Fin 32) (n : Fin 32) (s : State) : Res := opI s k d a (fun a => a.sshiftRight n.val)
def execClz (k : Fin 8) (d a : Fin 32) (s : State) : Res := opI s k d a (fun a => BitVec.ofNat 32 (clzNat a))
def execPopc (k : Fin 8) (d a : Fin 32) (s : State) : Res := opI s k d a (fun a => BitVec.ofNat 32 (popNat a 32))
def execAddss (k : Fin 8) (d a b : Fin 32) (s : State) : Res := opT s k d a b (fun a b => satSigned (a.toInt + b.toInt))
def execSubss (k : Fin 8) (d a b : Fin 32) (s : State) : Res := opT s k d a b (fun a b => satSigned (a.toInt - b.toInt))
def execAddi (k : Fin 8) (d a : Fin 32) (imm : BitVec 16) (s : State) : Res := opI s k d a (fun a => a + imm.signExtend 32)
def execAndi (k : Fin 8) (d a : Fin 32) (imm : BitVec 16) (s : State) : Res := opI s k d a (fun a => a &&& imm.setWidth 32)
def execOri (k : Fin 8) (d a : Fin 32) (imm : BitVec 16) (s : State) : Res := opI s k d a (fun a => a ||| imm.setWidth 32)
def execXori (k : Fin 8) (d a : Fin 32) (imm : BitVec 16) (s : State) : Res := opI s k d a (fun a => a ^^^ imm.setWidth 32)
def execSlti (k : Fin 8) (d a : Fin 32) (imm : BitVec 16) (s : State) : Res := opI s k d a (fun a => boolWord (a.slt (imm.signExtend 32)))
def execSltiu (k : Fin 8) (d a : Fin 32) (imm : BitVec 16) (s : State) : Res := opI s k d a (fun a => boolWord (a.ult (imm.signExtend 32)))
def execLui (k : Fin 8) (d : Fin 32) (imm : BitVec 21) (s : State) : Res :=
  onSteward s k (fun s => finG s k d (imm.setWidth 32 <<< 11))

/-- What a loaded value of each kind becomes in its register: 0 LW, 1 LH, 2 LHU, 3 LB, 4 LBU (R67). -/
def loadExtend (lkind v : Nat) : Word :=
  if lkind = 1 then (BitVec.ofNat 16 v).signExtend 32
  else if lkind = 3 then (BitVec.ofNat 8 v).signExtend 32
  else BitVec.ofNat 32 v

/-- A scalar load of `n` bytes (R67, R63, R68). -/
def scalarLoad (s : State) (k : Fin 8) (d a : Fin 32) (imm : BitVec 16) (n lkind : Nat) (parity : Bool) : Res :=
  onSteward s k (fun s =>
    loadFrom s k (effAddr (stw s k) a imm) n kLoad parity d lkind (fun s v => finG s k d (loadExtend lkind v)))

/-- A scalar store of the low `n` bytes of G[d]. -/
def scalarStore (s : State) (k : Fin 8) (d a : Fin 32) (imm : BitVec 16) (n : Nat) : Res :=
  onSteward s k (fun s =>
    storeTo s k (effAddr (stw s k) a imm) n kStore (leBytes n ((stw s k).gr d).toNat))

def execLw (k : Fin 8) (d a : Fin 32) (imm : BitVec 16) (parity : Bool) (s : State) : Res :=
  scalarLoad s k d a imm 4 0 parity
def execLh (k : Fin 8) (d a : Fin 32) (imm : BitVec 16) (parity : Bool) (s : State) : Res :=
  scalarLoad s k d a imm 2 1 parity
def execLhu (k : Fin 8) (d a : Fin 32) (imm : BitVec 16) (parity : Bool) (s : State) : Res :=
  scalarLoad s k d a imm 2 2 parity
def execLb (k : Fin 8) (d a : Fin 32) (imm : BitVec 16) (parity : Bool) (s : State) : Res :=
  scalarLoad s k d a imm 1 3 parity
def execLbu (k : Fin 8) (d a : Fin 32) (imm : BitVec 16) (parity : Bool) (s : State) : Res :=
  scalarLoad s k d a imm 1 4 parity
def execSw (k : Fin 8) (d a : Fin 32) (imm : BitVec 16) (s : State) : Res := scalarStore s k d a imm 4
def execSh (k : Fin 8) (d a : Fin 32) (imm : BitVec 16) (s : State) : Res := scalarStore s k d a imm 2
def execSb (k : Fin 8) (d a : Fin 32) (imm : BitVec 16) (s : State) : Res := scalarStore s k d a imm 1

/-- The data of a DRAM-window load arrive (R64): an uncorrectable codeword is a DRAM_ECC fault, with the window
address in SC_FADDR. Its channel issues in its order until this request has (R437); one that came while a rate change
runs is not admitted before its end (R444). -/
def execLoadDataReturn (k : Fin 8) (ecc : Fin 3) (s : State) : Res :=
  match (stw s k).run with
  | .loading vec d lkind addr =>
    if fldB s F.DRAM_STAT_FREQ_BUSY && (s.drm.chans[chanIx addr]).waits k then .next s
    else
      let n := if vec then 32 else if lkind = 0 then 4 else if lkind ≤ 2 then 2 else 1
      let s := newEccError (modChan s (chanIx addr) (fun c => c.serveRead k)) addr ecc
      let bad := dramBad s addr n
      let s := dramReadEffect s addr n
      let s := modStw s k (fun w => { w with run := .running })
      if bad then
        .next (stewardFault s k 0x05 0 (BitVec.ofNat 32 (addr % 2 ^ 31 + 0x80000000)))
      else if vec then .next (finV s k (Fin.ofNat 16 d.val) (vecOfBytes (dramBytes s addr 32)))
      else .next (finG s k d (loadExtend lkind (leNat (dramBytes s addr n))))
  | _ => .next s

/-- An atomic operation on local data or shared memory (R69): one read and write of an aligned word. `new` gets the
old value, G[b] and G[d]; local data whose parity check fails fault (R87). -/
def amo (s : State) (k : Fin 8) (d a b : Fin 32) (parity : Bool) (new : Word → Word → Word → Word) : Res :=
  onSteward s k (fun s =>
    let w := stw s k
    let addr := w.gr a
    if addr.toNat % 4 ≠ 0 then faultMisaligned s k addr
    else match region s k addr with
      | .dmem o =>
        if parity then faultParity s k addr
        else
        let old := BitVec.ofNat 32 (memNat w.dmem o 4)
        modStw s k (fun w =>
          ({ w with dmem := memPutNat w.dmem o 4 (new old (w.gr b) (w.gr d)).toNat }.setG d old).fin)
      | .shared o =>
        let old := BitVec.ofNat 32 (memNat s.shared o 4)
        finG { s with shared := memPutNat s.shared o 4 (new old (w.gr b) (w.gr d)).toNat } k d old
      | _ => faultAccess s k kAmo addr)

def execAmoswap (k : Fin 8) (d a b : Fin 32) (parity : Bool) (s : State) : Res :=
  amo s k d a b parity (fun _ b _ => b)
def execAmoadd (k : Fin 8) (d a b : Fin 32) (parity : Bool) (s : State) : Res :=
  amo s k d a b parity (fun old b _ => old + b)
def execAmoand (k : Fin 8) (d a b : Fin 32) (parity : Bool) (s : State) : Res :=
  amo s k d a b parity (fun old b _ => old &&& b)
def execAmoor (k : Fin 8) (d a b : Fin 32) (parity : Bool) (s : State) : Res :=
  amo s k d a b parity (fun old b _ => old ||| b)
def execAmocas (k : Fin 8) (d a b : Fin 32) (parity : Bool) (s : State) : Res :=
  amo s k d a b parity (fun old b e => if old = e then b else old)

def execBeq (k : Fin 8) (a b : Fin 32) (off : BitVec 16) (s : State) : Res := opB s k (fun w => w.gr a == w.gr b) off
def execBne (k : Fin 8) (a b : Fin 32) (off : BitVec 16) (s : State) : Res := opB s k (fun w => w.gr a != w.gr b) off
def execBlt (k : Fin 8) (a b : Fin 32) (off : BitVec 16) (s : State) : Res := opB s k (fun w => (w.gr a).slt (w.gr b)) off
def execBge (k : Fin 8) (a b : Fin 32) (off : BitVec 16) (s : State) : Res := opB s k (fun w => !(w.gr a).slt (w.gr b)) off
def execBltu (k : Fin 8) (a b : Fin 32) (off : BitVec 16) (s : State) : Res := opB s k (fun w => (w.gr a).ult (w.gr b)) off
def execBgeu (k : Fin 8) (a b : Fin 32) (off : BitVec 16) (s : State) : Res := opB s k (fun w => !(w.gr a).ult (w.gr b)) off
def execBpany (k : Fin 8) (p : Fin 8) (off : BitVec 16) (s : State) : Res := opB s k (fun w => w.pr p != 0) off
def execBpnone (k : Fin 8) (p : Fin 8) (off : BitVec 16) (s : State) : Res := opB s k (fun w => w.pr p == 0) off

def execJ (k : Fin 8) (off : BitVec 26) (s : State) : Res :=
  onSteward s k (fun s => jumpTo s k (branchTarget (stw s k) off) id)

/-- JAL links into G31 (R67). -/
def execJal (k : Fin 8) (off : BitVec 26) (s : State) : Res :=
  onSteward s k (fun s => jumpTo s k (branchTarget (stw s k) off) (fun w => w.setG 31 (w.pc + 4)))

/-- JALR takes its target before it writes d (R67). -/
def execJalr (k : Fin 8) (d a : Fin 32) (s : State) : Res :=
  onSteward s k (fun s => jumpTo s k ((stw s k).gr a &&& ~~~ 3) (fun w => w.setG d (w.pc + 4)))

/-- HALT (R67, R88). It completes: the PC stands at the next instruction. -/
def execHalt (k : Fin 8) (s : State) : Res :=
  onSteward s k (fun s => modStw s k (fun w => { w.fin with run := .halted }))

/-- BRK: a BREAK fault with the code in SC_FADDR[15:0] (R67, R87); SC_FADDR[31:16] is 0, since R78 calls the register
"the BRK code" there (DEDUCED, log entry 96). -/
def execBrk (k : Fin 8) (imm : BitVec 16) (s : State) : Res :=
  onSteward s k (fun s => stewardFault s k 0x07 0 (imm.setWidth 32))

end Sys2Proof.Machine
end

