-- ==== Sys2Proof/Machine/TimeLetters.lean ====
section
/-! DEFINITION. The time letters of the Round: SYNC, DELAY_REQ and DELAY_RESP (R130, R131, R393), with the checks that
every ring management letter has (R113, R125, R128). -/
namespace Sys2Proof.Machine
open Sys2Proof

/-! ## SYNC (R393) -/

/-- A SYNC whose START block was latched at `t`; it gets no receipt. -/
def runSync (t : Nat) (inc : Word) (s : State) (e : Env) (pl : List Byte) : Reply :=
  orBad s (lengthBad pl 20)
    (let s := { s with clk := { s.clk with lastSync := s.clk.now, period := word32 pl 16 } }
     .silent (takeSync s (syncOffset s e.west pl (pressLatch s t)) inc))

/-- A broadcast that a hop has brought and that has not been executed when a long operation starts is not taken (R128). -/
def dropBusyBroadcast (s : State) (e : Env) (pl : List Byte) : State :=
  if s.round.busy.isSome && e.dest == 0xFF then unbox s e pl else s

def execSync (e : Env) (pl : List Byte) (t : Nat) (inc : Word) (s : State) : Res :=
  .next (accept 0x48 (runSync t inc) (dropBusyBroadcast (advanceTo s t) { e with kind := 0x48 } pl) e pl)

/-! ## Link delays (R130, R131) -/

/-- A time letter of this device to its neighbour (R131): ring management, stream 15, hop address 0x80. -/
def timeEnv (s : State) (west : Bool) (kind : Byte) : Env :=
  { west := west, dest := 0x80, src := ownSrc s, cls := 3, stream := 15, kind := kind, seq := 0, hops := 130,
    retx := false, wrapped := false, first := true, last := true, bad := false, aux := 0 }

/-- The eight bytes of RESIDENCE: egress latch at `t3` less ingress latch at `t2` (R130). -/
def residence (s : State) (t2 t3 : Nat) : Nat := ((pressLatch s t3 - pressLatch s t2) % 2 ^ 64).toNat

/-- DELAY_REQ is answered by DELAY_RESP out of the same port (R131). -/
def runDelayReq (t2 t3 : Nat) (s : State) (e : Env) (pl : List Byte) : Reply :=
  orBad s (lengthBad pl 8 <|> zerosBad pl 0 8)
    (.silent (sendEnv s e.west (timeEnv s e.west 0x4A) (leBytes 8 (residence s t2 t3))))

def execDelayReq (e : Env) (pl : List Byte) (t2 t3 : Nat) (s : State) : Res :=
  .next (accept 0x49 (runDelayReq t2 t3) (advanceTo s t3) e pl)

/-- DELAY_REQ leaves by each port; its egress latches are kept (R131). -/
def execDelayReqSend (t1East t1West : Nat) (s : State) : Res :=
  if s.boot.phase != .ready then .next s
  else
    let s := advanceTo s (Nat.max t1East t1West)
    let e := pressLatch s t1East
    let w := pressLatch s t1West
    let s := sendEnv s false (timeEnv s false 0x49) (leBytes 8 0)
    let s := sendEnv s true (timeEnv s true 0x49) (leBytes 8 0)
    .next { s with clk := { s.clk with reqEast := some e, reqWest := some w } }

/-- The answer gives the link delay ((t4 - t1) - RESIDENCE) / 2 of its port, t4 being its ingress latch (R131). -/
def runDelayResp (t4 : Nat) (s : State) (e : Env) (pl : List Byte) : Reply :=
  orBad s (lengthBad pl 8)
    (let d := fun t1 : Int => (pressLatch s t4 - t1 - leField pl 0 8) / 2
     .silent (match e.west, s.clk.reqEast, s.clk.reqWest with
      | false, some t1, _ => { s with clk := { s.clk with delayEast := d t1, reqEast := none } }
      | true, _, some t1 => { s with clk := { s.clk with delayWest := d t1, reqWest := none } }
      | _, _, _ => s))

def execDelayResp (e : Env) (pl : List Byte) (t4 : Nat) (s : State) : Res :=
  .next (accept 0x4A (runDelayResp t4) (advanceTo s t4) e pl)

end Sys2Proof.Machine
end

