-- ==== Sys2Proof/Machine/Vector.lean ====
section
/-! DEFINITION. The nibble-vector instructions (R70 to R72): one meaning per row. -/
namespace Sys2Proof.Machine
open Sys2Proof

/-- A merging instruction: lane `i` of the result from the operands (R70). -/
def opMerge (s : State) (k : Fin 8) (vd va vb : Fin 16) (pg : Fin 8) (f : Vec → Vec → Nat → BitVec 4) : Res :=
  onSteward s k (fun s =>
    let w := stw s k
    finV s k vd (mergeLanes (w.vr vd) (w.pr pg) (f (w.vr va) (w.vr vb))))

/-- A zeroing comparison into a predicate (R70). -/
def opZero (s : State) (k : Fin 8) (pd : Fin 8) (pg : Fin 8) (f : Steward → Nat → Bool) : Res :=
  onSteward s k (fun s =>
    let w := stw s k
    finP s k pd (zeroBits (w.pr pg) (f w)))

/-- A 64-bit predicate operation (R70). -/
def opPred (s : State) (k : Fin 8) (pd pa pb : Fin 8) (f : Pred → Pred → Pred) : Res :=
  onSteward s k (fun s => finP s k pd (f ((stw s k).pr pa) ((stw s k).pr pb)))

def execVadd (k : Fin 8) (vd va vb : Fin 16) (pg : Fin 8) (s : State) : Res :=
  opMerge s k vd va vb pg (fun x y i => lane x i + lane y i)
def execVadds (k : Fin 8) (vd va vb : Fin 16) (pg : Fin 8) (s : State) : Res :=
  opMerge s k vd va vb pg (fun x y i => addSat4 (lane x i) (lane y i))
def execVsubs (k : Fin 8) (vd va vb : Fin 16) (pg : Fin 8) (s : State) : Res :=
  opMerge s k vd va vb pg (fun x y i => subSat4 (lane x i) (lane y i))
def execVand (k : Fin 8) (vd va vb : Fin 16) (pg : Fin 8) (s : State) : Res :=
  opMerge s k vd va vb pg (fun x y i => lane x i &&& lane y i)
def execVor (k : Fin 8) (vd va vb : Fin 16) (pg : Fin 8) (s : State) : Res :=
  opMerge s k vd va vb pg (fun x y i => lane x i ||| lane y i)
def execVxor (k : Fin 8) (vd va vb : Fin 16) (pg : Fin 8) (s : State) : Res :=
  opMerge s k vd va vb pg (fun x y i => lane x i ^^^ lane y i)
def execVmin (k : Fin 8) (vd va vb : Fin 16) (pg : Fin 8) (s : State) : Res :=
  opMerge s k vd va vb pg (fun x y i => min4 (lane x i) (lane y i))
def execVmax (k : Fin 8) (vd va vb : Fin 16) (pg : Fin 8) (s : State) : Res :=
  opMerge s k vd va vb pg (fun x y i => max4 (lane x i) (lane y i))

/-- VSEL writes every lane (R70). -/
def execVsel (k : Fin 8) (vd va vb : Fin 16) (pg : Fin 8) (s : State) : Res :=
  onSteward s k (fun s =>
    let w := stw s k
    finV s k vd (ofLanes (fun i => if (w.pr pg).getLsbD i then lane (w.vr va) i else lane (w.vr vb) i)))

def execVlut (k : Fin 8) (vd va vb : Fin 16) (pg : Fin 8) (s : State) : Res :=
  opMerge s k vd va vb pg (fun x y i => lane y (lane x i).toNat)
def execVsplat (k : Fin 8) (vd : Fin 16) (imm : BitVec 4) (pg : Fin 8) (s : State) : Res :=
  opMerge s k vd vd vd pg (fun _ _ _ => imm)
def execVslu (k : Fin 8) (vd va : Fin 16) (n : Fin 32) (pg : Fin 8) (s : State) : Res :=
  opMerge s k vd va va pg (fun x _ i => if i + n.val ≤ 63 then lane x (i + n.val) else 0)
def execVsldLanes (k : Fin 8) (vd va : Fin 16) (n : Fin 32) (pg : Fin 8) (s : State) : Res :=
  opMerge s k vd va va pg (fun x _ i => if n.val ≤ i then lane x (i - n.val) else 0)
def execVceq (k : Fin 8) (pd : Fin 8) (va vb : Fin 16) (pg : Fin 8) (s : State) : Res :=
  opZero s k pd pg (fun w i => lane (w.vr va) i == lane (w.vr vb) i)
def execVclt (k : Fin 8) (pd : Fin 8) (va vb : Fin 16) (pg : Fin 8) (s : State) : Res :=
  opZero s k pd pg (fun w i => (lane (w.vr va) i).ult (lane (w.vr vb) i))
def execVceqi (k : Fin 8) (pd : Fin 8) (va : Fin 16) (imm : BitVec 4) (pg : Fin 8) (s : State) : Res :=
  opZero s k pd pg (fun w i => lane (w.vr va) i == imm)
def execVclti (k : Fin 8) (pd : Fin 8) (va : Fin 16) (imm : BitVec 4) (pg : Fin 8) (s : State) : Res :=
  opZero s k pd pg (fun w i => (lane (w.vr va) i).ult imm)
def execPand (k : Fin 8) (pd pa pb : Fin 8) (s : State) : Res := opPred s k pd pa pb (fun a b => a &&& b)
def execPor (k : Fin 8) (pd pa pb : Fin 8) (s : State) : Res := opPred s k pd pa pb (fun a b => a ||| b)
def execPxor (k : Fin 8) (pd pa pb : Fin 8) (s : State) : Res := opPred s k pd pa pb (fun a b => a ^^^ b)
def execPandn (k : Fin 8) (pd pa pb : Fin 8) (s : State) : Res := opPred s k pd pa pb (fun a b => a &&& ~~~ b)

/-! ## VX format (R71) -/

def execVext (k : Fin 8) (g : Fin 32) (v : Fin 16) (l : Fin 64) (s : State) : Res :=
  onSteward s k (fun s => finG s k g ((lane ((stw s k).vr v) l.val).setWidth 32))
def execVins (k : Fin 8) (g : Fin 32) (v : Fin 16) (l : Fin 64) (s : State) : Res :=
  onSteward s k (fun s => finV s k v (putLane ((stw s k).vr v) l.val (((stw s k).gr g).setWidth 4)))
def execPrdlo (k : Fin 8) (g : Fin 32) (p : Fin 8) (s : State) : Res :=
  onSteward s k (fun s => finG s k g (((stw s k).pr p).extractLsb' 0 32))
def execPrdhi (k : Fin 8) (g : Fin 32) (p : Fin 8) (s : State) : Res :=
  onSteward s k (fun s => finG s k g (((stw s k).pr p).extractLsb' 32 32))
def execPwrlo (k : Fin 8) (g : Fin 32) (p : Fin 8) (s : State) : Res :=
  onSteward s k (fun s => finP s k p (((stw s k).pr p).extractLsb' 32 32 ++ (stw s k).gr g))
def execPwrhi (k : Fin 8) (g : Fin 32) (p : Fin 8) (s : State) : Res :=
  onSteward s k (fun s => finP s k p ((stw s k).gr g ++ ((stw s k).pr p).extractLsb' 0 32))
def execPcnt (k : Fin 8) (g : Fin 32) (p : Fin 8) (s : State) : Res :=
  onSteward s k (fun s => finG s k g (BitVec.ofNat 32 (popNat ((stw s k).pr p) 64)))
def execPfirst (k : Fin 8) (g : Fin 32) (p : Fin 8) (s : State) : Res :=
  onSteward s k (fun s => finG s k g (BitVec.ofNat 32 (firstBit ((stw s k).pr p))))
def execVsum (k : Fin 8) (g : Fin 32) (v : Fin 16) (p : Fin 8) (s : State) : Res :=
  onSteward s k (fun s => finG s k g (BitVec.ofNat 32 (sumLanes ((stw s k).vr v) ((stw s k).pr p))))

/-! ## VLD and VST (R72) -/

def execVld (k : Fin 8) (vd : Fin 16) (a : Fin 32) (imm : BitVec 16) (parity : Bool) (s : State) : Res :=
  onSteward s k (fun s =>
    loadFrom s k (effAddr (stw s k) a imm) 32 kVLoad parity (Fin.castLE (by decide) vd) 5
      (fun s v => finV s k vd (BitVec.ofNat 256 v)))
def execVst (k : Fin 8) (vd : Fin 16) (a : Fin 32) (imm : BitVec 16) (s : State) : Res :=
  onSteward s k (fun s =>
    storeTo s k (effAddr (stw s k) a imm) 32 kVStore (bytesOfVec ((stw s k).vr vd)))

end Sys2Proof.Machine
end

