-- ==== Sys2Proof/Machine/Watch.lean ====
section
/-! DEFINITION. The postcard that a standby sends at once when its eligibility changes (R332), around the commands
through which a reason of R345 comes or goes. -/
namespace Sys2Proof.Machine
open Sys2Proof

/-- `t` follows `s`: a standby whose eligibility has changed sends a postcard. -/
def told (s t : State) : State :=
  if s.twin.role = .standby ∧ t.twin.role = .standby ∧ selfEligible s ≠ selfEligible t then sendPostcard t false else t

/-- A meaning, and the postcard. -/
def tells (act : State → Res) (s : State) : Res :=
  match act s with
  | .next t => .next (told s t)
  | .fault f => .fault f
  | .refused r => .refused r

/-! ## Reasons OFF and HIDDEN (R345, R361) -/

/-- STATION_STORE. -/
def execStationStore (k : Option (Fin 8)) (addr v : Word) (s : State) : Res := tells (actStationStore k addr v) s
/-- SST; the resident's store runs on a standby too. -/
def execSst (k : Fin 8) (d a : Fin 32) (imm : BitVec 16) (s : State) : Res :=
  onSteward s k (fun s =>
    let x := effAddr (stw s k) a imm
    let v := (stw s k).gr d
    stationAccess s k x 4 kStore (immediateOk x.toNat && claimed s k x.toNat)
      (told s (modStw (storeStation s (some k) x.toNat v) k Steward.fin)))
/-- CLEAR_HIDDEN. -/
def execClearHidden (s : State) : Res := tells actClearHidden s

/-! ## Reason FEED (R345, R471, R474) -/

def execLaneLos (l : Fin 42) (s : State) : Res := tells (actLaneLos l) s
def execLaneLol (l : Fin 42) (s : State) : Res := tells (actLaneLol l) s
def execLaneLolRelease (l : Fin 42) (s : State) : Res := tells (actLaneLolRelease l) s
def execGroupAligned (g : Fin 4) (s : State) : Res := tells (actGroupAligned g) s
def execGroupAlignmentLost (g : Fin 4) (s : State) : Res := tells (actGroupAlignmentLost g) s

/-! ## Reason STORE (R345, R360) -/

def execFeedLine (f : FeedFrame) (mismatches : Fin 3) (s : State) : Res := tells (actFeedLine f mismatches) s
def execFeedPage (f : FeedFrame) (s : State) : Res := tells (actFeedPage f) s
def execFeedReplay (f : FeedFrame) (s : State) : Res := tells (actFeedReplay f) s
def execFeedLib (f : FeedFrame) (s : State) : Res := tells (actFeedLib f) s
def execFeedJobEnd (f : FeedFrame) (s : State) : Res := tells (actFeedJobEnd f) s
def execFeedDeadline (c : Nat) (tie : Bool) (s : State) : Res := tells (actFeedDeadline c tie) s
def execRowTrigger (p : Fin 24) (r : Fin 8) (t : Nat) (s : State) : Res := tells (actRowTrigger p r t) s
/-- TWIN_BULK_RECEIVE: data and library blocks, and the stations of a PEER_WRITE (reasons STORE, OFF and those that
CLEAR_HIDDEN clears). -/
def execTwinBulkReceive (b : Bulk) (i n : Nat) (s : State) : Res := tells (actTwinBulkReceive b i n) s

/-! ## Reasons DRAM, THROTTLE, ADDRESS and VERSION (R345) -/

def execDramScrub (addr : Nat) (ecc : Fin 3) (s : State) : Res := tells (actDramScrub addr ecc) s
def execThermalModelStep (vcore icore : Nat) (s : State) : Res := tells (actThermalModelStep vcore icore) s
def execHousekeepingRoundEnd (codes : List (BitVec 12)) (dieT : List Int) (s : State) : Res :=
  tells (actHousekeepingRoundEnd codes dieT) s
def execAssign (e : Env) (pl : List Byte) (s : State) : Res := tells (actAssign e pl) s
def execPostcardReceive (c : Postcard) (s : State) : Res := tells (actPostcardReceive c) s

end Sys2Proof.Machine
end

