-- ==== Sys2Proof/Machine/Dispatch.lean ====
section
/-! DEFINITION. One arm per constructor of `Instr`, each a direct call of the command's meaning. -/
namespace Sys2Proof.Machine
open Sys2Proof

/-- The effect of a command on everything but the queue. -/
def exec (i : Instr) (s : State) : Host.Outcome State Fault Refusal :=
  match i with
  | .add k d a b => Sys2Proof.Machine.execAdd k d a b s
  | .sub k d a b => Sys2Proof.Machine.execSub k d a b s
  | .and k d a b => Sys2Proof.Machine.execAnd k d a b s
  | .or k d a b => Sys2Proof.Machine.execOr k d a b s
  | .xor k d a b => Sys2Proof.Machine.execXor k d a b s
  | .sll k d a b => Sys2Proof.Machine.execSll k d a b s
  | .srl k d a b => Sys2Proof.Machine.execSrl k d a b s
  | .sra k d a b => Sys2Proof.Machine.execSra k d a b s
  | .slt k d a b => Sys2Proof.Machine.execSlt k d a b s
  | .sltu k d a b => Sys2Proof.Machine.execSltu k d a b s
  | .min k d a b => Sys2Proof.Machine.execMin k d a b s
  | .max k d a b => Sys2Proof.Machine.execMax k d a b s
  | .minu k d a b => Sys2Proof.Machine.execMinu k d a b s
  | .maxu k d a b => Sys2Proof.Machine.execMaxu k d a b s
  | .mul k d a b => Sys2Proof.Machine.execMul k d a b s
  | .mulh k d a b => Sys2Proof.Machine.execMulh k d a b s
  | .mulhu k d a b => Sys2Proof.Machine.execMulhu k d a b s
  | .slli k d a n => Sys2Proof.Machine.execSlli k d a n s
  | .srli k d a n => Sys2Proof.Machine.execSrli k d a n s
  | .srai k d a n => Sys2Proof.Machine.execSrai k d a n s
  | .clz k d a => Sys2Proof.Machine.execClz k d a s
  | .popc k d a => Sys2Proof.Machine.execPopc k d a s
  | .addss k d a b => Sys2Proof.Machine.execAddss k d a b s
  | .subss k d a b => Sys2Proof.Machine.execSubss k d a b s
  | .addi k d a imm => Sys2Proof.Machine.execAddi k d a imm s
  | .andi k d a imm => Sys2Proof.Machine.execAndi k d a imm s
  | .ori k d a imm => Sys2Proof.Machine.execOri k d a imm s
  | .xori k d a imm => Sys2Proof.Machine.execXori k d a imm s
  | .slti k d a imm => Sys2Proof.Machine.execSlti k d a imm s
  | .sltiu k d a imm => Sys2Proof.Machine.execSltiu k d a imm s
  | .lui k d imm => Sys2Proof.Machine.execLui k d imm s
  | .lw k d a imm parity => Sys2Proof.Machine.execLw k d a imm parity s
  | .lh k d a imm parity => Sys2Proof.Machine.execLh k d a imm parity s
  | .lhu k d a imm parity => Sys2Proof.Machine.execLhu k d a imm parity s
  | .lb k d a imm parity => Sys2Proof.Machine.execLb k d a imm parity s
  | .lbu k d a imm parity => Sys2Proof.Machine.execLbu k d a imm parity s
  | .sw k d a imm => Sys2Proof.Machine.execSw k d a imm s
  | .sh k d a imm => Sys2Proof.Machine.execSh k d a imm s
  | .sb k d a imm => Sys2Proof.Machine.execSb k d a imm s
  | .loadDataReturn k ecc => Sys2Proof.Machine.execLoadDataReturn k ecc s
  | .amoswap k d a b parity => Sys2Proof.Machine.execAmoswap k d a b parity s
  | .amoadd k d a b parity => Sys2Proof.Machine.execAmoadd k d a b parity s
  | .amoand k d a b parity => Sys2Proof.Machine.execAmoand k d a b parity s
  | .amoor k d a b parity => Sys2Proof.Machine.execAmoor k d a b parity s
  | .amocas k d a b parity => Sys2Proof.Machine.execAmocas k d a b parity s
  | .beq k a b off => Sys2Proof.Machine.execBeq k a b off s
  | .bne k a b off => Sys2Proof.Machine.execBne k a b off s
  | .blt k a b off => Sys2Proof.Machine.execBlt k a b off s
  | .bge k a b off => Sys2Proof.Machine.execBge k a b off s
  | .bltu k a b off => Sys2Proof.Machine.execBltu k a b off s
  | .bgeu k a b off => Sys2Proof.Machine.execBgeu k a b off s
  | .bpany k p off => Sys2Proof.Machine.execBpany k p off s
  | .bpnone k p off => Sys2Proof.Machine.execBpnone k p off s
  | .j k off => Sys2Proof.Machine.execJ k off s
  | .jal k off => Sys2Proof.Machine.execJal k off s
  | .jalr k d a => Sys2Proof.Machine.execJalr k d a s
  | .halt k => Sys2Proof.Machine.execHalt k s
  | .brk k imm => Sys2Proof.Machine.execBrk k imm s
  | .illegal k w parity => Sys2Proof.Machine.execIllegal k w parity s
  | .vadd k vd va vb pg => Sys2Proof.Machine.execVadd k vd va vb pg s
  | .vadds k vd va vb pg => Sys2Proof.Machine.execVadds k vd va vb pg s
  | .vsubs k vd va vb pg => Sys2Proof.Machine.execVsubs k vd va vb pg s
  | .vand k vd va vb pg => Sys2Proof.Machine.execVand k vd va vb pg s
  | .vor k vd va vb pg => Sys2Proof.Machine.execVor k vd va vb pg s
  | .vxor k vd va vb pg => Sys2Proof.Machine.execVxor k vd va vb pg s
  | .vmin k vd va vb pg => Sys2Proof.Machine.execVmin k vd va vb pg s
  | .vmax k vd va vb pg => Sys2Proof.Machine.execVmax k vd va vb pg s
  | .vsel k vd va vb pg => Sys2Proof.Machine.execVsel k vd va vb pg s
  | .vlut k vd va vb pg => Sys2Proof.Machine.execVlut k vd va vb pg s
  | .vsplat k vd imm pg => Sys2Proof.Machine.execVsplat k vd imm pg s
  | .vslu k vd va n pg => Sys2Proof.Machine.execVslu k vd va n pg s
  | .vsldLanes k vd va n pg => Sys2Proof.Machine.execVsldLanes k vd va n pg s
  | .vceq k pd va vb pg => Sys2Proof.Machine.execVceq k pd va vb pg s
  | .vclt k pd va vb pg => Sys2Proof.Machine.execVclt k pd va vb pg s
  | .vceqi k pd va imm pg => Sys2Proof.Machine.execVceqi k pd va imm pg s
  | .vclti k pd va imm pg => Sys2Proof.Machine.execVclti k pd va imm pg s
  | .pand k pd pa pb => Sys2Proof.Machine.execPand k pd pa pb s
  | .por k pd pa pb => Sys2Proof.Machine.execPor k pd pa pb s
  | .pxor k pd pa pb => Sys2Proof.Machine.execPxor k pd pa pb s
  | .pandn k pd pa pb => Sys2Proof.Machine.execPandn k pd pa pb s
  | .vext k g v lane => Sys2Proof.Machine.execVext k g v lane s
  | .vins k g v lane => Sys2Proof.Machine.execVins k g v lane s
  | .prdlo k g p => Sys2Proof.Machine.execPrdlo k g p s
  | .prdhi k g p => Sys2Proof.Machine.execPrdhi k g p s
  | .pwrlo k g p => Sys2Proof.Machine.execPwrlo k g p s
  | .pwrhi k g p => Sys2Proof.Machine.execPwrhi k g p s
  | .pcnt k g p => Sys2Proof.Machine.execPcnt k g p s
  | .pfirst k g p => Sys2Proof.Machine.execPfirst k g p s
  | .vsum k g v p => Sys2Proof.Machine.execVsum k g v p s
  | .vld k vd a imm parity => Sys2Proof.Machine.execVld k vd a imm parity s
  | .vst k vd a imm => Sys2Proof.Machine.execVst k vd a imm s
  | .sld k d a imm => Sys2Proof.Machine.execSld k d a imm s
  | .sst k d a imm => Sys2Proof.Machine.execSst k d a imm s
  | .ssq k d a b => Sys2Proof.Machine.execSsq k d a b s
  | .vsld k vd a imm => Sys2Proof.Machine.execVsld k vd a imm s
  | .vsst k vd a imm => Sys2Proof.Machine.execVsst k vd a imm s
  | .vssq k vd a c => Sys2Proof.Machine.execVssq k vd a c s
  | .lqQueueRoom k => Sys2Proof.Machine.execLqQueueRoom k s
  | .scr k d n => Sys2Proof.Machine.execScr k d n s
  | .scw k d n => Sys2Proof.Machine.execScw k d n s
  | .fence k imm => Sys2Proof.Machine.execFence k imm s
  | .wait k d => Sys2Proof.Machine.execWait k d s
  | .waitt k d a => Sys2Proof.Machine.execWaitt k d a s
  | .evpoll k d => Sys2Proof.Machine.execEvpoll k d s
  | .evsig k a b => Sys2Proof.Machine.execEvsig k a b s
  | .msend k d a b => Sys2Proof.Machine.execMsend k d a b s
  | .mrecv k d b => Sys2Proof.Machine.execMrecv k d b s
  | .stewardWake k => Sys2Proof.Machine.execStewardWake k s
  | .waittTimeout k => Sys2Proof.Machine.execWaittTimeout k s
  | .watchdogExpiry k => Sys2Proof.Machine.execWatchdogExpiry k s
  | .roundFrame l f parity => Sys2Proof.Machine.execRoundFrame l f parity s
  | .nak l sp lseq => Sys2Proof.Machine.execNak l sp lseq s
  | .acknowledgement l ackO ackX => Sys2Proof.Machine.execAcknowledgement l ackO ackX s
  | .nakRepeat l sp => Sys2Proof.Machine.execNakRepeat l sp s
  | .retryTimeout l sp => Sys2Proof.Machine.execRetryTimeout l sp s
  | .linkDown l => Sys2Proof.Machine.execLinkDown l s
  | .linkTrained l => Sys2Proof.Machine.execLinkTrained l s
  | .unwrap west => Sys2Proof.Machine.execUnwrap west s
  | .parcelEnvelope e pl => Sys2Proof.Machine.execParcelEnvelope e pl s
  | .parcelTimeout dest src stream => Sys2Proof.Machine.execParcelTimeout dest src stream s
  | .write e pl => Sys2Proof.Machine.execWrite e pl s
  | .arm e pl => Sys2Proof.Machine.execArm e pl s
  | .vwrite e pl => Sys2Proof.Machine.execVwrite e pl s
  | .varm e pl => Sys2Proof.Machine.execVarm e pl s
  | .read e pl => Sys2Proof.Machine.execRead e pl s
  | .vread e pl => Sys2Proof.Machine.execVread e pl s
  | .inbox e pl => Sys2Proof.Machine.execInbox e pl s
  | .load e pl => Sys2Proof.Machine.execLoad e pl s
  | .unload e pl => Sys2Proof.Machine.execUnload e pl s
  | .restart e pl => Sys2Proof.Machine.execRestart e pl s
  | .haltSteward e pl => Sys2Proof.Machine.execHaltSteward e pl s
  | .dramWrite e pl => Sys2Proof.Machine.execDramWrite e pl s
  | .dramRead e pl => Sys2Proof.Machine.execDramRead e pl s
  | .job e pl => Sys2Proof.Machine.execJob e pl s
  | .longDramRetrain e => Sys2Proof.Machine.execLongDramRetrain e s
  | .longPodScan e => Sys2Proof.Machine.execLongPodScan e s
  | .longThermosCommit e => Sys2Proof.Machine.execLongThermosCommit e s
  | .longLaneRetune e => Sys2Proof.Machine.execLongLaneRetune e s
  | .longOperationEnd okMask => Sys2Proof.Machine.execLongOperationEnd okMask s
  | .firmware e pl => Sys2Proof.Machine.execFirmware e pl s
  | .handoverNow e => Sys2Proof.Machine.execHandoverNow e s
  | .handoverArm e => Sys2Proof.Machine.execHandoverArm e s
  | .handoverCancel e => Sys2Proof.Machine.execHandoverCancel e s
  | .deadRead e pl => Sys2Proof.Machine.execDeadRead e pl s
  | .deadClear e pl => Sys2Proof.Machine.execDeadClear e pl s
  | .streamOpen e pl => Sys2Proof.Machine.execStreamOpen e pl s
  | .enumerate e pl => Sys2Proof.Machine.execEnumerate e pl s
  | .assign e pl => Sys2Proof.Machine.execAssign e pl s
  | .linkStatus e pl => Sys2Proof.Machine.execLinkStatus e pl s
  | .status e pl => Sys2Proof.Machine.execStatus e pl s
  | .sync e pl ingress inc => Sys2Proof.Machine.execSync e pl ingress inc s
  | .delayReq e pl t2 t3 => Sys2Proof.Machine.execDelayReq e pl t2 t3 s
  | .delayResp e pl t4 => Sys2Proof.Machine.execDelayResp e pl t4 s
  | .delayReqSend t1East t1West => Sys2Proof.Machine.execDelayReqSend t1East t1West s
  | .camRead e args => Sys2Proof.Machine.execCamRead e args s
  | .camWrite e args => Sys2Proof.Machine.execCamWrite e args s
  | .camRoutineTimeout n => Sys2Proof.Machine.execCamRoutineTimeout n s
  | .hltScanApply e args => Sys2Proof.Machine.execHltScanApply e args s
  | .hltReset e args => Sys2Proof.Machine.execHltReset e args s
  | .claimRead e args => Sys2Proof.Machine.execClaimRead e args s
  | .keyEnroll e args => Sys2Proof.Machine.execKeyEnroll e args s
  | .keyRevoke e args => Sys2Proof.Machine.execKeyRevoke e args s
  | .pairRestart e args => Sys2Proof.Machine.execPairRestart e args s
  | .peerWrite e args => Sys2Proof.Machine.execPeerWrite e args s
  | .peerWriteTimeout => Sys2Proof.Machine.execPeerWriteTimeout s
  | .feedLine f mismatches => Sys2Proof.Machine.execFeedLine f mismatches s
  | .feedPage f => Sys2Proof.Machine.execFeedPage f s
  | .feedReplay f => Sys2Proof.Machine.execFeedReplay f s
  | .feedLib f => Sys2Proof.Machine.execFeedLib f s
  | .feedJobEnd f => Sys2Proof.Machine.execFeedJobEnd f s
  | .feedDeadline c tie => Sys2Proof.Machine.execFeedDeadline c tie s
  | .pkrCompress v => Sys2Proof.Machine.execPkrCompress v s
  | .pkrDecompress v => Sys2Proof.Machine.execPkrDecompress v s
  | .pkrJobStop bad => Sys2Proof.Machine.execPkrJobStop bad s
  | .rowLineDecision p r l parity thrParity => Sys2Proof.Machine.execRowLineDecision p r l parity thrParity s
  | .webEdge a b heldA heldB t => Sys2Proof.Machine.execWebEdge a b heldA heldB t s
  | .illegalTransition t => Sys2Proof.Machine.execIllegalTransition t s
  | .extrapolationEnd t => Sys2Proof.Machine.execExtrapolationEnd t s
  | .webIndexEdge t => Sys2Proof.Machine.execWebIndexEdge t s
  | .webStop t => Sys2Proof.Machine.execWebStop t s
  | .fireLineBoundary t m replica => Sys2Proof.Machine.execFireLineBoundary t m replica s
  | .rowTrigger p r t => Sys2Proof.Machine.execRowTrigger p r t s
  | .cueMark probe falling t => Sys2Proof.Machine.execCueMark probe falling t s
  | .pagecmpArm v => Sys2Proof.Machine.execPagecmpArm v s
  | .pageCompareFire t => Sys2Proof.Machine.execPageCompareFire t s
  | .lineSyncPulse t => Sys2Proof.Machine.execLineSyncPulse t s
  | .syncPulseMissing => Sys2Proof.Machine.execSyncPulseMissing s
  | .lineDataSend p r l n parityBad => Sys2Proof.Machine.execLineDataSend p r l n parityBad s
  | .fireSend p r l t => Sys2Proof.Machine.execFireSend p r l t s
  | .podUnderrun p r l t => Sys2Proof.Machine.execPodUnderrun p r l t s
  | .podlEnable p => Sys2Proof.Machine.execPodlEnable p s
  | .podBringupTimeout p => Sys2Proof.Machine.execPodBringupTimeout p s
  | .podBringupRetry p => Sys2Proof.Machine.execPodBringupRetry p s
  | .podStatus p st bad => Sys2Proof.Machine.execPodStatus p st bad s
  | .readResp p tag addr v bad => Sys2Proof.Machine.execReadResp p tag addr v bad s
  | .echoResp p tag turn t bad => Sys2Proof.Machine.execEchoResp p tag turn t bad s
  | .echoMeasure p t => Sys2Proof.Machine.execEchoMeasure p t s
  | .rscanData p row seg bytes bad => Sys2Proof.Machine.execRscanData p row seg bytes bad s
  | .rscanDone p aborted bad => Sys2Proof.Machine.execRscanDone p aborted bad s
  | .scanTimeout => Sys2Proof.Machine.execScanTimeout s
  | .podLinkLost p => Sys2Proof.Machine.execPodLinkLost p s
  | .podStatusSilence p => Sys2Proof.Machine.execPodStatusSilence p s
  | .podlPurgeGo v => Sys2Proof.Machine.execPodlPurgeGo v s
  | .camEnable n => Sys2Proof.Machine.execCamEnable n s
  | .camBringupRetry n => Sys2Proof.Machine.execCamBringupRetry n s
  | .camControlAck n ok v => Sys2Proof.Machine.execCamControlAck n ok v s
  | .triggerSlot n l t => Sys2Proof.Machine.execTriggerSlot n l t s
  | .cameraLine n ln => Sys2Proof.Machine.execCameraLine n ln s
  | .frameTimeout n => Sys2Proof.Machine.execFrameTimeout n s
  | .spoolFrameStart => Sys2Proof.Machine.execSpoolFrameStart s
  | .frameProcessed n => Sys2Proof.Machine.execFrameProcessed n s
  | .ctxCommit n => Sys2Proof.Machine.execCtxCommit n s
  | .expGo n => Sys2Proof.Machine.execExpGo n s
  | .healthFrameScore n => Sys2Proof.Machine.execHealthFrameScore n s
  | .healthBatchIssue => Sys2Proof.Machine.execHealthBatchIssue s
  | .mapJournal => Sys2Proof.Machine.execMapJournal s
  | .journalFold => Sys2Proof.Machine.execJournalFold s
  | .electWaitExpiry => Sys2Proof.Machine.execElectWaitExpiry s
  | .peerResetWaitEnd => Sys2Proof.Machine.execPeerResetWaitEnd s
  | .peerRstRelease => Sys2Proof.Machine.execPeerRstRelease s
  | .postcardSend => Sys2Proof.Machine.execPostcardSend s
  | .postcardReceive c => Sys2Proof.Machine.execPostcardReceive c s
  | .hamperTimedClose => Sys2Proof.Machine.execHamperTimedClose s
  | .hamperReceive h whole => Sys2Proof.Machine.execHamperReceive h whole s
  | .twinBulkReceive b k n => Sys2Proof.Machine.execTwinBulkReceive b k n s
  | .resyncEnd => Sys2Proof.Machine.execResyncEnd s
  | .resyncTimeout => Sys2Proof.Machine.execResyncTimeout s
  | .resyncRetry => Sys2Proof.Machine.execResyncRetry s
  | .twinSilence arrived => Sys2Proof.Machine.execTwinSilence arrived s
  | .twinPathSilent pin arrived => Sys2Proof.Machine.execTwinPathSilent pin arrived s
  | .activeTwinSilence arrived => Sys2Proof.Machine.execActiveTwinSilence arrived s
  | .hamperAckTimeout arrived => Sys2Proof.Machine.execHamperAckTimeout arrived s
  | .hamperTimeout arrived => Sys2Proof.Machine.execHamperTimeout arrived s
  | .handoverLaneIdle => Sys2Proof.Machine.execHandoverLaneIdle s
  | .clearHidden => Sys2Proof.Machine.execClearHidden s
  | .mailbagPass => Sys2Proof.Machine.execMailbagPass s
  | .mbClearSlot v => Sys2Proof.Machine.execMbClearSlot v s
  | .mbClearAll => Sys2Proof.Machine.execMbClearAll s
  | .trGo k tag => Sys2Proof.Machine.execTrGo k tag s
  | .compareUnitFire u t => Sys2Proof.Machine.execCompareUnitFire u t s
  | .housekeepingRoundEnd codes dieT => Sys2Proof.Machine.execHousekeepingRoundEnd codes dieT s
  | .tmcArm u v => Sys2Proof.Machine.execTmcArm u v s
  | .tmcDisarm u => Sys2Proof.Machine.execTmcDisarm u s
  | .tbStep b v => Sys2Proof.Machine.execTbStep b v s
  | .tbAnchorUpdate => Sys2Proof.Machine.execTbAnchorUpdate s
  | .syncHoldover => Sys2Proof.Machine.execSyncHoldover s
  | .holdoverAlarm => Sys2Proof.Machine.execHoldoverAlarm s
  | .motTarget x v => Sys2Proof.Machine.execMotTarget x v s
  | .segGo x v => Sys2Proof.Machine.execSegGo x v s
  | .motStop mask => Sys2Proof.Machine.execMotStop mask s
  | .motRetract => Sys2Proof.Machine.execMotRetract s
  | .spliceEdge falling held => Sys2Proof.Machine.execSpliceEdge falling held s
  | .retractRelease => Sys2Proof.Machine.execRetractRelease s
  | .setPos x v => Sys2Proof.Machine.execSetPos x v s
  | .liftLockWrite v => Sys2Proof.Machine.execLiftLockWrite v s
  | .axisCmpArm x v => Sys2Proof.Machine.execAxisCmpArm x v s
  | .axisCmpDisarm x => Sys2Proof.Machine.execAxisCmpDisarm x s
  | .axisEncoderEdge x a b heldA heldB => Sys2Proof.Machine.execAxisEncoderEdge x a b heldA heldB s
  | .axisIndexEdge x => Sys2Proof.Machine.execAxisIndexEdge x s
  | .probeEdge n falling => Sys2Proof.Machine.execProbeEdge n falling s
  | .holdDelayExpiry x => Sys2Proof.Machine.execHoldDelayExpiry x s
  | .dramScrub addr ecc => Sys2Proof.Machine.execDramScrub addr ecc s
  | .dramRefresh ch bank => Sys2Proof.Machine.execDramRefresh ch bank s
  | .dramMr4Poll ch hot rate => Sys2Proof.Machine.execDramMr4Poll ch hot rate s
  | .dramDriftTrack ch up => Sys2Proof.Machine.execDramDriftTrack ch up s
  | .dramFreqGo v => Sys2Proof.Machine.execDramFreqGo v s
  | .dramFreqDone => Sys2Proof.Machine.execDramFreqDone s
  | .dmaHeadWrite c v => Sys2Proof.Machine.execDmaHeadWrite c v s
  | .dmaRun c => Sys2Proof.Machine.execDmaRun c s
  | .dmaAbort c => Sys2Proof.Machine.execDmaAbort c s
  | .dmaPause c => Sys2Proof.Machine.execDmaPause c s
  | .dmaResume c => Sys2Proof.Machine.execDmaResume c s
  | .dmaSwreq v => Sys2Proof.Machine.execDmaSwreq v s
  | .dmaBurst c withdrawn => Sys2Proof.Machine.execDmaBurst c withdrawn s
  | .dmaRequestTimeout c => Sys2Proof.Machine.execDmaRequestTimeout c s
  | .dmaDescriptorEnd c => Sys2Proof.Machine.execDmaDescriptorEnd c s
  | .laneLos l => Sys2Proof.Machine.execLaneLos l s
  | .laneLol l => Sys2Proof.Machine.execLaneLol l s
  | .laneLosRelease l => Sys2Proof.Machine.execLaneLosRelease l s
  | .laneSettled l => Sys2Proof.Machine.execLaneSettled l s
  | .laneTest l v => Sys2Proof.Machine.execLaneTest l v s
  | .laneChk l => Sys2Proof.Machine.execLaneChk l s
  | .slackTimer m replica => Sys2Proof.Machine.execSlackTimer m replica s
  | .vfloorFall => Sys2Proof.Machine.execVfloorFall s
  | .phaseOvercurrent n current => Sys2Proof.Machine.execPhaseOvercurrent n current s
  | .coreUndervoltage mv => Sys2Proof.Machine.execCoreUndervoltage mv s
  | .coreOvervoltage mv => Sys2Proof.Machine.execCoreOvervoltage mv s
  | .hvEnWrite v => Sys2Proof.Machine.execHvEnWrite v s
  | .hvSequenceStep => Sys2Proof.Machine.execHvSequenceStep s
  | .hvOkTimeout p => Sys2Proof.Machine.execHvOkTimeout p s
  | .thermalModelStep vcore icore => Sys2Proof.Machine.execThermalModelStep vcore icore s
  | .powerOnReset pairPos => Sys2Proof.Machine.execPowerOnReset pairPos s
  | .pinResetAssert => Sys2Proof.Machine.execPinResetAssert s
  | .pinResetRelease => Sys2Proof.Machine.execPinResetRelease s
  | .restartReset => Sys2Proof.Machine.execRestartReset s
  | .fallbackReset => Sys2Proof.Machine.execFallbackReset s
  | .powerLoss => Sys2Proof.Machine.execPowerLoss s
  | .readiness trained fastOk part => Sys2Proof.Machine.execReadiness trained fastOk part s
  | .thermosSettingsCommit wear swapped => Sys2Proof.Machine.execThermosSettingsCommit wear swapped s
  | .thermosCounterWrite => Sys2Proof.Machine.execThermosCounterWrite s
  | .i2cStatusRead => Sys2Proof.Machine.execI2cStatusRead s
  | .tapReset => Sys2Proof.Machine.execTapReset s
  | .extest => Sys2Proof.Machine.execExtest s
  | .idcode => Sys2Proof.Machine.execIdcode s
  | .samplePreload cells => Sys2Proof.Machine.execSamplePreload cells s
  | .extestPulse => Sys2Proof.Machine.execExtestPulse s
  | .extestTrain => Sys2Proof.Machine.execExtestTrain s
  | .clamp => Sys2Proof.Machine.execClamp s
  | .highz => Sys2Proof.Machine.execHighz s
  | .imageLoad => Sys2Proof.Machine.execImageLoad s
  | .imageLoadUpdate w => Sys2Proof.Machine.execImageLoadUpdate w s
  | .imageCommit => Sys2Proof.Machine.execImageCommit s
  | .imageStatus => Sys2Proof.Machine.execImageStatus s
  | .bypass code => Sys2Proof.Machine.execBypass code s
  | .stationStore k addr v => Sys2Proof.Machine.execStationStore k addr v s
  | .long e pl => Sys2Proof.Machine.execLong e pl s
  | .handover e pl => Sys2Proof.Machine.execHandover e pl s
  | .call e pl => Sys2Proof.Machine.execCall e pl s
  | .unknownLetterKind e pl => Sys2Proof.Machine.execUnknownLetterKind e pl s
  | .hbInEdge => Sys2Proof.Machine.execHbInEdge s
  | .laneLolRelease l => Sys2Proof.Machine.execLaneLolRelease l s
  | .groupAligned g => Sys2Proof.Machine.execGroupAligned g s
  | .groupAlignmentLost g => Sys2Proof.Machine.execGroupAlignmentLost g s
  | .dmaPauseDrained c => Sys2Proof.Machine.execDmaPauseDrained c s
  | .podRateSwitch p => Sys2Proof.Machine.execPodRateSwitch p s

end Sys2Proof.Machine
end

