-- ==== Sys2Proof/WellFormed.lean ====
section
/-! DEFINITION. Well-formed commands: what a sender may put on the wires, beyond what the operand types say already.
The meanings do not rest on it: each answers an ill-formed command too. -/
namespace Sys2Proof

/-- A payload that an envelope can carry: LEN is at most 4,096 (R107). -/
def payloadFits (pl : List Byte) : Bool := decide (pl.length ≤ 4096)

/-- A CALL carries at most 14 argument words (R116). -/
def argsFit (args : List Word) : Bool := decide (args.length ≤ 14)

/-- A hop frame within the limits of its fields (R98, R107). -/
def frameFits (f : Frame) : Bool := payloadFits f.payload

/-- A feed frame whose LEN is the length of its payload (R134). -/
def feedFits (f : FeedFrame) : Bool := f.len.toNat == f.payload.length

/-- The entries of the nozzle map and the cells of the threshold arrays that a parity check can name
(R183, R208). -/
def mapEntryFits (e : Nat) : Bool := decide (e < 327680)
def thrCellFits (c : Nat) : Bool := decide (65536 ≤ c) && decide (c < 851968)

/-- Print lines, contone lines and line names are u32 (R11). -/
def lineFits (l : Nat) : Bool := decide (l < 4294967296)

/-- A camera line: 12-bit samples (R289). -/
def pixelsFit (ln : CamLine) : Bool := ln.pixels.all (fun x => decide (x < 4096))

/-- A word that no row of the instruction table has (R67, R86). -/
def noGyenoRow (w : Word) : Bool := !gyenoLegal w

/-- The well-formed commands. A row that is not named takes every value of its operand types. -/
def wellFormed : Instr → Bool
  | .illegal _ w parity => parity || noGyenoRow w
  | .roundFrame _ f _ => frameFits f
  | .parcelEnvelope _ pl | .write _ pl | .arm _ pl | .vwrite _ pl | .varm _ pl | .read _ pl | .vread _ pl
  | .inbox _ pl | .load _ pl | .unload _ pl | .restart _ pl | .haltSteward _ pl | .dramWrite _ pl | .dramRead _ pl
  | .job _ pl | .firmware _ pl | .deadRead _ pl | .deadClear _ pl | .streamOpen _ pl | .enumerate _ pl
  | .assign _ pl | .linkStatus _ pl | .status _ pl | .long _ pl | .handover _ pl | .call _ pl
  | .unknownLetterKind _ pl => payloadFits pl
  | .sync _ pl _ _ | .delayReq _ pl _ _ | .delayResp _ pl _ => payloadFits pl
  | .camRead _ args | .camWrite _ args | .hltScanApply _ args | .hltReset _ args | .claimRead _ args
  | .keyEnroll _ args | .keyRevoke _ args | .pairRestart _ args | .peerWrite _ args => argsFit args
  | .feedLine f _ => feedFits f
  | .feedPage f | .feedReplay f | .feedLib f | .feedJobEnd f => feedFits f
  | .feedDeadline c _ => lineFits c
  | .rowLineDecision _ _ l ps ts => lineFits l && ps.all mapEntryFits && ts.all thrCellFits
  | .lineDataSend _ _ l _ _ => lineFits l
  | .fireSend _ _ l _ => lineFits l
  | .podUnderrun _ _ l _ => lineFits l
  | .triggerSlot _ l _ => lineFits l
  | .rscanData _ _ _ bytes _ => bytes.length == 64
  | .cameraLine _ ln => pixelsFit ln
  | .housekeepingRoundEnd codes dieT => codes.length == 32 && dieT.length == 4
  | .dramScrub addr _ => addr % 32 == 0
  | .readiness _ _ part => !(part.density == 2 && part.ranks2)
  | _ => true

end Sys2Proof
end

