-- ==== Sys2Proof/Safety.lean ====
section
/-! DEFINITION. What the claims call a sound state: memories in canonical form, and the hard-wired registers of every
steward. -/
namespace Sys2Proof.Machine
open Sys2Proof

/-- Every byte memory is in its canonical form. -/
abbrev MemOk (s : State) : Prop :=
  Memory.wf s.dram = true ∧ Memory.wf s.shared = true
    ∧ ∀ k : Fin 8, Memory.wf (stw s k).imem = true ∧ Memory.wf (stw s k).dmem = true

/-- The station store is in its canonical form. -/
abbrev StnOk (s : State) : Prop := spWf stnInit s.stn = true

/-- The alarm slots are in their canonical form. -/
abbrev SlotsOk (s : State) : Prop := spWf (fun _ => Slot.init) s.mbx.slots = true

/-- Every store of the machine is in its canonical form. -/
abbrev StoresOk (s : State) : Prop := MemOk s ∧ StnOk s ∧ SlotsOk s

/-- G0 holds 0 and P0 holds all ones on every steward (R62, R70). -/
abbrev RegsOk (s : State) : Prop :=
  ∀ k : Fin 8, (stw s k).g[(0 : Fin 32)] = 0 ∧ (stw s k).p[(0 : Fin 8)] = BitVec.allOnes 64

/-- The command completes: it answers a next state. -/
def Completes (c : Instr) (s : State) : Prop := ∃ t, exec c s = .next t

/-- A command that leaves the state as it is. -/
abbrev Ignored (c : Instr) (s : State) : Prop := exec c s = .next s

end Sys2Proof.Machine
end

