-- ==== Sys2Proof/Certificates/Slice0/Obligations.lean ====
section
/-! DEFINITION. The statements for the provers. -/

namespace Sys2Proof.Claims
open Sys2Proof Sys2Proof.Machine

/-! ## Vocabulary -/

/-- Steward `k` runs, and its PC lies in instruction memory: it executes the instruction there. -/
abbrev Runs (s : State) (k : Fin 8) : Prop := (stw s k).run = .running ∧ (stw s k).pc.toNat < 0x10000

/-- The state with steward `k` replaced, and nothing else changed. -/
def withStw (s : State) (k : Fin 8) (w : Steward) : State := { s with stewards := s.stewards.set k w }

/-- The steward after an instruction that completes: the next PC, one more in SC_INSTRET, nothing else. -/
def stepped (w : Steward) : Steward := { w with pc := w.pc + 4, instret := w.instret + 1 }

/-- The scalar register `d` takes `x`; G0 takes nothing. -/
def putG (w : Steward) (d : Fin 32) (x : Word) : Steward := { w with g := if d = 0 then w.g else w.g.set d x }
/-- The vector register `d` takes `x`. -/
def putV (w : Steward) (d : Fin 16) (x : Vec) : Steward := { w with v := w.v.set d x }
/-- The predicate register `d` takes `x`; P0 takes nothing. -/
def putP (w : Steward) (d : Fin 8) (x : Pred) : Steward := { w with p := if d = 0 then w.p else w.p.set d x }

/-- What an instruction with a scalar result leaves: the register, the PC and SC_INSTRET of steward `k`, and the rest of
the machine as it was. -/
def regDone (s : State) (k : Fin 8) (d : Fin 32) (x : Word) : State := withStw s k (stepped (putG (stw s k) d x))
/-- The same for a vector result. -/
def vecDone (s : State) (k : Fin 8) (d : Fin 16) (x : Vec) : State := withStw s k (stepped (putV (stw s k) d x))
/-- The same for a predicate result. -/
def predDone (s : State) (k : Fin 8) (d : Fin 8) (x : Pred) : State := withStw s k (stepped (putP (stw s k) d x))
/-- An instruction without a result. -/
def plainDone (s : State) (k : Fin 8) : State := withStw s k (stepped (stw s k))

/-- A register that the instruction reads; G0 reads 0 and P0 all ones. -/
def G (s : State) (k : Fin 8) (r : Fin 32) : Word := if r = 0 then 0 else (stw s k).g[r]
def V (s : State) (k : Fin 8) (r : Fin 16) : Vec := (stw s k).v[r]
def P (s : State) (k : Fin 8) (r : Fin 8) : Pred := if r = 0 then BitVec.allOnes 64 else (stw s k).p[r]

/-- An integer saturated to 32 signed bits. -/
def saturated (i : Int) : Word := BitVec.ofInt 32 (max (-(2 ^ 31)) (min (2 ^ 31 - 1) i))

/-- The address `imm(a)`. -/
def address (s : State) (k : Fin 8) (a : Fin 32) (imm : BitVec 16) : Word := G s k a + imm.signExtend 32

/-- The bytes of local data and of shared memory that steward `k` sees at an address, and whether they lie there. -/
abbrev inDmem (a n : Nat) : Prop := 0x10000000 ≤ a ∧ a + n ≤ 0x10020000
abbrev inShared (a n : Nat) : Prop := 0x20000000 ≤ a ∧ a + n ≤ 0x201FFA00
/-- The DRAM window of R63 leads to this usable DRAM address. -/
abbrev windowAddr (s : State) (k : Fin 8) (a : Nat) : Nat := (stw s k).dwin.toNat * 2 ^ 31 + (a - 0x80000000)
abbrev inWindow (s : State) (k : Fin 8) (a n : Nat) : Prop :=
  0x80000000 ≤ a ∧ a + n ≤ 0x100000000 ∧ windowAddr s k a + n ≤ dramUsable s

/-- The bytes that a store of width `n` to address `x` leaves: those bytes at that address, and every other byte of all
memories as before; no register changes but the PC and SC_INSTRET of the storing steward. -/
def storedTo (s t : State) (k : Fin 8) (x : Nat) (bs : List Byte) : Prop :=
  (∀ j : Fin 8, (stw t j).g = (stw s j).g ∧ (stw t j).v = (stw s j).v ∧ (stw t j).p = (stw s j).p
      ∧ (stw t j).imem = (stw s j).imem)
  ∧ (stw t k).pc = (stw s k).pc + 4 ∧ (stw t k).instret = (stw s k).instret + 1
  ∧ (inDmem x bs.length → t.shared = s.shared ∧ t.dram = s.dram
      ∧ (∀ j : Fin 8, j ≠ k → (stw t j).dmem = (stw s j).dmem)
      ∧ (∀ i (h : i < bs.length), memGet (stw t k).dmem (x - 0x10000000 + i) = bs[i])
      ∧ ∀ y, (y < x - 0x10000000 ∨ x - 0x10000000 + bs.length ≤ y) → memGet (stw t k).dmem y = memGet (stw s k).dmem y)
  ∧ (inShared x bs.length → t.dram = s.dram ∧ (∀ j : Fin 8, (stw t j).dmem = (stw s j).dmem)
      ∧ (∀ i (h : i < bs.length), memGet t.shared (x - 0x20000000 + i) = bs[i])
      ∧ ∀ y, (y < x - 0x20000000 ∨ x - 0x20000000 + bs.length ≤ y) → memGet t.shared y = memGet s.shared y)
  ∧ (inWindow s k x bs.length → t.shared = s.shared ∧ (∀ j : Fin 8, (stw t j).dmem = (stw s j).dmem)
      ∧ (∀ i (h : i < bs.length), memGet t.dram (windowAddr s k x + i) = bs[i])
      ∧ ∀ y, (y < windowAddr s k x ∨ windowAddr s k x + bs.length ≤ y) → memGet t.dram y = memGet s.dram y)

/-- The steward after it takes event `n`: the bit clears, `d` holds the number, the instruction completes. -/
def took (w : Steward) (d : Fin 32) (n : Nat) : Steward :=
  stepped (putG { w with evpend := w.evpend &&& ~~~ ((1 : Word) <<< n), run := .running } d (BitVec.ofNat 32 n))

/-- Event `n` is the lowest that is pending and enabled. -/
abbrev lowestEvent (w : Steward) (n : Nat) : Prop :=
  n < 32 ∧ (w.evpend &&& w.evmask).getLsbD n = true ∧ ∀ i, i < n → (w.evpend &&& w.evmask).getLsbD i = false

/-! ### Letters -/

/-- A letter of this kind waits in the inbox of a device that is ready, not busy and not stopped, its turn has come
(nothing of its stream is outstanding or older, no letter of a higher level waits), and it is the next one of its open
stream, with a class and stream that fit it (R41, R113, R119, R124). -/
abbrev LetterReady (kind : Byte) (s : State) (e : Env) (pl : List Byte) : Prop :=
  s.boot.phase = .ready ∧ s.round.busy = none ∧ s.tho.stopped = false ∧ e.kind = kind ∧ (e, pl) ∈ s.round.inbox
    ∧ letterTurn s e pl = true ∧ e.cls ≠ 3 ∧ e.stream ≠ 15 ∧ headerRefusal s e = none ∧ kind ≠ 0x2A
    ∧ (streamOf s e).isOpen = true ∧ (streamOf s e).expected = e.seq

/-- A ring management letter waits likewise (R123). -/
abbrev RingReady (kind : Byte) (s : State) (e : Env) (pl : List Byte) : Prop :=
  s.boot.phase = .ready ∧ s.round.busy = none ∧ s.tho.stopped = false ∧ e.kind = kind ∧ (e, pl) ∈ s.round.inbox
    ∧ letterTurn s e pl = true ∧ e.cls = 3 ∧ e.stream = 15

/-- The state after the letter has left the inbox: it ends an unfinished parcel of its stream (R118). -/
def taken (s : State) (e : Env) (pl : List Byte) : State := dropParcel (unbox s e pl) e

/-- The letter command `c` leads to `t`: at once where the device makes no hampers, and where it makes them, when the
effects fit the hamper that is filling, an express letter's counted against its reserve (R339). -/
def LeadsTo (c : Instr) (s : State) (e : Env) (pl : List Byte) (t : State) : Prop :=
  (mirrors s = false → exec c s = .next t)
  ∧ (mirrors s = true → e.cls ≠ 0 → fillRoom t = true → exec c s = .next t)
  ∧ (mirrors s = true → e.cls = 0 → s.twin.fillX + addedBytes (taken s e pl) t ≤ 1024 →
      exec c s = .next { t with twin := { t.twin with fillX := s.twin.fillX + addedBytes (taken s e pl) t } })

/-- Executed with this outcome from a state `s'` that holds the effects. -/
def Answers (c : Instr) (s : State) (e : Env) (pl : List Byte) (s' : State) (a : Ans) : Prop :=
  LeadsTo c s e pl (settleLetter s' e pl a)

/-! ### Feed and time -/

/-- A feed frame that passes the checks of R134 and R136 for job `j`, the declared next one when `next` holds. -/
abbrev GoodFrame (s : State) (f : FeedFrame) (next : Bool) (j : JobRun) (t : Byte) : Prop :=
  f.okBlocks = true ∧ f.full = false ∧ crc32c (feedBytes f) = f.crc ∧ f.lenOk = true ∧ headerFits f = true
    ∧ feedJob s f.jobId.toNat = some (next, j) ∧ Machine.feedFits j.decl f = true ∧ j.halt = none ∧ f.ftype = t

/-- The job after the frame: the running one, or the declared next one. -/
def jobOf (t : State) (next : Bool) : Option JobRun := if next then t.jobs.next else t.jobs.running

/-- A counter field one higher, or at its top. -/
abbrev countedUp (s t : State) (f : Fld) (n : Nat) : Prop := fld t f = min (fld s f + n) (2 ^ f.w - 1)

end Sys2Proof.Claims


open Sys2Proof Sys2Proof.Machine Sys2Proof.Claims

/-! ## The step -/

/-- A step takes the command at the front of the queue and runs it with the queue's rest; on an empty queue the block
idles (the model's choice, log entry 1). -/
def Obligations.StepRunsFrontCommand : Prop :=
  (∀ (s : State) (c : Instr) (rest : List Instr), s.pending = c :: rest → step s = exec c { s with pending := rest })
    ∧ ∀ s : State, s.pending = [] → step s = .next s

/-- No command touches the queue. -/
def Obligations.ExecLeavesQueue : Prop :=
  ∀ (c : Instr) (s t : State), exec c s = .next t → t.pending = s.pending

/-- Every step keeps the memories, the stations and the alarm slots in their canonical form. -/
def Obligations.StepKeepsStores : Prop :=
  ∀ s t : State, StoresOk s → step s = .next t → StoresOk t

/-- Every step leaves G0 at 0 and P0 at all ones on every steward. -/
def Obligations.StepKeepsHardwiredRegisters : Prop :=
  ∀ s t : State, RegsOk s → step s = .next t → RegsOk t

/-- What reset leaves: sound stores and registers, every steward halted with every register 0, the reset input asserted,
no station off its Initial value, no command waiting. The registers' 0 where the spec gives no reset value is log
entry 8. -/
def Obligations.ResetState : Prop :=
  StoresOk State.reset ∧ RegsOk State.reset
    ∧ (∀ (k : Fin 8) (r : Fin 32), (stw State.reset k).run = .halted ∧ G State.reset k r = 0 ∧ (stw State.reset k).pc = 0)
    ∧ (∀ a : Nat, stnWord State.reset a = stnInit a)
    ∧ State.reset.boot.phase = .inReset ∧ State.reset.boot.kind = 0 ∧ State.reset.pending = []

/-! ## Scalar instructions (R67) -/

/-- The register instructions: each completes with its result in `d`, and changes nothing but `d`, the PC and
SC_INSTRET of its steward. -/
def Obligations.RegisterResults : Prop :=
  ∀ (s : State) (k : Fin 8) (d a b n : Fin 32) (imm : BitVec 16) (big : BitVec 21), Runs s k →
    let x := G s k a
    let y := G s k b
    let sx := imm.signExtend 32
    let zx := imm.setWidth 32
    exec (.add k d a b) s = .next (regDone s k d (x + y))
    ∧ exec (.sub k d a b) s = .next (regDone s k d (x - y))
    ∧ exec (.and k d a b) s = .next (regDone s k d (x &&& y))
    ∧ exec (.or k d a b) s = .next (regDone s k d (x ||| y))
    ∧ exec (.xor k d a b) s = .next (regDone s k d (x ^^^ y))
    ∧ exec (.sll k d a b) s = .next (regDone s k d (x <<< (y.toNat % 32)))
    ∧ exec (.srl k d a b) s = .next (regDone s k d (x >>> (y.toNat % 32)))
    ∧ exec (.sra k d a b) s = .next (regDone s k d (x.sshiftRight (y.toNat % 32)))
    ∧ exec (.slt k d a b) s = .next (regDone s k d (if x.toInt < y.toInt then 1 else 0))
    ∧ exec (.sltu k d a b) s = .next (regDone s k d (if x.toNat < y.toNat then 1 else 0))
    ∧ exec (.min k d a b) s = .next (regDone s k d (BitVec.ofInt 32 (min x.toInt y.toInt)))
    ∧ exec (.max k d a b) s = .next (regDone s k d (BitVec.ofInt 32 (max x.toInt y.toInt)))
    ∧ exec (.minu k d a b) s = .next (regDone s k d (BitVec.ofNat 32 (min x.toNat y.toNat)))
    ∧ exec (.maxu k d a b) s = .next (regDone s k d (BitVec.ofNat 32 (max x.toNat y.toNat)))
    ∧ exec (.mul k d a b) s = .next (regDone s k d (x * y))
    ∧ exec (.mulh k d a b) s = .next (regDone s k d (BitVec.ofInt 32 (x.toInt * y.toInt / 2 ^ 32)))
    ∧ exec (.mulhu k d a b) s = .next (regDone s k d (BitVec.ofNat 32 (x.toNat * y.toNat / 2 ^ 32)))
    ∧ exec (.slli k d a n) s = .next (regDone s k d (x <<< n.val))
    ∧ exec (.srli k d a n) s = .next (regDone s k d (x >>> n.val))
    ∧ exec (.srai k d a n) s = .next (regDone s k d (x.sshiftRight n.val))
    ∧ (∃ z : Nat, exec (.clz k d a) s = .next (regDone s k d (BitVec.ofNat 32 z)) ∧ z ≤ 32
        ∧ (∀ i : Nat, 32 - z ≤ i → i < 32 → x.getLsbD i = false) ∧ (z < 32 → x.getLsbD (31 - z) = true))
    ∧ exec (.popc k d a) s =
        .next (regDone s k d (BitVec.ofNat 32 ((List.range 32).filter (fun i => x.getLsbD i)).length))
    ∧ exec (.addss k d a b) s = .next (regDone s k d (saturated (x.toInt + y.toInt)))
    ∧ exec (.subss k d a b) s = .next (regDone s k d (saturated (x.toInt - y.toInt)))
    ∧ exec (.addi k d a imm) s = .next (regDone s k d (x + sx))
    ∧ exec (.andi k d a imm) s = .next (regDone s k d (x &&& zx))
    ∧ exec (.ori k d a imm) s = .next (regDone s k d (x ||| zx))
    ∧ exec (.xori k d a imm) s = .next (regDone s k d (x ^^^ zx))
    ∧ exec (.slti k d a imm) s = .next (regDone s k d (if x.toInt < sx.toInt then 1 else 0))
    ∧ exec (.sltiu k d a imm) s = .next (regDone s k d (if x.toNat < sx.toNat then 1 else 0))
    ∧ exec (.lui k d big) s = .next (regDone s k d (big.setWidth 32 <<< 11))

/-- Loads of local data that pass the parity check, and of shared data: aligned, they complete at once with the
little-endian value, sign-extended by LH and LB, zero-extended by LHU and LBU; nothing else changes. -/
def Sys2Proof.Claims.LocalLoads : Prop :=
  ∀ (s : State) (k : Fin 8) (d a : Fin 32) (vd : Fin 16) (imm : BitVec 16) (par : Bool), Runs s k →
    let x := (address s k a imm).toNat
    ∀ (m : List Host.Cell) (o : Nat),
      ((inDmem x 1 ∧ par = false ∧ m = (stw s k).dmem ∧ o = x - 0x10000000)
        ∨ (inShared x 1 ∧ m = s.shared ∧ o = x - 0x20000000)) →
      (x % 4 = 0 → exec (.lw k d a imm par) s = .next (regDone s k d (BitVec.ofNat 32 (memNat m o 4))))
      ∧ (x % 2 = 0 → exec (.lh k d a imm par) s = .next (regDone s k d ((BitVec.ofNat 16 (memNat m o 2)).signExtend 32)))
      ∧ (x % 2 = 0 → exec (.lhu k d a imm par) s = .next (regDone s k d (BitVec.ofNat 32 (memNat m o 2))))
      ∧ exec (.lb k d a imm par) s = .next (regDone s k d ((BitVec.ofNat 8 (memNat m o 1)).signExtend 32))
      ∧ exec (.lbu k d a imm par) s = .next (regDone s k d (BitVec.ofNat 32 (memNat m o 1)))
      ∧ (x % 32 = 0 → exec (.vld k vd a imm par) s = .next (vecDone s k vd (BitVec.ofNat 256 (memNat m o 32))))

/-- Loads from the DRAM window: the steward waits for its data, and LOAD_DATA_RETURN completes them with the bytes of
usable DRAM, when no error is in the codewords and no rate change holds the controller; beside the register only the
channels' queues and open rows change. That a window load takes two commands is the model's reading (log entry 27); so is which requests wait in the
channels' queues (log entry 122). -/
def Sys2Proof.Claims.WindowLoads : Prop :=
  ∀ (s : State) (k : Fin 8) (d a : Fin 32) (imm : BitVec 16) (par : Bool), Runs s k →
    let x := (address s k a imm).toNat
    let u := windowAddr s k x
    inWindow s k x 4 → x % 4 = 0 → s.poison = [] → s.single = [] → fldB s F.DRAM_STAT_FREQ_BUSY = false →
      ∃ t c, exec (.lw k d a imm par) s = .next t ∧ (stw t k).run ≠ .running ∧ (stw t k).pc = (stw s k).pc
        ∧ exec (.loadDataReturn k 0) t
          = .next { regDone s k d (BitVec.ofNat 32 (memNat s.dram u 4)) with drm := { s.drm with chans := c } }

/-- Stores to local data, shared memory and the DRAM window complete, and change the bytes at their address only. -/
def Obligations.Stores : Prop :=
  ∀ (s : State) (k : Fin 8) (d a : Fin 32) (vd : Fin 16) (imm : BitVec 16), Runs s k → MemOk s →
    let x := (address s k a imm).toNat
    let there := fun n : Nat => x % n = 0 ∧ (inDmem x n ∨ inShared x n ∨ inWindow s k x n)
    (there 4 → ∃ t, exec (.sw k d a imm) s = .next t ∧ storedTo s t k x (leBytes 4 (G s k d).toNat))
    ∧ (there 2 → ∃ t, exec (.sh k d a imm) s = .next t ∧ storedTo s t k x (leBytes 2 (G s k d).toNat))
    ∧ (there 1 → ∃ t, exec (.sb k d a imm) s = .next t ∧ storedTo s t k x (leBytes 1 (G s k d).toNat))
    ∧ (there 32 → ∃ t, exec (.vst k vd a imm) s = .next t ∧ storedTo s t k x (leBytes 32 (V s k vd).toNat))

/-- R69: the five atomic operations on local data (that passes its parity check) and on shared memory: one aligned word
is read and written, `d` takes the old value, and the rest of the machine stays. Anywhere else they raise an ACCESS
fault. -/
def Obligations.Atomics : Prop :=
  ∀ (s : State) (k : Fin 8) (d a b : Fin 32) (par : Bool), Runs s k →
    let x := (G s k a).toNat
    let y := G s k b
    x % 4 = 0 →
    (inDmem x 4 → par = false →
      let o := x - 0x10000000
      let old := BitVec.ofNat 32 (memNat (stw s k).dmem o 4)
      let after := fun new : Word =>
        withStw s k (stepped (putG { stw s k with dmem := memStore (stw s k).dmem o (leBytes 4 new.toNat) } d old))
      exec (.amoswap k d a b par) s = .next (after y) ∧ exec (.amoadd k d a b par) s = .next (after (old + y))
      ∧ exec (.amoand k d a b par) s = .next (after (old &&& y)) ∧ exec (.amoor k d a b par) s = .next (after (old ||| y))
      ∧ exec (.amocas k d a b par) s = .next (after (if old = G s k d then y else old)))
    ∧ (inShared x 4 →
      let o := x - 0x20000000
      let old := BitVec.ofNat 32 (memNat s.shared o 4)
      let after := fun new : Word => { regDone s k d old with shared := memStore s.shared o (leBytes 4 new.toNat) }
      exec (.amoswap k d a b par) s = .next (after y) ∧ exec (.amoadd k d a b par) s = .next (after (old + y))
      ∧ exec (.amoand k d a b par) s = .next (after (old &&& y)) ∧ exec (.amoor k d a b par) s = .next (after (old ||| y))
      ∧ exec (.amocas k d a b par) s = .next (after (if old = G s k d then y else old)))
    ∧ (¬ inDmem x 4 → ¬ inShared x 4 → ∀ c : Instr, (c = .amoswap k d a b par ∨ c = .amoadd k d a b par ∨ c = .amoand k d a b par
        ∨ c = .amoor k d a b par ∨ c = .amocas k d a b par) →
      ∃ t, exec c s = .next t ∧ (stw t k).run = .halted ∧ (stw t k).fault.setWidth 8 = (0x03 : BitVec 8)
        ∧ (stw t k).faddr = G s k a ∧ (stw t k).g = (stw s k).g ∧ (stw t k).dmem = (stw s k).dmem
        ∧ t.shared = s.shared ∧ t.dram = s.dram)

/-- Branches and jumps: the target where the condition holds, else the next instruction; only the PC, SC_INSTRET and
the link register change. -/
def Obligations.BranchesAndJumps : Prop :=
  ∀ (s : State) (k : Fin 8) (d a b : Fin 32) (p : Fin 8) (off : BitVec 16) (far : BitVec 26), Runs s k →
    let w := stw s k
    let x := G s k a
    let y := G s k b
    let go := fun (v : Steward) (t : Word) => withStw s k { v with pc := t, instret := v.instret + 1 }
    let near := w.pc + off.signExtend 32 * 4
    let jump := w.pc + far.signExtend 32 * 4
    let branch := fun c : Prop => fun t : State => (c → t = go w near) ∧ (¬ c → t = plainDone s k)
    (near.toNat < 0x10000 →
      (∃ t, exec (.beq k a b off) s = .next t ∧ branch (x = y) t)
      ∧ (∃ t, exec (.bne k a b off) s = .next t ∧ branch (x ≠ y) t)
      ∧ (∃ t, exec (.blt k a b off) s = .next t ∧ branch (x.toInt < y.toInt) t)
      ∧ (∃ t, exec (.bge k a b off) s = .next t ∧ branch (y.toInt ≤ x.toInt) t)
      ∧ (∃ t, exec (.bltu k a b off) s = .next t ∧ branch (x.toNat < y.toNat) t)
      ∧ (∃ t, exec (.bgeu k a b off) s = .next t ∧ branch (y.toNat ≤ x.toNat) t)
      ∧ (∃ t, exec (.bpany k p off) s = .next t ∧ branch (P s k p ≠ 0) t)
      ∧ (∃ t, exec (.bpnone k p off) s = .next t ∧ branch (P s k p = 0) t))
    ∧ (jump.toNat < 0x10000 →
      exec (.j k far) s = .next (go w jump) ∧ exec (.jal k far) s = .next (go (putG w 31 (w.pc + 4)) jump))
    ∧ ((x &&& ~~~ 3).toNat < 0x10000 → exec (.jalr k d a) s = .next (go (putG w d (w.pc + 4)) (x &&& ~~~ 3)))

/-- HALT halts after completing. BRK and an instruction outside the table fault: the steward halts, SC_FAULT holds the
code, SC_EPC the address, and the alarm slot of the steward is open. -/
def Sys2Proof.Claims.HaltBreakIllegal : Prop :=
  ∀ (s : State) (k : Fin 8) (imm : BitVec 16) (w : Word), Runs s k →
    exec (.halt k) s = .next (withStw s k { stepped (stw s k) with run := .halted })
    ∧ (∃ t, exec (.brk k imm) s = .next t ∧ (stw t k).run = .halted ∧ (stw t k).fault = 0x07
        ∧ (stw t k).epc = (stw s k).pc ∧ (stw t k).faddr = imm.setWidth 32 ∧ (stw t k).g = (stw s k).g
        ∧ (slotGet t (3 + k.val)).isOpen = true)
    ∧ (gyenoLegal w = false →
        ∃ t, exec (.illegal k w false) s = .next t ∧ (stw t k).run = .halted ∧ (stw t k).fault = 0x01
          ∧ (stw t k).epc = (stw s k).pc ∧ (slotGet t (3 + k.val)).isOpen = true)

/-- A misaligned load or store is a precise fault: code 0x02, the address
in SC_FADDR, no register and no memory changed. -/
def Sys2Proof.Claims.MisalignedFaults : Prop :=
  ∀ (s : State) (k : Fin 8) (d a : Fin 32) (vd : Fin 16) (imm : BitVec 16) (par : Bool) (c : Instr), Runs s k →
    let x := address s k a imm
    (((c = .lw k d a imm par ∨ c = .sw k d a imm) ∧ x.toNat % 4 ≠ 0)
      ∨ ((c = .lh k d a imm par ∨ c = .lhu k d a imm par ∨ c = .sh k d a imm) ∧ x.toNat % 2 ≠ 0)
      ∨ ((c = .vld k vd a imm par ∨ c = .vst k vd a imm ∨ c = .vsld k vd a imm ∨ c = .vsst k vd a imm) ∧ x.toNat % 32 ≠ 0)
      ∨ ((c = .sld k d a imm ∨ c = .sst k d a imm) ∧ x.toNat % 4 ≠ 0)) →
    ∃ t, exec c s = .next t ∧ (stw t k).run = .halted ∧ (stw t k).fault = 0x02 ∧ (stw t k).epc = (stw s k).pc
      ∧ (stw t k).faddr = x ∧ (stw t k).pc = (stw s k).pc ∧ t.dram = s.dram ∧ t.shared = s.shared
      ∧ ∀ j : Fin 8, (stw t j).g = (stw s j).g ∧ (stw t j).v = (stw s j).v ∧ (stw t j).p = (stw s j).p
          ∧ (stw t j).dmem = (stw s j).dmem

/-- A parity error of local data, or of the instruction word, is a precise fault: code 0x08, the steward halted at the
instruction, its slot open, no register and no memory changed (R87). Whether
a word's parity holds is an operand (log entry 87). -/
def Sys2Proof.Claims.ParityFaults : Prop :=
  ∀ (s : State) (k : Fin 8) (d a b : Fin 32) (vd : Fin 16) (imm : BitVec 16) (w : Word) (c : Instr), Runs s k →
    let x := address s k a imm
    ((inDmem x.toNat 1 ∧ ((c = .lw k d a imm true ∧ x.toNat % 4 = 0)
          ∨ ((c = .lh k d a imm true ∨ c = .lhu k d a imm true) ∧ x.toNat % 2 = 0)
          ∨ c = .lb k d a imm true ∨ c = .lbu k d a imm true ∨ (c = .vld k vd a imm true ∧ x.toNat % 32 = 0)))
      ∨ (inDmem (G s k a).toNat 4 ∧ (G s k a).toNat % 4 = 0
          ∧ (c = .amoswap k d a b true ∨ c = .amoadd k d a b true ∨ c = .amoand k d a b true ∨ c = .amoor k d a b true
              ∨ c = .amocas k d a b true))
      ∨ c = .illegal k w true) →
    ∃ t, exec c s = .next t ∧ (stw t k).run = .halted ∧ (stw t k).fault = 0x08 ∧ (stw t k).epc = (stw s k).pc
      ∧ (stw t k).pc = (stw s k).pc ∧ (slotGet t (3 + k.val)).isOpen = true ∧ t.dram = s.dram ∧ t.shared = s.shared
      ∧ ∀ j : Fin 8, (stw t j).g = (stw s j).g ∧ (stw t j).v = (stw s j).v ∧ (stw t j).p = (stw s j).p
          ∧ (stw t j).dmem = (stw s j).dmem

/-! ## Nibble-vector instructions (R70 to R72) -/

/-- Merging instructions: a lane whose governing bit is 0 keeps its value, another takes the lane result; VSEL writes
every lane. Only the destination, the PC and SC_INSTRET change. -/
def Obligations.VectorResults : Prop :=
  ∀ (s : State) (k : Fin 8) (vd va vb : Fin 16) (pg : Fin 8) (imm : BitVec 4) (n : Fin 32), Runs s k →
    let x := fun i : Nat => lane (V s k va) i
    let y := fun i : Nat => lane (V s k vb) i
    let merged := fun (c : Instr) (f : Nat → BitVec 4) =>
      ∃ r : Vec, exec c s = .next (vecDone s k vd r)
        ∧ ∀ i : Nat, i < 64 → lane r i = if (P s k pg).getLsbD i then f i else lane (V s k vd) i
    merged (.vadd k vd va vb pg) (fun i => x i + y i)
    ∧ merged (.vadds k vd va vb pg) (fun i => BitVec.ofNat 4 (min 15 ((x i).toNat + (y i).toNat)))
    ∧ merged (.vsubs k vd va vb pg) (fun i => BitVec.ofNat 4 ((x i).toNat - (y i).toNat))
    ∧ merged (.vand k vd va vb pg) (fun i => x i &&& y i)
    ∧ merged (.vor k vd va vb pg) (fun i => x i ||| y i)
    ∧ merged (.vxor k vd va vb pg) (fun i => x i ^^^ y i)
    ∧ merged (.vmin k vd va vb pg) (fun i => BitVec.ofNat 4 (min (x i).toNat (y i).toNat))
    ∧ merged (.vmax k vd va vb pg) (fun i => BitVec.ofNat 4 (max (x i).toNat (y i).toNat))
    ∧ merged (.vlut k vd va vb pg) (fun i => y (x i).toNat)
    ∧ merged (.vsplat k vd imm pg) (fun _ => imm)
    ∧ merged (.vslu k vd va n pg) (fun i => if i + n.val ≤ 63 then x (i + n.val) else 0)
    ∧ merged (.vsldLanes k vd va n pg) (fun i => if n.val ≤ i then x (i - n.val) else 0)
    ∧ ∃ r : Vec, exec (.vsel k vd va vb pg) s = .next (vecDone s k vd r)
        ∧ ∀ i : Nat, i < 64 → lane r i = if (P s k pg).getLsbD i then x i else y i

/-- Comparisons write 0 in the lanes that are not governed; the predicate operations act on all 64 bits. -/
def Sys2Proof.Claims.PredicateResults : Prop :=
  ∀ (s : State) (k : Fin 8) (pd pa pb pg : Fin 8) (va vb : Fin 16) (imm : BitVec 4), Runs s k →
    let x := fun i : Nat => lane (V s k va) i
    let y := fun i : Nat => lane (V s k vb) i
    let zeroed := fun (c : Instr) (f : Nat → Bool) =>
      ∃ r : Pred, exec c s = .next (predDone s k pd r)
        ∧ ∀ i : Nat, i < 64 → r.getLsbD i = ((P s k pg).getLsbD i && f i)
    zeroed (.vceq k pd va vb pg) (fun i => x i == y i)
    ∧ zeroed (.vclt k pd va vb pg) (fun i => decide ((x i).toNat < (y i).toNat))
    ∧ zeroed (.vceqi k pd va imm pg) (fun i => x i == imm)
    ∧ zeroed (.vclti k pd va imm pg) (fun i => decide ((x i).toNat < imm.toNat))
    ∧ exec (.pand k pd pa pb) s = .next (predDone s k pd (P s k pa &&& P s k pb))
    ∧ exec (.por k pd pa pb) s = .next (predDone s k pd (P s k pa ||| P s k pb))
    ∧ exec (.pxor k pd pa pb) s = .next (predDone s k pd (P s k pa ^^^ P s k pb))
    ∧ exec (.pandn k pd pa pb) s = .next (predDone s k pd (P s k pa &&& ~~~ P s k pb))

/-- The instructions between scalar, vector and predicate registers. -/
def Sys2Proof.Claims.CrossRegisterResults : Prop :=
  ∀ (s : State) (k : Fin 8) (g : Fin 32) (v : Fin 16) (p : Fin 8) (l : Fin 64), Runs s k →
    let pr := P s k p
    exec (.vext k g v l) s = .next (regDone s k g ((lane (V s k v) l.val).setWidth 32))
    ∧ (∃ r : Vec, exec (.vins k g v l) s = .next (vecDone s k v r)
        ∧ ∀ i : Nat, i < 64 → lane r i = if i = l.val then (G s k g).setWidth 4 else lane (V s k v) i)
    ∧ exec (.prdlo k g p) s = .next (regDone s k g (BitVec.ofNat 32 pr.toNat))
    ∧ exec (.prdhi k g p) s = .next (regDone s k g (BitVec.ofNat 32 (pr.toNat / 2 ^ 32)))
    ∧ exec (.pwrlo k g p) s =
        .next (predDone s k p (BitVec.ofNat 64 (pr.toNat / 2 ^ 32 * 2 ^ 32 + (G s k g).toNat)))
    ∧ exec (.pwrhi k g p) s =
        .next (predDone s k p (BitVec.ofNat 64 ((G s k g).toNat * 2 ^ 32 + pr.toNat % 2 ^ 32)))
    ∧ exec (.pcnt k g p) s =
        .next (regDone s k g (BitVec.ofNat 32 ((List.range 64).filter (fun i => pr.getLsbD i)).length))
    ∧ exec (.pfirst k g p) s = .next (regDone s k g (BitVec.ofNat 32 (firstBit pr)))
    ∧ exec (.vsum k g v p) s = .next (regDone s k g (BitVec.ofNat 32
        (((List.range 64).map (fun i => if pr.getLsbD i then (lane (V s k v) i).toNat else 0)).sum)))


/-! ## Station instructions, control registers, events and mailboxes (R73 to R90) -/

/-- The station window of R63. -/
abbrev Sys2Proof.Claims.stationWindow (x : Nat) : Prop := 0x40000000 ≤ x ∧ x < 0x80000000

/-- Inside the station window SLD and VSLD of an existing station complete with what the station shows, and SST and VSST
of a claimed writable station complete with the store (and, where an SST changes a standby's eligibility, its postcard,
R332); there a station that does not exist, or a store that R74 does not allow, is a STATION fault, and outside the window
every station instruction is an ACCESS fault (R63). -/
def Obligations.StationInstructions : Prop :=
  ∀ (s : State) (k : Fin 8) (d a : Fin 32) (vd : Fin 16) (imm : BitVec 16), Runs s k →
    let x := (address s k a imm).toNat
    let faults := fun (c : Instr) (code : Word) => ∃ t, exec c s = .next t ∧ (stw t k).run = .halted
      ∧ (stw t k).fault = code ∧ (stw t k).epc = (stw s k).pc ∧ (stw t k).faddr = address s k a imm
      ∧ (stw t k).g = (stw s k).g ∧ (stw t k).v = (stw s k).v ∧ t.vstn = s.vstn ∧ (k.val < 6 → t.stn = s.stn)
    (x % 4 = 0 → stationWindow x →
      (scalarExists x = true →
        exec (.sld k d a imm) s = .next (regDone (stewardRead s k x).2 k d (stewardRead s k x).1))
      ∧ (scalarExists x = false → faults (.sld k d a imm) 0x104)
      ∧ ((immediateOk x && claimed s k x) = true →
        exec (.sst k d a imm) s = .next (told s (plainDone (storeStation s (some k) x (G s k d)) k)))
      ∧ ((immediateOk x && claimed s k x) = false → faults (.sst k d a imm) 0x204))
    ∧ (x % 32 = 0 → stationWindow x →
      ((vView x).isSome = true → exec (.vsld k vd a imm) s = .next (vecDone s k vd (readVec s x)))
      ∧ ((vView x).isSome = false → faults (.vsld k vd a imm) 0x404)
      ∧ ((vecImmediateOk x && claimed s k x) = true →
        exec (.vsst k vd a imm) s = .next (plainDone (storeVec s x (V s k vd)) k))
      ∧ ((vecImmediateOk x && claimed s k x) = false → faults (.vsst k vd a imm) 0x504))
    ∧ (¬ stationWindow x →
      (x % 4 = 0 → faults (.sld k d a imm) 0x103 ∧ faults (.sst k d a imm) 0x203)
      ∧ (x % 32 = 0 → faults (.vsld k vd a imm) 0x403 ∧ faults (.vsst k vd a imm) 0x503))

/-- A store that reaches a station of ROUND, FEED, AUX, PWR or THM writes its RW fields, clears the W1C fields at which
it writes 1, and changes no other station (R9), but that one of HK_PERIOD also sets the period of compare unit 6 (R488); the store
of a steward and the command STATION_STORE do the same. -/
def Obligations.PlainStationStores : Prop :=
  ∀ (s : State) (k : Option (Fin 8)) (x v : Word) (r : StnRow), StnOk s → takesStores s = true →
    immediateOk x.toNat = true → mayStore s k x.toNat = true → stnRow x.toNat = some r →
    (x.toNat / 0x1000000 = 0x40 ∨ x.toNat / 0x1000000 = 0x41 ∨ x.toNat / 0x1000000 = 0x44 ∨ x.toNat / 0x1000000 = 0x50
      ∨ x.toNat / 0x1000000 = 0x52) →
    ∃ t, exec (.stationStore k x v) s = .next t
      ∧ (∀ i : Nat, i < 32 → (stnWord t x.toNat).getLsbD i
          = (((r.rw.testBit i && v.getLsbD i) || (!r.rw.testBit i && (stnWord s x.toNat).getLsbD i))
              && !(r.w1c.testBit i && v.getLsbD i)))
      ∧ (∀ y : Nat, y ≠ x.toNat → (x = 0x50000024 → y ≠ (F.TIME_PERIOD 6).addr) → stnWord t y = stnWord s y)
      ∧ (x = 0x50000024 → fld t (F.TIME_PERIOD 6) = max 1 (fld t F.PWR_HK_PERIOD) * 250000)
      ∧ t.vstn = s.vstn ∧ t.dram = s.dram ∧ t.shared = s.shared ∧ t.stewards = s.stewards

/-- SSQ and VSSQ: with room the write enters the line-qualified queue with its line number, and the instruction
completes; without room the steward waits, the PC unchanged, until LQ_QUEUE_ROOM finds room for it. -/
def Sys2Proof.Claims.LineQualifiedInstructions : Prop :=
  ∀ (s : State) (k : Fin 8) (d a b : Fin 32) (vd : Fin 16), Runs s k →
    let x := (G s k a).toNat
    let sc : LqEntry := ⟨(G s k d).toNat, .scalar x (G s k b), some k⟩
    let ve : LqEntry := ⟨(G s k b).toNat, .vector x (V s k vd), some k⟩
    let goes := fun (c : Instr) (e : LqEntry) =>
      (lqSize e ≤ lqFree s → exec c s = .next (plainDone (armLq s e) k))
      ∧ (lqFree s < lqSize e →
          exec c s = .next (withStw s k { stw s k with run := .queueing e })
          ∧ exec (.lqQueueRoom k) (withStw s k { stw s k with run := .queueing e })
              = .next (withStw s k { stw s k with run := .queueing e }))
    (x % 4 = 0 → (lineQualifiedOk x && claimed s k x) = true → goes (.ssq k d a b) sc)
    ∧ (x % 32 = 0 → (vecLineQualifiedOk x && claimed s k x) = true → goes (.vssq k vd a b) ve)

/-- LQ_QUEUE_ROOM lets a waiting write in once there is room, and its instruction completes. -/
def Sys2Proof.Claims.QueueRoom : Prop :=
  ∀ (s : State) (k : Fin 8) (e : LqEntry), (stw s k).run = .queueing e → lqSize e ≤ lqFree s →
    exec (.lqQueueRoom k) s = .next (withStw (armLq s e) k { stepped (stw (armLq s e) k) with run := .running })

/-- SCR reads each listed control register, SC_WDOG as what is left of its load; SCW writes the three that are RW; another number, and a write of another
register, is an ILLEGAL fault. FENCE with a legal operand only advances; with 0 or more than 7 it is ILLEGAL. -/
def Obligations.ControlRegisters : Prop :=
  ∀ (s : State) (k : Fin 8) (d : Fin 32) (n imm : BitVec 16), Runs s k →
    let w := stw s k
    let illegal := fun c : Instr => ∃ t, exec c s = .next t ∧ (stw t k).run = .halted ∧ (stw t k).fault = 0x01
      ∧ (stw t k).epc = w.pc ∧ (stw t k).g = w.g
    let reads := fun (m : BitVec 16) (v : Word) => n = m → exec (.scr k d n) s = .next (regDone s k d v)
    reads 0x000 (BitVec.ofNat 32 (if 6 ≤ k.val then k.val + 8 else k.val))
    ∧ reads 0x001 (scStatus s) ∧ reads 0x002 w.fault ∧ reads 0x003 w.epc ∧ reads 0x004 w.faddr ∧ reads 0x005 w.evmask ∧ reads 0x006 w.evpend
    ∧ reads 0x007 (BitVec.ofNat 32 ((w.wdog.toNat * 1000 - (s.clk.ns - w.wdogAt) + 999) / 1000)) ∧ reads 0x008 w.latewin ∧ reads 0x009 w.dwin ∧ reads 0x00A (scLine s) ∧ reads 0x00B w.instret
    ∧ reads 0x010 (tbVal s 0) ∧ reads 0x011 (tbVal s 1) ∧ reads 0x012 (tbVal s 2) ∧ reads 0x013 (tbVal s 3)
    ∧ reads 0x020 w.start
    ∧ ((0x00C ≤ n.toNat ∧ n.toNat < 0x010) ∨ (0x014 ≤ n.toNat ∧ n.toNat < 0x020) ∨ 0x021 ≤ n.toNat → illegal (.scr k d n))
    ∧ (n = 0x005 → exec (.scw k d n) s = .next (withStw s k (stepped { w with evmask := G s k d })))
    ∧ (n = 0x007 → exec (.scw k d n) s = .next (withStw s k (stepped { w with wdog := G s k d &&& 0xFFFFFF, wdogAt := s.clk.ns })))
    ∧ (n = 0x009 → exec (.scw k d n) s = .next (withStw s k (stepped { w with dwin := G s k d &&& 0x1F })))
    ∧ (n ≠ 0x005 → n ≠ 0x007 → n ≠ 0x009 → illegal (.scw k d n))
    ∧ (1 ≤ imm.toNat → imm.toNat ≤ 7 → exec (.fence k imm) s = .next (plainDone s k))
    ∧ (imm = 0 ∨ 7 < imm.toNat → illegal (.fence k imm))

/-- WAIT, WAITT and EVPOLL take the lowest pending enabled event; with none, WAIT and WAITT sleep and EVPOLL, as WAITT
with 0, answers 32. STEWARD_WAKE gives a sleeper its event; WAITT_TIMEOUT answers 32, unless an event has arrived,
which wins and counts in SC_LATEWIN. That the command WAITT_TIMEOUT says the time is up is the model's convention
(log entry 3). -/
def Obligations.EventWaits : Prop :=
  ∀ (s : State) (k : Fin 8) (d a : Fin 32) (n : Nat) (timed : Bool),
    let w := stw s k
    let none32 := stepped (putG { w with run := .running } d 32)
    (Runs s k → lowestEvent w n →
      exec (.wait k d) s = .next (withStw s k (took w d n)) ∧ exec (.waitt k d a) s = .next (withStw s k (took w d n))
      ∧ exec (.evpoll k d) s = .next (withStw s k (took w d n)))
    ∧ (Runs s k → w.evpend &&& w.evmask = 0 →
      exec (.wait k d) s = .next (withStw s k { w with run := .sleeping d false })
      ∧ (G s k a ≠ 0 → exec (.waitt k d a) s = .next (withStw s k { w with run := .sleeping d true }))
      ∧ (G s k a = 0 → exec (.waitt k d a) s = .next (withStw s k none32))
      ∧ exec (.evpoll k d) s = .next (withStw s k none32))
    ∧ (w.run = .sleeping d timed → lowestEvent w n →
      exec (.stewardWake k) s = .next (withStw s k (took w d n))
      ∧ (timed = true → exec (.waittTimeout k) s = .next (withStw s k (took { w with latewin := satInc w.latewin } d n))))
    ∧ (w.run = .sleeping d true → w.evpend &&& w.evmask = 0 →
      exec (.waittTimeout k) s = .next (withStw s k none32))

/-- EVSIG sets a software event, 24 to 31, of the steward named by the low three bits, and is ILLEGAL for another event
number. MSEND deposits a value and the sender's number; a full mailbox answers 0; a program may not send to the
resident. MRECV takes the oldest entry, or answers 0. -/
def Obligations.EventsAndMailboxes : Prop :=
  ∀ (s : State) (k : Fin 8) (d a b : Fin 32) (v : Word) (f : Fin 8) (rest : List (Word × Fin 8)), Runs s k →
    let w := stw s k
    let dst := Fin.ofNat 8 ((G s k a).toNat % 8)
    let n := (G s k b).toNat
    (24 ≤ n → n ≤ 31 → ∃ t, exec (.evsig k a b) s = .next t ∧ (stw t dst).evpend = (stw s dst).evpend ||| ((1 : Word) <<< n)
        ∧ (stw t k).pc = w.pc + 4 ∧ ∀ j : Fin 8, j ≠ k → j ≠ dst → stw t j = stw s j)
    ∧ (n < 24 ∨ 31 < n → ∃ t, exec (.evsig k a b) s = .next t ∧ (stw t k).run = .halted ∧ (stw t k).fault = 0x01)
    ∧ ((6 ≤ k.val ∨ dst.val < 6) → (stw s dst).mbox.length < 16 →
        ∃ t, exec (.msend k d a b) s = .next t ∧ (stw t dst).mbox = (stw s dst).mbox ++ [(G s k b, k)]
          ∧ (d ≠ 0 → (stw t k).g[d] = 1) ∧ (stw t k).pc = w.pc + 4
          ∧ ((stw s dst).mbox = [] → (stw t dst).evpend.getLsbD 10 = true)
          ∧ ∀ j : Fin 8, j ≠ k → j ≠ dst → stw t j = stw s j)
    ∧ ((6 ≤ k.val ∨ dst.val < 6) → 16 ≤ (stw s dst).mbox.length → exec (.msend k d a b) s = .next (regDone s k d 0))
    ∧ (k.val < 6 → 6 ≤ dst.val → ∃ t, exec (.msend k d a b) s = .next t ∧ (stw t k).run = .halted
        ∧ (stw t k).fault.setWidth 8 = (0x03 : BitVec 8) ∧ (stw t dst).mbox = (stw s dst).mbox)
    ∧ (w.mbox = (v, f) :: rest → exec (.mrecv k d b) s =
        .next (withStw s k (stepped (putG (putG { w with mbox := rest } d v) b (BitVec.ofNat 32 (2 ^ 31 + f.val))))))
    ∧ (w.mbox = [] → exec (.mrecv k d b) s = .next (withStw s k (stepped (putG (putG w d 0) b 0))))

/-- A watchdog that has counted to 0 halts its steward with the fault 0x06; one that is off does nothing. The time-out
is the sender's word (log entry 3), and the command with the watchdog off is ignored (log entry 2). -/
def Sys2Proof.Claims.WatchdogExpiry : Prop :=
  ∀ (s : State) (k : Fin 8),
    ((stw s k).run ≠ .halted → (stw s k).wdog ≠ 0 → ∃ t, exec (.watchdogExpiry k) s = .next t
      ∧ (stw t k).run = .halted ∧ (stw t k).fault = 0x06 ∧ (stw t k).epc = (stw s k).pc ∧ (stw t k).g = (stw s k).g
      ∧ (stw t k).wdog = 0 ∧ (slotGet t (3 + k.val)).isOpen = true)
    ∧ ((stw s k).wdog = 0 → Ignored (.watchdogExpiry k) s)


/-! ## The Round: hops, parcels (R96 to R118) -/

/-- A good frame in order is acknowledged, the expected LSEQ moves on, and an envelope for this device's address waits
for its execution. A frame that fails its checks, or runs ahead, is discarded and asked for once; one that came
before is acknowledged again. A frame on a link that is down does nothing. That the frame on a dead link leaves the
state is log entry 2. -/
def Sys2Proof.Claims.RoundFrames : Prop :=
  ∀ (s : State) (l : Link) (f : Frame) (parity : Bool) (a : BitVec 8),
    let p := port s l
    let h := p.hop f.space
    let e := { f.env with west := decide (l = .west) }
    let known := h.expected - 1
    (p.up = true → groupIsAligned s (linkGroup l) = true → frameGood f = true → f.lseq = h.expected → l ≠ .twin →
      s.therm.devAddr = some a → f.env.dest = a → a ≠ 0xFF → parity = false → answerKind f.env.kind = false →
      ∃ t, exec (.roundFrame l f parity) s = .next t ∧ t.round.inbox = s.round.inbox ++ [(e, f.payload)]
        ∧ ((port t l).hop f.space).expected = h.expected + 1 ∧ ((port t l).hop f.space).missing = false
        ∧ t.out = s.out ++ [.ack l f.space f.lseq] ∧ t.stn = s.stn ∧ t.dram = s.dram)
    ∧ (p.up = true → groupIsAligned s (linkGroup l) = true → frameGood f = false ∨ (h.expected ≠ f.lseq
        ∧ lseqOlder f.lseq h.expected = false) →
      ∃ t, exec (.roundFrame l f parity) s = .next t ∧ t.round.inbox = s.round.inbox
        ∧ ((port t l).hop f.space).expected = h.expected ∧ ((port t l).hop f.space).missing = true
        ∧ t.out = if h.missing then s.out else s.out ++ [.nak l f.space h.expected])
    ∧ (p.up = true → groupIsAligned s (linkGroup l) = true → frameGood f = true → h.expected ≠ f.lseq →
        lseqOlder f.lseq h.expected = true →
      ∃ t, exec (.roundFrame l f parity) s = .next t ∧ t.round.inbox = s.round.inbox ∧ port t l = p
        ∧ t.out = s.out ++ [.ack l f.space known])
    ∧ (p.up = false → Ignored (.roundFrame l f parity) s)

/-- Go-back-N: a NAK and the retry timer resend from the frame they name, an acknowledgement releases the frames up to
its own, after 8 resends without progress the link goes down (R102), and a NAK is repeated while its frame is missing; a retry timer with nothing outstanding counts a late
arrival. The timers are the sender's word (log entry 3); a NAK repeat with nothing missing is ignored (log entry 2). -/
def Sys2Proof.Claims.HopRetry : Prop :=
  ∀ (s : State) (l : Link) (sp : Space) (q : BitVec 12) (older newer : List TxFrame) (f : TxFrame),
    let p := port s l
    let h := p.hop sp
    (h.replay = older ++ f :: newer → (∀ g ∈ older, g.lseq ≠ f.lseq) → h.resends < 8 →
      ∃ t, exec (.nak l sp f.lseq) s = .next t ∧ ((port t l).hop sp).resends = h.resends + 1
        ∧ ((port t l).hop sp).replay = h.replay ∧ t.out = s.out
        ∧ (StnOk s → ∀ i, linkIdx l = some i → fld t (F.ROUND_RND_PORT_RESENDS i)
            = min (fld s (F.ROUND_RND_PORT_RESENDS i) + newer.length + 1) (2 ^ 32 - 1)))
    ∧ (8 ≤ h.resends → exec (.nak l sp q) s = exec (.linkDown l) s)
    ∧ (h.replay = older ++ f :: newer → (∀ g ∈ older, g.lseq ≠ f.lseq) → p.up = false →
        p.ord.replay.all (fun g => g.lseq != q) = true → sp = .express →
      ∃ t, exec (.acknowledgement l q f.lseq) s = .next t ∧ (port t l).exp.replay = newer
        ∧ (port t l).exp.resends = 0 ∧ (port t l).ord = p.ord)
    ∧ (h.missing = true → exec (.nakRepeat l sp) s = .next (emit s (.nak l sp h.expected)))
    ∧ (h.missing = false → Ignored (.nakRepeat l sp) s)
    ∧ (h.replay = f :: newer → exec (.retryTimeout l sp) s = exec (.nak l sp f.lseq) s)
    ∧ (h.replay = [] → exec (.retryTimeout l sp) s = .next (lateWin s))

/-- LINK_TRAINED brings the port up, its sequences at 0 and its lane group aligned, what was not acknowledged waiting
first. LINK_DOWN takes a Round port down, wraps it and raises port-down; the twin link just goes down. UNWRAP ends a
wrap on a link that is up. LINK_DOWN of a link that is down is ignored (log entry 2). -/
def Sys2Proof.Claims.LinkStates : Prop :=
  ∀ (s : State) (l : Link) (west : Bool),
    ((s.boot.phase = .ready ∨ s.boot.phase = .starting) →
      ∃ t, exec (.linkTrained l) s = .next t ∧ (port t l).up = true ∧ groupIsAligned t (linkGroup l) = true
        ∧ (port t l).ord.expected = 0 ∧ (port t l).exp.expected = 0
        ∧ ((port s l).ord.replay = [] → (port s l).ord.waiting = [] → (port t l).ord = HopSpace.init))
    ∧ ((port s (roundLink west)).up = true →
      ∃ t, exec (.linkDown (roundLink west)) s = .next t ∧ (port t (roundLink west)).up = false
        ∧ (port t (roundLink west)).wrapped = true ∧ (port t (roundLink west)).ord.replay = []
        ∧ (slotGet t (13 + (if west then 1 else 0))).isOpen = true)
    ∧ ((port s (roundLink west)).up = false → Ignored (.linkDown (roundLink west)) s)
    ∧ (∃ t, exec (.linkDown .twin) s = .next t ∧ (port t .twin).up = false ∧ t.round = s.round)
    ∧ ((port s (roundLink west)).up = true → ∃ t, exec (.unwrap west) s = .next t
        ∧ (port t (roundLink west)).wrapped = false ∧ (port t (roundLink west)).ord = (port s (roundLink west)).ord
        ∧ t.stn = s.stn)

/-- An open parcel grows by its next envelope; 100 ms without one discard it, unless that envelope has arrived. The
time-out is the sender's word (log entry 3). -/
def Obligations.Parcels : Prop :=
  ∀ (s : State) (e : Env) (pl : List Byte) (p : Parcel) (older newer : List Parcel),
    s.round.parcels = older ++ p :: newer →
    (s.boot.phase = .ready → s.tho.stopped = false → s.round.busy = none → streamWaits s e = false →
      parcelKind e.kind = true → e.first = false → e.last = false → s.round.inbox = [(e, pl)] →
      parcelIn e p = true → (∀ q ∈ older, parcelIn e q = false) → nextOf e p = true → p.aux + pl.length ≤ 2 ^ 28 →
      ∃ t, exec (.parcelEnvelope e pl) s = .next t ∧ t.round.inbox = []
        ∧ (∃ q ∈ t.round.parcels, q.data = p.data ++ pl ∧ q.aux = p.aux + pl.length ∧ q.seq = p.seq ∧ q.kind = p.kind)
        ∧ t.round.streams = s.round.streams ∧ t.dram = s.dram)
    ∧ (s.round.inbox = [] → (∀ q ∈ older, ¬ (q.dest = p.dest ∧ q.src = p.src ∧ q.stream = p.stream)) →
      ∃ t, exec (.parcelTimeout p.dest p.src p.stream) s = .next t
        ∧ t.round.parcels = older ++ newer ∧ t.round.streams = s.round.streams)


/-! ## Letters (R113 to R128) -/

/-- An outcome: the stream expects the next SEQ, the record of a kind that is not repeatable takes the outcome, a
refusal enters the dead-letter queue and opens its alarm, and a receipt leaves, on a joined active behind the hamper
that carries the effects. The hamper that carries the effects is the filling one (log entry 39). -/
def Obligations.LetterSettlement : Prop :=
  ∀ (s : State) (e : Env) (pl : List Byte) (a : Ans),
    let t := settleLetter s e pl a
    (streamOf t e).expected = e.seq + 1 ∧ (streamOf t e).isOpen = (streamOf s e).isOpen
    ∧ (repeatable e.kind = true → (streamOf t e).record = (streamOf s e).record)
    ∧ (repeatable e.kind = false → ∃ o, (streamOf t e).record.getLast? = some o ∧ o.seq = e.seq
        ∧ o.code = BitVec.ofNat 8 a.code ∧ o.detail = BitVec.ofNat 16 a.detail ∧ o.data = a.data ∧ o.aux = a.aux)
    ∧ (a.code = 0 → t.round.dead = s.round.dead)
    ∧ (0x10 ≤ a.code → a.code ≤ 0x1D → (slotGet t (15 + (a.code - 0x10))).isOpen = true ∧ ∃ d,
        t.round.dead.getLast? = some d ∧ d.env = e ∧ d.code = BitVec.ofNat 8 a.code
        ∧ d.len = if e.first then pl.length else pl.length - e.aux.toNat)
    ∧ (isActive s = true → s.twin.joined = true → a.after = [] → ∃ h, t.round.held = s.round.held ++ [h]
        ∧ h.hseq = s.twin.hseq + 1 ∧ h.env.kind = 0x80 ∧ h.env.dest = e.src ∧ h.env.seq = e.seq
        ∧ h.payload.head? = some (BitVec.ofNat 8 a.code))
    ∧ ((isActive s && s.twin.joined) = false → t.round.held = s.round.held)

/-- WRITE and VWRITE store their items in order; ARM and VARM queue all of theirs when they fit and none when they do
not (R75); READ and VREAD answer what the stations show. The room of the filling hamper is the model's reading (log
entry 39). -/
def Sys2Proof.Claims.StationLetters : Prop :=
  ∀ (s : State) (e : Env) (ws : List (Word × Word)) (qs : List (Word × Word × Word)) (vs : List (Word × Vec))
    (ls : List (Word × Word × Vec)) (as : List Word),
    let le := fun w : Word => leBytes 4 w.toNat
    let most := fun n : Nat => if e.cls = 0 then 16 else n
    let express := fun as : List Word => e.cls = 0 → ∀ a ∈ as, expressCapable a.toNat = true
    (∀ pl, pl = ws.flatMap (fun i => le i.1 ++ le i.2) → LetterReady 0x01 s e pl → ws ≠ [] → ws.length ≤ most 256 →
      (∀ i ∈ ws, immediateOk i.1.toNat = true ∧ bankedStation i.1.toNat = false) → express (ws.map (·.1)) →
      Answers (.write e pl) s e pl (ws.foldl (fun s i => storeStation s none i.1.toNat i.2) (taken s e pl)) Ans.done)
    ∧ (∀ pl, pl = qs.flatMap (fun i => le i.1 ++ le i.2.1 ++ le i.2.2) → LetterReady 0x02 s e pl → qs ≠ [] →
      qs.length ≤ most 256 → (∀ i ∈ qs, lineQualifiedOk i.2.1.toNat = true ∧ bankedStation i.2.1.toNat = false) →
      express (qs.map (·.2.1)) →
      (qs.length ≤ lqFree s → Answers (.arm e pl) s e pl
        (qs.foldl (fun s i => armLq s ⟨i.1.toNat, .scalar i.2.1.toNat i.2.2, none⟩) (taken s e pl)) Ans.done)
      ∧ (lqFree s < qs.length → Answers (.arm e pl) s e pl (taken s e pl) (Ans.refuse 0x14 (lqFree s))))
    ∧ (∀ pl, pl = vs.flatMap (fun i => le i.1 ++ bytesOfVec i.2) → LetterReady 0x03 s e pl → vs ≠ [] → vs.length ≤ 64 →
      (∀ i ∈ vs, i.1.toNat % 32 = 0 ∧ vecImmediateOk i.1.toNat = true) →
      Answers (.vwrite e pl) s e pl (vs.foldl (fun s i => storeVec s i.1.toNat i.2) (taken s e pl)) Ans.done)
    ∧ (∀ pl, pl = ls.flatMap (fun i => le i.1 ++ le i.2.1 ++ bytesOfVec i.2.2) → LetterReady 0x04 s e pl → ls ≠ [] →
      ls.length ≤ 64 → (∀ i ∈ ls, i.2.1.toNat % 32 = 0 ∧ vecLineQualifiedOk i.2.1.toNat = true) →
      8 * ls.length ≤ lqFree s → Answers (.varm e pl) s e pl
        (ls.foldl (fun s i => armLq s ⟨i.1.toNat, .vector i.2.1.toNat i.2.2, none⟩) (taken s e pl)) Ans.done)
    ∧ (∀ pl, pl = as.flatMap le → LetterReady 0x05 s e pl → as ≠ [] → as.length ≤ 60 →
      (∀ a ∈ as, scalarExists a.toNat = true ∧ bankedStation a.toNat = false) →
      let r := readAll (taken s e pl) (as.map (·.toNat))
      Answers (.read e pl) s e pl r.2 (Ans.result r.1))
    ∧ (∀ pl, pl = as.flatMap le → LetterReady 0x06 s e pl → as ≠ [] → as.length ≤ 7 →
      (∀ a ∈ as, a.toNat % 32 = 0 ∧ (vView a.toNat).isSome = true) →
      Answers (.vread e pl) s e pl (taken s e pl)
        (Ans.result (as.flatMap (fun a => bytesOfVec (readVec (taken s e pl) a.toNat)))))

/-- A WRITE to a station that does not exist or takes no immediate store changes no station and is refused with code
0x13; one with more than 16 items in class express with 0x11. That the count is checked before the last item is log
entry 31. -/
def Sys2Proof.Claims.RefusedStationLetters : Prop :=
  ∀ (s : State) (e : Env) (pl : List Byte) (a v : Word), LetterReady 0x01 s e pl →
    (pl = leBytes 4 a.toNat ++ leBytes 4 v.toNat → immediateOk a.toNat = false → e.cls = 1 →
      Answers (.write e pl) s e pl (taken s e pl) (Ans.refuse 0x13 0))
    ∧ (e.cls = 0 → 136 ≤ pl.length → Answers (.write e pl) s e pl (taken s e pl) (Ans.refuse 0x11 16))
    ∧ (pl = [] → Answers (.write e pl) s e pl (taken s e pl) (Ans.refuse 0x10 0))

/-- INBOX writes shared memory that its steward has claimed and sets that steward's event 13; DRAM_WRITE writes usable
DRAM; DRAM_READ answers its length and sends the bytes behind its receipt; a range outside is refused. How the bytes
reach the standby is the model's reading (log entries 38 and 63). -/
def Obligations.MemoryLetters : Prop :=
  ∀ (s : State) (e : Env) (pl data : List Byte) (k : Fin 8) (a n : Nat),
    (LetterReady 0x09 s e pl → pl = leBytes 4 k.val ++ leBytes 4 a ++ data → data ≠ [] → pl.length ≤ 4096 →
      0x20000000 ≤ a → a + data.length ≤ 0x201FFA00 → pagesClaimed (taken s e pl) k (a - 0x20000000) data.length = true →
      Answers (.inbox e pl) s e pl
        (setEvent 13 { taken s e pl with shared := memStore s.shared (a - 0x20000000) data } k) Ans.done)
    ∧ (LetterReady 0x14 s e pl → e.first = true → e.last = true → e.aux = 0 → pl = leBytes 8 a ++ data → a < 2 ^ 64 →
      (a + data.length ≤ dramUsable s → (toPair e && isActive s && !solo s) = false →
        Answers (.dramWrite e pl) s e pl (dramWrite (taken s e pl) a data) Ans.done)
      ∧ (a + data.length ≤ dramUsable s → (toPair e && isActive s && !solo s) = true →
        let w := dramWrite (taken s e pl) a data
        Answers (.dramWrite e pl) s e pl (trackRange (if mirrors s && !data.isEmpty then sendDram w a data else w) a data.length) Ans.done)
      ∧ (dramUsable s < a + data.length → Answers (.dramWrite e pl) s e pl (taken s e pl) (Ans.refuse 0x1C 0)))
    ∧ (LetterReady 0x15 s e pl → pl = leBytes 8 a ++ leBytes 4 n → n ≤ 2 ^ 28 → a + n ≤ dramUsable s →
      a + n < 2 ^ 64 →
      Answers (.dramRead e pl) s e pl (dramReadEffect (taken s e pl) a n)
        { Ans.done with aux := BitVec.ofNat 32 n, after := parcelOut (taken s e pl) e a 0 n (n / 4096 + 1) })

/-- LOAD installs a valid image whose claims are free and starts its steward; RESTART starts the loaded steward with
reason 2, HALT halts it, UNLOAD takes its program away; without a program the three are refused with 0x19. The order
of LOAD's checks is the model's reading (log entry 37). -/
def Obligations.ProgramLetters : Prop :=
  ∀ (s : State) (e : Env) (pl : List Byte) (k : Fin 8),
    (LetterReady 0x10 s e pl → e.first = true → e.last = true → e.aux = 0 → imageOk pl = true → MemOk s →
      (∀ i, i < (imageOf pl).claims.length → claimMalformed pl i = false) →
      (stw s (imageSteward (imageOf pl))).prog = none → conflictAt s (imageOf pl).claims = none →
      ∃ s', Answers (.load e pl) s e pl s' Ans.done
        ∧ (stw s' (imageSteward (imageOf pl))).run = .running ∧ (stw s' (imageSteward (imageOf pl))).start = 0
        ∧ (stw s' (imageSteward (imageOf pl))).pc = BitVec.ofNat 32 (imageOf pl).entry
        ∧ (stw s' (imageSteward (imageOf pl))).prog = some (imageOf pl)
        ∧ (∀ i (h : i < (imageOf pl).code.length),
            memGet (stw s' (imageSteward (imageOf pl))).imem i = (imageOf pl).code[i])
        ∧ ∀ j, j ≠ imageSteward (imageOf pl) → stw s' j = stw s j)
    ∧ (pl = [BitVec.ofNat 8 k.val, 0, 0, 0] → k.val < 6 → (stw s k).prog ≠ none →
      (LetterReady 0x11 s e pl → ∃ s', Answers (.unload e pl) s e pl s' Ans.done
          ∧ stw s' k = { stw s k with run := .halted, prog := none } ∧ ∀ j, j ≠ k → stw s' j = stw s j)
      ∧ (LetterReady 0x12 s e pl → ∃ s', Answers (.restart e pl) s e pl s' Ans.done ∧ (stw s' k).run = .running
          ∧ (stw s' k).start = 2 ∧ (stw s' k).fault = 0 ∧ (stw s' k).g[(1 : Fin 32)] = 2 ∧ (stw s' k).evmask = 0 ∧ (stw s' k).instret = 0
          ∧ (stw s' k).dmem = (stw s k).dmem ∧ ∀ j, j ≠ k → stw s' j = stw s j)
      ∧ (LetterReady 0x13 s e pl → ∃ s', Answers (.haltSteward e pl) s e pl s' Ans.done
          ∧ stw s' k = { stw s k with run := .halted } ∧ ∀ j, j ≠ k → stw s' j = stw s j))
    ∧ (pl = [BitVec.ofNat 8 k.val, 0, 0, 0] → (6 ≤ k.val ∨ (stw s k).prog = none) →
      (LetterReady 0x11 s e pl → Answers (.unload e pl) s e pl (taken s e pl) (Ans.refuse 0x19 0))
      ∧ (LetterReady 0x12 s e pl → Answers (.restart e pl) s e pl (taken s e pl) (Ans.refuse 0x19 0))
      ∧ (LetterReady 0x13 s e pl → Answers (.haltSteward e pl) s e pl (taken s e pl) (Ans.refuse 0x19 0)))

/-- JOB declares the job that its payload describes when no check of R138 to R140 refuses it; DEAD_READ answers up to 63
entries, DEAD_CLEAR empties the queue; STREAM_OPEN opens a stream at its own SEQ and clears its record. STREAM_OPEN
needs no SEQ: log entry 32. -/
def Obligations.JobAndRecordLetters : Prop :=
  ∀ (s : State) (e : Env) (pl : List Byte) (i n : Fin 64),
    (LetterReady 0x18 s e pl → pl.length = 48 →
      (jobRefusal (taken s e pl) (declOf pl) = none →
        Answers (.job e pl) s e pl (declareJob (taken s e pl) (declOf pl)) Ans.done)
      ∧ (∀ c d, jobRefusal (taken s e pl) (declOf pl) = some (c, d) →
        Answers (.job e pl) s e pl (taken s e pl) (Ans.refuse c d)))
    ∧ (LetterReady 0x28 s e pl → n ≠ 0 → pl = [BitVec.ofNat 8 i.val, BitVec.ofNat 8 n.val, 0, 0] →
      Answers (.deadRead e pl) s e pl (taken s e pl) (Ans.result
        (((((List.range s.round.dead.length).zip s.round.dead).drop i.val).take n.val).flatMap
          (fun x => deadBytes s x.1 x.2))))
    ∧ (LetterReady 0x29 s e pl → pl = [] → ∃ s', Answers (.deadClear e pl) s e pl s' Ans.done ∧ s'.round.dead = []
        ∧ (StnOk s → fld s' F.ROUND_RND_DEAD_OVERWRITES = 0) ∧ s'.round.streams = s.round.streams)
    ∧ (s.boot.phase = .ready → s.round.busy = none → s.tho.stopped = false → e.kind = 0x2A → (e, pl) ∈ s.round.inbox →
      letterTurn s e pl = true → e.cls ≠ 3 → e.stream ≠ 15 → (streamOf s e).isOpen = false →
      ∃ t, exec (.streamOpen e pl) s = .next t ∧ (streamOf t e).isOpen = true ∧ (streamOf t e).expected = e.seq + 1
        ∧ (streamOf t e).record.length = 1 ∧ t.round.inbox = s.round.inbox.erase (e, pl))

/-- A long operation makes the device busy with its number, its letter and the time, and its outcome waits for the end;
at a running job, and for another number, LONG is refused. FIRMWARE with a valid image is operation 4. What FIRMWARE
accepts rests on the signature check of FIPS 186-5 (log entry 13). -/
def Sys2Proof.Claims.LongOperations : Prop :=
  ∀ (s : State) (e : Env) (pl : List Byte),
    let begun := fun (op : Nat) (image : List Byte) (s' : State) =>
      s'.round.busy = some ⟨op, some e, image, s.clk.now⟩ ∧ s'.round.parcels = []
    let starts := fun (c : Instr) (op : Nat) (image pl : List Byte) => ∃ s', LeadsTo c s e pl s' ∧ begun op image s'
    (∀ op : Nat, LetterReady 0x20 s e [BitVec.ofNat 8 op, 0, 0, 0] → jobRuns s = false →
      (op = 1 ∨ op = 3 ∨ op = 6 ∨ (op = 2 ∧ dramFits (taken s e [2, 0, 0, 0]) (scanBase (taken s e [2, 0, 0, 0])) 327680 = true)) →
      starts (.long e [BitVec.ofNat 8 op, 0, 0, 0]) op [] [BitVec.ofNat 8 op, 0, 0, 0]
      ∧ (op = 1 → starts (.longDramRetrain e) op [] [1, 0, 0, 0])
      ∧ (op = 2 → starts (.longPodScan e) op [] [2, 0, 0, 0])
      ∧ (op = 3 → starts (.longThermosCommit e) op [] [3, 0, 0, 0])
      ∧ (op = 6 → starts (.longLaneRetune e) op [] [6, 0, 0, 0]))
    ∧ (LetterReady 0x20 s e pl → pl = [1, 0, 0, 0] → jobRuns s = true →
      Answers (.long e pl) s e pl (taken s e pl) (Ans.refuse 0x1A 0))
    ∧ (LetterReady 0x20 s e pl → pl = [5, 0, 0, 0] → Answers (.long e pl) s e pl (taken s e pl) (Ans.refuse 0x10 0))
    ∧ (LetterReady 0x21 s e pl → e.first = true → e.last = true → e.aux = 0 → jobRuns s = false → fwValid (taken s e pl) pl = true →
      starts (.firmware e pl) 4 pl pl)

/-- LONG_OPERATION_END: the device is busy no more and the letter's outcome is DONE; a retrain stores which channels
trained, a firmware load leaves its image pending in the other slot, a commit writes the other settings bank. Which
channels trained is an operand (log entry 84). -/
def Sys2Proof.Claims.LongOperationEnd : Prop :=
  ∀ (s : State) (ok : BitVec 42) (b : Busy) (e : Env), s.round.busy = some b → b.letter = some e →
    (b.op = 1 ∨ b.op = 3 ∨ b.op = 4 ∨ b.op = 6 → ∃ t, exec (.longOperationEnd ok) s = .next t ∧ t.round.busy = none
        ∧ (streamOf t e).expected = e.seq + 1)
    ∧ (b.op = 1 → StnOk s → ∃ t, exec (.longOperationEnd ok) s = .next t
        ∧ fld t F.DRAM_STAT_RETRAIN_FAIL = 15 - ok.toNat % 16
        ∧ fld t F.DRAM_STAT_TRAINED = fld s F.DRAM_STAT_TRAINED ||| ok.toNat % 16)
    ∧ (b.op = 4 → ∃ t, exec (.longOperationEnd ok) s = .next t ∧ t.therm.pending = some (other s.therm.bootSlot)
        ∧ t.therm.tries = 0 ∧ t.therm.slots[other s.therm.bootSlot] = some (fwSlotOf b.image)
        ∧ t.therm.bootSlot = s.therm.bootSlot)

/-- HANDOVER: mode 0, and mode 1 without a running job, hand over at once, the outcome waiting, when the twin is
eligible and no hamper is unacknowledged; without that they are declined and counted. Mode 1 during a job arms, mode 2
cancels. -/
def Obligations.HandoverLetters : Prop :=
  ∀ (s : State) (e : Env) (m : Fin 2),
    let pl : List Byte := [BitVec.ofNat 8 m.val, 0, 0, 0]
    let no : List Byte := [2, 0, 0, 0]
    (LetterReady 0x22 s e pl → isActive s = true → s.tho.ho = .no → (m = 0 ∨ jobRuns s = false) →
      (twinEligible s = true → s.twin.sent = [] →
        ∃ s', s'.tho.ho = .due ∧ s'.tho.letters = s.tho.letters ++ [e] ∧ LeadsTo (.handover e pl) s e pl s'
          ∧ (m = 0 → LeadsTo (.handoverNow e) s e pl s') ∧ (m = 1 → LeadsTo (.handoverArm e) s e pl s'))
      ∧ (twinEligible s = false → ∃ s', s'.tho.ho = .no ∧ (slotGet s' 249).isOpen = true
          ∧ Answers (.handover e pl) s e pl s' Ans.done))
    ∧ (LetterReady 0x22 s e pl → m = 1 → jobRuns s = true →
      let s' := { taken s e pl with tho := { s.tho with armed := true } }
      Answers (.handover e pl) s e pl s' Ans.done ∧ Answers (.handoverArm e) s e pl s' Ans.done)
    ∧ (LetterReady 0x22 s e no →
      let s' := { taken s e no with tho := { s.tho with armed := false } }
      Answers (.handover e no) s e no s' Ans.done ∧ Answers (.handoverCancel e) s e no s' Ans.done)

/-- The ring management letters are answered at once and in no sequence: ENUMERATE with the die identity, the
addresses and the role, ASSIGN by taking the addresses when the die identity is this device's, with the pair-mismatch
alarm where that makes a mismatch, and by silence when it is not (a standby may also send a postcard, R332), LINK_STATUS and STATUS with their words. -/
def Sys2Proof.Claims.RingLetters : Prop :=
  ∀ (s : State) (e : Env) (pl : List Byte) (d p : Byte),
    (RingReady 0x40 s e pl → pl = [] → ∃ t a, exec (.enumerate e pl) s = .next t ∧ t = answerNow (taken s e pl) e a
        ∧ a.code = 0 ∧ a.data.length = 20 ∧ a.data.take 8 = leBytes 8 s.therm.dieId.toNat ∧ a.data[8]? = some (ownSrc s))
    ∧ (RingReady 0x41 s e pl → pl = [d, p, 0, 0] ++ leBytes 8 s.therm.dieId.toNat → d.toNat ≤ 0x3F → p.toNat ≤ 31 →
      let u := answerNow (alarmMismatch (pairMismatch s)
        { taken s e pl with therm := { s.therm with devAddr := some d, pair := some p } }) e Ans.done
      (s.twin.role ≠ .standby → exec (.assign e pl) s = .next u)
      ∧ (s.twin.role = .standby → ∃ t, exec (.assign e pl) s = .next t ∧ t.therm = u.therm
          ∧ (selfEligible s = selfEligible u → t = u)))
    ∧ (RingReady 0x41 s e pl → pl.length = 12 → leField pl 4 8 ≠ s.therm.dieId.toNat →
      (s.twin.role ≠ .standby → exec (.assign e pl) s = .next (taken s e pl))
      ∧ (s.twin.role = .standby → ∃ t, exec (.assign e pl) s = .next t ∧ t.therm = s.therm))
    ∧ (RingReady 0x42 s e pl → pl = [] → exec (.linkStatus e pl) s = .next (answerNow (taken s e pl) e
        (Ans.result (portStatus s s.round.east 0 ++ portStatus s s.round.west 1))))
    ∧ (RingReady 0x43 s e pl → pl = [] →
      exec (.status e pl) s = .next (answerNow (taken s e pl) e (Ans.result (leBytes 4 (scStatus (taken s e pl)).toNat))))

/-- The resident's routines by CALL: each takes exactly its words, and has the effect of R284, R321, R322, R371, R511
and R525 when its conditions hold; an unknown routine fails with 0x1D. -/
def Sys2Proof.Claims.Routines : Prop :=
  ∀ (s : State) (e : Env) (args : List Word) (n : Fin 4) (a b c : Word),
    let pl := fun r : Nat => callBytes r args
    let at' := fun r : Nat => taken s e (callBytes r args)
    let same := fun (c : Instr) (r : Nat) (s' : State) (x : Ans) =>
      Answers c s e (pl r) s' x ∧ Answers (.call e (pl r)) s e (pl r) s' x
    let i : Nat := n.val
    (LetterReady 0x08 s e (pl 0x0100) → args = [BitVec.ofNat 32 i, a] → fld s (F.SIGHT_CAM_STAT_LINK n) ≠ 0 →
      LeadsTo (.camRead e args) s e (pl 0x0100)
        (pushOps (waitCall (at' 0x0100) e 0x0100 args) n [.routine true a 0]))
    ∧ (LetterReady 0x08 s e (pl 0x0101) → args = [BitVec.ofNat 32 i, a, b] → fld s (F.SIGHT_CAM_STAT_LINK n) ≠ 0 →
      LeadsTo (.camWrite e args) s e (pl 0x0101)
        (pushOps (waitCall (at' 0x0101) e 0x0101 args) n [.routine false a b]))
    ∧ (LetterReady 0x08 s e (pl 0x0200) → args = [a, b] → 1 ≤ a.toNat → a.toNat ≤ 50 → jobDeclared s = false →
      let r := scanApply (at' 0x0200) a.toNat (b.getLsbD 0)
      same (.hltScanApply e args) 0x0200 r.1 (resultWords [BitVec.ofNat 32 r.2.1, BitVec.ofNat 32 r.2.2]))
    ∧ (LetterReady 0x08 s e (pl 0x0201) → args = [a, b, c, BitVec.ofNat 32 i] → 1 ≤ b.toNat → b.toNat ≤ 256 →
      c.toNat ≤ 4 → a.toNat + b.toNat ≤ 327680 → b.toNat ≤ lqFree s →
      let r := hltReset (at' 0x0201) a.toNat b.toNat c.toNat (decide (i % 2 = 1))
      same (.hltReset e args) 0x0201 r.1 (resultWords (if jobRuns s then [BitVec.ofNat 32 r.2] else [])))
    ∧ (LetterReady 0x08 s e (pl 0x0300) → args = [a, b] → 1 ≤ a.toNat → a.toNat ≤ 5 → b.toNat ≤ claimTop a.toNat →
      ∃ w : Word, same (.claimRead e args) 0x0300 (at' 0x0300) (resultWords [w])
        ∧ ∀ k : Fin 7, w.getLsbD k.val = hasClaim s (Fin.castSucc k) a.toNat b.toNat)
    ∧ (LetterReady 0x08 s e (pl 0x0400) → args.length = 13 → args.head? = some (BitVec.ofNat 32 i) → n ≠ 0 →
      jobDeclared s = false → s.therm.keyState[n] = 0 → ∃ s', same (.keyEnroll e args) 0x0400 s' Ans.done
        ∧ s'.therm.keyState[n] = 1 ∧ s'.therm.csRequired = true ∧ s'.therm.keyDigest[n].length = 48)
    ∧ (LetterReady 0x08 s e (pl 0x0401) → args = [BitVec.ofNat 32 i] → n ≠ 0 → jobDeclared s = false →
      s.therm.keyState[n] ≠ 0 → bootSignedBy s n = false →
      ∃ s', same (.keyRevoke e args) 0x0401 s' Ans.done ∧ s'.therm.keyState[n] = 2)
    ∧ (LetterReady 0x08 s e (pl 0x0402) → args = [BitVec.ofNat 32 i] → i ≤ 1 → jobDeclared s = false →
      same (.pairRestart e args) 0x0402 { at' 0x0402 with boot := { s.boot with restartDue := some i } } Ans.done)
    ∧ (LetterReady 0x08 s e (pl 0x0500) → args = [1, a, b] → isActive s = true → s.twin.joined = true →
      peerLocal a.toNat = true → immediateOk a.toNat = true →
      ∃ s', LeadsTo (.peerWrite e args) s e (pl 0x0500) s' ∧ s'.twin.bseqOut = s.twin.bseqOut + 1
        ∧ s'.round.calls = s.round.calls ++ [(e, 0x0500, args ++ [s.twin.bseqOut + 1])]
        ∧ Out.bulk (.peerWrite [(a.toNat, b)]) 0 1 ∈ s'.out)
    ∧ (LetterReady 0x08 s e (pl 0x0600) → args.length ≤ 14 →
      Answers (.call e (pl 0x0600)) s e (pl 0x0600) (at' 0x0600) (Ans.refuse 0x1D 0))

/-- The waits of routines end: a camera's after 10 ms with 0x1D, 3, and a PEER_WRITE's after 1 ms with 0x1D, 4; with
none waiting a late arrival is counted. The time-outs are the sender's word (log entry 3). -/
def Sys2Proof.Claims.RoutineTimeouts : Prop :=
  ∀ (s : State) (n : Fin 4) (c : Env × Nat × List Word),
    (camCall s n = some c → ∃ t, exec (.camRoutineTimeout n) s = .next t ∧ t.round.calls = s.round.calls.erase c
        ∧ (streamOf t c.1).expected = c.1.seq + 1 ∧ (slotGet t 28).isOpen = true)
    ∧ (camCall s n = none → exec (.camRoutineTimeout n) s = .next (lateWin s))
    ∧ (s.round.calls = [c] → c.2.1 = 0x0500 → ∃ t, exec .peerWriteTimeout s = .next t ∧ t.round.calls = []
        ∧ (streamOf t c.1).expected = c.1.seq + 1 ∧ (slotGet t 28).isOpen = true)
    ∧ (s.round.calls = [] → exec .peerWriteTimeout s = .next (lateWin s))

/-- A kind outside the table is BAD_LETTER in its sequence, or with no sequence in the class of ring management; an
inactive device with a twin answers NOT_ACTIVE to what it does not execute; a busy one answers BUSY and executes
nothing. That ring management passes its header checks first is log entry 32. -/
def Obligations.RefusedLetters : Prop :=
  ∀ (s : State) (e : Env) (pl : List Byte) (b : Busy), s.boot.phase = .ready → s.tho.stopped = false →
    (e, pl) ∈ s.round.inbox → (s.round.busy = none → letterTurn s e pl = true) → knownKind e.kind = false →
    (s.round.busy = none → e.cls = 3 → e.stream = 15 →
      exec (.unknownLetterKind e pl) s = .next (deadLetter (answerNow (taken s e pl) e (Ans.refuse 0x10 0)) e pl 0x10 0)
        ∨ (ringKind e.kind = true ∧ ∃ t, exec (.unknownLetterKind e pl) s = .next t ∧ (slotGet t 15).isOpen = true))
    ∧ (s.round.busy = some b → exec (.unknownLetterKind e pl) s = .next (bounceBusy (taken s e pl) e b))
    ∧ (s.round.busy = none → e.cls ≠ 3 → e.stream ≠ 15 → (streamOf s e).isOpen = true →
        (streamOf s e).expected = e.seq →
      (headerRefusal s e = none → Answers (.unknownLetterKind e pl) s e pl (taken s e pl) (Ans.refuse 0x10 0))
      ∧ (isActive s = false → solo s = false →
          Answers (.unknownLetterKind e pl) s e pl (taken s e pl) (Ans.refuse 0x12 0)))

/-! ## Round time (R130, R131, R393 to R395) -/

/-- The time letters, once the time bases have come to the latch that each names: a SYNC taken sets the time of the last
SYNC and the interval, and the first one steps TB-PRESS by its offset and enters ACQUIRE; DELAY_REQ is answered out of
its port with the residence; DELAY_REQ_SEND keeps the two egress latches; DELAY_RESP sets that port's link delay; a class
and stream that do not belong together are refused. -/
def Sys2Proof.Claims.TimeLetters : Prop :=
  ∀ (s : State) (e : Env) (pl : List Byte) (inc : Word) (t t' : Nat) (t1 : Int),
    let at1 := advanceTo s t
    let at2 := advanceTo s (max t t')
    (RingReady 0x48 at1 e pl → pl.length = 20 → StnOk at1 →
      ∃ u, exec (.sync e pl t inc) s = .next u ∧ u.clk.lastSync = at1.clk.now
        ∧ u.clk.period = BitVec.ofNat 32 (leNat ((pl.drop 16).take 4)) ∧ u.round.inbox = at1.round.inbox.erase (e, pl)
        ∧ (fld at1 F.TIME_TB_SYNC_STAT_STATE = 0 → fld u F.TIME_TB_SYNC_STAT_STATE = 1
            ∧ u.clk.step[(0 : Fin 4)] = at1.clk.step[(0 : Fin 4)]
                + BitVec.ofInt 32 (roundNs (syncOffset at1 e.west pl (pressLatch at1 t))) ∧ u.clk.acquired = true))
    ∧ (RingReady 0x49 at1 e pl → pl = leBytes 8 0 →
      exec (.delayReq e pl t' t) s = .next
        (sendEnv (taken at1 e pl) e.west (timeEnv at1 e.west 0x4A) (leBytes 8 (residence at1 t' t))))
    ∧ (s.boot.phase = .ready → ∃ u, exec (.delayReqSend t t') s = .next u
        ∧ u.clk.reqEast = some (pressLatch at2 t) ∧ u.clk.reqWest = some (pressLatch at2 t'))
    ∧ (RingReady 0x4A at1 e pl → pl.length = 8 → e.west = false → at1.clk.reqEast = some t1 →
      ∃ u, exec (.delayResp e pl t) s = .next u ∧ u.clk.delayEast = (pressLatch at1 t - t1 - leNat pl) / 2
        ∧ u.clk.delayWest = at1.clk.delayWest ∧ u.clk.reqEast = none)
    ∧ (RingReady 0x4A at1 e pl → pl.length = 8 → e.west = true → at1.clk.reqWest = some t1 →
      ∃ u, exec (.delayResp e pl t) s = .next u ∧ u.clk.delayWest = (pressLatch at1 t - t1 - leNat pl) / 2
        ∧ u.clk.delayEast = at1.clk.delayEast ∧ u.clk.reqWest = none)
    ∧ (at1.boot.phase = .ready → at1.round.busy = none → at1.tho.stopped = false → e.kind = 0x48 →
      (e, pl) ∈ at1.round.inbox → letterTurn at1 e pl = true → e.cls ≠ 3 → e.stream = 15 →
      exec (.sync e pl t inc) s = .next (refuseUnsequenced (taken at1 e pl) e pl))


/-! ## The feed and the customer's compressor (R132 to R174) -/

/-- A LINE of an announced page is taken once; with its partner held, the coded pair goes to its place in the store. A
PAGE or REPLAY that follows in number and first line is announced. A LIB row with valid blocks is written to its
library slot. JOB_END fixes the number of lines. A frame without room, with a block of another type, or with a bad CRC, changes a counter only; a standby
tells a change of its eligibility by a postcard (R332). -/
def Sys2Proof.Claims.FeedFrames : Prop :=
  ∀ (s : State) (f : FeedFrame) (next : Bool) (j : JobRun) (p : Page) (y : List Nat) (m : Fin 3),
    let c := f.number.toNat
    let first := leField f.payload 0 4
    let count := leField f.payload 4 4
    let d := j.decl
    let announced := fun (t : State) (slot : Option Nat) => ∃ j' q, jobOf t next = some j'
      ∧ j'.pages.getLast? = some q ∧ j'.pages.length = j.pages.length + 1 ∧ q.number = c ∧ q.first = first
      ∧ q.count = count ∧ q.slot = slot ∧ j'.nextFirst = first + (count + 1) / 2 * 2 ∧ j'.lastPage = some c
    let follows := (∀ n, j.lastPage = some n → n < c) ∧ first = j.nextFirst ∧ count ≠ 0
    (GoodFrame s f next j 1 → j.taken.contains c = false → m ≠ 2 →
      j.pages.find? (fun p => p.recorded && p.slot.isNone && decide (p.first ≤ c) && decide (c < p.first + p.count))
        = some p →
      ∃ t j', exec (.feedLine f m) s = .next t ∧ jobOf t next = some j' ∧ j'.taken = j.taken ++ [c]
        ∧ j'.pages = j.pages
        ∧ (m = 0 → c % 2 = 1 → j.held.find? (fun h => h.1 == c - 1) = some (c - 1, y) →
            entryBusy s next j (c / 2) = false → StnOk s →
            t.dram = (dramWrite s (storeAddr d (c / 2) 0) (((List.range (bprOf d)).map
              (blockOf d y (lineSamples d f.payload))).flatMap (encodeBlock d.depth d.ratio))).dram))
    ∧ (GoodFrame s f next j 2 → follows → ∃ t, exec (.feedPage f) s = .next t ∧ announced t none)
    ∧ (GoodFrame s f next j 3 → follows → ∃ t, exec (.feedReplay f) s = .next t ∧ announced t (some f.slot.toNat))
    ∧ (GoodFrame s f next j 4 → f.slot.toNat < d.libSlots → c < d.libSlotRows → slotReplayed s f.slot.toNat = false →
      (libBlocks d f.payload).all (blockValid d.depth d.ratio) = true →
      ∃ t, exec (.feedLib f) s = .next t
        ∧ t.dram = (dramWrite s (libAddr d f.slot.toNat c 0) (f.payload.take (bprOf d * blkOf d))).dram
        ∧ (libMatches s d = true → (f.slot.toNat, c) ∈ t.jobs.libRows))
    ∧ (GoodFrame s f next j 5 → j.jobEnd = none → announcedLines j ≤ first → (next = false → first ≠ 0) →
      lastOf { j with jobEnd := some first } = none →
      ∃ t j', exec (.feedJobEnd f) s = .next t ∧ jobOf t next = some j' ∧ j' = { j with jobEnd := some first })
    ∧ (f.okBlocks = true → f.full = true → exec (.feedLine f m) s = .next (told s (discardOther s)))
    ∧ (f.okBlocks = false ∨ (f.full = false ∧ crc32c (feedBytes f) ≠ f.crc) →
        exec (.feedLine f m) s = .next (told s (discardCrc s)) ∧ exec (.feedPage f) s = .next (told s (discardCrc s)))

/-- At a deadline that W has reached a complete line is decided on time, whatever the deadline said (R147), and a tie counts in MB_LATEWIN
(R367); an incomplete one is late: it is counted, and feed-late is raised. That a line is decided once is the
model's reading (log entry 41), and the tie is an operand (log entry 84). -/
def Sys2Proof.Claims.FeedDeadline : Prop :=
  ∀ (s : State) (c l : Nat) (tie : Bool) (j : JobRun) (p : Page), s.jobs.running = some j → j.decided.contains c = false →
    pageOfLine j c = some p → printLineOf j.decl p c = some l → c < p.first + p.count → j.late.contains c = false →
    deadlinePassed s (firstReader s j.decl p c l) = true →
    (lineComplete s j p c = true → exec (.feedDeadline c tie) s = .next (told s { (if tie then lateWin s else s) with
        jobs := { s.jobs with running := some { j with decided := j.decided ++ [c] } } }))
    ∧ (lineComplete s j p c = false → j.decl.flags ≠ 1 → j.halt = none → StnOk s →
      ∃ t j', exec (.feedDeadline c tie) s = .next t ∧ t.jobs.running = some j' ∧ j'.late = j.late ++ [c]
        ∧ j'.decided = j.decided ++ [c] ∧ countedUp s t F.FEED_LATE 1 ∧ (slotGet t 30).isOpen = true)

/-- GO starts the exact-mode slot with the latched parameters, DIR as commanded; while a job runs it is rejected. The
job then runs to its end or its stop; two failed verifications end it with VERIFY_FAULT. PKR_JOB_STOP runs the job
to its stop in one command (log entry 43); the failed verifications are an operand (log entry 84). -/
def Sys2Proof.Claims.CompressorSlot : Prop :=
  ∀ (s : State) (v : Word) (j : PkrJob), StnOk s →
    let s1 := fun dir : Word => setFld (setFld { setStnWord s F.PKR_DIR.addr ((v &&& 0x3C) ||| dir) with
      pkr := { s.pkr with stopped := none } } F.PKR_IN_DONE 0) F.PKR_OUT_DONE 0
    let starts := fun (c : Instr) (dir : Word) => pkrBadParam (s1 dir) = false →
      ∃ t k, exec c s = .next t ∧ t.pkr.run = some k ∧ k.dir = decide (dir = 2) ∧ k.hist = [] ∧ k.final = v.getLsbD 5
        ∧ k.src = fld s F.PKR_SRC_LO + 2 ^ 32 * fld s F.PKR_SRC_HI ∧ k.srcLen = fld s F.PKR_SRC_LEN
        ∧ k.dst = fld s F.PKR_DST_LO + 2 ^ 32 * fld s F.PKR_DST_HI ∧ k.dstLen = fld s F.PKR_DST_LEN
        ∧ fld t F.PKR_STATE = 1 ∧ fld t F.PKR_IN_DONE = 0 ∧ fld t F.PKR_OUT_DONE = 0 ∧ t.dram = s.dram
    (s.pkr.run = none → v.getLsbD 2 = false → v.getLsbD 3 = false →
      starts (.pkrCompress v) 0 ∧ starts (.pkrDecompress v) 2)
    ∧ (s.pkr.run = some j → exec (.pkrCompress v) s = .next (setFld s F.PKR_REJECT 1)
        ∧ exec (.pkrDecompress v) s = .next (setFld s F.PKR_REJECT 1))
    ∧ (s.pkr.run = some j → fldB s F.PWR_STAT_THROTTLE = false → j.save = false →
      let r := pkrRecords [] (j.srcLen + 1) 0 s j
      (r.2.2.1 = false → exec (.pkrJobStop []) s = .next (pkrEnd r.1 r.2.2.2))
      ∧ (r.2.2.1 = true → exec (.pkrJobStop []) s
          = .next { pkrStat r.1 2 r.2.2.2 with pkr := { run := none, stopped := some r.2.1 } })
      ∧ (j.dir = false → fld s F.PKR_IN_DONE < j.srcLen → s.poison = [] →
          ∃ t, exec (.pkrJobStop [(0, true)]) s = .next t ∧ t.pkr.run = none ∧ fld t F.PKR_RESULT = 4
          ∧ fld t F.PKR_STATE = 3 ∧ (slotGet t 33).isOpen = true ∧ countedUp s t F.PKR_VERIFY_FAULT 1
          ∧ countedUp s t F.PKR_VERIFY_RETRY 1 ∧ fld t F.PKR_IN_DONE = fld s F.PKR_IN_DONE))

/-- A stopped job: what pkrRecords does with one record of input, compressing: its bytes are coded and written, the
totals count them (R168). The coded bytes rest on the free choice of tokens (log entry 12). -/
def Sys2Proof.Claims.CompressorRecord : Prop :=
  ∀ (s : State) (j : PkrJob), StnOk s → MemOk s → s.poison = [] → s.single = [] → j.dir = false → j.final = true →
    fld s F.PKR_IN_DONE = 0 → fld s F.PKR_OUT_DONE = 0 → 0 < j.srcLen → j.srcLen ≤ 256 →
    let rec1 := encodeRecord (dramBytes s j.src j.srcLen) j.hist true
    rec1.length ≤ j.dstLen → rec1.length < 2 ^ 32 →
    let r := pkrRecords [] (j.srcLen + 1) 0 s j
    r.2.2.1 = false ∧ r.2.2.2 = 0 ∧ fld r.1 F.PKR_IN_DONE = j.srcLen ∧ fld r.1 F.PKR_OUT_DONE = rec1.length
      ∧ (∀ i (h : i < rec1.length), memGet r.1.dram (j.dst + i) = rec1[i])
      ∧ ∀ a, (a < j.dst ∨ j.dst + rec1.length ≤ a) → memGet r.1.dram a = memGet s.dram a

/-! ## Screening and placement (R175 to R239) -/

/-- A row decides its next line, inside its fetch window and once the deadline handler has decided the contone lines
that it reads: the codes of R185 to R195 go into its pod's line buffer, and the line it decides next is the one after; a
parity error in map or thresholds raises its alarm. Outside the window it waits. The parity errors are operands (log
entry 84). -/
def Sys2Proof.Claims.RowLineDecision : Prop :=
  ∀ (s : State) (p : Fin 24) (r : Fin 8) (l : Nat) (parity thrs : List Nat) (j0 j : JobRun),
    let leads := leadingRow s = some (p.val, r.val)
    let s1 := if leads ∧ l = s.scr.leadLine then beginLine s l
      else if recHolds s j0.decl.jobId s.sight.recStart l then s else openRecord s l
    let codes := rowCodes s1 (mkView s1 j l parity thrs) p r
    drives s = true → fitted s p = true → r.val < rowsOf s p → l = s.scr.decidedTo[rowIx p r] →
    (leads ∨ l < s.scr.leadLine) → s.jobs.running = some j0 →
    (fetchOpen s p r l = false ∨ linesDecided s j0 l = false →
      exec (.rowLineDecision p r l parity thrs) s = .next s)
    ∧ (fetchOpen s p r l = true → linesDecided s j0 l = true → s1.jobs.running = some j → bufferRoom s1 p codes = true →
      ∃ t, exec (.rowLineDecision p r l parity thrs) s = .next t ∧ t.scr.decidedTo[rowIx p r] = l + 1
        ∧ (findLine s1 p r l = none → s1.plc2.nextFire[rowIx p r] ≤ l →
            (findLine t p r l).map (fun x => x.codes) = some codes)
        ∧ (parity ≠ [] ∨ thrs ≠ [] → (slotGet t 45).isOpen = true))

/-- A row's trigger passes: the row goes on to its next line, its row-line leaves the line buffer, and no other row's
next line changes; when the row-line was never decided, MISSED counts it, unless its trigger falls before the first FIRE
that went to the pod in this role, or before the fence of a forced take-over. -/
def Sys2Proof.Claims.RowTrigger : Prop :=
  ∀ (s : State) (p : Fin 24) (r : Fin 8) (now : Nat) (j : JobRun),
    let s1 := plcTime s now
    let l := s.plc2.nextFire[rowIx p r]
    s.jobs.running = some j → fitted s p = true → r.val < rowsOf s p → rowFires s j l = true →
    fireTarget s1 p r l ≤ wAt s1 now → j.halt = none → lastOf j = none →
    ∃ t, exec (.rowTrigger p r now) s = .next t ∧ t.plc2.nextFire[rowIx p r] = l + 1
      ∧ (∀ i : Fin 192, i ≠ rowIx p r → t.plc2.nextFire[i] = s.plc2.nextFire[i])
      ∧ findLine t p r l = none
      ∧ (StnOk s → isActive s = true → podUp s p = true → hvOn s p = true → beforeOurs s1 p now = false →
          findLine s p r l = none → countedUp s t F.PLC_MISSED 1)
      ∧ (isActive s = true → beforeOurs s1 p now = true → findLine s p r l = none →
          fld t F.PLC_MISSED = fld s F.PLC_MISSED)

/-- W reaches a fire line boundary: the boundary moves on, SC_LINE is the line, every steward's event 0 is set, DMA
request line 8 is asserted, and a leading pair's active sends LINE_SYNC_OUT.
What the slack loop measures is an operand (log entry 84). -/
def Obligations.FireLineBoundary : Prop :=
  ∀ (s : State) (now : Nat) (slack : SlackMeas) (replica : Int),
    let s1 := plcTime s now
    jobRuns s = true → target s1 s.plc.boundary ≤ wAt s1 now →
    ∃ t, exec (.fireLineBoundary now slack replica) s = .next t ∧ t.plc.boundary = s.plc.boundary + 1
      ∧ t.plc.scLine = some s.plc.boundary
      ∧ (s.tho.ho ≠ .due → (∀ k : Fin 8, (stw t k).evpend.getLsbD 0 = true) ∧ t.dma.lines.getLsbD 8 = true)
      ∧ (isActive s = true → fld s F.PLC_CTL_SYNC_MODE = 1 → Out.pulse 0 now ∈ t.out)

/-- A counted edge of the web encoder moves COUNT by one, backward with DIR_INVERT or in the other direction, and W
stands at the exact position again; an illegal transition counts no edge, is counted itself and freezes S; a level that
has not held for FILTER + 1 samples is not accepted; an index edge latches COUNT; after STOP_US the web stands. No stop
is declared while an encoder fault holds: log entry 46.
How long a level has held is an operand (log entry 84). -/
def Sys2Proof.Claims.WebEncoder : Prop :=
  ∀ (s : State) (showsA showsB : Bool) (heldA heldB now : Nat), alive s = true → StnOk s →
    let n := fld s F.PLC_CTL_FILTER + 1
    let a := if n ≤ heldA then showsA else s.plc.a
    let b := if n ≤ heldB then showsB else s.plc.b
    let d := (quadPhase a b + 4 - quadPhase s.plc.a s.plc.b) % 4
    let forward := (d = 1) ≠ (fldB s F.PLC_CTL_DIR_INVERT = true)
    (d = 1 ∨ d = 3 → ∃ t, exec (.webEdge showsA showsB heldA heldB now) s = .next t ∧ t.plc.a = a ∧ t.plc.b = b
        ∧ (forward → t.plc.count = wrap48 (s.plc.count + 1)) ∧ (¬ forward → t.plc.count = wrap48 (s.plc.count - 1))
        ∧ t.plc.illegal = 0
        ∧ (faultHolds s = false → t.plc.refW = fix (posAt t t.plc.count) ∧ t.plc.refT = now))
    ∧ (heldA < n → heldB < n → d = 0)
    ∧ (d = 0 → ∃ t, exec (.webEdge showsA showsB heldA heldB now) s = .next t ∧ t.plc.count = s.plc.count)
    ∧ (∃ t, exec (.illegalTransition now) s = .next t ∧ t.plc.a = !s.plc.a ∧ t.plc.b = !s.plc.b
        ∧ t.plc.count = s.plc.count ∧ t.plc.illegal = s.plc.illegal + 1 ∧ t.plc.clean = 0
        ∧ countedUp s t F.PLC_ILLEGAL 1 ∧ (s.plc.mode ≠ .stopped → t.plc.mode = .frozen)
        ∧ (jobRuns s = true → (slotGet t 70).isOpen = true))
    ∧ (∃ t, exec (.webIndexEdge now) s = .next t ∧ (fld t F.PLC_INDEX_LO : Int) = s.plc.count % 2 ^ 32
        ∧ (fld t F.PLC_INDEX_HI : Int) = s.plc.count / 2 ^ 32 % 2 ^ 16)
    ∧ (s.plc.encFault = false → s.plc.mode ≠ .stopped → stopDue s now = true → ∃ t, exec (.webStop now) s = .next t
        ∧ t.plc.mode = .stopped ∧ t.plc.speed = 0 ∧ t.plc.refW = fix (wAt (plcTime s now) now))

/-- The end of extrapolation ends the job with reason encoder, and no row fires again (R230). -/
def Sys2Proof.Claims.ExtrapolationEnd : Prop :=
  ∀ (s : State) (now : Nat), jobRuns s = true → s.plc.encFault = true → s.jobs.next = none →
    ∃ t, exec (.extrapolationEnd now) s = .next t ∧ t.plc.mode = .stopped ∧ t.plc.speed = 0
      ∧ (endsJobs s = true → t.jobs.running = none ∧ t.jobs.ended = some .encoder)
      ∧ (endsJobs s = false → t.plc2.noFire = true ∧ t.jobs = s.jobs)

/-- A cue mark on the selected probe and edge, far enough from the last, counts and requests a page start at its own
place plus CUE_DIST and CUE_OFS; the page start compare arms on a point ahead, and fires when W comes within 80
lines of it; one held below it fires after W has been below. A mark outside page mode 1 and a compare that fires outside
page mode 2 count as unused: log entry 47. -/
def Sys2Proof.Claims.PageStarts : Prop :=
  ∀ (s : State) (probe : Fin 4) (falling : Bool) (now : Nat) (v : Word) (wp : Int), StnOk s →
    let s1 := plcTime s now
    (alive s = true → fld s F.PLC_CTL_PAGE_MODE = 1 → fld s F.PLC_CTL_CUE_PROBE = probe.val →
      fldB s F.PLC_CTL_CUE_EDGE = falling →
      (s.plc2.cueW = none → ∃ t, exec (.cueMark probe falling now) s = .next t ∧ t.plc2.cueW = some (wAt s1 now)
          ∧ countedUp s t F.PLC_CUES_ACCEPTED 1
          ∧ (s.jobs.running = none → countedUp s t F.PLC_CUES_UNUSED 1))
      ∧ (∀ c, s.plc2.cueW = some c → wAt s1 now - c < (fld s F.PLC_CUE_MIN : Int) * 64 →
          exec (.cueMark probe falling now) s = .next s1))
    ∧ (alive s = true → fld s F.PLC_CTL_PAGE_MODE ≠ 1 → fld s F.PLC_CTL_CUE_PROBE = probe.val →
      fldB s F.PLC_CTL_CUE_EDGE = falling → s.plc2.cueW = none →
      ∃ t, exec (.cueMark probe falling now) s = .next t ∧ t.plc2.cueW = some (wAt s1 now)
        ∧ countedUp s t F.PLC_CUES_ACCEPTED 1 ∧ countedUp s t F.PLC_CUES_UNUSED 1)
    ∧ (takesStores s = true → wp = wrap48 (fld s F.PLC_PAGECMP_LO + 2 ^ 32 * ((v.toNat % 2 ^ 16 : Nat) : Int)) →
      (wNow s ≤ wp - 5120 → ∃ t, exec (.pagecmpArm v) s = .next t ∧ t.plc2.cmp = some wp ∧ t.plc2.cmpBelow = true
          ∧ fld t F.PLC_PAGECMP_HI = v.toNat % 2 ^ 16)
      ∧ (wp - 5120 < wNow s → v.getLsbD 16 = true → ∃ t, exec (.pagecmpArm v) s = .next t ∧ t.plc2.cmp = some wp
          ∧ t.plc2.cmpBelow = false))
    ∧ (s.plc2.cmp = some wp → s.plc2.cmpBelow = true → wp - 5120 ≤ wAt s1 now →
      ∃ t, exec (.pageCompareFire now) s = .next t ∧ t.plc2.cmp = none
        ∧ (fld s F.PLC_CTL_PAGE_MODE ≠ 2 → countedUp s t F.PLC_CUES_UNUSED 1))
    ∧ (s.plc2.cmp = some wp → s.plc2.cmpBelow = false → wp - 5120 ≤ wNow s1 →
        exec (.pageCompareFire now) s = .next s1)
    ∧ (s.plc2.cmp = some wp → wNow s1 < wp - 5120 → wAt s1 now < wp - 5120 →
        ∃ t, exec (.pageCompareFire now) s = .next t ∧ t.plc2.cmpBelow = true)

/-- A locked follower moves its grid toward a pulse of the leader by at most 2 sub-lines; unlocked it leaves the grid, and
locks after 64 pulses within 2; more than 32 sub-lines away, or 16 line intervals without a pulse, it has lost the sync.
That a pulse which loses the sync moves nothing is the model's reading (log entry 45). -/
def Sys2Proof.Claims.LineSync : Prop :=
  ∀ (s : State) (now : Nat), StnOk s → fld s F.PLC_CTL_SYNC_MODE = 2 →
    let s1 := plcTime s now
    let w := wAt s1 (now - fld s F.PLC_SYNC_DLY)
    let e := w - nearestTarget s1 w
    (jobRuns s = true → ∃ t, exec (.lineSyncPulse now) s = .next t
      ∧ (fldB s F.PLC_STAT_SYNC_LOCK = true → e.natAbs ≤ 32 →
          target t s.plc.boundary = target s s.plc.boundary + max (-2) (min 2 e))
      ∧ (fldB s F.PLC_STAT_SYNC_LOCK = false → ∀ l, target t l = target s l)
      ∧ (e.natAbs ≤ 2 → t.plc2.lockCount = s.plc2.lockCount + 1
          ∧ (63 ≤ s.plc2.lockCount → fld t F.PLC_STAT_SYNC_LOCK = 1))
      ∧ (2 < e.natAbs → t.plc2.lockCount = 0)
      ∧ (32 < e.natAbs → fld t F.PLC_STAT_SYNC_LOCK = 0 ∧ fld t F.PLC_FAULT_SYNC_LOST = 1
          ∧ (slotGet t 123).isOpen = true))
    ∧ (∃ t, exec .syncPulseMissing s = .next t ∧ fld t F.PLC_STAT_SYNC_LOCK = 0
      ∧ fld t F.PLC_FAULT_SYNC_LOST = 1 ∧ (slotGet t 123).isOpen = true)


/-! ## Pod links (R240 to R276) -/

/-- Enabling a pod link on the active starts its bring-up at the rate that RATE names; while a job is declared the write
is ignored. A wait that ends falls back to rate code 0, or abandons the bring-up with pod-link-fault; an abandoned
one starts again. The wait's end is the sender's word (log entry 3). -/
def Sys2Proof.Claims.PodBringup : Prop :=
  ∀ (s : State) (p : Fin 24), StnOk s →
    (takesStores s = true → isActive s = true → fld s (F.PODL_CTL_RATE p) ≤ 5 → fldB s (F.PODL_CTL_ENABLE p) = false →
      (jobDeclared s = false → ∃ t, exec (.podlEnable p) s = .next t ∧ fldB t (F.PODL_CTL_ENABLE p) = true
          ∧ (link t p).step = .statusAtRate ∧ (link t p).rate = fld s (F.PODL_CTL_RATE p) ∧ podUp t p = false)
      ∧ (jobDeclared s = true → ∃ t, exec (.podlEnable p) s = .next t ∧ fldB t (F.PODL_CTL_ENABLE p) = false
          ∧ fldB t F.PODL_GSTAT_CFG_IGNORED = true ∧ t.pods = s.pods))
    ∧ (drives s = true → (link s p).step = .statusAtRate → ∃ t, exec (.podBringupTimeout p) s = .next t
        ∧ (link t p).step = .statusAtZero ∧ (link t p).rate = 0 ∧ fld t (F.PODL_STAT_FALLBACK p) = 1)
    ∧ (drives s = true → (link s p).step = .statusAtZero ∨ (link s p).step = .rateWritten
        ∨ (link s p).step = .statusAtNew → ∃ t, exec (.podBringupTimeout p) s = .next t
        ∧ (link t p).step = .abandoned ∧ (slotGet t (196 + p.val)).isOpen = true)
    ∧ (wantsUp s p = true → (link s p).step = .abandoned → fld s (F.PODL_CTL_RATE p) ≤ 5 →
      ∃ t, exec (.podBringupRetry p) s = .next t ∧ (link t p).step = .statusAtRate ∧ podUp t p = false)
    ∧ ((link s p).step = .rateWritten → ∃ t, exec (.podRateSwitch p) s = .next t ∧ (link t p).step = .statusAtNew
        ∧ (link t p).rate = fld s (F.PODL_CTL_RATE p) ∧ t.stn = s.stn)

/-- STATUS fills the pod's stations, and on a standby nothing else; on the active it ends the wait of step 1 or 2, and
raises the epoch above one that the pod holds from before, unless the pod shows this device's own port and epoch (log
entry 93). READ_RESP stores an identity word and asks for the next one;
ECHO_RESP takes a measurement, and the eighth brings the link up; a periodic ECHO leaves while the link is up. A frame
that fails a check is discarded and counted, and the eighth in a row loses the port.
Whether a frame fails is an operand (log entry 84). -/
def Sys2Proof.Claims.PodAnswers : Prop :=
  ∀ (s : State) (p : Fin 24) (st : PodStatus) (addr tag : BitVec 16) (v turn : Word) (k now t0 : Nat), StnOk s →
    let heard := fun q : Fin 24 => if q = p then { link s p with bad := 0 } else link s q
    (s.boot.phase = .ready → isActive s = false → ∃ t, exec (.podStatus p st false) s = .next t
        ∧ fld t (F.PODL_EPOCH p) = st.eacc.toNat ∧ fld t (F.PODL_DROPS p) = st.drops.toNat
        ∧ fldB t (F.PODL_STAT_LOCK p) = true ∧ fldB t (F.PODL_STAT_HV p) = st.hv
        ∧ fldB t (F.PODL_STAT_INHIBIT p) = st.inhibit ∧ t.twin = s.twin
        ∧ (∀ q : Fin 24, link t q = heard q) ∧ t.dram = s.dram)
    ∧ (s.boot.phase = .ready → isActive s = true → podUp s p = false → solo s = false →
        (link s p).accepted = false ∨ st.eacc.toNat ≤ s.twin.epoch.toNat →
        (link s p).step = .statusAtRate ∨ (link s p).step = .statusAtZero →
      ∃ t, exec (.podStatus p st false) s = .next t ∧ (link t p).step = .readId 0 ∧ fld t (F.PODL_EPOCH p) = st.eacc.toNat
        ∧ ((link s p).accepted = false → podTaken s st = false → s.twin.epoch.toNat ≤ st.eacc.toNat →
            t.twin.epoch = st.eacc + 1)
        ∧ (podTaken s st = true → t.twin.epoch = s.twin.epoch ∧ (link t p).accepted = true))
    ∧ (k < 6 → (link s p).step = .readId k → tag + 1 = (link s p).tag → addr = BitVec.ofNat 16 (4 * k) →
      ∃ t, exec (.readResp p tag addr v false) s = .next t ∧ fld t (F.PODL_ID p k) = v.toNat
        ∧ (link t p).step = .readId (k + 1) ∧ (link t p).tag = (link s p).tag + 1)
    ∧ ((link s p).step = .readId 6 → tag + 1 = (link s p).tag → addr = 24 → fldB s (F.PODL_STAT_FALLBACK p) = false →
      ∃ t, exec (.readResp p tag addr v false) s = .next t ∧ fld t (F.PODL_ID p 6) = v.toNat ∧ (link t p).step = .echo 0
        ∧ (link t p).echo = some ((link s p).tag, s.clk.now))
    ∧ (let m : Int := (now : Int) - t0 - turn.toNat
      (link s p).step = .echo k → (link s p).echo = some (tag, t0) → delayOutlier (link s p) m = false →
      ∃ t, exec (.echoResp p tag turn now false) s = .next t ∧ (link t p).meas = (m :: (link s p).meas).take 8
        ∧ (link t p).accepted = true ∧ (link t p).answered ≠ none
        ∧ (k < 7 → (link t p).step = .echo (k + 1)) ∧ (7 ≤ k → (link t p).step = .idle ∧ podUp t p = true))
    ∧ (drives s = true → podUp s p = true → ∃ t, exec (.echoMeasure p now) s = .next t
        ∧ (link t p).echo = some ((link s p).tag, now) ∧ (link t p).tag = (link s p).tag + 1)
    ∧ (s.boot.phase = .ready → (link s p).bad ≠ 7 → ∃ t, exec (.podStatus p st true) s = .next t
        ∧ exec (.readResp p tag addr v true) s = .next t ∧ (link t p).bad = (link s p).bad + 1
        ∧ countedUp s t (F.PODL_RX_CRC p) 1 ∧ (∀ q : Fin 24, q ≠ p → link t q = link s q) ∧ t.twin = s.twin)
    ∧ (s.boot.phase = .ready → (link s p).bad = 7 → podUp s p = true → ∃ t, exec (.podStatus p st true) s = .next t
        ∧ exec (.readResp p tag addr v true) s = .next t ∧ (link t p).bad = 0 ∧ podUp t p = false
        ∧ fld t (F.PODL_STAT_LOCK p) = 0 ∧ countedUp s t (F.PODL_RX_CRC p) 1
        ∧ (slotGet t (196 + p.val)).isOpen = true)

/-- LINE_DATA: the segments of a row-line that hold a code leave in rising order, at most 16 to a frame, in the order of
the row-lines' triggers; one whose parity fails is not sent and cancels the row-line. FIRE: two copies leave with their
own D, at most 4.0 µs ahead of the trigger, CANCEL when the row-line is cancelled or the second copy comes too late.
POD_UNDERRUN, where data is missing at the latest departure that keeps the second copy's D at 256 (log entry 125): two
copies leave in place of it, and it is counted.
A trigger predicted beyond the next count is log entry 113. -/
def Obligations.PodLineFrames : Prop :=
  ∀ (s : State) (p : Fin 24) (r : Fin 8) (l n b now tf : Nat) (x : RowLine),
    let sent := fun (s : State) (type : Byte) (pl : List Byte) => Out.pod p (podFrame type (pairEpoch s) pl)
    let after := fun t : State => findLine t p r l
    let gs := (unsent x).take n
    (findLine s p r l = some x → allSent x = false → x.done = false → canSend s p = true → registerFree s x = true →
      dataTurn s x = true →
      (∃ t, exec (.lineDataSend p r l n none) s = .next t
        ∧ t.out = s.out ++ (lineDataFrames x gs).map (sent s 0x02)
        ∧ after t = some { x with sentSegs := x.sentSegs + gs.length } ∧ t.stn = s.stn)
      ∧ (b ∈ gs → ∃ t, exec (.lineDataSend p r l n (some b)) s = .next t
        ∧ t.out = s.out ++ (lineDataFrames x (gs.takeWhile (fun g => g != b))).map (sent s 0x02)
        ∧ (after t).map (fun y => (allSent y, y.cancel)) = some (true, true)
        ∧ (slotGet t (46 + p.val)).isOpen = true))
    ∧ (findLine s p r l = some x → dataTurn s x = false → exec (.lineDataSend p r l n none) s = .next s)
    ∧ (let s1 := plcTime s now
      let two := triggered s1 x tf
      let fill := segCount two.1 p
      let cancel := two.2.cancel || decide ((fireDs two.1 p r l false fill tf now).2 < 256)
      let ds := fireDs two.1 p r l cancel fill tf now
      findLine s p r l = some x → fireWaits s1 x = true → triggerOf s1 x = some tf →
      (fireTurn s1 x = false ∨ now + fireAhead < tf → exec (.fireSend p r l now) s = .next s1)
      ∧ (fireTurn s1 x = true → tf ≤ now + fireAhead →
        ∃ t, exec (.fireSend p r l now) s = .next t
          ∧ t.out = s.out ++ [sent s 0x03 (firePayload two.1 r l cancel fill (clampD ds.1)),
              sent s 0x03 (firePayload two.1 r l cancel fill (clampD ds.2))]
          ∧ (after t).map (fun y => (y.done, y.cancel)) = some (true, cancel)))
    ∧ (let s1 := plcTime s now
      x = (findLine s p r l).getD ⟨p, r, l, [], 0, none, false, false⟩ →
      dataMissing s1 p r l = true → mayFire s1 p r l = true → fitted s p = true →
      r.val < rowsOf s p → triggerOf s1 x = some tf → beforeFence s1 p tf = false →
      let last := lastDeparture s1 p r l x.cancel ((unsent x).headD 0) tf now = true
      (last → ∃ t, exec (.podUnderrun p r l now) s = .next t ∧ t.out.length = s.out.length + 2
        ∧ (after t).map (fun y => (y.done, y.codes)) = some (true, []) ∧ (slotGet t (148 + p.val)).isOpen = true
        ∧ (StnOk s → countedUp s t (F.PODL_UNDERRUN p) 1))
      ∧ (¬ last → exec (.podUnderrun p r l now) s = .next s1))

/-- A scan's results go to the bytes of their entries; RSCAN_DONE ends the wait for its pod, and 1.2 s end it for all,
with scan-incomplete for each still awaited. A lost port, or one without STATUS, goes down with pod-link-fault. A
purge is sent to its pod while no job is declared, and else ignored, on a standby too. The time-out is the sender's word (log entry
3). -/
def Obligations.PodScanLossPurge : Prop :=
  ∀ (s : State) (p : Fin 24) (row : Fin 8) (seg : Fin 256) (bytes : List Byte) (aborted : Bool) (v : Word), StnOk s →
    ((link s p).scanning = true → row.val < rowsOf s p → ∃ t, exec (.rscanData p row seg bytes false) s = .next t
        ∧ t.dram = memStore s.dram (scanBase s + entryOf s p row (64 * seg.val))
            (bytes.take (min 64 (nprOf s p - 64 * seg.val)))
        ∧ ∀ q : Fin 24, link t q = if q = p then { link s p with bad := 0 } else link s q)
    ∧ (∃ t, exec (.rscanDone p aborted false) s = .next t ∧ (link t p).scanning = false
        ∧ (∀ q : Fin 24, q ≠ p → link t q = link s q) ∧ t.stn = s.stn)
    ∧ (∃ t, exec .scanTimeout s = .next t ∧ (link t p).scanning = false
        ∧ ((link s p).scanning = true → (slotGet t (172 + p.val)).isOpen = true))
    ∧ (podUp s p = true → ∃ t, exec (.podLinkLost p) s = .next t ∧ exec (.podStatusSilence p) s = .next t
        ∧ podUp t p = false ∧ fld t (F.PODL_STAT_LOCK p) = 0 ∧ (slotGet t (196 + p.val)).isOpen = true)
    ∧ (takesStores s = true → fldOf F.PODL_PURGE_GO_POD v = p.val →
      (jobDeclared s = false → isActive s = true → ∃ t, exec (.podlPurgeGo v) s = .next t ∧ t.out = s.out ++ [Out.pod p
          (podFrame 0x08 (pairEpoch s) ([BitVec.ofNat 8 (fldOf F.PODL_PURGE_GO_ROWS v), 0]
            ++ leBytes 2 (fld s F.PODL_PURGE_CFG_COUNT) ++ leBytes 2 (fld s F.PODL_PURGE_CFG_PERIOD_US) ++ [0, 0]))])
      ∧ (jobDeclared s = true → ∃ t, exec (.podlPurgeGo v) s = .next t ∧ t.out = s.out
          ∧ fld t F.PODL_GSTAT_PURGE_IGNORED = 1))

/-! ## Cameras and Sight (R277 to R306) -/

/-- Enabling a camera on the active starts its bring-up with discovery, and so does a retry while the link is down. An
acknowledgement sends the next command, the connection configuration after discovery, then the retraining, then the
set-up, and the last one brings the camera up with the set that was written in force; a refused set-up entry abandons it
with camera-setup. That discovery and retraining are answered by CAM_CONTROL_ACK is the model's choice (log entry
120). -/
def Sys2Proof.Claims.CameraControl : Prop :=
  ∀ (s : State) (n : Fin 4) (e : Nat) (op : CamOp) (rest : List CamOp) (v : Word) (c : Env × Nat × List Word)
    (read : Bool) (a w : Word), StnOk s →
    let begun := fun t : State => fld t (F.SIGHT_CAM_STAT_LINK n) = 1 ∧ (cam t n).ctl = [.discover]
      ∧ t.out = s.out ++ [Out.camCtl n .discover 0 0]
    (takesStores s = true → isActive s = true → fldB s (F.SIGHT_CAM_CTL_ENABLE n) = false →
      ∃ t, exec (.camEnable n) s = .next t ∧ fldB t (F.SIGHT_CAM_CTL_ENABLE n) = true ∧ begun t)
    ∧ (drives s = true → fldB s (F.SIGHT_CAM_CTL_ENABLE n) = true → fld s (F.SIGHT_CAM_STAT_LINK n) = 0 →
      ∃ t, exec (.camBringupRetry n) s = .next t ∧ begun t)
    ∧ (fld s (F.SIGHT_CAM_STAT_LINK n) ≠ 0 → exec (.camBringupRetry n) s = .next s)
    ∧ ((cam s n).ctl = .discover :: rest → ∃ t, exec (.camControlAck n true v) s = .next t
        ∧ (cam t n).ctl = .config :: rest
        ∧ t.out = s.out ++ [Out.camCtl n .config (opWords s n .config).1 (opWords s n .config).2])
    ∧ ((cam s n).ctl = .config :: rest → ∃ t, exec (.camControlAck n true v) s = .next t
        ∧ (cam t n).ctl = .retrain :: rest ∧ t.out = s.out ++ [Out.camCtl n .retrain 0 0])
    ∧ ((cam s n).ctl = .retrain :: rest → setupOps s n ≠ [] → ∃ t, exec (.camControlAck n true v) s = .next t
        ∧ (cam t n).ctl = setupOps s n ++ rest ∧ (cam t n).writing = some (bringSet s n))
    ∧ ((cam s n).ctl = .setup e :: op :: rest → op = .upExp ∨ op = .upGain →
      ∃ t, exec (.camControlAck n true v) s = .next t ∧ (cam t n).ctl = op :: rest
        ∧ t.out = s.out ++ [Out.camCtl n op (opWords s n op).1 (opWords s n op).2])
    ∧ ((cam s n).ctl = [.upGain] → ∃ t, exec (.camControlAck n true v) s = .next t ∧ (cam t n).ctl = []
        ∧ fld t (F.SIGHT_CAM_STAT_LINK n) = 2 ∧ (cam t n).acked = some ((cam s n).writing.getD (bringSet s n)))
    ∧ ((cam s n).ctl = .setup e :: rest → ∃ t, exec (.camControlAck n false v) s = .next t ∧ (cam t n).ctl = []
        ∧ fld t (F.SIGHT_CAM_STAT_LINK n) = 0 ∧ (slotGet t (220 + n.val)).isOpen = true)
    ∧ ((cam s n).ctl = .routine read a w :: rest → camCall s n = some c →
      ∃ t, exec (.camControlAck n true v) s = .next t ∧ (cam t n).ctl = rest ∧ t.round.calls = s.round.calls.erase c
        ∧ (streamOf t c.1).expected = c.1.seq + 1)

/-- A due slot of a camera that runs: in its gap nothing is triggered, too soon after the last trigger it is counted as
skipped, else a trigger packet leaves and the frame's log takes the line; a line past the job's last takes the camera to
the next job. A good line of the camera's stream joins its frame, in-line or in its slot of the spool ring, and the last
one completes it; a bad line discards the frame, and a line of another stream is discarded. A frame whose lines do not
all come closes incomplete. The time-out is the sender's word (log entry 3); how a spooled line is packed is the model's
choice (log entry 53). -/
def Sys2Proof.Claims.CameraFrames : Prop :=
  ∀ (s : State) (n : Fin 4) (l now : Nat) (j : SightJob) (ln : CamLine) (f : CamFrame) (rest : List CamFrame), StnOk s →
    let s1 := plcTime s now
    (camRuns s n = true → dieThrottle s = false → camCompare s n = none → camJob s n = some j → (cam s n).onJob = j.no →
      slotDue s1 n (slotAt s1 n j l) = true → (cam s n).fromW ≤ slotAt s1 n j l →
      (cam s n).nextSlot ≤ l → l % camYb s n = camPhase s n →
      (j.last < l → ∃ t, exec (.triggerSlot n l now) s = .next t ∧ (cam t n).onJob = j.no + 1
          ∧ (cam t n).frameNo = 0 ∧ (cam t n).nextSlot = 0)
      ∧ (l ≤ j.last → 0 < (cam s n).gap → ∃ t, exec (.triggerSlot n l now) s = .next t
          ∧ (cam t n).gap = (cam s n).gap - 1 ∧ (cam t n).cur = (cam s n).cur ∧ t.out = s.out)
      ∧ (l ≤ j.last → (cam s n).gap = 0 → (cam s n).lastTrig = none → ∃ t g, exec (.triggerSlot n l now) s = .next t
          ∧ Out.camTrig n now ∈ t.out ∧ (cam t n).cur = some g ∧ g.trigs.getLast? = some l
          ∧ (cam t n).lastTrig = some now ∧ (cam t n).nextSlot = l + 1)
      ∧ (∀ t0, l ≤ j.last → (cam s n).gap = 0 → (cam s n).lastTrig = some t0 → fld s (F.SIGHT_LMAX n) ≠ 0 →
          (now - t0) * fld s (F.SIGHT_LMAX n) < 3200000000 → ∃ t, exec (.triggerSlot n l now) s = .next t
            ∧ countedUp s t (F.SIGHT_TRIG_SKIP n) 1 ∧ (cam t n).cur = (cam s n).cur ∧ t.out = s.out))
    ∧ (camRuns s n = true → ln.stream.toNat = fld s (F.SIGHT_CAM_CTL_STREAM_ID n) → (cam s n).late = [] →
      (cam s n).cur = some f → f.lines.length < f.trigs.length → f.dropped = false → f.close ≠ .discarded →
      let good := ln.good = true ∧ ln.pixels.length = camWidth s n
      let kept := f.lines ++ [if spooled s n then [] else ln.pixels]
      (good → f.lines.length + 1 < camFrameLines s n → ∃ t g, exec (.cameraLine n ln) s = .next t
          ∧ (cam t n).cur = some g ∧ g.lines = kept ∧ (cam t n).closed = (cam s n).closed
          ∧ (spooled s n = true → t.dram
              = (dramPut s (spoolAddr s n f.slot f.lines.length) (packLine (camBits s n) ln.pixels)).dram))
      ∧ (good → camFrameLines s n ≤ f.lines.length + 1 → ∃ t g, exec (.cameraLine n ln) s = .next t
          ∧ (cam t n).cur = none ∧ (cam t n).closed = (cam s n).closed ++ [g] ∧ g.close = .complete
          ∧ g.lines = kept)
      ∧ (¬ good → ∃ t, exec (.cameraLine n ln) s = .next t ∧ countedUp s t (F.SIGHT_DISCARDED n) 1
          ∧ (cam t n).closed = (cam s n).closed))
    ∧ (ln.stream.toNat ≠ fld s (F.SIGHT_CAM_CTL_STREAM_ID n) → exec (.cameraLine n ln) s = .next s)
    ∧ ((cam s n).late = [] → (cam s n).cur = some f → camFrameLines s n ≤ f.trigs.length → f.dropped = false →
        f.close ≠ .discarded → ∃ t, exec (.frameTimeout n) s = .next t ∧ (cam t n).cur = none
        ∧ (cam t n).closed = (cam s n).closed ++ [{ f with close := .incomplete }])
    ∧ ((cam s n).late = f :: rest → f.dropped = false → f.close ≠ .discarded →
        ∃ t, exec (.frameTimeout n) s = .next t ∧ (cam t n).cur = (cam s n).cur ∧ (cam t n).late = rest
        ∧ (cam t n).closed = (cam s n).closed ++ [{ f with close := .incomplete }])
    ∧ ((cam s n).late = [] → (cam s n).cur = none → exec (.frameTimeout n) s = .next (lateWin s))

/-- Pipeline 1 takes the earliest spooled frame once it has closed, from its slot of the spool ring, and discards one
with an uncorrectable codeword; on the active a processed frame waits to be scored, sets event 12 of every steward and
asserts its camera's DMA request line. A context commit takes the next tag, or is refused when a check of R298 fails;
EXP_GO accepts an exposure set under the next tag. -/
def Obligations.SightPipelines : Prop :=
  ∀ (s : State) (n m : Fin 4) (f : CamFrame) (rest : List CamFrame), StnOk s →
    (sharedMode s = true → s.sight.pipe1 = none → drives s = true → dieThrottle s = false →
      nextSpooled s = some (n, f) → f.close ≠ .running →
      let bad := dramBad s (spoolAddr s n f.slot 0) (f.lines.length * spoolLineBytes s n)
      (bad = false → ∃ t g, exec .spoolFrameStart s = .next t
        ∧ t.sight.pipe1 = some (n, g) ∧ g.number = f.number ∧ g.lines = (readSpool s n f).lines
        ∧ (cam t n).closed = (cam s n).closed.drop 1)
      ∧ (bad = true → ∃ t, exec .spoolFrameStart s = .next t ∧ t.sight.pipe1 = none
        ∧ countedUp s t (F.SIGHT_DISCARDED n) 1 ∧ (cam t n).closed = (cam s n).closed.drop 1))
    ∧ (drives s = false → exec (.frameProcessed n) s = .next s)
    ∧ (drives s = true → spooled s n = false → (cam s n).closed = f :: rest → ∃ t h, exec (.frameProcessed n) s = .next t
        ∧ (cam t n).closed = rest ∧ t.hlt.frames = s.hlt.frames ++ [h] ∧ h.camera = n ∧ h.number = f.number
        ∧ (∀ k : Fin 8, (stw t k).evpend.getLsbD 12 = true) ∧ t.dma.lines.getLsbD (9 + n.val) = true)
    ∧ (drives s = true → spooled s n = true → s.sight.pipe1 = some (n, f) → ∃ t h, exec (.frameProcessed n) s = .next t
        ∧ t.sight.pipe1 = none ∧ t.hlt.frames = s.hlt.frames ++ [h] ∧ h.number = f.number)
    ∧ (takesStores s = true → isActive s = true →
      let tag := nextTag (fld s (F.SIGHT_CTX_TAG_COMMITTED n))
      (ctxBad (ctxSnapshot s n tag) n = false → ∃ t, exec (.ctxCommit n) s = .next t
          ∧ (cam t n).pendCtx.map (fun c => c.tag) = some tag ∧ fld t (F.SIGHT_CTX_TAG_COMMITTED n) = tag.toNat
          ∧ ∀ i : Fin 4, i ≠ n → cam t i = cam s i)
      ∧ (ctxBad (ctxSnapshot s n tag) n = true → ∃ t, exec (.ctxCommit n) s = .next t
          ∧ cam t n = cam s n ∧ fld t (F.SIGHT_CTX_REFUSED n) = 1
          ∧ fld t (F.SIGHT_CTX_TAG_COMMITTED n) = fld s (F.SIGHT_CTX_TAG_COMMITTED n)))
    ∧ (takesStores s = true → isActive s = true →
      let tag := nextTag (fld s (F.SIGHT_EXP_TAG_ACCEPTED m))
      let e : ExpSet := ⟨fld s (F.SIGHT_EXP_NS m), BitVec.ofNat 32 (fld s (F.SIGHT_GAIN m)), tag⟩
      ∃ t, exec (.expGo m) s = .next t ∧ (cam t m).newest = some e ∧ (cam t m).toWrite = some e
        ∧ fld t (F.SIGHT_EXP_TAG_ACCEPTED m) = tag.toNat)

/-! ## Nozzle health (R307 to R326) -/

/-- A processed frame that is to be scored is scored part by part; one that is skipped, or that finds inspection paused,
counts its parts as not attributable. A batch is issued whole, at the line HLT_LEAD beyond the horizon, when none is queued and the queue has
room. MAP_JOURNAL writes the changed entries and their line; JOURNAL_FOLD folds the oldest record into the copy in use. -/
def Sys2Proof.Claims.HealthCommands : Prop :=
  ∀ (s : State) (n : Fin 4) (f : HltFrame) (x e : Nat) (w : BitVec 16) (rest : List (Nat × BitVec 16)),
    let out := { s with hlt := { s.hlt with frames := s.hlt.frames.erase f } }
    (s.hlt.frames.find? (fun f => f.camera == n) = some f →
      (f.skip = false → fldB s (F.SIGHT_CAM_STAT_PAUSED n) = false → fldB s F.HLT_CTL_EN = true → s.hlt.off = false →
        exec (.healthFrameScore n) s = .next (f.parts.foldl (scorePart f) out))
      ∧ (f.skip = true ∨ fldB s (F.SIGHT_CAM_STAT_PAUSED n) = true → exec (.healthFrameScore n) s = .next (addFld out F.HLT_NOATTR f.parts.length)))
    ∧ (s.hlt.batch ≠ [] → batchQueued s = false → s.hlt.batch.length ≤ lqFree s →
      exec .healthBatchIssue s = .next ((s.hlt.batch.map (fun e => { e with line := hltLine s })).foldl armLq
        { s with hlt := { s.hlt with batch := [] } }))
    ∧ (s.hlt.changedX = some x → s.therm.journal.length + s.hlt.changed.length ≤ 32768 →
      ∃ t, exec .mapJournal s = .next t ∧ t.therm.journal = s.therm.journal
          ++ s.hlt.changed.map (fun e => (e, journalWord (keptGet s.scr.live e)))
        ∧ t.hlt.changed = [] ∧ t.hlt.changedX = none ∧ (StnOk s → x < 2 ^ 32 → fld t F.HLT_KEPT = x))
    ∧ (s.therm.journal = (e, w) :: rest → ∃ t, exec .journalFold s = .next t ∧ t.therm.journal = rest
        ∧ t.therm.ckpt[s.therm.ckptSel] = foldRecord s.therm.ckpt[s.therm.ckptSel] (e, w) ∧ t.stn = s.stn)

/-- A part scored against a kept generation with sound data and few missing nozzles: its samples are taken one after
another; too many are a suspect part, counted and alarmed, and change no score. The counter of free values moves as
the model counts them (log entry 7). -/
def Sys2Proof.Claims.HealthScoring : Prop :=
  ∀ (s : State) (f : HltFrame) (part : HltPart) (g : Gen), genKept s f.job part.gen = some g → g.attrib = true →
    s.poison = [] →
    let xs := samplesOf s f (f.ctx.getD (ctxSnapshot s f.camera 0)) g part
    let miss := (xs.filter (fun x => decide (x.2.2 ≤ -(fld s F.HLT_THR1_T_MISS : Int)))).length
    (miss ≤ fld s F.HLT_SUSPECT → scorePart f s part = xs.foldl (takeSample f.camera f.number)
      { s with fresh := s.fresh + 8 * part.ncol })
    ∧ (fld s F.HLT_SUSPECT < miss → (slotGet (scorePart f s part) (237 + f.camera.val)).isOpen = true
        ∧ (scorePart f s part).dram = s.dram
        ∧ (StnOk s → countedUp s (scorePart f s part) F.HLT_SUSPECT_PARTS 1))


/-! ## The twin (R327 to R361) -/

/-- Election: a device that hears no twin resets it and is active 1 µs later; with a heartbeat and no postcard it raises
its alarm instead. A take-over has the same wait: the new active has the next epoch and drives ACTIVE_OUT. The reset
line drops again after its time. The waits are the sender's word (log entry 3). -/
def Obligations.ElectionAndTakeover : Prop :=
  ∀ s : State,
    (s.boot.phase = .ready → s.twin.role = .electing → s.twin.peer = none →
      (s.twin.pinLive = false → ∃ t, exec .electWaitExpiry s = .next t ∧ t.twin.peerRst = .high ∧ t.twin.rstFor = 1
          ∧ t.twin.role = .electing)
      ∧ (s.twin.pinLive = true → ∃ t, exec .electWaitExpiry s = .next t ∧ (slotGet t 242).isOpen = true
          ∧ t.twin.peerRst = s.twin.peerRst))
    ∧ (s.twin.peerRst = .high → s.twin.rstFor = 1 → s.twin.role = .electing → ∃ t, exec .peerResetWaitEnd s = .next t
        ∧ t.twin.role = .active ∧ t.twin.epoch = s.twin.epoch ∧ t.twin.peerRst = .waited ∧ t.pins.activeOut = true)
    ∧ (s.twin.peerRst = .high → s.twin.rstFor = 2 → s.twin.role = .standby → ∃ t, exec .peerResetWaitEnd s = .next t
        ∧ t.twin.role = .active ∧ t.twin.epoch = nextEpoch s ∧ t.twin.peerRst = .waited ∧ t.pins.activeOut = true
        ∧ (slotGet t 247).isOpen = true)
    ∧ (s.twin.peerRst = .waited → exec .peerRstRelease s = .next { s with twin := { s.twin with peerRst := .low } })

/-- A postcard carries this device's state and its own number. One that arrives is the twin's newest; an electing
device that hears an active resyncs as its standby, no longer solo; two devices at one PAIR_POS take no role, an active that hears a
newer epoch stands down, and a standby takes a newer epoch from the active. A heartbeat edge makes the pin live.
That the epoch is then raised to 1 is log entry 115. -/
def Obligations.Postcards : Prop :=
  ∀ (s : State) (c : Postcard), s.boot.phase = .ready →
    let s1 := { s with twin := { s.twin with peer := some c, pcLive := true } }
    (∃ t, exec .postcardSend s = .next t ∧ t.out = s.out ++ [Out.postcard (ownPostcard s false)]
        ∧ t.twin.pcseq = s.twin.pcseq + 1)
    ∧ (s.twin.role = .electing → c.pairPos ≠ s.boot.strap → pairMismatch s1 = false → c.role = 1 →
      ∃ t b, exec (.postcardReceive c) s = .next t ∧ t.twin.role = .standby ∧ t.round.busy = some b ∧ b.op = 5
        ∧ t.twin.joined = false ∧ t.twin.peer = some c ∧ t.twin.epoch ≠ 0)
    ∧ (s.twin.role = .electing → c.pairPos = s.boot.strap → ∃ t, exec (.postcardReceive c) s = .next t ∧ t.twin.role = .none
        ∧ (slotGet t 1).isOpen = true)
    ∧ (s.twin.role = .active → c.role = 1 → s.twin.epoch.toNat < c.epoch.toNat →
      ∃ t, exec (.postcardReceive c) s = .next t ∧ t.twin.role = .standby ∧ (slotGet t 246).isOpen = true
        ∧ t.pins.activeOut = false ∧ t.round.held = [])
    ∧ (s.twin.role = .standby → c.role = 1 → s.twin.epoch.toNat < c.epoch.toNat → s.tho.ho ≠ .final →
      ∃ t, exec (.postcardReceive c) s = .next t ∧ t.twin.epoch = c.epoch ∧ t.twin.role = .standby)
    ∧ (∃ t, exec .hbInEdge s = .next t ∧ t.twin.pinLive = true ∧ t.twin.hbSeen = true ∧ t.stn = s.stn)

/-- Hand-over: the active stops at a timed close when no job runs, its stewards 0 to 5 halted, with a FINAL hamper; its
acknowledgement makes the old active a standby, and the released standby the active of the next epoch; the pod lanes
of the old one go idle. The stop at a timed close without a running job is the model's reading (log entry 55). -/
def Obligations.Handovers : Prop :=
  ∀ (s : State) (c : Postcard), s.boot.phase = .ready →
    (mirrors s = true → s.tho.stopped = false → s.tho.ho = .due → jobRuns s = false →
      ∃ t h, exec .hamperTimedClose s = .next t ∧ t.tho.ho = .final ∧ t.tho.stopped = true
        ∧ t.twin.sent.getLast? = some h ∧ h.final = true ∧ t.tho.finalHseq = h.hseq
        ∧ ∀ k : Fin 8, k.val < 6 → (stw t k).run = .halted)
    ∧ (s.twin.role = .active → c.role = 2 → c.joined = true → s.twin.joined = true → s.tho.ho = .final →
        s.twin.acked = s.tho.finalHseq → c.hseq = s.twin.acked → s.round.held = [] → s.round.calls = [] →
      ∃ t, exec (.postcardReceive c) s = .next t ∧ t.twin.role = .standby ∧ t.tho.ho = .released
        ∧ t.pins.activeOut = false)
    ∧ (s.twin.role = .standby → s.twin.joined = true → s.tho.ho = .final → c.release = true →
      ∃ t, exec (.postcardReceive c) s = .next t ∧ t.twin.role = .active ∧ t.pins.activeOut = true
        ∧ t.twin.epoch = nextEpoch { s with twin := { s.twin with peer := some c } } ∧ t.tho.ho = .no)
    ∧ (StnOk s → s.tho.ho = .released → s.twin.role = .standby → ∃ t, exec .handoverLaneIdle s = .next t
        ∧ t.tho.ho = .no ∧ ∀ p : Fin 24, (link t p).step = .idle ∧ podUp t p = false)
    ∧ (∃ t, exec .clearHidden s = .next t ∧ t.twin.notElig.getLsbD 13 = false
        ∧ ∀ b : Nat, b ≠ 13 → t.twin.notElig.getLsbD b = s.twin.notElig.getLsbD b)

/-- A timed close sends the effects since the last hamper under the next HSEQ. The standby applies the next hamper and
is joined, keeps it while it resyncs, and starts a resync when one is missing; bulk frames are counted, and a piece of
content is applied with its last frame.
Epochs from hampers: log entry 58. Joined after the snapshot: log entry 61.
In how many frames a piece goes is log entry 116. -/
def Sys2Proof.Claims.Hampers : Prop :=
  ∀ (s : State) (h : Hamper) (a i n : Nat) (data : List Byte), s.boot.phase = .ready →
    (mirrors s = true → s.tho.stopped = false → s.tho.ho ≠ .due → ∃ t g, exec .hamperTimedClose s = .next t
        ∧ t.twin.sent = s.twin.sent ++ [g] ∧ g.hseq = s.twin.hseq + 1 ∧ g.timed = true ∧ g.final = false
        ∧ g.epoch = s.twin.epoch ∧ (∀ e ∈ s.twin.fill, e ∈ g.entries) ∧ t.twin.hseq = s.twin.hseq + 1
        ∧ t.twin.fill = [] ∧ Out.hamper g ∈ t.out)
    ∧ (s.twin.role = .standby → s.twin.epoch.toNat ≤ h.epoch.toNat →
      (resyncing s = true → exec (.hamperReceive h true) s
          = .next { s with twin := { s.twin with buffered := s.twin.buffered ++ [h] } })
      ∧ (resyncing s = false → (s.twin.joined = true ∨ s.twin.snapshot = true) →
        (h.hseq = s.twin.hseq + 1 → ∃ t, exec (.hamperReceive h true) s = .next t ∧ t.twin.hseq = h.hseq
            ∧ t.twin.joined = true ∧ (h.entries = [] → StnOk s → fld t F.SCR_HORIZON = h.horizon.toNat
              ∧ fld t F.TWN_HLINE = h.line.toNat ∧ t.twin.epoch = h.epoch))
        ∧ (h.hseq = s.twin.hseq + 2 → ∃ t b, exec (.hamperReceive h true) s = .next t ∧ t.twin.joined = false
            ∧ t.round.busy = some b ∧ b.op = 5)))
    ∧ (exec (.hamperReceive h false) s = .next s)
    ∧ (s.twin.role = .standby → ∃ t, exec (.twinBulkReceive (.dram a data) 0 1) s = .next t
        ∧ t.dram = memStore s.dram a data ∧ t.twin.bseqIn = s.twin.bseqIn + 1)
    ∧ (s.twin.role = .standby → i + 1 ≠ n → ∃ t, exec (.twinBulkReceive (.dram a data) i n) s = .next t
        ∧ t.dram = s.dram ∧ t.twin.bseqIn = s.twin.bseqIn + 1)

/-- A resync ends joined when the snapshot is whole, or fails with its alarm after its time; the device tries again. The
time-out is the sender's word (log entry 3). -/
def Sys2Proof.Claims.Resync : Prop :=
  ∀ (s : State) (b : Busy),
    (s.round.busy = some b → b.op = 5 → b.letter = none → s.twin.snapshot = true → s.twin.buffered = [] →
      ∃ t, exec .resyncEnd s = .next t ∧ t.twin.joined = true ∧ t.round.busy = none ∧ t.plc2.firstHamper = true)
    ∧ (s.round.busy = some b → b.op = 5 → b.letter = none → ∃ t, exec .resyncTimeout s = .next t
        ∧ t.round.busy = none ∧ t.twin.snapshot = false ∧ t.twin.buffered = [] ∧ (slotGet t 252).isOpen = true)
    ∧ (s.boot.phase = .ready → s.twin.role = .standby → s.twin.joined = false → s.twin.snapshot = false →
      s.round.busy = none → ∃ t c, exec .resyncRetry s = .next t ∧ t.round.busy = some c ∧ c.op = 5
        ∧ t.twin.role = .standby ∧ (∀ x ∈ t.round.streams, x.pair = false)
        ∧ ∀ k : Fin 8, k.val < 6 → (stw t k).prog = none)

/-- Silences: an eligible standby resets the active and takes over, another raises its alarm; one silent path while the
other lives is counted; an active resets the twin that follows it when that falls silent or acknowledges no hamper;
a standby without hampers rejoins. What has arrived in time wins and is counted. The silences are the sender's word
(log entry 3). -/
def Obligations.TwinSilences : Prop :=
  ∀ (s : State) (pin : Bool), StnOk s →
    (s.twin.role = .standby → s.boot.phase = .ready →
      (selfEligible s = true → ∃ t, exec (.twinSilence false) s = .next t ∧ t.twin.peerRst = .high ∧ t.twin.rstFor = 2)
      ∧ (selfEligible s = false → ∃ t, exec (.twinSilence false) s = .next t ∧ (slotGet t 248).isOpen = true
          ∧ t.twin.peerRst = s.twin.peerRst)
      ∧ ∃ t, exec (.twinSilence true) s = .next t ∧ countedUp s t F.TWN_LATEWIN 1 ∧ t.twin = s.twin)
    ∧ (s.boot.phase = .ready → s.twin.pcLive = true → s.twin.pinLive = true →
      ∃ t, exec (.twinPathSilent pin false) s = .next t ∧ countedUp s t F.TWN_EVENTS_PATH_FAULTS 1
        ∧ (slotGet t (if pin then 243 else 244)).isOpen = true
        ∧ t.twin.pinLive = !pin ∧ t.twin.pcLive = pin)
    ∧ (isActive s = true → twinFollows s = true → s.tho.letters = [] → s.tho.ho = .no →
      let reset := fun t : State => t.twin.peerRst = .high ∧ t.twin.rstFor = 3 ∧ t.twin.joined = false
        ∧ t.round.held = [] ∧ isActive t = true ∧ (slotGet t 245).isOpen = true
      (∃ t, exec (.activeTwinSilence false) s = .next t ∧ reset t)
      ∧ (s.twin.sent ≠ [] → ∃ t, exec (.hamperAckTimeout false) s = .next t ∧ reset t))
    ∧ (s.twin.role = .standby → s.twin.joined = true → resyncing s = false → ∃ t b,
        exec (.hamperTimeout false) s = .next t ∧ t.twin.joined = false ∧ t.round.busy = some b ∧ b.op = 5
        ∧ (slotGet t 250).isOpen = true)


/-! ## The mailbag (R372 to R381) -/

/-- A pass lets every queued record leave and closes each slot that has been quiet; MB_CLEAR closes one slot, or all;
TR_GO copies the bank into a record of the steward's stream, or drops it and counts. -/
def Obligations.Mailbag : Prop :=
  ∀ (s : State) (k : Fin 8) (tag : BitVec 16) (v : Word), StnOk s → SlotsOk s →
    (s.boot.phase = .ready → s.round.busy = none → ∃ t, exec .mailbagPass s = .next t ∧ t.mbx.express = []
        ∧ t.mbx.queue = [] ∧ t.mbx.ring = []
        ∧ ∀ n : Nat, (slotGet s n).lastAt + quietNs s ≤ extNs s → (slotGet t n).isOpen = false)
    ∧ (∃ t, exec (.mbClearSlot v) s = .next t ∧ (slotGet t (v.toNat % 512)).isOpen = false
        ∧ (∀ n : Nat, n ≠ v.toNat % 512 → slotGet t n = slotGet s n)
        ∧ (slotGet t (v.toNat % 512)).count = (slotGet s (v.toNat % 512)).count)
    ∧ (∃ t, exec .mbClearAll s = .next t ∧ ∀ n : Nat, (slotGet t n).isOpen = false)
    ∧ ((fld s F.MBG_MB_CTL_TRACE_EN).testBit k.val = true → (stw s k).trace.dropped = 0 →
      let b := (stw s k).trace
      let m := s.mbx.mseq[Fin.ofNat 16 (8 + k.val)]
      (traceRoom s k 1 = true → ∃ t, exec (.trGo k tag) s = .next t
          ∧ t.mbx.ring = s.mbx.ring ++ [⟨8 + k.val, m, [0x02, 32, 0, 0] ++ leBytes 4 m.toNat ++ leBytes 4 b.pmLo.toNat
              ++ leBytes 4 b.pmHi.toNat ++ leBytes 2 tag.toNat ++ [0, 0] ++ leBytes 4 b.d0.toNat ++ leBytes 4 b.d1.toNat
              ++ leBytes 4 b.d2.toNat⟩]
          ∧ t.mbx.mseq[Fin.ofNat 16 (8 + k.val)] = m + 1)
      ∧ (traceRoom s k 1 = false → ∃ t, exec (.trGo k tag) s = .next t ∧ t.mbx.ring = s.mbx.ring
          ∧ (stw t k).trace.dropped = 1 ∧ countedUp s t F.MBG_MB_TR_DROP 1))

/-! ## Time (R384 to R402) -/

/-- A compare unit that reaches its target fires: a one-shot disarms and counts, its claimants' event is set, HK and
MOTION start their round and cycle; a periodic one goes on to its next target. ARM arms, and DISARM disarms. A step
adds to its base at the next tick; the anchor takes the extended count; a silence of SYNC is HOLDOVER, and its alarm
follows. -/
def Obligations.TimeAndCompare : Prop :=
  ∀ (s : State) (u : Fin 8) (at0 : Nat) (v : Word) (b : Fin 4), StnOk s →
    let r := advanceTo s at0
    (fldB s (F.TIME_TMC_STAT_ARMED u) = true → 0 ≤ tmcDiff r u → r.clk.held.getLsbD u = false →
      (fld s (F.TIME_PERIOD u) = 0 → ∃ t, exec (.compareUnitFire u at0) s = .next t
        ∧ fldB t (F.TIME_TMC_STAT_ARMED u) = false
        ∧ (∀ k ∈ claimants s 3 u, (stw t k).evpend.getLsbD (2 + u.val) = true)
        ∧ (fldB s (F.TIME_TMC_CTL_HK u) = true → t.pwr.hk = true)
        ∧ (fldB s (F.TIME_TMC_CTL_MOTION u) = true → isActive s = true → t.mot.last = some (tbVal r 3))
        ∧ (fldB s (F.TIME_TMC_CTL_HK u) = false → fldB s (F.TIME_TMC_CTL_MOTION u) = false →
            fld t (F.TIME_FIRED u) = (fld s (F.TIME_FIRED u) + 1) % 2 ^ 32
            ∧ fld t (F.TIME_TMC_LAST u) = (tbVal r (tmcBase s u)).toNat))
      ∧ (1000 ≤ fld s (F.TIME_PERIOD u) → fld s (F.TIME_PERIOD u) < 2 ^ 31 → tmcDiff r u < fld s (F.TIME_PERIOD u) →
          fldB s (F.TIME_TMC_CTL_HK u) = false → fldB s (F.TIME_TMC_CTL_MOTION u) = false →
          ∃ t, exec (.compareUnitFire u at0) s = .next t ∧ fldB t (F.TIME_TMC_STAT_ARMED u) = true
            ∧ fld t (F.TIME_TARGET u) = (fld s (F.TIME_TARGET u) + fld s (F.TIME_PERIOD u)) % 2 ^ 32
            ∧ fld t (F.TIME_FIRED u) = (fld s (F.TIME_FIRED u) + 1) % 2 ^ 32))
    ∧ (takesStores s = true →
      (0 < (BitVec.ofNat 32 (fld s (F.TIME_TARGET u)) - tbVal s (Fin.ofNat 4 (fldOf (F.TIME_TMC_CTL_BASE u) v))).toInt →
        ∃ t, exec (.tmcArm u v) s = .next t ∧ fldB t (F.TIME_TMC_STAT_ARMED u) = true ∧ t.clk.held.getLsbD u = false
          ∧ fld t (F.TIME_FIRED u) = fld s (F.TIME_FIRED u))
      ∧ (∃ t, exec (.tmcDisarm u) s = .next t ∧ fldB t (F.TIME_TMC_STAT_ARMED u) = false)
      ∧ (b ≠ 0 → ∃ t, exec (.tbStep b v) s = .next t ∧ t.clk.step[b] = s.clk.step[b] + v
          ∧ ∀ c : Fin 4, c ≠ b → t.clk.step[c] = s.clk.step[c]))
    ∧ (∃ t, exec .tbAnchorUpdate s = .next t ∧ fld t F.TIME_TB_ANCHOR_LO = s.clk.ext.toNat % 2 ^ 32
        ∧ fld t F.TIME_TB_ANCHOR_HI = s.clk.ext.toNat / 2 ^ 32)
    ∧ ((fld s F.TIME_TB_SYNC_STAT_STATE = 1 ∨ fld s F.TIME_TB_SYNC_STAT_STATE = 2) → ∃ t,
        exec .syncHoldover s = .next t ∧ fld t F.TIME_TB_SYNC_STAT_STATE = 3 ∧ t.clk = s.clk)
    ∧ (fld s F.TIME_TB_SYNC_STAT_STATE = 3 → ∃ t, exec .holdoverAlarm s = .next t ∧ (slotGet t 369).isOpen = true
        ∧ ((slotGet s 369).isOpen = false → (slotGet t 369).detail
            = [0, BitVec.ofNat 32 ((s.clk.now - s.clk.lastSync) / 3200000)]))

/-! ## Bar motion (R403 to R428) -/

/-- Writes to an axis are barred: a STALL, COUNTER or ENCODER fault, the second of two locked lifts, or a lift while a
retract holds (R417, R419, R420). -/
abbrev Sys2Proof.Claims.axisBarred (s : State) (x : Fin 4) : Prop :=
  fldB s (F.MOT_STALL x) = true ∨ fldB s (F.MOT_COUNTER x) = true ∨ fldB s (F.MOT_ENCODER x) = true
    ∨ (x = 1 ∧ fldB s F.MOT_CTL_LIFT_LOCK = true) ∨ (x.val < 2 ∧ fldB s F.MOT_GSTAT_RETRACT = true)

/-- Commands to the axes of the active: TARGET and GO wait for the next cycle, SET_POS renames the position of an idle
axis, each ignored on a barred axis; a bad segment run is refused; STOP, RETRACT and its release; LIFT_LOCK, whose
word also sets the period of compare unit 7 (R405); and the compare's arming. A write made ignored is ignored whole: log entry 67. -/
def Sys2Proof.Claims.MotionCommands : Prop :=
  ∀ (s : State) (x : Fin 4) (v : Word) (mask : BitVec 4), StnOk s → takesStores s = true → isActive s = true →
    let first := fldOf (F.MOT_SEG_CTL_FIRST x) v
    let last := fldOf (F.MOT_SEG_CTL_LAST x) v
    let refused := fun (c : Instr) => ∃ t, exec c s = .next t ∧ t.mot = s.mot ∧ fldB t (F.MOT_IGNORED x) = true
    (¬ axisBarred s x →
      (∃ t, exec (.motTarget x v) s = .next t ∧ t.mot.writes = s.mot.writes ++ [.target x v.toInt] ∧ t.mot.axes = s.mot.axes)
      ∧ (segOk s x first last = true → ∃ t, exec (.segGo x v) s = .next t
          ∧ t.mot.writes = s.mot.writes ++ [.segments x first last])
      ∧ (segOk s x first last = false → ∃ t, exec (.segGo x v) s = .next t ∧ t.mot = s.mot
          ∧ fldB t (F.MOT_SEG_REFUSED x) = true)
      ∧ ((ax s x).moving = false → ∃ t, exec (.setPos x v) s = .next t ∧ (ax t x).p = v.toInt * 65536
          ∧ encPos t x = v.toInt ∧ (ax t x).count = (ax s x).count))
    ∧ (axisBarred s x → refused (.motTarget x v) ∧ refused (.segGo x v) ∧ refused (.setPos x v))
    ∧ (∃ t, exec (.motStop mask) s = .next t ∧ t.mot.stop = s.mot.stop ||| mask)
    ∧ (fldB s F.MOT_GSTAT_RETRACT = false → ∃ t, exec .motRetract s = .next t ∧ t.mot.retract = true
        ∧ fldB t F.MOT_GSTAT_RETRACT = true ∧ (slotGet t 364).isOpen = true)
    ∧ (∃ t, exec .retractRelease s = .next t ∧ fldB t F.MOT_GSTAT_RETRACT = false ∧ t.mot = s.mot)
    ∧ ((v.getLsbD 0 = fldB s F.MOT_CTL_LIFT_LOCK ∨ ((ax s 0).moving = false ∧ (ax s 1).moving = false
          ∧ (v.getLsbD 0 = true → cmdPos s 1 = cmdPos s 0 + lockOfs s))) →
        ∃ t, exec (.liftLockWrite v) s = .next t ∧ fldB t F.MOT_CTL_LIFT_LOCK = v.getLsbD 0
          ∧ fld t (F.TIME_PERIOD 7) = cycleUs t * 1000)
    ∧ (v.getLsbD 0 ≠ fldB s F.MOT_CTL_LIFT_LOCK → (ax s 0).moving = true → ∃ t, exec (.liftLockWrite v) s = .next t
        ∧ stnWord t 0x4C000000 = stnWord s 0x4C000000 ∧ fldB t F.MOT_GSTAT_IGNORED = true)
    ∧ (cmpBehind (fldOf (F.MOT_CMP_CTL_DIR x) v) (encPos s x) (fldInt s (F.MOT_CMP_POS x)) = false →
        ∃ t, exec (.axisCmpArm x v) s = .next t ∧ fldB t (F.MOT_ARMED x) = true ∧ fldB t (F.MOT_HELD x) = false)
    ∧ (cmpBehind (fldOf (F.MOT_CMP_CTL_DIR x) v) (encPos s x) (fldInt s (F.MOT_CMP_POS x)) = true →
        ∃ t, exec (.axisCmpArm x v) s = .next t ∧ fldB t (F.MOT_ARMED x) = false
          ∧ fldB t (F.MOT_HELD x) = v.getLsbD 1
          ∧ (v.getLsbD 1 = false → fldB t (F.MOT_LATE x) = true ∧ ∀ k : Fin 8, (stw t k).evpend.getLsbD 15 = true))
    ∧ ∃ t, exec (.axisCmpDisarm x) s = .next t ∧ fldB t (F.MOT_ARMED x) = false ∧ fldB t (F.MOT_HELD x) = false

/-- Edges at the axes: a splice edge of the chosen direction that has held its filter time starts a retract on the
active; a legal encoder edge
counts one, an illegal one is counted apart, a level that has not held for FILTER + 1 samples is not accepted; an index
edge and a probe latch the count; an axis idle for its hold delay goes to the hold current.
How long a level has held is an operand (log entry 84). -/
def Sys2Proof.Claims.MotionEdges : Prop :=
  ∀ (s : State) (x n : Fin 4) (showsA showsB falling : Bool) (heldA heldB : Nat), StnOk s → alive s = true →
    let need := fld s (F.MOT_AX_CTL_FILTER x) + 1
    let a := if need ≤ heldA then showsA else (ax s x).a
    let b := if need ≤ heldB then showsB else (ax s x).b
    let d := (quadPhase a b + 4 - quadPhase (ax s x).a (ax s x).b) % 4
    let fwd := (d == 1) != fldB s (F.MOT_AX_CTL_ENC_INVERT x)
    (isActive s = true → fldB s F.MOT_CTL_SPL_EN = true → fldB s F.MOT_CTL_SPL_EDGE = falling →
        fldB s F.MOT_GSTAT_RETRACT = false → fld s F.MOT_CTL_SPL_FILTER < heldA →
        ∃ t, exec (.spliceEdge falling heldA) s = .next t ∧ t.mot.retract = true
          ∧ fldB t F.MOT_GSTAT_RETRACT = true ∧ countedUp s t F.MOT_GSTAT_SPLICES 1 ∧ (slotGet t 364).isOpen = true)
    ∧ (heldA ≤ fld s F.MOT_CTL_SPL_FILTER → exec (.spliceEdge falling heldA) s = .next s)
    ∧ (d = 1 ∨ d = 3 → ∃ t, exec (.axisEncoderEdge x showsA showsB heldA heldB) s = .next t ∧ (ax t x).a = a ∧ (ax t x).b = b
        ∧ (ax t x).count = satS32 ((ax s x).count + if fwd then 1 else -1) ∧ (ax t x).illegal = 0)
    ∧ (heldA < need → heldB < need → ∃ t, exec (.axisEncoderEdge x showsA showsB heldA heldB) s = .next t
        ∧ ax t x = ax s x ∧ t.stn = s.stn)
    ∧ (d = 2 → ∃ t, exec (.axisEncoderEdge x showsA showsB heldA heldB) s = .next t ∧ (ax t x).count = (ax s x).count
        ∧ countedUp s t (F.MOT_ILLEGAL x) 1)
    ∧ (∃ t, exec (.axisIndexEdge x) s = .next t ∧ (fld t (F.MOT_INDEX_CNT x) : Int) = (ax s x).count % 2 ^ 32
        ∧ t.mot = s.mot)
    ∧ (fldB s (F.MOT_PRB_CTL_EN n) = true → fldB s (F.MOT_PRB_CTL_EDGE n) = falling →
        ∃ t, exec (.probeEdge n falling) s = .next t
          ∧ (fld t (F.MOT_PRB_COUNT n) : Int) = probeCount s (fld s (F.MOT_PRB_CTL_CHANNEL n)) % 2 ^ 32
          ∧ fld t (F.MOT_PRB_TIME n) = (tbVal s 3).toNat ∧ fldB t (F.MOT_PRB_STAT_NEW n) = true
          ∧ countedUp s t (F.MOT_PRB_STAT_EDGES n) 1 ∧ ∀ k : Fin 8, (stw t k).evpend.getLsbD 15 = true)
    ∧ (isActive s = true → (ax s x).moving = false → (ax s x).hold = false →
        fld s (F.MOT_HOLD_DLY x) * 1000000 ≤ idleNs s x → ∃ t,
        exec (.holdDelayExpiry x) s = .next t ∧ (ax t x).hold = true ∧ (ax t x).p = (ax s x).p ∧ t.stn = s.stn)

/-! ## DRAM (R429 to R445) -/

/-- The DRAM controller: a scrub corrects a single error and counts both kinds, leaving the stored data; refreshes, the
temperature poll and drift tracking; and a change of the data rate from GO to its end. The error that a scrub meets
is an operand (log entry 84); HOT stays set: log entry 69. -/
def Obligations.DramController : Prop :=
  ∀ (s : State) (addr : Nat) (ecc : Fin 3) (ch : Fin 4) (bank : Fin 16) (hot : Bool) (rate : BitVec 5) (v : Word), StnOk s →
    (alive s = true → fldB s F.DRAM_SCRUB_SCRUB_H = true → s.round.busy = none → addr < dramUsable s →
      ∃ t, exec (.dramScrub addr ecc) s = .next t ∧ t.dram = s.dram
        ∧ (ecc ≠ 2 → s.poison.contains (addr / 32) = false → t.single.contains (addr / 32) = false ∧ t.poison = s.poison
            ∧ ((ecc = 1 ∨ s.single.contains (addr / 32) = true) →
                countedUp s t (F.DRAM_CE_COUNT (dramChannel (32 * (addr / 32)))) 1))
        ∧ ((ecc = 2 ∨ s.poison.contains (addr / 32) = true) → t.poison.contains (addr / 32) = true
            ∧ countedUp s t (F.DRAM_UE_COUNT (dramChannel (32 * (addr / 32)))) 1))
    ∧ (alive s = true →
      (∃ t, exec (.dramRefresh ch bank) s = .next t
        ∧ t.drm.refreshes[16 * ch.val + bank.val] = s.drm.refreshes[16 * ch.val + bank.val] + 1 ∧ t.dram = s.dram)
      ∧ ∃ t, exec (.dramMr4Poll ch hot rate) s = .next t ∧ t.drm.mr4[ch] = rate
          ∧ (hot = true → fldB t F.DRAM_STAT_HOT = true))
    ∧ (jobRuns s = true → ∃ t, exec (.dramDriftTrack ch (some true)) s = .next t
        ∧ t.drm.drift[ch] = s.drm.drift[ch] + 1 ∧ t.stn = s.stn)
    ∧ (takesStores s = true →
      let n := fldOf F.DRAM_FREQ_NEXT_RATE v
      let may := jobDeclared s = false ∧ s.round.busy = none ∧ fldB s F.DRAM_STAT_FREQ_BUSY = false ∧ n ≤ 4
        ∧ (fld s F.DRAM_CFG_RATE_MASK).testBit n = true
      (may → ∃ t, exec (.dramFreqGo v) s = .next t ∧ fldB t F.DRAM_STAT_FREQ_BUSY = true
          ∧ fld t F.DRAM_FREQ_NEXT_RATE = n ∧ fld t F.DRAM_CFG_RATE = fld s F.DRAM_CFG_RATE)
      ∧ (¬ may → ∃ t, exec (.dramFreqGo v) s = .next t ∧ fldB t F.DRAM_STAT_FREQ_IGNORED = true
          ∧ fldB t F.DRAM_STAT_FREQ_BUSY = fldB s F.DRAM_STAT_FREQ_BUSY))
    ∧ (fldB s F.DRAM_STAT_FREQ_BUSY = true → ∃ t, exec .dramFreqDone s = .next t
        ∧ fldB t F.DRAM_STAT_FREQ_BUSY = false ∧ fld t F.DRAM_CFG_RATE = fld s F.DRAM_FREQ_NEXT_RATE ∧ t.dram = s.dram
        ∧ (fldB s F.DRAM_FREQ_USE_SHADOW = true → stnWord t 0x4D000040 = stnWord s 0x4D000050
            ∧ stnWord t 0x4D000044 = stnWord s 0x4D000054 ∧ stnWord t 0x4D000048 = stnWord s 0x4D000058))

/-! ## DMA (R446 to R461) -/

/-- Control of a channel: HEAD takes what the ring can hold; RUN starts an idle channel and takes its descriptor; RUN
0 aborts; PAUSE and its end keep the descriptor; SWREQ sets the level requests. -/
def Sys2Proof.Claims.DmaControl : Prop :=
  ∀ (s : State) (c : Fin 16) (v : Word) (d : DmaDesc), StnOk s → takesStores s = true →
    let h := v.toNat % 65536
    let a := descAddr s c
    let ctrl := BitVec.ofNat 32 (memNat s.dram (a + 0x14) 4)
    ((h + 65536 - fld s (F.DMA_TAIL c)) % 65536 ≤ 2 ^ ringLog s c →
        ∃ t, exec (.dmaHeadWrite c v) s = .next t ∧ fld t (F.DMA_HEAD c) = h)
    ∧ (s.twin.role ≠ .standby → 2 ^ ringLog s c < (h + 65536 - fld s (F.DMA_TAIL c)) % 65536 →
        ∃ t, exec (.dmaHeadWrite c v) s = .next t
        ∧ fld t (F.DMA_HEAD c) = fld s (F.DMA_HEAD c) ∧ fldB t (F.DMA_CH_STAT_HEAD_IGNORED c) = true)
    ∧ (isActive s = true → fldB s (F.DMA_CH_CTL_RUN c) = false → fldB s (F.DMA_CH_CTL_PAUSE c) = false → s.dma.cur[c] = none →
      (fld s (F.DMA_HEAD c) = fld s (F.DMA_TAIL c) → ∃ t, exec (.dmaRun c) s = .next t
          ∧ fldB t (F.DMA_CH_CTL_RUN c) = true ∧ fld t (F.DMA_CH_STAT_STATE c) = 1 ∧ t.dma.cur[c] = none)
      ∧ (fld s (F.DMA_HEAD c) ≠ fld s (F.DMA_TAIL c) → a + 32 ≤ dramUsable s → s.poison = [] → ctrl.getLsbD 31 = true →
          ∃ t e, exec (.dmaRun c) s = .next t ∧ fldB t (F.DMA_CH_CTL_RUN c) = true ∧ fld t (F.DMA_CH_STAT_STATE c) = 2
            ∧ t.dma.cur[c] = some e ∧ e.src = memNat s.dram a 8 ∧ e.dst = memNat s.dram (a + 8) 8
            ∧ e.len = memNat s.dram (a + 0x10) 4 ∧ e.ctrl = ctrl ∧ e.left = e.len ∧ t.dram = s.dram))
    ∧ (fldB s (F.DMA_CH_CTL_RUN c) = true →
      (s.dma.cur[c] = none → ∃ t, exec (.dmaAbort c) s = .next t ∧ fldB t (F.DMA_CH_CTL_RUN c) = false
          ∧ fld t (F.DMA_CH_STAT_STATE c) = 0)
      ∧ (s.dma.cur[c] = some d → d.result = none → ∃ t, exec (.dmaAbort c) s = .next t
          ∧ fldB t (F.DMA_CH_CTL_RUN c) = false ∧ t.dma.cur[c] = some { d with result := some 5 }))
    ∧ (fldB s (F.DMA_CH_CTL_PAUSE c) = false → s.dma.cur[c] = some d → fld s (F.DMA_CH_STAT_STATE c) = 2 →
        fldB s (F.DMA_CH_CTL_RUN c) = true → ∃ t, exec (.dmaPause c) s = .next t
          ∧ fldB t (F.DMA_CH_CTL_PAUSE c) = true ∧ fld t (F.DMA_CH_STAT_STATE c) = 3 ∧ t.dma = s.dma)
    ∧ (fldB s (F.DMA_CH_CTL_PAUSE c) = true → s.dma.cur[c] = some d → d.result = none → fld s (F.DMA_CH_STAT_STATE c) = 4 →
        fldB s (F.DMA_CH_CTL_RUN c) = true → ∃ t, exec (.dmaResume c) s = .next t
          ∧ fldB t (F.DMA_CH_CTL_PAUSE c) = false ∧ fld t (F.DMA_CH_STAT_STATE c) = 2 ∧ t.dma = s.dma)
    ∧ (∃ t, exec (.dmaSwreq v) s = .next t ∧ fld t F.DMA_SWREQ = v.toNat % 8 ∧ t.dma = s.dma)
    ∧ (fld s (F.DMA_CH_STAT_STATE c) = 3 → ∃ t, exec (.dmaPauseDrained c) s = .next t
        ∧ fld t (F.DMA_CH_STAT_STATE c) = 4 ∧ t.dma = s.dma)

/-- Copying: a burst moves the next bytes in ascending order and folds them into the CRC register; a paced channel needs
its request, whose latch the grant clears; a request that does not come in time ends the descriptor with TIMEOUT; a
descriptor with nothing left ends with its status and CRC in DRAM and without OWN. A burst is one command (log entry
81), and the time-out is the sender's word (log entry 3). -/
def Sys2Proof.Claims.DmaCopies : Prop :=
  ∀ (s : State) (c : Fin 16) (d : DmaDesc), StoresOk s → s.dma.cur[c] = some d → d.result = none →
    fld s (F.DMA_CH_STAT_STATE c) = 2 →
    let n := min (burstBytes s c) d.left
    let done := d.len - d.left
    let bs := spaceRead s (d.ctrl.getLsbD 0) (d.src + done) n
    let a := descAddr s c
    let moved := fun t : State => t.dma.cur[c] = some { d with left := d.left - n }
      ∧ fld t (F.DMA_CUR_LEFT c) = (d.left - n) % 2 ^ 32
      ∧ fld t (F.DMA_CUR_CRC c) = (bs.foldl crcByte (BitVec.ofNat 32 (fld s (F.DMA_CUR_CRC c)))).toNat
      ∧ (d.ctrl.getLsbD 3 = false → spaceRead t (d.ctrl.getLsbD 1) (d.dst + done) n = bs)
      ∧ (d.ctrl.getLsbD 3 = true → t.dram = s.dram ∧ t.shared = s.shared)
    (d.left ≠ 0 → s.poison = [] → descending d = false →
      (∀ w : Bool, fldB s (F.DMA_CH_CTL_PACED c) = false → ∃ t, exec (.dmaBurst c w) s = .next t ∧ moved t)
      ∧ (∀ w : Bool, fldB s (F.DMA_CH_CTL_PACED c) = true → requested s c = true →
          ∃ t, exec (.dmaBurst c w) s = .next t ∧ moved t ∧ countedUp s t (F.DMA_BURSTS c) 1
            ∧ ∀ r : Nat, r < 13 → t.dma.lines.getLsbD r = (s.dma.lines.getLsbD r && r != fld s (F.DMA_CH_CTL_REQ c)))
      ∧ (∀ w : Bool, fldB s (F.DMA_CH_CTL_PACED c) = true → requested s c = false → Ignored (.dmaBurst c w) s))
    ∧ (d.left ≠ 0 → fldB s (F.DMA_CH_CTL_PACED c) = true → fld s (F.DMA_REQ_TMO c) ≠ 0 → requested s c = false →
        ∃ t, exec (.dmaRequestTimeout c) s = .next t ∧ fld t (F.DMA_CH_STAT_LAST_RESULT c) = 4
          ∧ fld t (F.DMA_CH_STAT_STATE c) = 5 ∧ fldB t (F.DMA_CH_CTL_RUN c) = false ∧ t.dma.cur[c] = none
          ∧ fld t (F.DMA_TAIL c) = (fld s (F.DMA_TAIL c) + 1) % 65536)
    ∧ (d.left = 0 → a + 32 ≤ dramUsable s → ∃ t, exec (.dmaDescriptorEnd c) s = .next t
        ∧ fld t (F.DMA_TAIL c) = (fld s (F.DMA_TAIL c) + 1) % 65536
        ∧ memNat t.dram (a + 0x18) 4 = (if descending d then 256 else 0)
        ∧ memNat t.dram (a + 0x1C) 4 = (~~~ BitVec.ofNat 32 (fld s (F.DMA_CUR_CRC c))).toNat
        ∧ memNat t.dram (a + 0x14) 4 = d.ctrl.toNat % 2 ^ 31
        ∧ (∀ y : Nat, (y < a + 0x14 ∨ a + 0x20 ≤ y) → memGet t.dram y = memGet s.dram y)
        ∧ (d.ctrl.getLsbD 4 = true → ∀ k ∈ claimants s 4 c, (stw t k).evpend.getLsbD 11 = true))

/-! ## Serial lanes (R462 to R480) -/

/-- A lane that loses its signal or lock is neither aligned nor settled, counts and raises its alarm while in service; a
release clears the flag, and lock aligns the lane; settled results are stored, a pod lane's with its PD_ID; TEST and CHK;
and group alignment.
That a lane's loss takes its link's LOCK is the model's reading (log entry 52). -/
def Obligations.SerialLanes : Prop :=
  ∀ (s : State) (l : Fin 42) (g : Fin 4) (v : Word) (p : Fin 24), StnOk s →
    let ctl := (F.LANE_CTL_TEST l).addr
    (alive s = true →
      (fldB s (F.LANE_STAT_LOS l) = false → ∃ t, exec (.laneLos l) s = .next t ∧ fldB t (F.LANE_STAT_LOS l) = true
          ∧ fldB t (F.LANE_STAT_ALIGNED l) = false ∧ fldB t (F.LANE_STAT_SETTLED l) = false
          ∧ (laneInService s l = true → countedUp s t (F.LANE_EVENTS_LOS_COUNT l) 1 ∧ (slotGet t (370 + l.val)).isOpen = true
              ∧ (l.val = 10 + p.val → fldB t (F.PODL_STAT_LOCK p) = false ∧ podUp t p = false)))
      ∧ (fldB s (F.LANE_STAT_LOL l) = false → ∃ t, exec (.laneLol l) s = .next t ∧ fldB t (F.LANE_STAT_LOL l) = true
          ∧ fldB t (F.LANE_STAT_ALIGNED l) = false ∧ fldB t (F.LANE_STAT_SETTLED l) = false
          ∧ (laneInService s l = true → countedUp s t (F.LANE_EVENTS_LOL_COUNT l) 1 ∧ (slotGet t (370 + l.val)).isOpen = true))
      ∧ (∃ t, exec (.laneLosRelease l) s = .next t ∧ fldB t (F.LANE_STAT_LOS l) = false
          ∧ fldB t (F.LANE_STAT_ALIGNED l) = fldB s (F.LANE_STAT_ALIGNED l))
      ∧ (∃ t, exec (.laneLolRelease l) s = .next t ∧ fldB t (F.LANE_STAT_LOL l) = false
          ∧ fldB t (F.LANE_STAT_ALIGNED l) = true ∧ (l.val = 10 + p.val → fldB t (F.PODL_STAT_LOCK p) = true))
      ∧ (∃ t, exec (.groupAligned g) s = .next t ∧ t.lanes.aligned.getLsbD g = true
          ∧ ∀ h : Nat, h < 4 → h ≠ g.val → t.lanes.aligned.getLsbD h = s.lanes.aligned.getLsbD h))
    ∧ (∃ t, exec (.groupAlignmentLost g) s = .next t ∧ t.lanes.aligned.getLsbD g = false ∧ t.stn = s.stn)
    ∧ (laneInService s l = true → fldB s (F.LANE_STAT_LOS l) = false → fldB s (F.LANE_STAT_LOL l) = false →
        ∃ t, exec (.laneSettled l) s = .next t ∧ fldB t (F.LANE_STAT_SETTLED l) = true
          ∧ (l.val, laneRate s l) ∈ t.lanes.stored ∧ (tuned s l = false → t.therm.dirty = true)
          ∧ (l.val = 10 + p.val → (p.val, BitVec.ofNat 32 (fld s (F.PODL_ID p 0))) ∈ t.lanes.podIds))
    ∧ (takesStores s = true →
      (testIgnored s l (v ||| 4) = false → ∃ t, exec (.laneTest l v) s = .next t ∧ stnWord t ctl = (v ||| 4) &&& 0x7F)
      ∧ (testIgnored s l (v ||| 4) = true → ∃ t, exec (.laneTest l v) s = .next t ∧ stnWord t ctl = stnWord s ctl
          ∧ fldB t (F.LANE_STAT_TEST_IGNORED l) = true)
      ∧ ∃ t, exec (.laneChk l) s = .next t ∧ fld t (F.LANE_ERR l) = 0
          ∧ fldB t (F.LANE_CTL_TEST l) = fldB s (F.LANE_CTL_TEST l))


/-! ## Power and heat (R481 to R496) -/

/-- The slack loop, with VFLOOR and VSET within their range: the interval's least slack steps VSET up, a run of
evaluations with slack to spare steps it down, and a replica below its low mark raises VFLOOR. What the engines
measure, their work times, shares and capacities, is an operand (log entry 84). -/
def Sys2Proof.Claims.SlackLoop : Prop :=
  ∀ (s : State) (slack : SlackMeas) (replica : Int), StnOk s →
    let f := fld s F.PWR_STAT_VFLOOR
    let v := fld s F.PWR_STAT_VSET
    let m := slackMin s slack
    let t0 : Int := slackTarget s
    let n := if (t0 + 2) * 1024 < 100 * m then s.pwr.down + 1 else 0
    let leaves := fun (f1 v1 : Nat) (down : Nat) => ∃ t, exec (.slackTimer slack replica) s = .next t
      ∧ fld t F.PWR_STAT_VFLOOR = f1 ∧ fld t F.PWR_STAT_VSET = v1 ∧ t.pwr.down = down
      ∧ (fld t F.PWR_SLACK_MIN : Int) = m % 65536
    240 ≤ f → f ≤ v → v ≤ 360 →
      (replica < 0 → let f1 := min 360 (f + 2)
        leaves f1 (if v < f1 then f1 else min 360 (v + fld s F.PWR_CFG_STEP_MAX)) n)
      ∧ (0 ≤ replica → m ≤ 0 → leaves f (min 360 (v + fld s F.PWR_CFG_STEP_MAX)) n)
      ∧ (0 ≤ replica → 0 < m → 100 * m < (t0 - 2) * 1024 → leaves f (min 360 (v + fld s F.PWR_CFG_STEP_UP)) n)
      ∧ (0 ≤ replica → 0 < m → (t0 - 2) * 1024 ≤ 100 * m → max 1 (fld s F.PWR_CFG_DOWN_N) ≤ n → leaves f (max f (v - 1)) 0)
      ∧ (0 ≤ replica → 0 < m → (t0 - 2) * 1024 ≤ 100 * m → n < max 1 (fld s F.PWR_CFG_DOWN_N) → leaves f v n)
      ∧ ∃ t, exec .vfloorFall s = .next t ∧ fld t F.PWR_STAT_VFLOOR = max 240 (f - 1) ∧ fld t F.PWR_STAT_VSET = v

/-- Rail faults: a phase over its current limit is off until reset, an undervoltage is noted, and an overvoltage holds
the device in reset with every steward halted. What holds after a rail fault is the model's reading (log entry 70). -/
def Sys2Proof.Claims.RailFaults : Prop :=
  ∀ (s : State) (n : Fin 8) (x : Nat), StnOk s → alive s = true →
    (∃ t, exec (.phaseOvercurrent n x) s = .next t ∧ t.pwr.off.getLsbD n = true
      ∧ (fld t F.PWR_RAIL_FAULT_PHASE).testBit n = true ∧ (slotGet t (328 + n.val)).isOpen = true)
    ∧ (∃ t, exec (.coreUndervoltage x) s = .next t ∧ fldB t F.PWR_RAIL_FAULT_UV = true
      ∧ (slotGet t 328).isOpen = true ∧ t.pwr = s.pwr)
    ∧ ∃ t, exec (.coreOvervoltage x) s = .next t ∧ t.boot.phase = .inReset ∧ t.boot.ovHold = true
      ∧ (∀ k : Fin 8, (stw t k).run = .halted) ∧ t.dram = s.dram ∧ (slotGet t 328).isOpen = true

/-- Pod high voltage: HV_EN lowers the enables whose bits are cleared and raises the first one asked for, one per
HV_GAP; a pod that shows no HV in time enters HV fault. -/
def Sys2Proof.Claims.PodHighVoltage : Prop :=
  ∀ (s : State) (v : Word) (p : Fin 24), StnOk s → takesStores s = true → isActive s = true →
    let asks := fun q : Nat => v.getLsbD q = true ∧ (fld s F.PODPWR_HV_STAT).testBit q = false
      ∧ (fld s F.PODPWR_HV_FAULT).testBit q = false ∧ (fld s F.PODPWR_PZ_INHIBIT).testBit q = false
    let waits := fun q : Nat => s.pwr.hvReq.getLsbD q = true
      ∧ (fld s F.PODPWR_HV_FAULT).testBit q = false ∧ (fld s F.PODPWR_PZ_INHIBIT).testBit q = false
    (∃ t, exec (.hvEnWrite v) s = .next t ∧ fld t F.PODPWR_HV_EN = v.toNat % 2 ^ 24
      ∧ (∀ q : Nat, q < 24 → v.getLsbD q = false → (fld t F.PODPWR_HV_STAT).testBit q = false)
      ∧ (∀ q : Nat, q < 24 → v.getLsbD q = true → (fld s F.PODPWR_HV_STAT).testBit q = true →
          (fld t F.PODPWR_HV_STAT).testBit q = true)
      ∧ (s.pwr.hvReq = 0 → hvGapOver s = true → asks p → (∀ q : Nat, q < p.val → ¬ asks q) →
          (fld t F.PODPWR_HV_STAT).testBit p = true))
    ∧ (hvGapOver s = false → exec .hvSequenceStep s = .next s)
    ∧ (hvGapOver s = true → waits p → (∀ q : Nat, q < p.val → ¬ waits q) → ∃ t, exec .hvSequenceStep s = .next t
        ∧ (fld t F.PODPWR_HV_STAT).testBit p = true ∧ t.pwr.hvReq.getLsbD p = false)
    ∧ ((fld s F.PODPWR_HV_STAT).testBit p = true → fldB s (F.PODL_STAT_HV p) = false →
        ∃ t, exec (.hvOkTimeout p) s = .next t ∧ (fld t F.PODPWR_HV_FAULT).testBit p = true
          ∧ (fld t F.PODPWR_HV_STAT).testBit p = false ∧ (slotGet t (336 + p.val)).isOpen = true)

/-- A thermal step keeps the measured rail and moves the die's model by the first-order step towards its ambient plus P
times RTH; the end of a housekeeping round writes every channel's value. TAU 0 is left out (log entry 23). -/
def Sys2Proof.Claims.ThermalModel : Prop :=
  ∀ (s : State) (vcore icore : Nat) (codes : List (BitVec 12)) (dieT : List Int), StnOk s → alive s = true →
    let z := s.pwr.die
    let power : Int := vcore * icore / 100 + fld s F.PWR_DIE_POTHER
    let tau : Int := fld s F.PWR_DIE_TAU
    (z.seen = true → tau ≠ 0 → ∃ t, exec (.thermalModelStep vcore icore) s = .next t
      ∧ t.pwr.die.t = wrapS32 (z.t + (wrapS32 (wrapS32 (z.amb + heat power (fld s F.PWR_DIE_RTH)) - z.t)).tdiv tau)
      ∧ fld t F.PWR_MEAS_VCORE = vcore % 65536 ∧ fld t F.PWR_MEAS_ICORE = icore % 65536)
    ∧ (s.pwr.hk = true → codes.length = 32 → ∃ t, exec (.housekeepingRoundEnd codes dieT) s = .next t
      ∧ t.pwr.hk = false ∧ ∀ i (h : i < codes.length), fld t (F.PWR_HK_VAL i) = codes[i].toNat)

/-! ## Resets and start-up (R36, R497 to R499, R511, R513 to R516) -/

/-- A power-on reset leaves the thermos alone; a warm one keeps the DRAM too; the boot ROM starts the image of the boot
slot; the other resets name their kind; and readiness starts the resident and elects. What each reset keeps, and
where resets count, is the model's reading (log entries 72 and 73). -/
def Sys2Proof.Claims.ResetsAndStartup : Prop :=
  ∀ (s : State) (pairPos : Bool) (trained fastOk : BitVec 4) (part : DramPart) (n : Nat),
    let cleared := fun t : State => t.stn = [] ∧ t.shared = [] ∧ (∀ k : Fin 8, stw t k = Steward.init)
      ∧ t.therm.slots = s.therm.slots ∧ t.therm.banks = s.therm.banks ∧ t.pending = s.pending
      ∧ (s.therm.resets ≠ BitVec.allOnes 24 → t.therm.resets = s.therm.resets + 1)
    let boots := s.boot.thermalLatch = false ∧ slotBoots s s.therm.slots[s.therm.bootSlot] = true
    (∃ t, exec (.powerOnReset pairPos) s = .next t ∧ t.boot.phase = .inReset ∧ t.boot.kind = 0 ∧ t.boot.strap = pairPos
      ∧ t.dram = [] ∧ cleared t)
    ∧ (s.boot.phase ≠ .unpowered → (s.boot.phase ≠ .inReset ∨ s.boot.ovHold = true) →
      ∃ t, exec .pinResetAssert s = .next t ∧ t.boot.phase = .inReset ∧ t.boot.kind = 1 ∧ t.boot.ovHold = false
        ∧ t.dram = s.dram ∧ cleared t)
    ∧ (s.boot.phase = .inReset → s.boot.ovHold = false → s.therm.pending = none → boots →
      ∃ t, exec .pinResetRelease s = .next t ∧ t.boot.phase = .starting ∧ t.boot.slot = s.therm.bootSlot
        ∧ t.boot.kind = s.boot.kind)
    ∧ (s.boot.restartDue = some (n + 1) → ∃ t, exec .restartReset s = .next t ∧ t.twin.peerRst = .high
        ∧ t.boot.restartDue = some 0 ∧ t.stewards = s.stewards)
    ∧ (s.boot.restartDue = some 0 → s.twin.peerRst = .low → s.therm.pending = none → boots →
      ∃ t, exec .restartReset s = .next t ∧ t.boot.phase = .starting ∧ t.boot.kind = 2 ∧ t.dram = s.dram ∧ cleared t)
    ∧ (s.boot.phase = .starting → s.boot.pendingBoot = true → boots → ∃ t, exec .fallbackReset s = .next t
        ∧ t.boot.phase = .starting ∧ t.boot.kind = 3 ∧ t.therm.pending = none ∧ t.boot.slot = s.therm.bootSlot)
    ∧ (s.boot.phase ≠ .unpowered → ∃ t, exec .powerLoss s = .next t ∧ t.boot.phase = .unpowered
        ∧ t.therm.slots = s.therm.slots ∧ t.therm.banks = s.therm.banks ∧ t.pins.activeOut = false ∧ t.dram = [])
    ∧ (s.boot.phase = .starting → ∃ t, exec (.readiness trained fastOk part) s = .next t ∧ t.boot.phase = .ready
        ∧ t.twin.role = .electing ∧ (stw t 6).run = .running ∧ (stw t 7).run = .running ∧ t.mbx.started = true
        ∧ (slotGet t 0).isOpen = true
        ∧ (StnOk s → fld t F.DRAM_STAT_TRAINED = trained.toNat ∧ fld t F.DRAM_CFG_DENSITY = part.density.val
          ∧ fldB t F.DRAM_CFG_RANKS2 = part.ranks2 ∧ fldB t F.DRAM_STAT_RFM_REQ = part.rfm))

/-- The output balls in reset and without power: the motor and AUX balls are high-impedance, the outputs of R36 are low,
the heartbeat is static, every transmit lane is idle and no uplink is driven. At readiness the heartbeat and READY
start.
The AUX balls before readiness are log entry 123, the phase of the heartbeat log entry 114. -/
def Sys2Proof.Claims.OutputBalls : Prop :=
  ∀ (s : State) (pairPos : Bool) (trained fastOk : BitVec 4) (part : DramPart),
    let quiet := fun t : State => (∀ (k : Fin 4) (h : Half), pwmBall t k h = .highZ) ∧ (∀ b : Fin 8, auxOut t b = .highZ)
      ∧ activeOutBall t = false ∧ peerRstBall t = false ∧ lineSyncBall t = false ∧ (∀ p : Fin 24, hvBall t p = false)
      ∧ hbOut t = false ∧ (∀ l : Fin 42, txIdle t l = true) ∧ ∀ n : Fin 4, uplinkDriven t n = false
    (∃ t, exec (.powerOnReset pairPos) s = .next t ∧ quiet t)
    ∧ (s.boot.phase ≠ .unpowered → (s.boot.phase ≠ .inReset ∨ s.boot.ovHold = true) →
        ∃ t, exec .pinResetAssert s = .next t ∧ quiet t)
    ∧ (s.boot.phase ≠ .unpowered → ∃ t, exec .powerLoss s = .next t ∧ quiet t)
    ∧ (s.boot.phase = .starting → ∃ t, exec (.readiness trained fastOk part) s = .next t ∧ auxOut t 7 = .high
        ∧ hbOut t = (t.clk.now / 1600 % 2 == 1) ∧ ∀ (k : Fin 4) (h : Half), pwmBall t k h = .highZ)

/-- The thermos: a settings commit writes the bank that is not the newest under the next SEQ and is then the newest; a
counter write keeps the epoch, the address and the pair number. -/
def Sys2Proof.Claims.ThermosWrites : Prop :=
  ∀ (s : State) (b : SetBank) (wear : BitVec 16) (swapped : Nat), s.boot.phase = .ready →
    (s.therm.dirty = true → s.therm.banks[s.therm.newest] = some b →
      ∃ t c, exec (.thermosSettingsCommit wear swapped) s = .next t ∧ t.therm.spares = s.therm.spares - swapped
      ∧ t.therm.newest ≠ s.therm.newest ∧ t.therm.banks[t.therm.newest] = some c ∧ c.seq = b.seq + 1
      ∧ c.bulkBank = b.bulkBank ∧ t.therm.banks[s.therm.newest] = some b ∧ t.therm.dirty = false)
    ∧ (s.therm.dirty = false → Ignored (.thermosSettingsCommit wear swapped) s)
    ∧ ∃ t, exec .thermosCounterWrite s = .next t ∧ t.therm.epoch = s.twin.epoch ∧ t.therm.keptAddr = s.therm.devAddr
      ∧ t.therm.keptPair = s.therm.pair ∧ t.stn = s.stn

/-! ## I²C and JTAG (R547 to R550) -/

/-- The status word leaves as four bytes, bits [7:0] first, with its flags in their places. READY after a shutdown is
the model's reading (log entry 74). -/
def Sys2Proof.Claims.StatusWord : Prop :=
  ∀ s : State, s.boot.phase ≠ .unpowered →
    ∃ w : Word, exec .i2cStatusRead s = .next (emit s (.i2c (leBytes 4 w.toNat)))
      ∧ w.getLsbD 2 = (s.boot.phase == .ready || (s.boot.phase == .shut && s.mbx.started))
      ∧ w.getLsbD 7 = !w.getLsbD 2
      ∧ w.getLsbD 3 = (s.boot.phase == .ready && s.round.busy.isSome)
      ∧ w.getLsbD 8 = s.boot.thermalLatch ∧ w.getLsbD 9 = s.boot.ovHold ∧ w.getLsbD 10 = (s.boot.phase == .noFirmware)
      ∧ w.getLsbD 11 = s.boot.strap ∧ w.getLsbD 12 = (s.boot.phase == .ready && s.twin.joined)
      ∧ w.getLsbD 14 = (s.boot.phase == .ready && jobRuns s) ∧ w.getLsbD 15 = (s.boot.kind == 3)
      ∧ w.extractLsb' 16 8 = BitVec.ofNat 8 (min 255 s.pwr.dieTemp)
      ∧ w.extractLsb' 24 8 = s.therm.devAddr.getD 0x7F

/-- The JTAG port of a powered device: each instruction is loaded and captures its register; the boundary instructions
act only while the reset input is asserted, else as BYPASS. Conditions are read as the instruction acts (log entry
78); the cells are a list as preloaded (log entry 86). -/
def Sys2Proof.Claims.JtagInstructions : Prop :=
  ∀ (s : State) (cells : List Bool) (code : Byte), s.boot.phase ≠ .unpowered →
    let loaded := fun c : Byte => { s with jtag := { s.jtag with ir := c } }
    let held := s.boot.phase = .inReset ∧ s.boot.ovHold = false
    let boundary := fun (c : Instr) (ir : Byte) => (held → exec c s = .next (emit (loaded ir) (.tdo s.jtag.cells)))
      ∧ (¬ held → exec c s = .next (emit (loaded ir) (.tdo [false])))
    let bypasses := fun (c : Instr) (ir : Byte) => exec c s = .next (emit (loaded ir) (.tdo [false]))
    exec .tapReset s = .next (loaded 0x01)
    ∧ boundary .extest 0x00 ∧ boundary .extestPulse 0x03 ∧ boundary .extestTrain 0x04
    ∧ bypasses .clamp 0x05 ∧ bypasses .highz 0x06 ∧ bypasses (.bypass code) 0xFF
    ∧ (∃ bits, exec .idcode s = .next (emit (loaded 0x01) (.tdo bits)) ∧ bits.length = 32
        ∧ ∀ i (h : i < bits.length), bits[i] = (0x14264A6B : Nat).testBit i)
    ∧ exec (.samplePreload cells) s = .next { s with jtag := { s.jtag with ir := 0x02, cells := cells } }
    ∧ ∃ bits, exec .imageStatus s = .next (emit (loaded 0x22) (.tdo bits)) ∧ bits.length = 8
        ∧ ∀ i (h : i < bits.length), i ≠ 0 → i ≠ 1 → bits[i] = (decide (i = 2) && s.jtag.overflow)

/-- The image path of a device without firmware: IMAGE_LOAD opens an empty staging area, each update appends one word
little-endian until 1 MiB, and IMAGE_COMMIT makes a good image the pending one of slot A and refuses another.
IMAGE_LOAD clears OVERFLOW and IMAGE_COMMIT sets TRIES 0: log entry 78. The signature check is that of FIPS 186-5
(log entry 13). -/
def Sys2Proof.Claims.ImagePath : Prop :=
  ∀ (s : State) (w : Word), s.boot.phase = .noFirmware →
    (∃ t, exec .imageLoad s = .next t ∧ t.jtag.ir = 0x20 ∧ t.jtag.staging = [] ∧ t.jtag.state = 0
      ∧ t.jtag.overflow = false)
    ∧ (s.jtag.ir = 0x20 → s.jtag.staging.length + 4 ≤ 1048576 → ∃ t, exec (.imageLoadUpdate w) s = .next t
      ∧ t.jtag.staging = s.jtag.staging ++ leBytes 4 w.toNat ∧ t.jtag.overflow = s.jtag.overflow)
    ∧ (s.jtag.ir = 0x20 → 1048576 < s.jtag.staging.length + 4 → ∃ t, exec (.imageLoadUpdate w) s = .next t
      ∧ t.jtag.staging = s.jtag.staging ∧ t.jtag.overflow = true)
    ∧ ((s.jtag.overflow = true ∨ fwValid s s.jtag.staging = false) → ∃ t, exec .imageCommit s = .next t
      ∧ t.jtag.state = 3 ∧ t.therm = s.therm)
    ∧ (s.jtag.overflow = false → fwValid s s.jtag.staging = true → ∃ t f, exec .imageCommit s = .next t
      ∧ t.jtag.state = 2 ∧ t.therm.pending = some 0 ∧ t.therm.tries = 0 ∧ t.therm.slots[(0 : Fin 2)] = some f
      ∧ f.image = s.jtag.staging ∧ t.therm.bootSlot = s.therm.bootSlot)


/-! ## Rules stated whole -/

/-- R424: a write to SET_POS while the axis is idle sets CMD_POS and ENC_POS to the value by changing ENC_OFS and p; while
the axis moves it is ignored and sets IGNORED. (On the active and an axis that no fault, lock or retract bars.) -/
def Obligations.SetPosition : Prop :=
  ∀ (s : State) (x : Fin 4) (v : Word), StnOk s → takesStores s = true → isActive s = true → ¬ axisBarred s x →
    ((ax s x).moving = false → ∃ t o i, exec (.setPos x v) s = .next t ∧ cmdPos t x = v.toInt ∧ encPos t x = v.toInt
        ∧ ax t x = { ax s x with p := v.toInt * 65536, encOfs := o, stall := i }
        ∧ ∀ y : Fin 4, y ≠ x → ax t y = ax s y)
    ∧ ((ax s x).moving = true → ∃ t, exec (.setPos x v) s = .next t ∧ t.mot = s.mot ∧ fldB t (F.MOT_IGNORED x) = true)

/-- R386: a step adds its signed 32 bits of nanoseconds to the accumulator once, at the next tick, and leaves the
fraction; an increment in force applies at that tick as well. -/
def Obligations.TimeBaseSteps : Prop :=
  ∀ (s : State) (b : Fin 4) (v : Word) (later : Nat), takesStores s = true → b ≠ 0 → s.clk.step[b] = 0 →
    let n := later / 8 - s.clk.now / 8
    s.clk.now ≤ later → 0 < n →
    ∃ t, exec (.tbStep b v) s = .next t ∧ t.clk.acc = s.clk.acc ∧ t.stn = s.stn
      ∧ (advanceTo t later).clk.acc[b] = s.clk.acc[b] + BitVec.ofNat 60 (n * tbInc s b) + (v.setWidth 60 <<< 28)
      ∧ (advanceTo t later).clk.acc[b].extractLsb' 0 28 = (advanceTo s later).clk.acc[b].extractLsb' 0 28
      ∧ (advanceTo t later).clk.step[b] = 0

/-! ## Groups of the claims above -/

/-- The instructions with a predicate result, and those between the three register files. -/
def Obligations.PredicateAndCrossResults : Prop :=
  Claims.PredicateResults ∧ Claims.CrossRegisterResults

/-- Loads from local data, from shared memory and through the DRAM window. -/
def Obligations.Loads : Prop :=
  Claims.LocalLoads ∧ Claims.WindowLoads

/-- HALT, BRK, an instruction outside the table, misaligned accesses, parity errors, and the watchdog. -/
def Obligations.StewardFaults : Prop :=
  Claims.HaltBreakIllegal ∧ Claims.MisalignedFaults ∧ Claims.ParityFaults ∧ Claims.WatchdogExpiry

/-- SSQ and VSSQ with room and without, and the return of room. -/
def Obligations.LineQualifiedStores : Prop :=
  Claims.LineQualifiedInstructions ∧ Claims.QueueRoom

/-- The letters that read and write stations, executed and refused. -/
def Obligations.StationLetterOutcomes : Prop :=
  Claims.StationLetters ∧ Claims.RefusedStationLetters

/-- LONG starts an operation, during which letters are answered BUSY, and an operation ends. -/
def Obligations.LongOperationRuns : Prop :=
  Claims.LongOperations ∧ Claims.LongOperationEnd

/-- CALL's routines, and the answers and timeouts of those that wait for a pod or a camera. -/
def Obligations.RoutineCalls : Prop :=
  Claims.Routines ∧ Claims.RoutineTimeouts

/-- Feed frames, good and bad, and the feed deadline. -/
def Obligations.FeedFramesAndDeadlines : Prop :=
  Claims.FeedFrames ∧ Claims.FeedDeadline

/-- The customer's job slot of the Packer, and its record. -/
def Obligations.CompressorRuns : Prop :=
  Claims.CompressorSlot ∧ Claims.CompressorRecord

/-- A row decides a line, and its trigger passes. -/
def Obligations.RowLines : Prop :=
  Claims.RowLineDecision ∧ Claims.RowTrigger

/-- Web edges, the end of the interpolation and of the extrapolation. -/
def Obligations.WebMotion : Prop :=
  Claims.WebEncoder ∧ Claims.ExtrapolationEnd

/-- Cue marks, page starts and the pulses of line sync. -/
def Obligations.PageStartsAndLineSync : Prop :=
  Claims.PageStarts ∧ Claims.LineSync

/-- The commands of the health unit, and its scoring. -/
def Obligations.NozzleHealth : Prop :=
  Claims.HealthCommands ∧ Claims.HealthScoring

/-- Hampers, bulk frames and the resync. -/
def Obligations.HampersAndResync : Prop :=
  Claims.Hampers ∧ Claims.Resync

/-- The commands and the edges of the motion engine. -/
def Obligations.BarMotion : Prop :=
  Claims.MotionCommands ∧ Claims.MotionEdges

/-- Control of a DMA channel, and its copies. -/
def Obligations.DmaEngine : Prop :=
  Claims.DmaControl ∧ Claims.DmaCopies

/-- The slack loop, the rail faults, pod high voltage and the thermal models. -/
def Obligations.PowerManager : Prop :=
  Claims.SlackLoop ∧ Claims.RailFaults ∧ Claims.PodHighVoltage ∧ Claims.ThermalModel

/-- The I²C status word, the JTAG instructions and the image path. -/
def Obligations.StatusAndTestPort : Prop :=
  Claims.StatusWord ∧ Claims.JtagInstructions ∧ Claims.ImagePath

/-- Ring management and time letters. -/
def Obligations.RingAndTimeLetters : Prop :=
  Claims.RingLetters ∧ Claims.TimeLetters

/-- Frames on a hop, their retry, and the states of a link. -/
def Obligations.RoundHops : Prop :=
  Claims.RoundFrames ∧ Claims.HopRetry ∧ Claims.LinkStates

/-- The bring-up of a pod link, and what the pods answer. -/
def Obligations.PodLinkCommands : Prop :=
  Claims.PodBringup ∧ Claims.PodAnswers

/-- The control of a camera, and its frames. -/
def Obligations.Cameras : Prop :=
  Claims.CameraControl ∧ Claims.CameraFrames

/-- Resets, start-up, the output balls and the writes of the thermos. -/
def Obligations.ResetsAndThermos : Prop :=
  Claims.ResetsAndStartup ∧ Claims.OutputBalls ∧ Claims.ThermosWrites

/-! ## Completion

Each of these says that its command completes, from conditions on the state and the operands alone, and what it then
leaves. Where a clause asks for `mirrors s = false`, the device makes no hampers (it has no twin, it is the standby, or
its twin has not joined); with hampers, LeadsTo above says when its letter completes. -/

/-- SLD and VSLD of an existing station, SST and VSST of a claimed writable one, and SSQ and VSSQ with room complete: the
register holds what the station shows, the station takes the store, the pending store waits for its line; the PC moves
on (R73 to R75). -/
def Sys2Proof.Claims.StationInstructionsComplete : Prop :=
  ∀ (s : State) (k : Fin 8) (d a : Fin 32) (vd : Fin 16) (imm : BitVec 16), Runs s k →
    let x := (address s k a imm).toNat
    (x % 4 = 0 → stationWindow x → scalarExists x = true →
      ∃ v t, exec (.sld k d a imm) s = .next (regDone t k d v) ∧ (v, t) = stewardRead s k x)
    ∧ (x % 4 = 0 → stationWindow x → immediateOk x = true → claimed s k x = true →
      exec (.sst k d a imm) s = .next (told s (plainDone (storeStation s (some k) x (G s k d)) k)))
    ∧ (x % 32 = 0 → stationWindow x → (vView x).isSome = true →
      ∃ v, exec (.vsld k vd a imm) s = .next (vecDone s k vd v) ∧ v = readVec s x)
    ∧ (x % 32 = 0 → stationWindow x → vecImmediateOk x = true → claimed s k x = true →
      exec (.vsst k vd a imm) s = .next (plainDone (storeVec s x (V s k vd)) k))

/-- The four long operations that LONG starts at a device without a running job, and a firmware image with a good
signature, make the device busy with their number, letter and time; LONG_OPERATION_END of one that a letter started
frees the device and settles that letter (R127, R128). -/
def Sys2Proof.Claims.LongOperationsComplete : Prop :=
  ∀ (s : State) (e : Env) (pl : List Byte), mirrors s = false →
    (LetterReady 0x20 s e [1, 0, 0, 0] → jobRuns s = false → ∃ t, exec (.longDramRetrain e) s = .next t
      ∧ t.round.busy = some ⟨1, some e, [], s.clk.now⟩ ∧ t.round.parcels = [])
    ∧ (LetterReady 0x20 s e [2, 0, 0, 0] → jobRuns s = false →
      dramFits (taken s e [2, 0, 0, 0]) (scanBase (taken s e [2, 0, 0, 0])) 327680 = true →
      ∃ t, exec (.longPodScan e) s = .next t
        ∧ t.round.busy = some ⟨2, some e, [], s.clk.now⟩ ∧ t.round.parcels = [])
    ∧ (LetterReady 0x20 s e [3, 0, 0, 0] → jobRuns s = false → ∃ t, exec (.longThermosCommit e) s = .next t
      ∧ t.round.busy = some ⟨3, some e, [], s.clk.now⟩ ∧ t.round.parcels = [])
    ∧ (LetterReady 0x20 s e [6, 0, 0, 0] → jobRuns s = false → ∃ t, exec (.longLaneRetune e) s = .next t
      ∧ t.round.busy = some ⟨6, some e, [], s.clk.now⟩ ∧ t.round.parcels = [])
    ∧ (∀ op : Nat, op = 1 ∨ op = 3 ∨ op = 6 → LetterReady 0x20 s e [BitVec.ofNat 8 op, 0, 0, 0] → jobRuns s = false →
      ∃ t, exec (.long e [BitVec.ofNat 8 op, 0, 0, 0]) s = .next t
        ∧ t.round.busy = some ⟨op, some e, [], s.clk.now⟩ ∧ t.round.parcels = [])
    ∧ (LetterReady 0x21 s e pl → e.first = true → e.last = true → e.aux = 0 → jobRuns s = false →
      fwValid (taken s e pl) pl = true → ∃ t, exec (.firmware e pl) s = .next t
        ∧ t.round.busy = some ⟨4, some e, pl, s.clk.now⟩ ∧ t.round.parcels = [])
    ∧ (∀ (ok : BitVec 42) (b : Busy), s.round.busy = some b → b.letter = some e →
      (b.op = 1 ∨ b.op = 3 ∨ b.op = 4 ∨ b.op = 6) → ∃ t, exec (.longOperationEnd ok) s = .next t
        ∧ t.round.busy = none ∧ (streamOf t e).expected = e.seq + 1)

/-- HANDOVER: at once, on an active whose twin is eligible and has acknowledged every hamper, while the filling hamper
has the letter's room; armed for the job's end during a job; and cancelled (R339, R351, R352). -/
def Sys2Proof.Claims.HandoverLettersComplete : Prop :=
  ∀ (s : State) (e : Env),
    (LetterReady 0x22 s e [0, 0, 0, 0] → isActive s = true → s.tho.ho = .no → twinEligible s = true → s.twin.sent = [] →
      fillRoom s = true →
      ∃ t, exec (.handoverNow e) s = .next t ∧ exec (.handover e [0, 0, 0, 0]) s = .next t
        ∧ t.tho.ho = .due ∧ t.tho.letters = s.tho.letters ++ [e])
    ∧ (LetterReady 0x22 s e [1, 0, 0, 0] → mirrors s = false → jobRuns s = true → ∃ t, exec (.handoverArm e) s = .next t
      ∧ exec (.handover e [1, 0, 0, 0]) s = .next t ∧ t.tho.armed = true ∧ (streamOf t e).expected = e.seq + 1)
    ∧ (LetterReady 0x22 s e [2, 0, 0, 0] → mirrors s = false → ∃ t, exec (.handoverCancel e) s = .next t
      ∧ exec (.handover e [2, 0, 0, 0]) s = .next t ∧ t.tho.armed = false ∧ (streamOf t e).expected = e.seq + 1)

/-- The resident's routines that a CALL starts, each with exactly its words and under its rule's conditions: the result
stands in the receipt, and a routine that waits for a camera or the twin leaves its call waiting (R284, R321, R322, R371,
R511, R525). -/
def Sys2Proof.Claims.RoutinesComplete : Prop :=
  ∀ (s : State) (e : Env) (args : List Word) (n : Fin 4) (a b c : Word), mirrors s = false →
    let i : Word := BitVec.ofNat 32 n.val
    let ready := fun r : Nat => LetterReady 0x08 s e (callBytes r args)
    let start := fun r : Nat => taken s e (callBytes r args)
    let done := fun (r : Nat) (u : State) (x : Ans) => settleLetter u e (callBytes r args) x
    (ready 0x0100 → args = [i, a] → fld s (F.SIGHT_CAM_STAT_LINK n) ≠ 0 → exec (.camRead e args) s
      = .next (pushOps (waitCall (start 0x0100) e 0x0100 args) n [.routine true a 0]))
    ∧ (ready 0x0101 → args = [i, a, b] → fld s (F.SIGHT_CAM_STAT_LINK n) ≠ 0 → exec (.camWrite e args) s
      = .next (pushOps (waitCall (start 0x0101) e 0x0101 args) n [.routine false a b]))
    ∧ (ready 0x0200 → args = [a, b] → 1 ≤ a.toNat → a.toNat ≤ 50 → jobDeclared s = false →
      ∃ u m h, exec (.hltScanApply e args) s = .next (done 0x0200 u (resultWords [BitVec.ofNat 32 m, BitVec.ofNat 32 h]))
        ∧ (u, m, h) = scanApply (start 0x0200) a.toNat (b.getLsbD 0))
    ∧ (ready 0x0201 → args = [a, b, c, i] → 1 ≤ b.toNat → b.toNat ≤ 256 → c.toNat ≤ 4 → a.toNat + b.toNat ≤ 327680 →
      b.toNat ≤ lqFree s → ∃ u l, exec (.hltReset e args) s
          = .next (done 0x0201 u (resultWords (if jobRuns s then [BitVec.ofNat 32 l] else [])))
        ∧ (u, l) = hltReset (start 0x0201) a.toNat b.toNat c.toNat (decide (n.val % 2 = 1)))
    ∧ (ready 0x0300 → args = [a, b] → 1 ≤ a.toNat → a.toNat ≤ 5 → b.toNat ≤ claimTop a.toNat →
      ∃ w : Word, exec (.claimRead e args) s = .next (done 0x0300 (start 0x0300) (resultWords [w]))
        ∧ ∀ k : Fin 7, w.getLsbD k.val = hasClaim s (Fin.castSucc k) a.toNat b.toNat)
    ∧ (ready 0x0400 → args.length = 13 → args.head? = some i → n ≠ 0 → jobDeclared s = false →
      s.therm.keyState[n] = 0 → ∃ u, exec (.keyEnroll e args) s = .next (done 0x0400 u Ans.done)
        ∧ u.therm.keyState[n] = 1 ∧ u.therm.csRequired = true ∧ u.therm.keyDigest[n].length = 48)
    ∧ (ready 0x0401 → args = [i] → n ≠ 0 → jobDeclared s = false → s.therm.keyState[n] ≠ 0 → bootSignedBy s n = false →
      ∃ u, exec (.keyRevoke e args) s = .next (done 0x0401 u Ans.done) ∧ u.therm.keyState[n] = 2)
    ∧ (ready 0x0402 → args = [i] → n.val ≤ 1 → jobDeclared s = false → exec (.pairRestart e args) s
      = .next (done 0x0402 { start 0x0402 with boot := { s.boot with restartDue := some n.val } } Ans.done))

/-- Every instruction of the test port that reads or drives the pins completes at a powered device: the instruction
register takes its code, and TDO shows the boundary cells while the reset pin holds the device, else one 0 (R549). -/
def Sys2Proof.Claims.TestPortComplete : Prop :=
  ∀ (s : State) (code : Byte), s.boot.phase ≠ .unpowered →
    let held := s.boot.phase = .inReset ∧ s.boot.ovHold = false
    let shown := if held then s.jtag.cells else [false]
    let with' := fun (c : Byte) (bits : List Bool) =>
      { s with jtag := { s.jtag with ir := c }, out := s.out ++ [Out.tdo bits] }
    exec .extest s = .next (with' 0x00 shown)
    ∧ exec .extestPulse s = .next (with' 0x03 shown)
    ∧ exec .extestTrain s = .next (with' 0x04 shown)
    ∧ exec .clamp s = .next (with' 0x05 [false])
    ∧ exec .highz s = .next (with' 0x06 [false])
    ∧ exec (.bypass code) s = .next (with' 0xFF [false])
    ∧ exec .tapReset s = .next { s with jtag := { s.jtag with ir := 0x01 } }

/-- Where the commands of the station instructions, the long operations, the hand-over letters, the routines and the
test port complete. -/
def Obligations.CommandsComplete : Prop :=
  Claims.StationInstructionsComplete ∧ Claims.LongOperationsComplete ∧ Claims.HandoverLettersComplete
    ∧ Claims.RoutinesComplete ∧ Claims.TestPortComplete
end

