-- ==== Sys2Proof/Laws/Memory.lean ====
section
/-! SUPPORT. Laws of the sparse stores and of the byte memories: read after write, and the canonical form. -/
namespace Sys2Proof.Machine
open Sys2Proof

section
variable {α : Type}

theorem spAbove_mono {lo hi : Nat} {m : List (Nat × α)} (h : spAbove hi m = true) (hl : lo ≤ hi) :
    spAbove lo m = true := by
  cases m with
  | nil => rfl
  | cons e t => obtain ⟨k, v⟩ := e; simp [spAbove] at h ⊢; omega

theorem spGet_above {d : Nat → α} {a lo : Nat} {m : List (Nat × α)} (hm : spAbove lo m = true) (ha : a ≤ lo) :
    spGet d m a = d a := by
  cases m with
  | nil => rfl
  | cons e t =>
    obtain ⟨k, v⟩ := e
    have hk : lo < k := by simpa [spAbove] using hm
    have h1 : a ≠ k := by omega
    have h2 : a < k := by omega
    simp [spGet, h1, h2]

end

variable {α : Type} [DecidableEq α] {d : Nat → α}

/-! ## The canonical form -/

theorem spWf_tail {e : Nat × α} {m : List (Nat × α)} (h : spWf d (e :: m) = true) : spWf d m = true := by
  obtain ⟨k, v⟩ := e; simp [spWf] at h; exact h.2

theorem spAbove_put {lo a : Nat} {v : α} {m : List (Nat × α)} (hw : spWf d m = true) (hm : spAbove lo m = true)
    (ha : lo < a) : spAbove lo (spPut d m a v) = true := by
  cases m with
  | nil => simp only [spPut]; split <;> simp [spAbove, ha]
  | cons e t =>
    obtain ⟨k, w⟩ := e
    have hk : lo < k := by simpa [spAbove] using hm
    simp only [spWf, Bool.and_eq_true] at hw
    have ht := spAbove_mono hw.1.2 (Nat.le_of_lt hk)
    simp only [spPut]
    split
    · split <;> simp [spAbove, hk, ha]
    · split
      · split
        · exact ht
        · simp [spAbove, ha]
      · simp [spAbove, hk]

/-- A store keeps the canonical form. -/
theorem spWf_put {a : Nat} {v : α} {m : List (Nat × α)} (h : spWf d m = true) : spWf d (spPut d m a v) = true := by
  induction m with
  | nil => simp only [spPut]; split <;> simp [spWf, spAbove, *]
  | cons e t ih =>
    obtain ⟨k, w⟩ := e
    have h0 := h
    simp only [spWf, Bool.and_eq_true, decide_eq_true_eq] at h
    simp only [spPut]
    split
    · rename_i hlt
      split
      · exact h0
      · have := h.1.2
        simp [spWf, this, h.1.1, h.2, *]; simpa [spAbove] using hlt
    · split
      · rename_i heq
        split
        · exact h.2
        · subst heq; simp [spWf, *]
      · have hka : k < a := by omega
        simp [spWf, h.1.1, ih h.2, spAbove_put h.2 h.1.2 hka]

/-! ## Read after write -/

/-- A read after a store at the same place gives the value stored. -/
theorem spGet_put_same {a : Nat} {v : α} {m : List (Nat × α)} (h : spWf d m = true) :
    spGet d (spPut d m a v) a = v := by
  induction m with
  | nil => simp only [spPut]; split <;> simp [spGet, *]
  | cons e t ih =>
    obtain ⟨k, w⟩ := e
    have h' := h
    simp only [spWf, Bool.and_eq_true, decide_eq_true_eq] at h'
    simp only [spPut]
    split
    · rename_i hlt
      have hne : a ≠ k := by omega
      split
      · rename_i hv; simp [spGet, hne, hlt, hv]
      · simp [spGet]
    · split
      · rename_i heq
        subst heq
        split
        · rw [spGet_above h'.1.2 (Nat.le_refl a)]; exact (by assumption : v = d a).symm
        · simp [spGet]
      · rename_i h1 h2
        simp [spGet, h1, h2, ih h'.2]

/-- A store leaves every other place alone. -/
theorem spGet_put_other {a b : Nat} {v : α} {m : List (Nat × α)} (h : spWf d m = true) (hb : b ≠ a) :
    spGet d (spPut d m a v) b = spGet d m b := by
  induction m with
  | nil => simp only [spPut]; split <;> simp [spGet, *]
  | cons e t ih =>
    obtain ⟨k, w⟩ := e
    have h' := h
    simp only [spWf, Bool.and_eq_true, decide_eq_true_eq] at h'
    simp only [spPut]
    split
    · rename_i hlt
      split
      · rfl
      · by_cases hba : b < a
        · have : b < k := by omega
          have : b ≠ k := by omega
          simp [spGet, hb, *]
        · simp [spGet, hb, hba]
    · split
      · rename_i heq
        subst heq
        split
        · by_cases hba : b < a
          · rw [spGet_above h'.1.2 (Nat.le_of_lt hba)]; simp [spGet, hb, hba]
          · simp [spGet, hb, hba]
        · simp [spGet, hb]
      · simp only [spGet]; split
        · rfl
        · split
          · rfl
          · exact ih h'.2

/-! ## Byte memories -/

theorem memPut_wf {m : List Host.Cell} (h : Memory.wf m = true) (a : Nat) (b : Byte) :
    Memory.wf (memPut m a b) = true := spWf_put h

/-- Storing bytes keeps the canonical form. -/
theorem memStore_wf {bs : List Byte} {m : List Host.Cell} (h : Memory.wf m = true) (a : Nat) :
    Memory.wf (memStore m a bs) = true := by
  induction bs generalizing m a with
  | nil => exact h
  | cons b bs ih => exact ih (memPut_wf h a b) (a + 1)

theorem memPutNat_wf {m : List Host.Cell} (h : Memory.wf m = true) (a n v : Nat) :
    Memory.wf (memPutNat m a n v) = true := memStore_wf h a

theorem spAbove_filter {f : Nat × α → Bool} {lo : Nat} {m : List (Nat × α)} (h : spWf d m = true)
    (hm : spAbove lo m = true) : spAbove lo (m.filter f) = true := by
  induction m with
  | nil => rfl
  | cons e t ih =>
    obtain ⟨k, v⟩ := e
    have hk : lo < k := by simpa [spAbove] using hm
    simp only [spWf, Bool.and_eq_true] at h
    simp only [List.filter]
    split
    · simpa [spAbove] using hk
    · exact ih h.2 (spAbove_mono h.1.2 (Nat.le_of_lt hk))

theorem spWf_filter {f : Nat × α → Bool} {m : List (Nat × α)} (h : spWf d m = true) : spWf d (m.filter f) = true := by
  induction m with
  | nil => rfl
  | cons e t ih =>
    obtain ⟨k, v⟩ := e
    have h' := h
    simp only [spWf, Bool.and_eq_true] at h'
    simp only [List.filter]
    split
    · simp only [spWf, ih h'.2, spAbove_filter h'.2 h'.1.2, h'.1.1, Bool.and_self]
    · exact ih h'.2

/-- Clearing bytes keeps the canonical form. -/
theorem memClear_wf {m : List Host.Cell} (h : Memory.wf m = true) (a n : Nat) : Memory.wf (memClear m a n) = true :=
  spWf_filter h

/-- A byte outside the bytes stored reads as before. -/
theorem memGet_store_outside {bs : List Byte} {m : List Host.Cell} (h : Memory.wf m = true) {a x : Nat}
    (hx : x < a ∨ a + bs.length ≤ x) : memGet (memStore m a bs) x = memGet m x := by
  induction bs generalizing m a with
  | nil => rfl
  | cons b bs ih =>
    simp only [List.length_cons] at hx
    rw [memStore, ih (memPut_wf h a b) (by omega)]
    exact spGet_put_other h (by omega)

/-- A byte inside reads as stored. -/
theorem memGet_store_inside {bs : List Byte} {m : List Host.Cell} (h : Memory.wf m = true) {a i : Nat}
    (hi : i < bs.length) : memGet (memStore m a bs) (a + i) = bs[i] := by
  induction bs generalizing m a i with
  | nil => simp at hi
  | cons b bs ih =>
    cases i with
    | zero =>
      rw [memStore, memGet_store_outside (memPut_wf h a b) (by omega)]
      exact spGet_put_same h
    | succ i =>
      have := ih (memPut_wf h a b) (a := a + 1) (i := i) (by simpa using hi)
      rw [memStore]
      simpa [Nat.add_assoc, Nat.add_comm 1 i] using this

theorem reset_memory_wf : Memory.wf State.reset.dram = true ∧ Memory.wf State.reset.shared = true := ⟨rfl, rfl⟩

end Sys2Proof.Machine
end

