-- ==== Sys2Proof/Laws/State.lean ====
section
/-! SUPPORT. What each update of the state leaves alone: one lemma for each field and update. -/
namespace Sys2Proof.Machine
open Sys2Proof

/-! `setStnWord` -/
@[simp] theorem setStnWord_stewards (s : State) (a : Nat) (v : Word) : (setStnWord s a v).stewards = s.stewards := rfl
@[simp] theorem setStnWord_shared (s : State) (a : Nat) (v : Word) : (setStnWord s a v).shared = s.shared := rfl
@[simp] theorem setStnWord_dram (s : State) (a : Nat) (v : Word) : (setStnWord s a v).dram = s.dram := rfl
@[simp] theorem setStnWord_single (s : State) (a : Nat) (v : Word) : (setStnWord s a v).single = s.single := rfl
@[simp] theorem setStnWord_poison (s : State) (a : Nat) (v : Word) : (setStnWord s a v).poison = s.poison := rfl
@[simp] theorem setStnWord_vstn (s : State) (a : Nat) (v : Word) : (setStnWord s a v).vstn = s.vstn := rfl
@[simp] theorem setStnWord_hiw (s : State) (a : Nat) (v : Word) : (setStnWord s a v).hiw = s.hiw := rfl
@[simp] theorem setStnWord_clk (s : State) (a : Nat) (v : Word) : (setStnWord s a v).clk = s.clk := rfl
@[simp] theorem setStnWord_round (s : State) (a : Nat) (v : Word) : (setStnWord s a v).round = s.round := rfl
@[simp] theorem setStnWord_mbx (s : State) (a : Nat) (v : Word) : (setStnWord s a v).mbx = s.mbx := rfl
@[simp] theorem setStnWord_twin (s : State) (a : Nat) (v : Word) : (setStnWord s a v).twin = s.twin := rfl
@[simp] theorem setStnWord_tho (s : State) (a : Nat) (v : Word) : (setStnWord s a v).tho = s.tho := rfl
@[simp] theorem setStnWord_therm (s : State) (a : Nat) (v : Word) : (setStnWord s a v).therm = s.therm := rfl
@[simp] theorem setStnWord_boot (s : State) (a : Nat) (v : Word) : (setStnWord s a v).boot = s.boot := rfl
@[simp] theorem setStnWord_jobs (s : State) (a : Nat) (v : Word) : (setStnWord s a v).jobs = s.jobs := rfl
@[simp] theorem setStnWord_pkr (s : State) (a : Nat) (v : Word) : (setStnWord s a v).pkr = s.pkr := rfl
@[simp] theorem setStnWord_scr (s : State) (a : Nat) (v : Word) : (setStnWord s a v).scr = s.scr := rfl
@[simp] theorem setStnWord_plc (s : State) (a : Nat) (v : Word) : (setStnWord s a v).plc = s.plc := rfl
@[simp] theorem setStnWord_plc2 (s : State) (a : Nat) (v : Word) : (setStnWord s a v).plc2 = s.plc2 := rfl
@[simp] theorem setStnWord_pods (s : State) (a : Nat) (v : Word) : (setStnWord s a v).pods = s.pods := rfl
@[simp] theorem setStnWord_sight (s : State) (a : Nat) (v : Word) : (setStnWord s a v).sight = s.sight := rfl
@[simp] theorem setStnWord_hlt (s : State) (a : Nat) (v : Word) : (setStnWord s a v).hlt = s.hlt := rfl
@[simp] theorem setStnWord_mot (s : State) (a : Nat) (v : Word) : (setStnWord s a v).mot = s.mot := rfl
@[simp] theorem setStnWord_drm (s : State) (a : Nat) (v : Word) : (setStnWord s a v).drm = s.drm := rfl
@[simp] theorem setStnWord_dma (s : State) (a : Nat) (v : Word) : (setStnWord s a v).dma = s.dma := rfl
@[simp] theorem setStnWord_lanes (s : State) (a : Nat) (v : Word) : (setStnWord s a v).lanes = s.lanes := rfl
@[simp] theorem setStnWord_pwr (s : State) (a : Nat) (v : Word) : (setStnWord s a v).pwr = s.pwr := rfl
@[simp] theorem setStnWord_jtag (s : State) (a : Nat) (v : Word) : (setStnWord s a v).jtag = s.jtag := rfl
@[simp] theorem setStnWord_pins (s : State) (a : Nat) (v : Word) : (setStnWord s a v).pins = s.pins := rfl
@[simp] theorem setStnWord_out (s : State) (a : Nat) (v : Word) : (setStnWord s a v).out = s.out := rfl
@[simp] theorem setStnWord_fresh (s : State) (a : Nat) (v : Word) : (setStnWord s a v).fresh = s.fresh := rfl
@[simp] theorem setStnWord_pending (s : State) (a : Nat) (v : Word) : (setStnWord s a v).pending = s.pending := rfl

/-! `setFld` -/
@[simp] theorem setFld_stewards (s : State) (f : Fld) (v : Nat) : (setFld s f v).stewards = s.stewards := rfl
@[simp] theorem setFld_shared (s : State) (f : Fld) (v : Nat) : (setFld s f v).shared = s.shared := rfl
@[simp] theorem setFld_dram (s : State) (f : Fld) (v : Nat) : (setFld s f v).dram = s.dram := rfl
@[simp] theorem setFld_single (s : State) (f : Fld) (v : Nat) : (setFld s f v).single = s.single := rfl
@[simp] theorem setFld_poison (s : State) (f : Fld) (v : Nat) : (setFld s f v).poison = s.poison := rfl
@[simp] theorem setFld_vstn (s : State) (f : Fld) (v : Nat) : (setFld s f v).vstn = s.vstn := rfl
@[simp] theorem setFld_hiw (s : State) (f : Fld) (v : Nat) : (setFld s f v).hiw = s.hiw := rfl
@[simp] theorem setFld_clk (s : State) (f : Fld) (v : Nat) : (setFld s f v).clk = s.clk := rfl
@[simp] theorem setFld_round (s : State) (f : Fld) (v : Nat) : (setFld s f v).round = s.round := rfl
@[simp] theorem setFld_mbx (s : State) (f : Fld) (v : Nat) : (setFld s f v).mbx = s.mbx := rfl
@[simp] theorem setFld_twin (s : State) (f : Fld) (v : Nat) : (setFld s f v).twin = s.twin := rfl
@[simp] theorem setFld_tho (s : State) (f : Fld) (v : Nat) : (setFld s f v).tho = s.tho := rfl
@[simp] theorem setFld_therm (s : State) (f : Fld) (v : Nat) : (setFld s f v).therm = s.therm := rfl
@[simp] theorem setFld_boot (s : State) (f : Fld) (v : Nat) : (setFld s f v).boot = s.boot := rfl
@[simp] theorem setFld_jobs (s : State) (f : Fld) (v : Nat) : (setFld s f v).jobs = s.jobs := rfl
@[simp] theorem setFld_pkr (s : State) (f : Fld) (v : Nat) : (setFld s f v).pkr = s.pkr := rfl
@[simp] theorem setFld_scr (s : State) (f : Fld) (v : Nat) : (setFld s f v).scr = s.scr := rfl
@[simp] theorem setFld_plc (s : State) (f : Fld) (v : Nat) : (setFld s f v).plc = s.plc := rfl
@[simp] theorem setFld_plc2 (s : State) (f : Fld) (v : Nat) : (setFld s f v).plc2 = s.plc2 := rfl
@[simp] theorem setFld_pods (s : State) (f : Fld) (v : Nat) : (setFld s f v).pods = s.pods := rfl
@[simp] theorem setFld_sight (s : State) (f : Fld) (v : Nat) : (setFld s f v).sight = s.sight := rfl
@[simp] theorem setFld_hlt (s : State) (f : Fld) (v : Nat) : (setFld s f v).hlt = s.hlt := rfl
@[simp] theorem setFld_mot (s : State) (f : Fld) (v : Nat) : (setFld s f v).mot = s.mot := rfl
@[simp] theorem setFld_drm (s : State) (f : Fld) (v : Nat) : (setFld s f v).drm = s.drm := rfl
@[simp] theorem setFld_dma (s : State) (f : Fld) (v : Nat) : (setFld s f v).dma = s.dma := rfl
@[simp] theorem setFld_lanes (s : State) (f : Fld) (v : Nat) : (setFld s f v).lanes = s.lanes := rfl
@[simp] theorem setFld_pwr (s : State) (f : Fld) (v : Nat) : (setFld s f v).pwr = s.pwr := rfl
@[simp] theorem setFld_jtag (s : State) (f : Fld) (v : Nat) : (setFld s f v).jtag = s.jtag := rfl
@[simp] theorem setFld_pins (s : State) (f : Fld) (v : Nat) : (setFld s f v).pins = s.pins := rfl
@[simp] theorem setFld_out (s : State) (f : Fld) (v : Nat) : (setFld s f v).out = s.out := rfl
@[simp] theorem setFld_fresh (s : State) (f : Fld) (v : Nat) : (setFld s f v).fresh = s.fresh := rfl
@[simp] theorem setFld_pending (s : State) (f : Fld) (v : Nat) : (setFld s f v).pending = s.pending := rfl

/-! `setFldB` -/
@[simp] theorem setFldB_stewards (s : State) (f : Fld) (b : Bool) : (setFldB s f b).stewards = s.stewards := rfl
@[simp] theorem setFldB_shared (s : State) (f : Fld) (b : Bool) : (setFldB s f b).shared = s.shared := rfl
@[simp] theorem setFldB_dram (s : State) (f : Fld) (b : Bool) : (setFldB s f b).dram = s.dram := rfl
@[simp] theorem setFldB_single (s : State) (f : Fld) (b : Bool) : (setFldB s f b).single = s.single := rfl
@[simp] theorem setFldB_poison (s : State) (f : Fld) (b : Bool) : (setFldB s f b).poison = s.poison := rfl
@[simp] theorem setFldB_vstn (s : State) (f : Fld) (b : Bool) : (setFldB s f b).vstn = s.vstn := rfl
@[simp] theorem setFldB_hiw (s : State) (f : Fld) (b : Bool) : (setFldB s f b).hiw = s.hiw := rfl
@[simp] theorem setFldB_clk (s : State) (f : Fld) (b : Bool) : (setFldB s f b).clk = s.clk := rfl
@[simp] theorem setFldB_round (s : State) (f : Fld) (b : Bool) : (setFldB s f b).round = s.round := rfl
@[simp] theorem setFldB_mbx (s : State) (f : Fld) (b : Bool) : (setFldB s f b).mbx = s.mbx := rfl
@[simp] theorem setFldB_twin (s : State) (f : Fld) (b : Bool) : (setFldB s f b).twin = s.twin := rfl
@[simp] theorem setFldB_tho (s : State) (f : Fld) (b : Bool) : (setFldB s f b).tho = s.tho := rfl
@[simp] theorem setFldB_therm (s : State) (f : Fld) (b : Bool) : (setFldB s f b).therm = s.therm := rfl
@[simp] theorem setFldB_boot (s : State) (f : Fld) (b : Bool) : (setFldB s f b).boot = s.boot := rfl
@[simp] theorem setFldB_jobs (s : State) (f : Fld) (b : Bool) : (setFldB s f b).jobs = s.jobs := rfl
@[simp] theorem setFldB_pkr (s : State) (f : Fld) (b : Bool) : (setFldB s f b).pkr = s.pkr := rfl
@[simp] theorem setFldB_scr (s : State) (f : Fld) (b : Bool) : (setFldB s f b).scr = s.scr := rfl
@[simp] theorem setFldB_plc (s : State) (f : Fld) (b : Bool) : (setFldB s f b).plc = s.plc := rfl
@[simp] theorem setFldB_plc2 (s : State) (f : Fld) (b : Bool) : (setFldB s f b).plc2 = s.plc2 := rfl
@[simp] theorem setFldB_pods (s : State) (f : Fld) (b : Bool) : (setFldB s f b).pods = s.pods := rfl
@[simp] theorem setFldB_sight (s : State) (f : Fld) (b : Bool) : (setFldB s f b).sight = s.sight := rfl
@[simp] theorem setFldB_hlt (s : State) (f : Fld) (b : Bool) : (setFldB s f b).hlt = s.hlt := rfl
@[simp] theorem setFldB_mot (s : State) (f : Fld) (b : Bool) : (setFldB s f b).mot = s.mot := rfl
@[simp] theorem setFldB_drm (s : State) (f : Fld) (b : Bool) : (setFldB s f b).drm = s.drm := rfl
@[simp] theorem setFldB_dma (s : State) (f : Fld) (b : Bool) : (setFldB s f b).dma = s.dma := rfl
@[simp] theorem setFldB_lanes (s : State) (f : Fld) (b : Bool) : (setFldB s f b).lanes = s.lanes := rfl
@[simp] theorem setFldB_pwr (s : State) (f : Fld) (b : Bool) : (setFldB s f b).pwr = s.pwr := rfl
@[simp] theorem setFldB_jtag (s : State) (f : Fld) (b : Bool) : (setFldB s f b).jtag = s.jtag := rfl
@[simp] theorem setFldB_pins (s : State) (f : Fld) (b : Bool) : (setFldB s f b).pins = s.pins := rfl
@[simp] theorem setFldB_out (s : State) (f : Fld) (b : Bool) : (setFldB s f b).out = s.out := rfl
@[simp] theorem setFldB_fresh (s : State) (f : Fld) (b : Bool) : (setFldB s f b).fresh = s.fresh := rfl
@[simp] theorem setFldB_pending (s : State) (f : Fld) (b : Bool) : (setFldB s f b).pending = s.pending := rfl

/-! `setFldInt` -/
@[simp] theorem setFldInt_stewards (s : State) (f : Fld) (i : Int) : (setFldInt s f i).stewards = s.stewards := rfl
@[simp] theorem setFldInt_shared (s : State) (f : Fld) (i : Int) : (setFldInt s f i).shared = s.shared := rfl
@[simp] theorem setFldInt_dram (s : State) (f : Fld) (i : Int) : (setFldInt s f i).dram = s.dram := rfl
@[simp] theorem setFldInt_single (s : State) (f : Fld) (i : Int) : (setFldInt s f i).single = s.single := rfl
@[simp] theorem setFldInt_poison (s : State) (f : Fld) (i : Int) : (setFldInt s f i).poison = s.poison := rfl
@[simp] theorem setFldInt_vstn (s : State) (f : Fld) (i : Int) : (setFldInt s f i).vstn = s.vstn := rfl
@[simp] theorem setFldInt_hiw (s : State) (f : Fld) (i : Int) : (setFldInt s f i).hiw = s.hiw := rfl
@[simp] theorem setFldInt_clk (s : State) (f : Fld) (i : Int) : (setFldInt s f i).clk = s.clk := rfl
@[simp] theorem setFldInt_round (s : State) (f : Fld) (i : Int) : (setFldInt s f i).round = s.round := rfl
@[simp] theorem setFldInt_mbx (s : State) (f : Fld) (i : Int) : (setFldInt s f i).mbx = s.mbx := rfl
@[simp] theorem setFldInt_twin (s : State) (f : Fld) (i : Int) : (setFldInt s f i).twin = s.twin := rfl
@[simp] theorem setFldInt_tho (s : State) (f : Fld) (i : Int) : (setFldInt s f i).tho = s.tho := rfl
@[simp] theorem setFldInt_therm (s : State) (f : Fld) (i : Int) : (setFldInt s f i).therm = s.therm := rfl
@[simp] theorem setFldInt_boot (s : State) (f : Fld) (i : Int) : (setFldInt s f i).boot = s.boot := rfl
@[simp] theorem setFldInt_jobs (s : State) (f : Fld) (i : Int) : (setFldInt s f i).jobs = s.jobs := rfl
@[simp] theorem setFldInt_pkr (s : State) (f : Fld) (i : Int) : (setFldInt s f i).pkr = s.pkr := rfl
@[simp] theorem setFldInt_scr (s : State) (f : Fld) (i : Int) : (setFldInt s f i).scr = s.scr := rfl
@[simp] theorem setFldInt_plc (s : State) (f : Fld) (i : Int) : (setFldInt s f i).plc = s.plc := rfl
@[simp] theorem setFldInt_plc2 (s : State) (f : Fld) (i : Int) : (setFldInt s f i).plc2 = s.plc2 := rfl
@[simp] theorem setFldInt_pods (s : State) (f : Fld) (i : Int) : (setFldInt s f i).pods = s.pods := rfl
@[simp] theorem setFldInt_sight (s : State) (f : Fld) (i : Int) : (setFldInt s f i).sight = s.sight := rfl
@[simp] theorem setFldInt_hlt (s : State) (f : Fld) (i : Int) : (setFldInt s f i).hlt = s.hlt := rfl
@[simp] theorem setFldInt_mot (s : State) (f : Fld) (i : Int) : (setFldInt s f i).mot = s.mot := rfl
@[simp] theorem setFldInt_drm (s : State) (f : Fld) (i : Int) : (setFldInt s f i).drm = s.drm := rfl
@[simp] theorem setFldInt_dma (s : State) (f : Fld) (i : Int) : (setFldInt s f i).dma = s.dma := rfl
@[simp] theorem setFldInt_lanes (s : State) (f : Fld) (i : Int) : (setFldInt s f i).lanes = s.lanes := rfl
@[simp] theorem setFldInt_pwr (s : State) (f : Fld) (i : Int) : (setFldInt s f i).pwr = s.pwr := rfl
@[simp] theorem setFldInt_jtag (s : State) (f : Fld) (i : Int) : (setFldInt s f i).jtag = s.jtag := rfl
@[simp] theorem setFldInt_pins (s : State) (f : Fld) (i : Int) : (setFldInt s f i).pins = s.pins := rfl
@[simp] theorem setFldInt_out (s : State) (f : Fld) (i : Int) : (setFldInt s f i).out = s.out := rfl
@[simp] theorem setFldInt_fresh (s : State) (f : Fld) (i : Int) : (setFldInt s f i).fresh = s.fresh := rfl
@[simp] theorem setFldInt_pending (s : State) (f : Fld) (i : Int) : (setFldInt s f i).pending = s.pending := rfl

/-! `addFld` -/
@[simp] theorem addFld_stewards (s : State) (f : Fld) (n : Nat) : (addFld s f n).stewards = s.stewards := rfl
@[simp] theorem addFld_shared (s : State) (f : Fld) (n : Nat) : (addFld s f n).shared = s.shared := rfl
@[simp] theorem addFld_dram (s : State) (f : Fld) (n : Nat) : (addFld s f n).dram = s.dram := rfl
@[simp] theorem addFld_single (s : State) (f : Fld) (n : Nat) : (addFld s f n).single = s.single := rfl
@[simp] theorem addFld_poison (s : State) (f : Fld) (n : Nat) : (addFld s f n).poison = s.poison := rfl
@[simp] theorem addFld_vstn (s : State) (f : Fld) (n : Nat) : (addFld s f n).vstn = s.vstn := rfl
@[simp] theorem addFld_hiw (s : State) (f : Fld) (n : Nat) : (addFld s f n).hiw = s.hiw := rfl
@[simp] theorem addFld_clk (s : State) (f : Fld) (n : Nat) : (addFld s f n).clk = s.clk := rfl
@[simp] theorem addFld_round (s : State) (f : Fld) (n : Nat) : (addFld s f n).round = s.round := rfl
@[simp] theorem addFld_mbx (s : State) (f : Fld) (n : Nat) : (addFld s f n).mbx = s.mbx := rfl
@[simp] theorem addFld_twin (s : State) (f : Fld) (n : Nat) : (addFld s f n).twin = s.twin := rfl
@[simp] theorem addFld_tho (s : State) (f : Fld) (n : Nat) : (addFld s f n).tho = s.tho := rfl
@[simp] theorem addFld_therm (s : State) (f : Fld) (n : Nat) : (addFld s f n).therm = s.therm := rfl
@[simp] theorem addFld_boot (s : State) (f : Fld) (n : Nat) : (addFld s f n).boot = s.boot := rfl
@[simp] theorem addFld_jobs (s : State) (f : Fld) (n : Nat) : (addFld s f n).jobs = s.jobs := rfl
@[simp] theorem addFld_pkr (s : State) (f : Fld) (n : Nat) : (addFld s f n).pkr = s.pkr := rfl
@[simp] theorem addFld_scr (s : State) (f : Fld) (n : Nat) : (addFld s f n).scr = s.scr := rfl
@[simp] theorem addFld_plc (s : State) (f : Fld) (n : Nat) : (addFld s f n).plc = s.plc := rfl
@[simp] theorem addFld_plc2 (s : State) (f : Fld) (n : Nat) : (addFld s f n).plc2 = s.plc2 := rfl
@[simp] theorem addFld_pods (s : State) (f : Fld) (n : Nat) : (addFld s f n).pods = s.pods := rfl
@[simp] theorem addFld_sight (s : State) (f : Fld) (n : Nat) : (addFld s f n).sight = s.sight := rfl
@[simp] theorem addFld_hlt (s : State) (f : Fld) (n : Nat) : (addFld s f n).hlt = s.hlt := rfl
@[simp] theorem addFld_mot (s : State) (f : Fld) (n : Nat) : (addFld s f n).mot = s.mot := rfl
@[simp] theorem addFld_drm (s : State) (f : Fld) (n : Nat) : (addFld s f n).drm = s.drm := rfl
@[simp] theorem addFld_dma (s : State) (f : Fld) (n : Nat) : (addFld s f n).dma = s.dma := rfl
@[simp] theorem addFld_lanes (s : State) (f : Fld) (n : Nat) : (addFld s f n).lanes = s.lanes := rfl
@[simp] theorem addFld_pwr (s : State) (f : Fld) (n : Nat) : (addFld s f n).pwr = s.pwr := rfl
@[simp] theorem addFld_jtag (s : State) (f : Fld) (n : Nat) : (addFld s f n).jtag = s.jtag := rfl
@[simp] theorem addFld_pins (s : State) (f : Fld) (n : Nat) : (addFld s f n).pins = s.pins := rfl
@[simp] theorem addFld_out (s : State) (f : Fld) (n : Nat) : (addFld s f n).out = s.out := rfl
@[simp] theorem addFld_fresh (s : State) (f : Fld) (n : Nat) : (addFld s f n).fresh = s.fresh := rfl
@[simp] theorem addFld_pending (s : State) (f : Fld) (n : Nat) : (addFld s f n).pending = s.pending := rfl

/-! `incFld` -/
@[simp] theorem incFld_stewards (s : State) (f : Fld) : (incFld s f).stewards = s.stewards := rfl
@[simp] theorem incFld_shared (s : State) (f : Fld) : (incFld s f).shared = s.shared := rfl
@[simp] theorem incFld_dram (s : State) (f : Fld) : (incFld s f).dram = s.dram := rfl
@[simp] theorem incFld_single (s : State) (f : Fld) : (incFld s f).single = s.single := rfl
@[simp] theorem incFld_poison (s : State) (f : Fld) : (incFld s f).poison = s.poison := rfl
@[simp] theorem incFld_vstn (s : State) (f : Fld) : (incFld s f).vstn = s.vstn := rfl
@[simp] theorem incFld_hiw (s : State) (f : Fld) : (incFld s f).hiw = s.hiw := rfl
@[simp] theorem incFld_clk (s : State) (f : Fld) : (incFld s f).clk = s.clk := rfl
@[simp] theorem incFld_round (s : State) (f : Fld) : (incFld s f).round = s.round := rfl
@[simp] theorem incFld_mbx (s : State) (f : Fld) : (incFld s f).mbx = s.mbx := rfl
@[simp] theorem incFld_twin (s : State) (f : Fld) : (incFld s f).twin = s.twin := rfl
@[simp] theorem incFld_tho (s : State) (f : Fld) : (incFld s f).tho = s.tho := rfl
@[simp] theorem incFld_therm (s : State) (f : Fld) : (incFld s f).therm = s.therm := rfl
@[simp] theorem incFld_boot (s : State) (f : Fld) : (incFld s f).boot = s.boot := rfl
@[simp] theorem incFld_jobs (s : State) (f : Fld) : (incFld s f).jobs = s.jobs := rfl
@[simp] theorem incFld_pkr (s : State) (f : Fld) : (incFld s f).pkr = s.pkr := rfl
@[simp] theorem incFld_scr (s : State) (f : Fld) : (incFld s f).scr = s.scr := rfl
@[simp] theorem incFld_plc (s : State) (f : Fld) : (incFld s f).plc = s.plc := rfl
@[simp] theorem incFld_plc2 (s : State) (f : Fld) : (incFld s f).plc2 = s.plc2 := rfl
@[simp] theorem incFld_pods (s : State) (f : Fld) : (incFld s f).pods = s.pods := rfl
@[simp] theorem incFld_sight (s : State) (f : Fld) : (incFld s f).sight = s.sight := rfl
@[simp] theorem incFld_hlt (s : State) (f : Fld) : (incFld s f).hlt = s.hlt := rfl
@[simp] theorem incFld_mot (s : State) (f : Fld) : (incFld s f).mot = s.mot := rfl
@[simp] theorem incFld_drm (s : State) (f : Fld) : (incFld s f).drm = s.drm := rfl
@[simp] theorem incFld_dma (s : State) (f : Fld) : (incFld s f).dma = s.dma := rfl
@[simp] theorem incFld_lanes (s : State) (f : Fld) : (incFld s f).lanes = s.lanes := rfl
@[simp] theorem incFld_pwr (s : State) (f : Fld) : (incFld s f).pwr = s.pwr := rfl
@[simp] theorem incFld_jtag (s : State) (f : Fld) : (incFld s f).jtag = s.jtag := rfl
@[simp] theorem incFld_pins (s : State) (f : Fld) : (incFld s f).pins = s.pins := rfl
@[simp] theorem incFld_out (s : State) (f : Fld) : (incFld s f).out = s.out := rfl
@[simp] theorem incFld_fresh (s : State) (f : Fld) : (incFld s f).fresh = s.fresh := rfl
@[simp] theorem incFld_pending (s : State) (f : Fld) : (incFld s f).pending = s.pending := rfl

/-! `wrapFld` -/
@[simp] theorem wrapFld_stewards (s : State) (f : Fld) : (wrapFld s f).stewards = s.stewards := rfl
@[simp] theorem wrapFld_shared (s : State) (f : Fld) : (wrapFld s f).shared = s.shared := rfl
@[simp] theorem wrapFld_dram (s : State) (f : Fld) : (wrapFld s f).dram = s.dram := rfl
@[simp] theorem wrapFld_single (s : State) (f : Fld) : (wrapFld s f).single = s.single := rfl
@[simp] theorem wrapFld_poison (s : State) (f : Fld) : (wrapFld s f).poison = s.poison := rfl
@[simp] theorem wrapFld_vstn (s : State) (f : Fld) : (wrapFld s f).vstn = s.vstn := rfl
@[simp] theorem wrapFld_hiw (s : State) (f : Fld) : (wrapFld s f).hiw = s.hiw := rfl
@[simp] theorem wrapFld_clk (s : State) (f : Fld) : (wrapFld s f).clk = s.clk := rfl
@[simp] theorem wrapFld_round (s : State) (f : Fld) : (wrapFld s f).round = s.round := rfl
@[simp] theorem wrapFld_mbx (s : State) (f : Fld) : (wrapFld s f).mbx = s.mbx := rfl
@[simp] theorem wrapFld_twin (s : State) (f : Fld) : (wrapFld s f).twin = s.twin := rfl
@[simp] theorem wrapFld_tho (s : State) (f : Fld) : (wrapFld s f).tho = s.tho := rfl
@[simp] theorem wrapFld_therm (s : State) (f : Fld) : (wrapFld s f).therm = s.therm := rfl
@[simp] theorem wrapFld_boot (s : State) (f : Fld) : (wrapFld s f).boot = s.boot := rfl
@[simp] theorem wrapFld_jobs (s : State) (f : Fld) : (wrapFld s f).jobs = s.jobs := rfl
@[simp] theorem wrapFld_pkr (s : State) (f : Fld) : (wrapFld s f).pkr = s.pkr := rfl
@[simp] theorem wrapFld_scr (s : State) (f : Fld) : (wrapFld s f).scr = s.scr := rfl
@[simp] theorem wrapFld_plc (s : State) (f : Fld) : (wrapFld s f).plc = s.plc := rfl
@[simp] theorem wrapFld_plc2 (s : State) (f : Fld) : (wrapFld s f).plc2 = s.plc2 := rfl
@[simp] theorem wrapFld_pods (s : State) (f : Fld) : (wrapFld s f).pods = s.pods := rfl
@[simp] theorem wrapFld_sight (s : State) (f : Fld) : (wrapFld s f).sight = s.sight := rfl
@[simp] theorem wrapFld_hlt (s : State) (f : Fld) : (wrapFld s f).hlt = s.hlt := rfl
@[simp] theorem wrapFld_mot (s : State) (f : Fld) : (wrapFld s f).mot = s.mot := rfl
@[simp] theorem wrapFld_drm (s : State) (f : Fld) : (wrapFld s f).drm = s.drm := rfl
@[simp] theorem wrapFld_dma (s : State) (f : Fld) : (wrapFld s f).dma = s.dma := rfl
@[simp] theorem wrapFld_lanes (s : State) (f : Fld) : (wrapFld s f).lanes = s.lanes := rfl
@[simp] theorem wrapFld_pwr (s : State) (f : Fld) : (wrapFld s f).pwr = s.pwr := rfl
@[simp] theorem wrapFld_jtag (s : State) (f : Fld) : (wrapFld s f).jtag = s.jtag := rfl
@[simp] theorem wrapFld_pins (s : State) (f : Fld) : (wrapFld s f).pins = s.pins := rfl
@[simp] theorem wrapFld_out (s : State) (f : Fld) : (wrapFld s f).out = s.out := rfl
@[simp] theorem wrapFld_fresh (s : State) (f : Fld) : (wrapFld s f).fresh = s.fresh := rfl
@[simp] theorem wrapFld_pending (s : State) (f : Fld) : (wrapFld s f).pending = s.pending := rfl

/-! `setVec` -/
@[simp] theorem setVec_stewards (s : State) (a : Nat) (v : Vec) : (setVec s a v).stewards = s.stewards := rfl
@[simp] theorem setVec_shared (s : State) (a : Nat) (v : Vec) : (setVec s a v).shared = s.shared := rfl
@[simp] theorem setVec_dram (s : State) (a : Nat) (v : Vec) : (setVec s a v).dram = s.dram := rfl
@[simp] theorem setVec_single (s : State) (a : Nat) (v : Vec) : (setVec s a v).single = s.single := rfl
@[simp] theorem setVec_poison (s : State) (a : Nat) (v : Vec) : (setVec s a v).poison = s.poison := rfl
@[simp] theorem setVec_stn (s : State) (a : Nat) (v : Vec) : (setVec s a v).stn = s.stn := rfl
@[simp] theorem setVec_hiw (s : State) (a : Nat) (v : Vec) : (setVec s a v).hiw = s.hiw := rfl
@[simp] theorem setVec_clk (s : State) (a : Nat) (v : Vec) : (setVec s a v).clk = s.clk := rfl
@[simp] theorem setVec_round (s : State) (a : Nat) (v : Vec) : (setVec s a v).round = s.round := rfl
@[simp] theorem setVec_mbx (s : State) (a : Nat) (v : Vec) : (setVec s a v).mbx = s.mbx := rfl
@[simp] theorem setVec_twin (s : State) (a : Nat) (v : Vec) : (setVec s a v).twin = s.twin := rfl
@[simp] theorem setVec_tho (s : State) (a : Nat) (v : Vec) : (setVec s a v).tho = s.tho := rfl
@[simp] theorem setVec_therm (s : State) (a : Nat) (v : Vec) : (setVec s a v).therm = s.therm := rfl
@[simp] theorem setVec_boot (s : State) (a : Nat) (v : Vec) : (setVec s a v).boot = s.boot := rfl
@[simp] theorem setVec_jobs (s : State) (a : Nat) (v : Vec) : (setVec s a v).jobs = s.jobs := rfl
@[simp] theorem setVec_pkr (s : State) (a : Nat) (v : Vec) : (setVec s a v).pkr = s.pkr := rfl
@[simp] theorem setVec_scr (s : State) (a : Nat) (v : Vec) : (setVec s a v).scr = s.scr := rfl
@[simp] theorem setVec_plc (s : State) (a : Nat) (v : Vec) : (setVec s a v).plc = s.plc := rfl
@[simp] theorem setVec_plc2 (s : State) (a : Nat) (v : Vec) : (setVec s a v).plc2 = s.plc2 := rfl
@[simp] theorem setVec_pods (s : State) (a : Nat) (v : Vec) : (setVec s a v).pods = s.pods := rfl
@[simp] theorem setVec_sight (s : State) (a : Nat) (v : Vec) : (setVec s a v).sight = s.sight := rfl
@[simp] theorem setVec_hlt (s : State) (a : Nat) (v : Vec) : (setVec s a v).hlt = s.hlt := rfl
@[simp] theorem setVec_mot (s : State) (a : Nat) (v : Vec) : (setVec s a v).mot = s.mot := rfl
@[simp] theorem setVec_drm (s : State) (a : Nat) (v : Vec) : (setVec s a v).drm = s.drm := rfl
@[simp] theorem setVec_dma (s : State) (a : Nat) (v : Vec) : (setVec s a v).dma = s.dma := rfl
@[simp] theorem setVec_lanes (s : State) (a : Nat) (v : Vec) : (setVec s a v).lanes = s.lanes := rfl
@[simp] theorem setVec_pwr (s : State) (a : Nat) (v : Vec) : (setVec s a v).pwr = s.pwr := rfl
@[simp] theorem setVec_jtag (s : State) (a : Nat) (v : Vec) : (setVec s a v).jtag = s.jtag := rfl
@[simp] theorem setVec_pins (s : State) (a : Nat) (v : Vec) : (setVec s a v).pins = s.pins := rfl
@[simp] theorem setVec_out (s : State) (a : Nat) (v : Vec) : (setVec s a v).out = s.out := rfl
@[simp] theorem setVec_fresh (s : State) (a : Nat) (v : Vec) : (setVec s a v).fresh = s.fresh := rfl
@[simp] theorem setVec_pending (s : State) (a : Nat) (v : Vec) : (setVec s a v).pending = s.pending := rfl

/-! `useFree` -/
@[simp] theorem useFree_stewards (s : State) : (useFree s).stewards = s.stewards := rfl
@[simp] theorem useFree_shared (s : State) : (useFree s).shared = s.shared := rfl
@[simp] theorem useFree_dram (s : State) : (useFree s).dram = s.dram := rfl
@[simp] theorem useFree_single (s : State) : (useFree s).single = s.single := rfl
@[simp] theorem useFree_poison (s : State) : (useFree s).poison = s.poison := rfl
@[simp] theorem useFree_stn (s : State) : (useFree s).stn = s.stn := rfl
@[simp] theorem useFree_vstn (s : State) : (useFree s).vstn = s.vstn := rfl
@[simp] theorem useFree_hiw (s : State) : (useFree s).hiw = s.hiw := rfl
@[simp] theorem useFree_clk (s : State) : (useFree s).clk = s.clk := rfl
@[simp] theorem useFree_round (s : State) : (useFree s).round = s.round := rfl
@[simp] theorem useFree_mbx (s : State) : (useFree s).mbx = s.mbx := rfl
@[simp] theorem useFree_twin (s : State) : (useFree s).twin = s.twin := rfl
@[simp] theorem useFree_tho (s : State) : (useFree s).tho = s.tho := rfl
@[simp] theorem useFree_therm (s : State) : (useFree s).therm = s.therm := rfl
@[simp] theorem useFree_boot (s : State) : (useFree s).boot = s.boot := rfl
@[simp] theorem useFree_jobs (s : State) : (useFree s).jobs = s.jobs := rfl
@[simp] theorem useFree_pkr (s : State) : (useFree s).pkr = s.pkr := rfl
@[simp] theorem useFree_scr (s : State) : (useFree s).scr = s.scr := rfl
@[simp] theorem useFree_plc (s : State) : (useFree s).plc = s.plc := rfl
@[simp] theorem useFree_plc2 (s : State) : (useFree s).plc2 = s.plc2 := rfl
@[simp] theorem useFree_pods (s : State) : (useFree s).pods = s.pods := rfl
@[simp] theorem useFree_sight (s : State) : (useFree s).sight = s.sight := rfl
@[simp] theorem useFree_hlt (s : State) : (useFree s).hlt = s.hlt := rfl
@[simp] theorem useFree_mot (s : State) : (useFree s).mot = s.mot := rfl
@[simp] theorem useFree_drm (s : State) : (useFree s).drm = s.drm := rfl
@[simp] theorem useFree_dma (s : State) : (useFree s).dma = s.dma := rfl
@[simp] theorem useFree_lanes (s : State) : (useFree s).lanes = s.lanes := rfl
@[simp] theorem useFree_pwr (s : State) : (useFree s).pwr = s.pwr := rfl
@[simp] theorem useFree_jtag (s : State) : (useFree s).jtag = s.jtag := rfl
@[simp] theorem useFree_pins (s : State) : (useFree s).pins = s.pins := rfl
@[simp] theorem useFree_out (s : State) : (useFree s).out = s.out := rfl
@[simp] theorem useFree_pending (s : State) : (useFree s).pending = s.pending := rfl

/-! `emit` -/
@[simp] theorem emit_stewards (s : State) (o : Out) : (emit s o).stewards = s.stewards := rfl
@[simp] theorem emit_shared (s : State) (o : Out) : (emit s o).shared = s.shared := rfl
@[simp] theorem emit_dram (s : State) (o : Out) : (emit s o).dram = s.dram := rfl
@[simp] theorem emit_single (s : State) (o : Out) : (emit s o).single = s.single := rfl
@[simp] theorem emit_poison (s : State) (o : Out) : (emit s o).poison = s.poison := rfl
@[simp] theorem emit_stn (s : State) (o : Out) : (emit s o).stn = s.stn := rfl
@[simp] theorem emit_vstn (s : State) (o : Out) : (emit s o).vstn = s.vstn := rfl
@[simp] theorem emit_hiw (s : State) (o : Out) : (emit s o).hiw = s.hiw := rfl
@[simp] theorem emit_clk (s : State) (o : Out) : (emit s o).clk = s.clk := rfl
@[simp] theorem emit_round (s : State) (o : Out) : (emit s o).round = s.round := rfl
@[simp] theorem emit_mbx (s : State) (o : Out) : (emit s o).mbx = s.mbx := rfl
@[simp] theorem emit_twin (s : State) (o : Out) : (emit s o).twin = s.twin := rfl
@[simp] theorem emit_tho (s : State) (o : Out) : (emit s o).tho = s.tho := rfl
@[simp] theorem emit_therm (s : State) (o : Out) : (emit s o).therm = s.therm := rfl
@[simp] theorem emit_boot (s : State) (o : Out) : (emit s o).boot = s.boot := rfl
@[simp] theorem emit_jobs (s : State) (o : Out) : (emit s o).jobs = s.jobs := rfl
@[simp] theorem emit_pkr (s : State) (o : Out) : (emit s o).pkr = s.pkr := rfl
@[simp] theorem emit_scr (s : State) (o : Out) : (emit s o).scr = s.scr := rfl
@[simp] theorem emit_plc (s : State) (o : Out) : (emit s o).plc = s.plc := rfl
@[simp] theorem emit_plc2 (s : State) (o : Out) : (emit s o).plc2 = s.plc2 := rfl
@[simp] theorem emit_pods (s : State) (o : Out) : (emit s o).pods = s.pods := rfl
@[simp] theorem emit_sight (s : State) (o : Out) : (emit s o).sight = s.sight := rfl
@[simp] theorem emit_hlt (s : State) (o : Out) : (emit s o).hlt = s.hlt := rfl
@[simp] theorem emit_mot (s : State) (o : Out) : (emit s o).mot = s.mot := rfl
@[simp] theorem emit_drm (s : State) (o : Out) : (emit s o).drm = s.drm := rfl
@[simp] theorem emit_dma (s : State) (o : Out) : (emit s o).dma = s.dma := rfl
@[simp] theorem emit_lanes (s : State) (o : Out) : (emit s o).lanes = s.lanes := rfl
@[simp] theorem emit_pwr (s : State) (o : Out) : (emit s o).pwr = s.pwr := rfl
@[simp] theorem emit_jtag (s : State) (o : Out) : (emit s o).jtag = s.jtag := rfl
@[simp] theorem emit_pins (s : State) (o : Out) : (emit s o).pins = s.pins := rfl
@[simp] theorem emit_fresh (s : State) (o : Out) : (emit s o).fresh = s.fresh := rfl
@[simp] theorem emit_pending (s : State) (o : Out) : (emit s o).pending = s.pending := rfl

/-! `setStw` -/
@[simp] theorem setStw_shared (s : State) (k : Fin 8) (w : Steward) : (setStw s k w).shared = s.shared := rfl
@[simp] theorem setStw_dram (s : State) (k : Fin 8) (w : Steward) : (setStw s k w).dram = s.dram := rfl
@[simp] theorem setStw_single (s : State) (k : Fin 8) (w : Steward) : (setStw s k w).single = s.single := rfl
@[simp] theorem setStw_poison (s : State) (k : Fin 8) (w : Steward) : (setStw s k w).poison = s.poison := rfl
@[simp] theorem setStw_stn (s : State) (k : Fin 8) (w : Steward) : (setStw s k w).stn = s.stn := rfl
@[simp] theorem setStw_vstn (s : State) (k : Fin 8) (w : Steward) : (setStw s k w).vstn = s.vstn := rfl
@[simp] theorem setStw_hiw (s : State) (k : Fin 8) (w : Steward) : (setStw s k w).hiw = s.hiw := rfl
@[simp] theorem setStw_clk (s : State) (k : Fin 8) (w : Steward) : (setStw s k w).clk = s.clk := rfl
@[simp] theorem setStw_round (s : State) (k : Fin 8) (w : Steward) : (setStw s k w).round = s.round := rfl
@[simp] theorem setStw_mbx (s : State) (k : Fin 8) (w : Steward) : (setStw s k w).mbx = s.mbx := rfl
@[simp] theorem setStw_twin (s : State) (k : Fin 8) (w : Steward) : (setStw s k w).twin = s.twin := rfl
@[simp] theorem setStw_tho (s : State) (k : Fin 8) (w : Steward) : (setStw s k w).tho = s.tho := rfl
@[simp] theorem setStw_therm (s : State) (k : Fin 8) (w : Steward) : (setStw s k w).therm = s.therm := rfl
@[simp] theorem setStw_boot (s : State) (k : Fin 8) (w : Steward) : (setStw s k w).boot = s.boot := rfl
@[simp] theorem setStw_jobs (s : State) (k : Fin 8) (w : Steward) : (setStw s k w).jobs = s.jobs := rfl
@[simp] theorem setStw_pkr (s : State) (k : Fin 8) (w : Steward) : (setStw s k w).pkr = s.pkr := rfl
@[simp] theorem setStw_scr (s : State) (k : Fin 8) (w : Steward) : (setStw s k w).scr = s.scr := rfl
@[simp] theorem setStw_plc (s : State) (k : Fin 8) (w : Steward) : (setStw s k w).plc = s.plc := rfl
@[simp] theorem setStw_plc2 (s : State) (k : Fin 8) (w : Steward) : (setStw s k w).plc2 = s.plc2 := rfl
@[simp] theorem setStw_pods (s : State) (k : Fin 8) (w : Steward) : (setStw s k w).pods = s.pods := rfl
@[simp] theorem setStw_sight (s : State) (k : Fin 8) (w : Steward) : (setStw s k w).sight = s.sight := rfl
@[simp] theorem setStw_hlt (s : State) (k : Fin 8) (w : Steward) : (setStw s k w).hlt = s.hlt := rfl
@[simp] theorem setStw_mot (s : State) (k : Fin 8) (w : Steward) : (setStw s k w).mot = s.mot := rfl
@[simp] theorem setStw_drm (s : State) (k : Fin 8) (w : Steward) : (setStw s k w).drm = s.drm := rfl
@[simp] theorem setStw_dma (s : State) (k : Fin 8) (w : Steward) : (setStw s k w).dma = s.dma := rfl
@[simp] theorem setStw_lanes (s : State) (k : Fin 8) (w : Steward) : (setStw s k w).lanes = s.lanes := rfl
@[simp] theorem setStw_pwr (s : State) (k : Fin 8) (w : Steward) : (setStw s k w).pwr = s.pwr := rfl
@[simp] theorem setStw_jtag (s : State) (k : Fin 8) (w : Steward) : (setStw s k w).jtag = s.jtag := rfl
@[simp] theorem setStw_pins (s : State) (k : Fin 8) (w : Steward) : (setStw s k w).pins = s.pins := rfl
@[simp] theorem setStw_out (s : State) (k : Fin 8) (w : Steward) : (setStw s k w).out = s.out := rfl
@[simp] theorem setStw_fresh (s : State) (k : Fin 8) (w : Steward) : (setStw s k w).fresh = s.fresh := rfl
@[simp] theorem setStw_pending (s : State) (k : Fin 8) (w : Steward) : (setStw s k w).pending = s.pending := rfl

/-! `modStw` -/
@[simp] theorem modStw_shared (s : State) (k : Fin 8) (f : Steward → Steward) : (modStw s k f).shared = s.shared := rfl
@[simp] theorem modStw_dram (s : State) (k : Fin 8) (f : Steward → Steward) : (modStw s k f).dram = s.dram := rfl
@[simp] theorem modStw_single (s : State) (k : Fin 8) (f : Steward → Steward) : (modStw s k f).single = s.single := rfl
@[simp] theorem modStw_poison (s : State) (k : Fin 8) (f : Steward → Steward) : (modStw s k f).poison = s.poison := rfl
@[simp] theorem modStw_stn (s : State) (k : Fin 8) (f : Steward → Steward) : (modStw s k f).stn = s.stn := rfl
@[simp] theorem modStw_vstn (s : State) (k : Fin 8) (f : Steward → Steward) : (modStw s k f).vstn = s.vstn := rfl
@[simp] theorem modStw_hiw (s : State) (k : Fin 8) (f : Steward → Steward) : (modStw s k f).hiw = s.hiw := rfl
@[simp] theorem modStw_clk (s : State) (k : Fin 8) (f : Steward → Steward) : (modStw s k f).clk = s.clk := rfl
@[simp] theorem modStw_round (s : State) (k : Fin 8) (f : Steward → Steward) : (modStw s k f).round = s.round := rfl
@[simp] theorem modStw_mbx (s : State) (k : Fin 8) (f : Steward → Steward) : (modStw s k f).mbx = s.mbx := rfl
@[simp] theorem modStw_twin (s : State) (k : Fin 8) (f : Steward → Steward) : (modStw s k f).twin = s.twin := rfl
@[simp] theorem modStw_tho (s : State) (k : Fin 8) (f : Steward → Steward) : (modStw s k f).tho = s.tho := rfl
@[simp] theorem modStw_therm (s : State) (k : Fin 8) (f : Steward → Steward) : (modStw s k f).therm = s.therm := rfl
@[simp] theorem modStw_boot (s : State) (k : Fin 8) (f : Steward → Steward) : (modStw s k f).boot = s.boot := rfl
@[simp] theorem modStw_jobs (s : State) (k : Fin 8) (f : Steward → Steward) : (modStw s k f).jobs = s.jobs := rfl
@[simp] theorem modStw_pkr (s : State) (k : Fin 8) (f : Steward → Steward) : (modStw s k f).pkr = s.pkr := rfl
@[simp] theorem modStw_scr (s : State) (k : Fin 8) (f : Steward → Steward) : (modStw s k f).scr = s.scr := rfl
@[simp] theorem modStw_plc (s : State) (k : Fin 8) (f : Steward → Steward) : (modStw s k f).plc = s.plc := rfl
@[simp] theorem modStw_plc2 (s : State) (k : Fin 8) (f : Steward → Steward) : (modStw s k f).plc2 = s.plc2 := rfl
@[simp] theorem modStw_pods (s : State) (k : Fin 8) (f : Steward → Steward) : (modStw s k f).pods = s.pods := rfl
@[simp] theorem modStw_sight (s : State) (k : Fin 8) (f : Steward → Steward) : (modStw s k f).sight = s.sight := rfl
@[simp] theorem modStw_hlt (s : State) (k : Fin 8) (f : Steward → Steward) : (modStw s k f).hlt = s.hlt := rfl
@[simp] theorem modStw_mot (s : State) (k : Fin 8) (f : Steward → Steward) : (modStw s k f).mot = s.mot := rfl
@[simp] theorem modStw_drm (s : State) (k : Fin 8) (f : Steward → Steward) : (modStw s k f).drm = s.drm := rfl
@[simp] theorem modStw_dma (s : State) (k : Fin 8) (f : Steward → Steward) : (modStw s k f).dma = s.dma := rfl
@[simp] theorem modStw_lanes (s : State) (k : Fin 8) (f : Steward → Steward) : (modStw s k f).lanes = s.lanes := rfl
@[simp] theorem modStw_pwr (s : State) (k : Fin 8) (f : Steward → Steward) : (modStw s k f).pwr = s.pwr := rfl
@[simp] theorem modStw_jtag (s : State) (k : Fin 8) (f : Steward → Steward) : (modStw s k f).jtag = s.jtag := rfl
@[simp] theorem modStw_pins (s : State) (k : Fin 8) (f : Steward → Steward) : (modStw s k f).pins = s.pins := rfl
@[simp] theorem modStw_out (s : State) (k : Fin 8) (f : Steward → Steward) : (modStw s k f).out = s.out := rfl
@[simp] theorem modStw_fresh (s : State) (k : Fin 8) (f : Steward → Steward) : (modStw s k f).fresh = s.fresh := rfl
@[simp] theorem modStw_pending (s : State) (k : Fin 8) (f : Steward → Steward) : (modStw s k f).pending = s.pending := rfl

/-! `dmaLine` -/
@[simp] theorem dmaLine_stewards (s : State) (n : Nat) : (dmaLine s n).stewards = s.stewards := rfl
@[simp] theorem dmaLine_shared (s : State) (n : Nat) : (dmaLine s n).shared = s.shared := rfl
@[simp] theorem dmaLine_dram (s : State) (n : Nat) : (dmaLine s n).dram = s.dram := rfl
@[simp] theorem dmaLine_single (s : State) (n : Nat) : (dmaLine s n).single = s.single := rfl
@[simp] theorem dmaLine_poison (s : State) (n : Nat) : (dmaLine s n).poison = s.poison := rfl
@[simp] theorem dmaLine_stn (s : State) (n : Nat) : (dmaLine s n).stn = s.stn := rfl
@[simp] theorem dmaLine_vstn (s : State) (n : Nat) : (dmaLine s n).vstn = s.vstn := rfl
@[simp] theorem dmaLine_hiw (s : State) (n : Nat) : (dmaLine s n).hiw = s.hiw := rfl
@[simp] theorem dmaLine_clk (s : State) (n : Nat) : (dmaLine s n).clk = s.clk := rfl
@[simp] theorem dmaLine_round (s : State) (n : Nat) : (dmaLine s n).round = s.round := rfl
@[simp] theorem dmaLine_mbx (s : State) (n : Nat) : (dmaLine s n).mbx = s.mbx := rfl
@[simp] theorem dmaLine_twin (s : State) (n : Nat) : (dmaLine s n).twin = s.twin := rfl
@[simp] theorem dmaLine_tho (s : State) (n : Nat) : (dmaLine s n).tho = s.tho := rfl
@[simp] theorem dmaLine_therm (s : State) (n : Nat) : (dmaLine s n).therm = s.therm := rfl
@[simp] theorem dmaLine_boot (s : State) (n : Nat) : (dmaLine s n).boot = s.boot := rfl
@[simp] theorem dmaLine_jobs (s : State) (n : Nat) : (dmaLine s n).jobs = s.jobs := rfl
@[simp] theorem dmaLine_pkr (s : State) (n : Nat) : (dmaLine s n).pkr = s.pkr := rfl
@[simp] theorem dmaLine_scr (s : State) (n : Nat) : (dmaLine s n).scr = s.scr := rfl
@[simp] theorem dmaLine_plc (s : State) (n : Nat) : (dmaLine s n).plc = s.plc := rfl
@[simp] theorem dmaLine_plc2 (s : State) (n : Nat) : (dmaLine s n).plc2 = s.plc2 := rfl
@[simp] theorem dmaLine_pods (s : State) (n : Nat) : (dmaLine s n).pods = s.pods := rfl
@[simp] theorem dmaLine_sight (s : State) (n : Nat) : (dmaLine s n).sight = s.sight := rfl
@[simp] theorem dmaLine_hlt (s : State) (n : Nat) : (dmaLine s n).hlt = s.hlt := rfl
@[simp] theorem dmaLine_mot (s : State) (n : Nat) : (dmaLine s n).mot = s.mot := rfl
@[simp] theorem dmaLine_drm (s : State) (n : Nat) : (dmaLine s n).drm = s.drm := rfl
@[simp] theorem dmaLine_lanes (s : State) (n : Nat) : (dmaLine s n).lanes = s.lanes := rfl
@[simp] theorem dmaLine_pwr (s : State) (n : Nat) : (dmaLine s n).pwr = s.pwr := rfl
@[simp] theorem dmaLine_jtag (s : State) (n : Nat) : (dmaLine s n).jtag = s.jtag := rfl
@[simp] theorem dmaLine_pins (s : State) (n : Nat) : (dmaLine s n).pins = s.pins := rfl
@[simp] theorem dmaLine_out (s : State) (n : Nat) : (dmaLine s n).out = s.out := rfl
@[simp] theorem dmaLine_fresh (s : State) (n : Nat) : (dmaLine s n).fresh = s.fresh := rfl
@[simp] theorem dmaLine_pending (s : State) (n : Nat) : (dmaLine s n).pending = s.pending := rfl

/-! `setSlot` -/
@[simp] theorem setSlot_stewards (s : State) (n : Nat) (x : Slot) : (setSlot s n x).stewards = s.stewards := rfl
@[simp] theorem setSlot_shared (s : State) (n : Nat) (x : Slot) : (setSlot s n x).shared = s.shared := rfl
@[simp] theorem setSlot_dram (s : State) (n : Nat) (x : Slot) : (setSlot s n x).dram = s.dram := rfl
@[simp] theorem setSlot_single (s : State) (n : Nat) (x : Slot) : (setSlot s n x).single = s.single := rfl
@[simp] theorem setSlot_poison (s : State) (n : Nat) (x : Slot) : (setSlot s n x).poison = s.poison := rfl
@[simp] theorem setSlot_stn (s : State) (n : Nat) (x : Slot) : (setSlot s n x).stn = s.stn := rfl
@[simp] theorem setSlot_vstn (s : State) (n : Nat) (x : Slot) : (setSlot s n x).vstn = s.vstn := rfl
@[simp] theorem setSlot_hiw (s : State) (n : Nat) (x : Slot) : (setSlot s n x).hiw = s.hiw := rfl
@[simp] theorem setSlot_clk (s : State) (n : Nat) (x : Slot) : (setSlot s n x).clk = s.clk := rfl
@[simp] theorem setSlot_round (s : State) (n : Nat) (x : Slot) : (setSlot s n x).round = s.round := rfl
@[simp] theorem setSlot_twin (s : State) (n : Nat) (x : Slot) : (setSlot s n x).twin = s.twin := rfl
@[simp] theorem setSlot_tho (s : State) (n : Nat) (x : Slot) : (setSlot s n x).tho = s.tho := rfl
@[simp] theorem setSlot_therm (s : State) (n : Nat) (x : Slot) : (setSlot s n x).therm = s.therm := rfl
@[simp] theorem setSlot_boot (s : State) (n : Nat) (x : Slot) : (setSlot s n x).boot = s.boot := rfl
@[simp] theorem setSlot_jobs (s : State) (n : Nat) (x : Slot) : (setSlot s n x).jobs = s.jobs := rfl
@[simp] theorem setSlot_pkr (s : State) (n : Nat) (x : Slot) : (setSlot s n x).pkr = s.pkr := rfl
@[simp] theorem setSlot_scr (s : State) (n : Nat) (x : Slot) : (setSlot s n x).scr = s.scr := rfl
@[simp] theorem setSlot_plc (s : State) (n : Nat) (x : Slot) : (setSlot s n x).plc = s.plc := rfl
@[simp] theorem setSlot_plc2 (s : State) (n : Nat) (x : Slot) : (setSlot s n x).plc2 = s.plc2 := rfl
@[simp] theorem setSlot_pods (s : State) (n : Nat) (x : Slot) : (setSlot s n x).pods = s.pods := rfl
@[simp] theorem setSlot_sight (s : State) (n : Nat) (x : Slot) : (setSlot s n x).sight = s.sight := rfl
@[simp] theorem setSlot_hlt (s : State) (n : Nat) (x : Slot) : (setSlot s n x).hlt = s.hlt := rfl
@[simp] theorem setSlot_mot (s : State) (n : Nat) (x : Slot) : (setSlot s n x).mot = s.mot := rfl
@[simp] theorem setSlot_drm (s : State) (n : Nat) (x : Slot) : (setSlot s n x).drm = s.drm := rfl
@[simp] theorem setSlot_dma (s : State) (n : Nat) (x : Slot) : (setSlot s n x).dma = s.dma := rfl
@[simp] theorem setSlot_lanes (s : State) (n : Nat) (x : Slot) : (setSlot s n x).lanes = s.lanes := rfl
@[simp] theorem setSlot_pwr (s : State) (n : Nat) (x : Slot) : (setSlot s n x).pwr = s.pwr := rfl
@[simp] theorem setSlot_jtag (s : State) (n : Nat) (x : Slot) : (setSlot s n x).jtag = s.jtag := rfl
@[simp] theorem setSlot_pins (s : State) (n : Nat) (x : Slot) : (setSlot s n x).pins = s.pins := rfl
@[simp] theorem setSlot_out (s : State) (n : Nat) (x : Slot) : (setSlot s n x).out = s.out := rfl
@[simp] theorem setSlot_fresh (s : State) (n : Nat) (x : Slot) : (setSlot s n x).fresh = s.fresh := rfl
@[simp] theorem setSlot_pending (s : State) (n : Nat) (x : Slot) : (setSlot s n x).pending = s.pending := rfl

/-! `setNotElig` -/
@[simp] theorem setNotElig_stewards (s : State) (b : Nat) (v : Bool) : (setNotElig s b v).stewards = s.stewards := rfl
@[simp] theorem setNotElig_shared (s : State) (b : Nat) (v : Bool) : (setNotElig s b v).shared = s.shared := rfl
@[simp] theorem setNotElig_dram (s : State) (b : Nat) (v : Bool) : (setNotElig s b v).dram = s.dram := rfl
@[simp] theorem setNotElig_single (s : State) (b : Nat) (v : Bool) : (setNotElig s b v).single = s.single := rfl
@[simp] theorem setNotElig_poison (s : State) (b : Nat) (v : Bool) : (setNotElig s b v).poison = s.poison := rfl
@[simp] theorem setNotElig_stn (s : State) (b : Nat) (v : Bool) : (setNotElig s b v).stn = s.stn := rfl
@[simp] theorem setNotElig_vstn (s : State) (b : Nat) (v : Bool) : (setNotElig s b v).vstn = s.vstn := rfl
@[simp] theorem setNotElig_hiw (s : State) (b : Nat) (v : Bool) : (setNotElig s b v).hiw = s.hiw := rfl
@[simp] theorem setNotElig_clk (s : State) (b : Nat) (v : Bool) : (setNotElig s b v).clk = s.clk := rfl
@[simp] theorem setNotElig_round (s : State) (b : Nat) (v : Bool) : (setNotElig s b v).round = s.round := rfl
@[simp] theorem setNotElig_mbx (s : State) (b : Nat) (v : Bool) : (setNotElig s b v).mbx = s.mbx := rfl
@[simp] theorem setNotElig_tho (s : State) (b : Nat) (v : Bool) : (setNotElig s b v).tho = s.tho := rfl
@[simp] theorem setNotElig_therm (s : State) (b : Nat) (v : Bool) : (setNotElig s b v).therm = s.therm := rfl
@[simp] theorem setNotElig_boot (s : State) (b : Nat) (v : Bool) : (setNotElig s b v).boot = s.boot := rfl
@[simp] theorem setNotElig_jobs (s : State) (b : Nat) (v : Bool) : (setNotElig s b v).jobs = s.jobs := rfl
@[simp] theorem setNotElig_pkr (s : State) (b : Nat) (v : Bool) : (setNotElig s b v).pkr = s.pkr := rfl
@[simp] theorem setNotElig_scr (s : State) (b : Nat) (v : Bool) : (setNotElig s b v).scr = s.scr := rfl
@[simp] theorem setNotElig_plc (s : State) (b : Nat) (v : Bool) : (setNotElig s b v).plc = s.plc := rfl
@[simp] theorem setNotElig_plc2 (s : State) (b : Nat) (v : Bool) : (setNotElig s b v).plc2 = s.plc2 := rfl
@[simp] theorem setNotElig_pods (s : State) (b : Nat) (v : Bool) : (setNotElig s b v).pods = s.pods := rfl
@[simp] theorem setNotElig_sight (s : State) (b : Nat) (v : Bool) : (setNotElig s b v).sight = s.sight := rfl
@[simp] theorem setNotElig_hlt (s : State) (b : Nat) (v : Bool) : (setNotElig s b v).hlt = s.hlt := rfl
@[simp] theorem setNotElig_mot (s : State) (b : Nat) (v : Bool) : (setNotElig s b v).mot = s.mot := rfl
@[simp] theorem setNotElig_drm (s : State) (b : Nat) (v : Bool) : (setNotElig s b v).drm = s.drm := rfl
@[simp] theorem setNotElig_dma (s : State) (b : Nat) (v : Bool) : (setNotElig s b v).dma = s.dma := rfl
@[simp] theorem setNotElig_lanes (s : State) (b : Nat) (v : Bool) : (setNotElig s b v).lanes = s.lanes := rfl
@[simp] theorem setNotElig_pwr (s : State) (b : Nat) (v : Bool) : (setNotElig s b v).pwr = s.pwr := rfl
@[simp] theorem setNotElig_jtag (s : State) (b : Nat) (v : Bool) : (setNotElig s b v).jtag = s.jtag := rfl
@[simp] theorem setNotElig_pins (s : State) (b : Nat) (v : Bool) : (setNotElig s b v).pins = s.pins := rfl
@[simp] theorem setNotElig_out (s : State) (b : Nat) (v : Bool) : (setNotElig s b v).out = s.out := rfl
@[simp] theorem setNotElig_fresh (s : State) (b : Nat) (v : Bool) : (setNotElig s b v).fresh = s.fresh := rfl
@[simp] theorem setNotElig_pending (s : State) (b : Nat) (v : Bool) : (setNotElig s b v).pending = s.pending := rfl

/-! `openSlot` -/
@[simp] theorem openSlot_stewards (s : State) (n : Nat) (pm : BitVec 64) (d : List Word) : (openSlot s n pm d).stewards = s.stewards := rfl
@[simp] theorem openSlot_shared (s : State) (n : Nat) (pm : BitVec 64) (d : List Word) : (openSlot s n pm d).shared = s.shared := rfl
@[simp] theorem openSlot_dram (s : State) (n : Nat) (pm : BitVec 64) (d : List Word) : (openSlot s n pm d).dram = s.dram := rfl
@[simp] theorem openSlot_single (s : State) (n : Nat) (pm : BitVec 64) (d : List Word) : (openSlot s n pm d).single = s.single := rfl
@[simp] theorem openSlot_poison (s : State) (n : Nat) (pm : BitVec 64) (d : List Word) : (openSlot s n pm d).poison = s.poison := rfl
@[simp] theorem openSlot_stn (s : State) (n : Nat) (pm : BitVec 64) (d : List Word) : (openSlot s n pm d).stn = s.stn := rfl
@[simp] theorem openSlot_vstn (s : State) (n : Nat) (pm : BitVec 64) (d : List Word) : (openSlot s n pm d).vstn = s.vstn := rfl
@[simp] theorem openSlot_hiw (s : State) (n : Nat) (pm : BitVec 64) (d : List Word) : (openSlot s n pm d).hiw = s.hiw := rfl
@[simp] theorem openSlot_clk (s : State) (n : Nat) (pm : BitVec 64) (d : List Word) : (openSlot s n pm d).clk = s.clk := rfl
@[simp] theorem openSlot_round (s : State) (n : Nat) (pm : BitVec 64) (d : List Word) : (openSlot s n pm d).round = s.round := rfl
@[simp] theorem openSlot_twin (s : State) (n : Nat) (pm : BitVec 64) (d : List Word) : (openSlot s n pm d).twin = s.twin := rfl
@[simp] theorem openSlot_tho (s : State) (n : Nat) (pm : BitVec 64) (d : List Word) : (openSlot s n pm d).tho = s.tho := rfl
@[simp] theorem openSlot_therm (s : State) (n : Nat) (pm : BitVec 64) (d : List Word) : (openSlot s n pm d).therm = s.therm := rfl
@[simp] theorem openSlot_boot (s : State) (n : Nat) (pm : BitVec 64) (d : List Word) : (openSlot s n pm d).boot = s.boot := rfl
@[simp] theorem openSlot_jobs (s : State) (n : Nat) (pm : BitVec 64) (d : List Word) : (openSlot s n pm d).jobs = s.jobs := rfl
@[simp] theorem openSlot_pkr (s : State) (n : Nat) (pm : BitVec 64) (d : List Word) : (openSlot s n pm d).pkr = s.pkr := rfl
@[simp] theorem openSlot_scr (s : State) (n : Nat) (pm : BitVec 64) (d : List Word) : (openSlot s n pm d).scr = s.scr := rfl
@[simp] theorem openSlot_plc (s : State) (n : Nat) (pm : BitVec 64) (d : List Word) : (openSlot s n pm d).plc = s.plc := rfl
@[simp] theorem openSlot_plc2 (s : State) (n : Nat) (pm : BitVec 64) (d : List Word) : (openSlot s n pm d).plc2 = s.plc2 := rfl
@[simp] theorem openSlot_pods (s : State) (n : Nat) (pm : BitVec 64) (d : List Word) : (openSlot s n pm d).pods = s.pods := rfl
@[simp] theorem openSlot_sight (s : State) (n : Nat) (pm : BitVec 64) (d : List Word) : (openSlot s n pm d).sight = s.sight := rfl
@[simp] theorem openSlot_hlt (s : State) (n : Nat) (pm : BitVec 64) (d : List Word) : (openSlot s n pm d).hlt = s.hlt := rfl
@[simp] theorem openSlot_mot (s : State) (n : Nat) (pm : BitVec 64) (d : List Word) : (openSlot s n pm d).mot = s.mot := rfl
@[simp] theorem openSlot_drm (s : State) (n : Nat) (pm : BitVec 64) (d : List Word) : (openSlot s n pm d).drm = s.drm := rfl
@[simp] theorem openSlot_dma (s : State) (n : Nat) (pm : BitVec 64) (d : List Word) : (openSlot s n pm d).dma = s.dma := rfl
@[simp] theorem openSlot_lanes (s : State) (n : Nat) (pm : BitVec 64) (d : List Word) : (openSlot s n pm d).lanes = s.lanes := rfl
@[simp] theorem openSlot_pwr (s : State) (n : Nat) (pm : BitVec 64) (d : List Word) : (openSlot s n pm d).pwr = s.pwr := rfl
@[simp] theorem openSlot_jtag (s : State) (n : Nat) (pm : BitVec 64) (d : List Word) : (openSlot s n pm d).jtag = s.jtag := rfl
@[simp] theorem openSlot_pins (s : State) (n : Nat) (pm : BitVec 64) (d : List Word) : (openSlot s n pm d).pins = s.pins := rfl
@[simp] theorem openSlot_out (s : State) (n : Nat) (pm : BitVec 64) (d : List Word) : (openSlot s n pm d).out = s.out := rfl
@[simp] theorem openSlot_fresh (s : State) (n : Nat) (pm : BitVec 64) (d : List Word) : (openSlot s n pm d).fresh = s.fresh := rfl
@[simp] theorem openSlot_pending (s : State) (n : Nat) (pm : BitVec 64) (d : List Word) : (openSlot s n pm d).pending = s.pending := rfl

/-! `countSlot` -/
@[simp] theorem countSlot_stewards (s : State) (n : Nat) (pm : BitVec 64) : (countSlot s n pm).stewards = s.stewards := rfl
@[simp] theorem countSlot_shared (s : State) (n : Nat) (pm : BitVec 64) : (countSlot s n pm).shared = s.shared := rfl
@[simp] theorem countSlot_dram (s : State) (n : Nat) (pm : BitVec 64) : (countSlot s n pm).dram = s.dram := rfl
@[simp] theorem countSlot_single (s : State) (n : Nat) (pm : BitVec 64) : (countSlot s n pm).single = s.single := rfl
@[simp] theorem countSlot_poison (s : State) (n : Nat) (pm : BitVec 64) : (countSlot s n pm).poison = s.poison := rfl
@[simp] theorem countSlot_stn (s : State) (n : Nat) (pm : BitVec 64) : (countSlot s n pm).stn = s.stn := rfl
@[simp] theorem countSlot_vstn (s : State) (n : Nat) (pm : BitVec 64) : (countSlot s n pm).vstn = s.vstn := rfl
@[simp] theorem countSlot_hiw (s : State) (n : Nat) (pm : BitVec 64) : (countSlot s n pm).hiw = s.hiw := rfl
@[simp] theorem countSlot_clk (s : State) (n : Nat) (pm : BitVec 64) : (countSlot s n pm).clk = s.clk := rfl
@[simp] theorem countSlot_round (s : State) (n : Nat) (pm : BitVec 64) : (countSlot s n pm).round = s.round := rfl
@[simp] theorem countSlot_twin (s : State) (n : Nat) (pm : BitVec 64) : (countSlot s n pm).twin = s.twin := rfl
@[simp] theorem countSlot_tho (s : State) (n : Nat) (pm : BitVec 64) : (countSlot s n pm).tho = s.tho := rfl
@[simp] theorem countSlot_therm (s : State) (n : Nat) (pm : BitVec 64) : (countSlot s n pm).therm = s.therm := rfl
@[simp] theorem countSlot_boot (s : State) (n : Nat) (pm : BitVec 64) : (countSlot s n pm).boot = s.boot := rfl
@[simp] theorem countSlot_jobs (s : State) (n : Nat) (pm : BitVec 64) : (countSlot s n pm).jobs = s.jobs := rfl
@[simp] theorem countSlot_pkr (s : State) (n : Nat) (pm : BitVec 64) : (countSlot s n pm).pkr = s.pkr := rfl
@[simp] theorem countSlot_scr (s : State) (n : Nat) (pm : BitVec 64) : (countSlot s n pm).scr = s.scr := rfl
@[simp] theorem countSlot_plc (s : State) (n : Nat) (pm : BitVec 64) : (countSlot s n pm).plc = s.plc := rfl
@[simp] theorem countSlot_plc2 (s : State) (n : Nat) (pm : BitVec 64) : (countSlot s n pm).plc2 = s.plc2 := rfl
@[simp] theorem countSlot_pods (s : State) (n : Nat) (pm : BitVec 64) : (countSlot s n pm).pods = s.pods := rfl
@[simp] theorem countSlot_sight (s : State) (n : Nat) (pm : BitVec 64) : (countSlot s n pm).sight = s.sight := rfl
@[simp] theorem countSlot_hlt (s : State) (n : Nat) (pm : BitVec 64) : (countSlot s n pm).hlt = s.hlt := rfl
@[simp] theorem countSlot_mot (s : State) (n : Nat) (pm : BitVec 64) : (countSlot s n pm).mot = s.mot := rfl
@[simp] theorem countSlot_drm (s : State) (n : Nat) (pm : BitVec 64) : (countSlot s n pm).drm = s.drm := rfl
@[simp] theorem countSlot_dma (s : State) (n : Nat) (pm : BitVec 64) : (countSlot s n pm).dma = s.dma := rfl
@[simp] theorem countSlot_lanes (s : State) (n : Nat) (pm : BitVec 64) : (countSlot s n pm).lanes = s.lanes := rfl
@[simp] theorem countSlot_pwr (s : State) (n : Nat) (pm : BitVec 64) : (countSlot s n pm).pwr = s.pwr := rfl
@[simp] theorem countSlot_jtag (s : State) (n : Nat) (pm : BitVec 64) : (countSlot s n pm).jtag = s.jtag := rfl
@[simp] theorem countSlot_pins (s : State) (n : Nat) (pm : BitVec 64) : (countSlot s n pm).pins = s.pins := rfl
@[simp] theorem countSlot_out (s : State) (n : Nat) (pm : BitVec 64) : (countSlot s n pm).out = s.out := rfl
@[simp] theorem countSlot_fresh (s : State) (n : Nat) (pm : BitVec 64) : (countSlot s n pm).fresh = s.fresh := rfl
@[simp] theorem countSlot_pending (s : State) (n : Nat) (pm : BitVec 64) : (countSlot s n pm).pending = s.pending := rfl

/-! `setLink` -/
@[simp] theorem setLink_stewards (s : State) (p : Fin 24) (x : PodLink) : (setLink s p x).stewards = s.stewards := rfl
@[simp] theorem setLink_shared (s : State) (p : Fin 24) (x : PodLink) : (setLink s p x).shared = s.shared := rfl
@[simp] theorem setLink_dram (s : State) (p : Fin 24) (x : PodLink) : (setLink s p x).dram = s.dram := rfl
@[simp] theorem setLink_single (s : State) (p : Fin 24) (x : PodLink) : (setLink s p x).single = s.single := rfl
@[simp] theorem setLink_poison (s : State) (p : Fin 24) (x : PodLink) : (setLink s p x).poison = s.poison := rfl
@[simp] theorem setLink_stn (s : State) (p : Fin 24) (x : PodLink) : (setLink s p x).stn = s.stn := rfl
@[simp] theorem setLink_vstn (s : State) (p : Fin 24) (x : PodLink) : (setLink s p x).vstn = s.vstn := rfl
@[simp] theorem setLink_hiw (s : State) (p : Fin 24) (x : PodLink) : (setLink s p x).hiw = s.hiw := rfl
@[simp] theorem setLink_clk (s : State) (p : Fin 24) (x : PodLink) : (setLink s p x).clk = s.clk := rfl
@[simp] theorem setLink_round (s : State) (p : Fin 24) (x : PodLink) : (setLink s p x).round = s.round := rfl
@[simp] theorem setLink_mbx (s : State) (p : Fin 24) (x : PodLink) : (setLink s p x).mbx = s.mbx := rfl
@[simp] theorem setLink_twin (s : State) (p : Fin 24) (x : PodLink) : (setLink s p x).twin = s.twin := rfl
@[simp] theorem setLink_tho (s : State) (p : Fin 24) (x : PodLink) : (setLink s p x).tho = s.tho := rfl
@[simp] theorem setLink_therm (s : State) (p : Fin 24) (x : PodLink) : (setLink s p x).therm = s.therm := rfl
@[simp] theorem setLink_boot (s : State) (p : Fin 24) (x : PodLink) : (setLink s p x).boot = s.boot := rfl
@[simp] theorem setLink_jobs (s : State) (p : Fin 24) (x : PodLink) : (setLink s p x).jobs = s.jobs := rfl
@[simp] theorem setLink_pkr (s : State) (p : Fin 24) (x : PodLink) : (setLink s p x).pkr = s.pkr := rfl
@[simp] theorem setLink_scr (s : State) (p : Fin 24) (x : PodLink) : (setLink s p x).scr = s.scr := rfl
@[simp] theorem setLink_plc (s : State) (p : Fin 24) (x : PodLink) : (setLink s p x).plc = s.plc := rfl
@[simp] theorem setLink_plc2 (s : State) (p : Fin 24) (x : PodLink) : (setLink s p x).plc2 = s.plc2 := rfl
@[simp] theorem setLink_sight (s : State) (p : Fin 24) (x : PodLink) : (setLink s p x).sight = s.sight := rfl
@[simp] theorem setLink_hlt (s : State) (p : Fin 24) (x : PodLink) : (setLink s p x).hlt = s.hlt := rfl
@[simp] theorem setLink_mot (s : State) (p : Fin 24) (x : PodLink) : (setLink s p x).mot = s.mot := rfl
@[simp] theorem setLink_drm (s : State) (p : Fin 24) (x : PodLink) : (setLink s p x).drm = s.drm := rfl
@[simp] theorem setLink_dma (s : State) (p : Fin 24) (x : PodLink) : (setLink s p x).dma = s.dma := rfl
@[simp] theorem setLink_lanes (s : State) (p : Fin 24) (x : PodLink) : (setLink s p x).lanes = s.lanes := rfl
@[simp] theorem setLink_pwr (s : State) (p : Fin 24) (x : PodLink) : (setLink s p x).pwr = s.pwr := rfl
@[simp] theorem setLink_jtag (s : State) (p : Fin 24) (x : PodLink) : (setLink s p x).jtag = s.jtag := rfl
@[simp] theorem setLink_pins (s : State) (p : Fin 24) (x : PodLink) : (setLink s p x).pins = s.pins := rfl
@[simp] theorem setLink_out (s : State) (p : Fin 24) (x : PodLink) : (setLink s p x).out = s.out := rfl
@[simp] theorem setLink_fresh (s : State) (p : Fin 24) (x : PodLink) : (setLink s p x).fresh = s.fresh := rfl
@[simp] theorem setLink_pending (s : State) (p : Fin 24) (x : PodLink) : (setLink s p x).pending = s.pending := rfl

/-! `setCam` -/
@[simp] theorem setCam_stewards (s : State) (n : Fin 4) (c : Camera) : (setCam s n c).stewards = s.stewards := rfl
@[simp] theorem setCam_shared (s : State) (n : Fin 4) (c : Camera) : (setCam s n c).shared = s.shared := rfl
@[simp] theorem setCam_dram (s : State) (n : Fin 4) (c : Camera) : (setCam s n c).dram = s.dram := rfl
@[simp] theorem setCam_single (s : State) (n : Fin 4) (c : Camera) : (setCam s n c).single = s.single := rfl
@[simp] theorem setCam_poison (s : State) (n : Fin 4) (c : Camera) : (setCam s n c).poison = s.poison := rfl
@[simp] theorem setCam_stn (s : State) (n : Fin 4) (c : Camera) : (setCam s n c).stn = s.stn := rfl
@[simp] theorem setCam_vstn (s : State) (n : Fin 4) (c : Camera) : (setCam s n c).vstn = s.vstn := rfl
@[simp] theorem setCam_hiw (s : State) (n : Fin 4) (c : Camera) : (setCam s n c).hiw = s.hiw := rfl
@[simp] theorem setCam_clk (s : State) (n : Fin 4) (c : Camera) : (setCam s n c).clk = s.clk := rfl
@[simp] theorem setCam_round (s : State) (n : Fin 4) (c : Camera) : (setCam s n c).round = s.round := rfl
@[simp] theorem setCam_mbx (s : State) (n : Fin 4) (c : Camera) : (setCam s n c).mbx = s.mbx := rfl
@[simp] theorem setCam_twin (s : State) (n : Fin 4) (c : Camera) : (setCam s n c).twin = s.twin := rfl
@[simp] theorem setCam_tho (s : State) (n : Fin 4) (c : Camera) : (setCam s n c).tho = s.tho := rfl
@[simp] theorem setCam_therm (s : State) (n : Fin 4) (c : Camera) : (setCam s n c).therm = s.therm := rfl
@[simp] theorem setCam_boot (s : State) (n : Fin 4) (c : Camera) : (setCam s n c).boot = s.boot := rfl
@[simp] theorem setCam_jobs (s : State) (n : Fin 4) (c : Camera) : (setCam s n c).jobs = s.jobs := rfl
@[simp] theorem setCam_pkr (s : State) (n : Fin 4) (c : Camera) : (setCam s n c).pkr = s.pkr := rfl
@[simp] theorem setCam_scr (s : State) (n : Fin 4) (c : Camera) : (setCam s n c).scr = s.scr := rfl
@[simp] theorem setCam_plc (s : State) (n : Fin 4) (c : Camera) : (setCam s n c).plc = s.plc := rfl
@[simp] theorem setCam_plc2 (s : State) (n : Fin 4) (c : Camera) : (setCam s n c).plc2 = s.plc2 := rfl
@[simp] theorem setCam_pods (s : State) (n : Fin 4) (c : Camera) : (setCam s n c).pods = s.pods := rfl
@[simp] theorem setCam_hlt (s : State) (n : Fin 4) (c : Camera) : (setCam s n c).hlt = s.hlt := rfl
@[simp] theorem setCam_mot (s : State) (n : Fin 4) (c : Camera) : (setCam s n c).mot = s.mot := rfl
@[simp] theorem setCam_drm (s : State) (n : Fin 4) (c : Camera) : (setCam s n c).drm = s.drm := rfl
@[simp] theorem setCam_dma (s : State) (n : Fin 4) (c : Camera) : (setCam s n c).dma = s.dma := rfl
@[simp] theorem setCam_lanes (s : State) (n : Fin 4) (c : Camera) : (setCam s n c).lanes = s.lanes := rfl
@[simp] theorem setCam_pwr (s : State) (n : Fin 4) (c : Camera) : (setCam s n c).pwr = s.pwr := rfl
@[simp] theorem setCam_jtag (s : State) (n : Fin 4) (c : Camera) : (setCam s n c).jtag = s.jtag := rfl
@[simp] theorem setCam_pins (s : State) (n : Fin 4) (c : Camera) : (setCam s n c).pins = s.pins := rfl
@[simp] theorem setCam_out (s : State) (n : Fin 4) (c : Camera) : (setCam s n c).out = s.out := rfl
@[simp] theorem setCam_fresh (s : State) (n : Fin 4) (c : Camera) : (setCam s n c).fresh = s.fresh := rfl
@[simp] theorem setCam_pending (s : State) (n : Fin 4) (c : Camera) : (setCam s n c).pending = s.pending := rfl

/-! `modCam` -/
@[simp] theorem modCam_stewards (s : State) (n : Fin 4) (f : Camera → Camera) : (modCam s n f).stewards = s.stewards := rfl
@[simp] theorem modCam_shared (s : State) (n : Fin 4) (f : Camera → Camera) : (modCam s n f).shared = s.shared := rfl
@[simp] theorem modCam_dram (s : State) (n : Fin 4) (f : Camera → Camera) : (modCam s n f).dram = s.dram := rfl
@[simp] theorem modCam_single (s : State) (n : Fin 4) (f : Camera → Camera) : (modCam s n f).single = s.single := rfl
@[simp] theorem modCam_poison (s : State) (n : Fin 4) (f : Camera → Camera) : (modCam s n f).poison = s.poison := rfl
@[simp] theorem modCam_stn (s : State) (n : Fin 4) (f : Camera → Camera) : (modCam s n f).stn = s.stn := rfl
@[simp] theorem modCam_vstn (s : State) (n : Fin 4) (f : Camera → Camera) : (modCam s n f).vstn = s.vstn := rfl
@[simp] theorem modCam_hiw (s : State) (n : Fin 4) (f : Camera → Camera) : (modCam s n f).hiw = s.hiw := rfl
@[simp] theorem modCam_clk (s : State) (n : Fin 4) (f : Camera → Camera) : (modCam s n f).clk = s.clk := rfl
@[simp] theorem modCam_round (s : State) (n : Fin 4) (f : Camera → Camera) : (modCam s n f).round = s.round := rfl
@[simp] theorem modCam_mbx (s : State) (n : Fin 4) (f : Camera → Camera) : (modCam s n f).mbx = s.mbx := rfl
@[simp] theorem modCam_twin (s : State) (n : Fin 4) (f : Camera → Camera) : (modCam s n f).twin = s.twin := rfl
@[simp] theorem modCam_tho (s : State) (n : Fin 4) (f : Camera → Camera) : (modCam s n f).tho = s.tho := rfl
@[simp] theorem modCam_therm (s : State) (n : Fin 4) (f : Camera → Camera) : (modCam s n f).therm = s.therm := rfl
@[simp] theorem modCam_boot (s : State) (n : Fin 4) (f : Camera → Camera) : (modCam s n f).boot = s.boot := rfl
@[simp] theorem modCam_jobs (s : State) (n : Fin 4) (f : Camera → Camera) : (modCam s n f).jobs = s.jobs := rfl
@[simp] theorem modCam_pkr (s : State) (n : Fin 4) (f : Camera → Camera) : (modCam s n f).pkr = s.pkr := rfl
@[simp] theorem modCam_scr (s : State) (n : Fin 4) (f : Camera → Camera) : (modCam s n f).scr = s.scr := rfl
@[simp] theorem modCam_plc (s : State) (n : Fin 4) (f : Camera → Camera) : (modCam s n f).plc = s.plc := rfl
@[simp] theorem modCam_plc2 (s : State) (n : Fin 4) (f : Camera → Camera) : (modCam s n f).plc2 = s.plc2 := rfl
@[simp] theorem modCam_pods (s : State) (n : Fin 4) (f : Camera → Camera) : (modCam s n f).pods = s.pods := rfl
@[simp] theorem modCam_hlt (s : State) (n : Fin 4) (f : Camera → Camera) : (modCam s n f).hlt = s.hlt := rfl
@[simp] theorem modCam_mot (s : State) (n : Fin 4) (f : Camera → Camera) : (modCam s n f).mot = s.mot := rfl
@[simp] theorem modCam_drm (s : State) (n : Fin 4) (f : Camera → Camera) : (modCam s n f).drm = s.drm := rfl
@[simp] theorem modCam_dma (s : State) (n : Fin 4) (f : Camera → Camera) : (modCam s n f).dma = s.dma := rfl
@[simp] theorem modCam_lanes (s : State) (n : Fin 4) (f : Camera → Camera) : (modCam s n f).lanes = s.lanes := rfl
@[simp] theorem modCam_pwr (s : State) (n : Fin 4) (f : Camera → Camera) : (modCam s n f).pwr = s.pwr := rfl
@[simp] theorem modCam_jtag (s : State) (n : Fin 4) (f : Camera → Camera) : (modCam s n f).jtag = s.jtag := rfl
@[simp] theorem modCam_pins (s : State) (n : Fin 4) (f : Camera → Camera) : (modCam s n f).pins = s.pins := rfl
@[simp] theorem modCam_out (s : State) (n : Fin 4) (f : Camera → Camera) : (modCam s n f).out = s.out := rfl
@[simp] theorem modCam_fresh (s : State) (n : Fin 4) (f : Camera → Camera) : (modCam s n f).fresh = s.fresh := rfl
@[simp] theorem modCam_pending (s : State) (n : Fin 4) (f : Camera → Camera) : (modCam s n f).pending = s.pending := rfl

/-! `setHeld` -/
@[simp] theorem setHeld_stewards (s : State) (u : Nat) (b : Bool) : (setHeld s u b).stewards = s.stewards := rfl
@[simp] theorem setHeld_shared (s : State) (u : Nat) (b : Bool) : (setHeld s u b).shared = s.shared := rfl
@[simp] theorem setHeld_dram (s : State) (u : Nat) (b : Bool) : (setHeld s u b).dram = s.dram := rfl
@[simp] theorem setHeld_single (s : State) (u : Nat) (b : Bool) : (setHeld s u b).single = s.single := rfl
@[simp] theorem setHeld_poison (s : State) (u : Nat) (b : Bool) : (setHeld s u b).poison = s.poison := rfl
@[simp] theorem setHeld_stn (s : State) (u : Nat) (b : Bool) : (setHeld s u b).stn = s.stn := rfl
@[simp] theorem setHeld_vstn (s : State) (u : Nat) (b : Bool) : (setHeld s u b).vstn = s.vstn := rfl
@[simp] theorem setHeld_hiw (s : State) (u : Nat) (b : Bool) : (setHeld s u b).hiw = s.hiw := rfl
@[simp] theorem setHeld_round (s : State) (u : Nat) (b : Bool) : (setHeld s u b).round = s.round := rfl
@[simp] theorem setHeld_mbx (s : State) (u : Nat) (b : Bool) : (setHeld s u b).mbx = s.mbx := rfl
@[simp] theorem setHeld_twin (s : State) (u : Nat) (b : Bool) : (setHeld s u b).twin = s.twin := rfl
@[simp] theorem setHeld_tho (s : State) (u : Nat) (b : Bool) : (setHeld s u b).tho = s.tho := rfl
@[simp] theorem setHeld_therm (s : State) (u : Nat) (b : Bool) : (setHeld s u b).therm = s.therm := rfl
@[simp] theorem setHeld_boot (s : State) (u : Nat) (b : Bool) : (setHeld s u b).boot = s.boot := rfl
@[simp] theorem setHeld_jobs (s : State) (u : Nat) (b : Bool) : (setHeld s u b).jobs = s.jobs := rfl
@[simp] theorem setHeld_pkr (s : State) (u : Nat) (b : Bool) : (setHeld s u b).pkr = s.pkr := rfl
@[simp] theorem setHeld_scr (s : State) (u : Nat) (b : Bool) : (setHeld s u b).scr = s.scr := rfl
@[simp] theorem setHeld_plc (s : State) (u : Nat) (b : Bool) : (setHeld s u b).plc = s.plc := rfl
@[simp] theorem setHeld_plc2 (s : State) (u : Nat) (b : Bool) : (setHeld s u b).plc2 = s.plc2 := rfl
@[simp] theorem setHeld_pods (s : State) (u : Nat) (b : Bool) : (setHeld s u b).pods = s.pods := rfl
@[simp] theorem setHeld_sight (s : State) (u : Nat) (b : Bool) : (setHeld s u b).sight = s.sight := rfl
@[simp] theorem setHeld_hlt (s : State) (u : Nat) (b : Bool) : (setHeld s u b).hlt = s.hlt := rfl
@[simp] theorem setHeld_mot (s : State) (u : Nat) (b : Bool) : (setHeld s u b).mot = s.mot := rfl
@[simp] theorem setHeld_drm (s : State) (u : Nat) (b : Bool) : (setHeld s u b).drm = s.drm := rfl
@[simp] theorem setHeld_dma (s : State) (u : Nat) (b : Bool) : (setHeld s u b).dma = s.dma := rfl
@[simp] theorem setHeld_lanes (s : State) (u : Nat) (b : Bool) : (setHeld s u b).lanes = s.lanes := rfl
@[simp] theorem setHeld_pwr (s : State) (u : Nat) (b : Bool) : (setHeld s u b).pwr = s.pwr := rfl
@[simp] theorem setHeld_jtag (s : State) (u : Nat) (b : Bool) : (setHeld s u b).jtag = s.jtag := rfl
@[simp] theorem setHeld_pins (s : State) (u : Nat) (b : Bool) : (setHeld s u b).pins = s.pins := rfl
@[simp] theorem setHeld_out (s : State) (u : Nat) (b : Bool) : (setHeld s u b).out = s.out := rfl
@[simp] theorem setHeld_fresh (s : State) (u : Nat) (b : Bool) : (setHeld s u b).fresh = s.fresh := rfl
@[simp] theorem setHeld_pending (s : State) (u : Nat) (b : Bool) : (setHeld s u b).pending = s.pending := rfl

/-! `setAx` -/
@[simp] theorem setAx_stewards (s : State) (x : Fin 4) (a : Axis) : (setAx s x a).stewards = s.stewards := rfl
@[simp] theorem setAx_shared (s : State) (x : Fin 4) (a : Axis) : (setAx s x a).shared = s.shared := rfl
@[simp] theorem setAx_dram (s : State) (x : Fin 4) (a : Axis) : (setAx s x a).dram = s.dram := rfl
@[simp] theorem setAx_single (s : State) (x : Fin 4) (a : Axis) : (setAx s x a).single = s.single := rfl
@[simp] theorem setAx_poison (s : State) (x : Fin 4) (a : Axis) : (setAx s x a).poison = s.poison := rfl
@[simp] theorem setAx_stn (s : State) (x : Fin 4) (a : Axis) : (setAx s x a).stn = s.stn := rfl
@[simp] theorem setAx_vstn (s : State) (x : Fin 4) (a : Axis) : (setAx s x a).vstn = s.vstn := rfl
@[simp] theorem setAx_hiw (s : State) (x : Fin 4) (a : Axis) : (setAx s x a).hiw = s.hiw := rfl
@[simp] theorem setAx_clk (s : State) (x : Fin 4) (a : Axis) : (setAx s x a).clk = s.clk := rfl
@[simp] theorem setAx_round (s : State) (x : Fin 4) (a : Axis) : (setAx s x a).round = s.round := rfl
@[simp] theorem setAx_mbx (s : State) (x : Fin 4) (a : Axis) : (setAx s x a).mbx = s.mbx := rfl
@[simp] theorem setAx_twin (s : State) (x : Fin 4) (a : Axis) : (setAx s x a).twin = s.twin := rfl
@[simp] theorem setAx_tho (s : State) (x : Fin 4) (a : Axis) : (setAx s x a).tho = s.tho := rfl
@[simp] theorem setAx_therm (s : State) (x : Fin 4) (a : Axis) : (setAx s x a).therm = s.therm := rfl
@[simp] theorem setAx_boot (s : State) (x : Fin 4) (a : Axis) : (setAx s x a).boot = s.boot := rfl
@[simp] theorem setAx_jobs (s : State) (x : Fin 4) (a : Axis) : (setAx s x a).jobs = s.jobs := rfl
@[simp] theorem setAx_pkr (s : State) (x : Fin 4) (a : Axis) : (setAx s x a).pkr = s.pkr := rfl
@[simp] theorem setAx_scr (s : State) (x : Fin 4) (a : Axis) : (setAx s x a).scr = s.scr := rfl
@[simp] theorem setAx_plc (s : State) (x : Fin 4) (a : Axis) : (setAx s x a).plc = s.plc := rfl
@[simp] theorem setAx_plc2 (s : State) (x : Fin 4) (a : Axis) : (setAx s x a).plc2 = s.plc2 := rfl
@[simp] theorem setAx_pods (s : State) (x : Fin 4) (a : Axis) : (setAx s x a).pods = s.pods := rfl
@[simp] theorem setAx_sight (s : State) (x : Fin 4) (a : Axis) : (setAx s x a).sight = s.sight := rfl
@[simp] theorem setAx_hlt (s : State) (x : Fin 4) (a : Axis) : (setAx s x a).hlt = s.hlt := rfl
@[simp] theorem setAx_drm (s : State) (x : Fin 4) (a : Axis) : (setAx s x a).drm = s.drm := rfl
@[simp] theorem setAx_dma (s : State) (x : Fin 4) (a : Axis) : (setAx s x a).dma = s.dma := rfl
@[simp] theorem setAx_lanes (s : State) (x : Fin 4) (a : Axis) : (setAx s x a).lanes = s.lanes := rfl
@[simp] theorem setAx_pwr (s : State) (x : Fin 4) (a : Axis) : (setAx s x a).pwr = s.pwr := rfl
@[simp] theorem setAx_jtag (s : State) (x : Fin 4) (a : Axis) : (setAx s x a).jtag = s.jtag := rfl
@[simp] theorem setAx_pins (s : State) (x : Fin 4) (a : Axis) : (setAx s x a).pins = s.pins := rfl
@[simp] theorem setAx_out (s : State) (x : Fin 4) (a : Axis) : (setAx s x a).out = s.out := rfl
@[simp] theorem setAx_fresh (s : State) (x : Fin 4) (a : Axis) : (setAx s x a).fresh = s.fresh := rfl
@[simp] theorem setAx_pending (s : State) (x : Fin 4) (a : Axis) : (setAx s x a).pending = s.pending := rfl

/-! `modAx` -/
@[simp] theorem modAx_stewards (s : State) (x : Fin 4) (f : Axis → Axis) : (modAx s x f).stewards = s.stewards := rfl
@[simp] theorem modAx_shared (s : State) (x : Fin 4) (f : Axis → Axis) : (modAx s x f).shared = s.shared := rfl
@[simp] theorem modAx_dram (s : State) (x : Fin 4) (f : Axis → Axis) : (modAx s x f).dram = s.dram := rfl
@[simp] theorem modAx_single (s : State) (x : Fin 4) (f : Axis → Axis) : (modAx s x f).single = s.single := rfl
@[simp] theorem modAx_poison (s : State) (x : Fin 4) (f : Axis → Axis) : (modAx s x f).poison = s.poison := rfl
@[simp] theorem modAx_stn (s : State) (x : Fin 4) (f : Axis → Axis) : (modAx s x f).stn = s.stn := rfl
@[simp] theorem modAx_vstn (s : State) (x : Fin 4) (f : Axis → Axis) : (modAx s x f).vstn = s.vstn := rfl
@[simp] theorem modAx_hiw (s : State) (x : Fin 4) (f : Axis → Axis) : (modAx s x f).hiw = s.hiw := rfl
@[simp] theorem modAx_clk (s : State) (x : Fin 4) (f : Axis → Axis) : (modAx s x f).clk = s.clk := rfl
@[simp] theorem modAx_round (s : State) (x : Fin 4) (f : Axis → Axis) : (modAx s x f).round = s.round := rfl
@[simp] theorem modAx_mbx (s : State) (x : Fin 4) (f : Axis → Axis) : (modAx s x f).mbx = s.mbx := rfl
@[simp] theorem modAx_twin (s : State) (x : Fin 4) (f : Axis → Axis) : (modAx s x f).twin = s.twin := rfl
@[simp] theorem modAx_tho (s : State) (x : Fin 4) (f : Axis → Axis) : (modAx s x f).tho = s.tho := rfl
@[simp] theorem modAx_therm (s : State) (x : Fin 4) (f : Axis → Axis) : (modAx s x f).therm = s.therm := rfl
@[simp] theorem modAx_boot (s : State) (x : Fin 4) (f : Axis → Axis) : (modAx s x f).boot = s.boot := rfl
@[simp] theorem modAx_jobs (s : State) (x : Fin 4) (f : Axis → Axis) : (modAx s x f).jobs = s.jobs := rfl
@[simp] theorem modAx_pkr (s : State) (x : Fin 4) (f : Axis → Axis) : (modAx s x f).pkr = s.pkr := rfl
@[simp] theorem modAx_scr (s : State) (x : Fin 4) (f : Axis → Axis) : (modAx s x f).scr = s.scr := rfl
@[simp] theorem modAx_plc (s : State) (x : Fin 4) (f : Axis → Axis) : (modAx s x f).plc = s.plc := rfl
@[simp] theorem modAx_plc2 (s : State) (x : Fin 4) (f : Axis → Axis) : (modAx s x f).plc2 = s.plc2 := rfl
@[simp] theorem modAx_pods (s : State) (x : Fin 4) (f : Axis → Axis) : (modAx s x f).pods = s.pods := rfl
@[simp] theorem modAx_sight (s : State) (x : Fin 4) (f : Axis → Axis) : (modAx s x f).sight = s.sight := rfl
@[simp] theorem modAx_hlt (s : State) (x : Fin 4) (f : Axis → Axis) : (modAx s x f).hlt = s.hlt := rfl
@[simp] theorem modAx_drm (s : State) (x : Fin 4) (f : Axis → Axis) : (modAx s x f).drm = s.drm := rfl
@[simp] theorem modAx_dma (s : State) (x : Fin 4) (f : Axis → Axis) : (modAx s x f).dma = s.dma := rfl
@[simp] theorem modAx_lanes (s : State) (x : Fin 4) (f : Axis → Axis) : (modAx s x f).lanes = s.lanes := rfl
@[simp] theorem modAx_pwr (s : State) (x : Fin 4) (f : Axis → Axis) : (modAx s x f).pwr = s.pwr := rfl
@[simp] theorem modAx_jtag (s : State) (x : Fin 4) (f : Axis → Axis) : (modAx s x f).jtag = s.jtag := rfl
@[simp] theorem modAx_pins (s : State) (x : Fin 4) (f : Axis → Axis) : (modAx s x f).pins = s.pins := rfl
@[simp] theorem modAx_out (s : State) (x : Fin 4) (f : Axis → Axis) : (modAx s x f).out = s.out := rfl
@[simp] theorem modAx_fresh (s : State) (x : Fin 4) (f : Axis → Axis) : (modAx s x f).fresh = s.fresh := rfl
@[simp] theorem modAx_pending (s : State) (x : Fin 4) (f : Axis → Axis) : (modAx s x f).pending = s.pending := rfl

/-! `setPodZone` -/
@[simp] theorem setPodZone_stewards (s : State) (p : Fin 24) (z : Zone) : (setPodZone s p z).stewards = s.stewards := rfl
@[simp] theorem setPodZone_shared (s : State) (p : Fin 24) (z : Zone) : (setPodZone s p z).shared = s.shared := rfl
@[simp] theorem setPodZone_dram (s : State) (p : Fin 24) (z : Zone) : (setPodZone s p z).dram = s.dram := rfl
@[simp] theorem setPodZone_single (s : State) (p : Fin 24) (z : Zone) : (setPodZone s p z).single = s.single := rfl
@[simp] theorem setPodZone_poison (s : State) (p : Fin 24) (z : Zone) : (setPodZone s p z).poison = s.poison := rfl
@[simp] theorem setPodZone_stn (s : State) (p : Fin 24) (z : Zone) : (setPodZone s p z).stn = s.stn := rfl
@[simp] theorem setPodZone_vstn (s : State) (p : Fin 24) (z : Zone) : (setPodZone s p z).vstn = s.vstn := rfl
@[simp] theorem setPodZone_hiw (s : State) (p : Fin 24) (z : Zone) : (setPodZone s p z).hiw = s.hiw := rfl
@[simp] theorem setPodZone_clk (s : State) (p : Fin 24) (z : Zone) : (setPodZone s p z).clk = s.clk := rfl
@[simp] theorem setPodZone_round (s : State) (p : Fin 24) (z : Zone) : (setPodZone s p z).round = s.round := rfl
@[simp] theorem setPodZone_mbx (s : State) (p : Fin 24) (z : Zone) : (setPodZone s p z).mbx = s.mbx := rfl
@[simp] theorem setPodZone_twin (s : State) (p : Fin 24) (z : Zone) : (setPodZone s p z).twin = s.twin := rfl
@[simp] theorem setPodZone_tho (s : State) (p : Fin 24) (z : Zone) : (setPodZone s p z).tho = s.tho := rfl
@[simp] theorem setPodZone_therm (s : State) (p : Fin 24) (z : Zone) : (setPodZone s p z).therm = s.therm := rfl
@[simp] theorem setPodZone_boot (s : State) (p : Fin 24) (z : Zone) : (setPodZone s p z).boot = s.boot := rfl
@[simp] theorem setPodZone_jobs (s : State) (p : Fin 24) (z : Zone) : (setPodZone s p z).jobs = s.jobs := rfl
@[simp] theorem setPodZone_pkr (s : State) (p : Fin 24) (z : Zone) : (setPodZone s p z).pkr = s.pkr := rfl
@[simp] theorem setPodZone_scr (s : State) (p : Fin 24) (z : Zone) : (setPodZone s p z).scr = s.scr := rfl
@[simp] theorem setPodZone_plc (s : State) (p : Fin 24) (z : Zone) : (setPodZone s p z).plc = s.plc := rfl
@[simp] theorem setPodZone_plc2 (s : State) (p : Fin 24) (z : Zone) : (setPodZone s p z).plc2 = s.plc2 := rfl
@[simp] theorem setPodZone_pods (s : State) (p : Fin 24) (z : Zone) : (setPodZone s p z).pods = s.pods := rfl
@[simp] theorem setPodZone_sight (s : State) (p : Fin 24) (z : Zone) : (setPodZone s p z).sight = s.sight := rfl
@[simp] theorem setPodZone_hlt (s : State) (p : Fin 24) (z : Zone) : (setPodZone s p z).hlt = s.hlt := rfl
@[simp] theorem setPodZone_mot (s : State) (p : Fin 24) (z : Zone) : (setPodZone s p z).mot = s.mot := rfl
@[simp] theorem setPodZone_drm (s : State) (p : Fin 24) (z : Zone) : (setPodZone s p z).drm = s.drm := rfl
@[simp] theorem setPodZone_dma (s : State) (p : Fin 24) (z : Zone) : (setPodZone s p z).dma = s.dma := rfl
@[simp] theorem setPodZone_lanes (s : State) (p : Fin 24) (z : Zone) : (setPodZone s p z).lanes = s.lanes := rfl
@[simp] theorem setPodZone_jtag (s : State) (p : Fin 24) (z : Zone) : (setPodZone s p z).jtag = s.jtag := rfl
@[simp] theorem setPodZone_pins (s : State) (p : Fin 24) (z : Zone) : (setPodZone s p z).pins = s.pins := rfl
@[simp] theorem setPodZone_out (s : State) (p : Fin 24) (z : Zone) : (setPodZone s p z).out = s.out := rfl
@[simp] theorem setPodZone_fresh (s : State) (p : Fin 24) (z : Zone) : (setPodZone s p z).fresh = s.fresh := rfl
@[simp] theorem setPodZone_pending (s : State) (p : Fin 24) (z : Zone) : (setPodZone s p z).pending = s.pending := rfl

/-! `setDie` -/
@[simp] theorem setDie_stewards (s : State) (z : Zone) : (setDie s z).stewards = s.stewards := rfl
@[simp] theorem setDie_shared (s : State) (z : Zone) : (setDie s z).shared = s.shared := rfl
@[simp] theorem setDie_dram (s : State) (z : Zone) : (setDie s z).dram = s.dram := rfl
@[simp] theorem setDie_single (s : State) (z : Zone) : (setDie s z).single = s.single := rfl
@[simp] theorem setDie_poison (s : State) (z : Zone) : (setDie s z).poison = s.poison := rfl
@[simp] theorem setDie_stn (s : State) (z : Zone) : (setDie s z).stn = s.stn := rfl
@[simp] theorem setDie_vstn (s : State) (z : Zone) : (setDie s z).vstn = s.vstn := rfl
@[simp] theorem setDie_hiw (s : State) (z : Zone) : (setDie s z).hiw = s.hiw := rfl
@[simp] theorem setDie_clk (s : State) (z : Zone) : (setDie s z).clk = s.clk := rfl
@[simp] theorem setDie_round (s : State) (z : Zone) : (setDie s z).round = s.round := rfl
@[simp] theorem setDie_mbx (s : State) (z : Zone) : (setDie s z).mbx = s.mbx := rfl
@[simp] theorem setDie_twin (s : State) (z : Zone) : (setDie s z).twin = s.twin := rfl
@[simp] theorem setDie_tho (s : State) (z : Zone) : (setDie s z).tho = s.tho := rfl
@[simp] theorem setDie_therm (s : State) (z : Zone) : (setDie s z).therm = s.therm := rfl
@[simp] theorem setDie_boot (s : State) (z : Zone) : (setDie s z).boot = s.boot := rfl
@[simp] theorem setDie_jobs (s : State) (z : Zone) : (setDie s z).jobs = s.jobs := rfl
@[simp] theorem setDie_pkr (s : State) (z : Zone) : (setDie s z).pkr = s.pkr := rfl
@[simp] theorem setDie_scr (s : State) (z : Zone) : (setDie s z).scr = s.scr := rfl
@[simp] theorem setDie_plc (s : State) (z : Zone) : (setDie s z).plc = s.plc := rfl
@[simp] theorem setDie_plc2 (s : State) (z : Zone) : (setDie s z).plc2 = s.plc2 := rfl
@[simp] theorem setDie_pods (s : State) (z : Zone) : (setDie s z).pods = s.pods := rfl
@[simp] theorem setDie_sight (s : State) (z : Zone) : (setDie s z).sight = s.sight := rfl
@[simp] theorem setDie_hlt (s : State) (z : Zone) : (setDie s z).hlt = s.hlt := rfl
@[simp] theorem setDie_mot (s : State) (z : Zone) : (setDie s z).mot = s.mot := rfl
@[simp] theorem setDie_drm (s : State) (z : Zone) : (setDie s z).drm = s.drm := rfl
@[simp] theorem setDie_dma (s : State) (z : Zone) : (setDie s z).dma = s.dma := rfl
@[simp] theorem setDie_lanes (s : State) (z : Zone) : (setDie s z).lanes = s.lanes := rfl
@[simp] theorem setDie_jtag (s : State) (z : Zone) : (setDie s z).jtag = s.jtag := rfl
@[simp] theorem setDie_pins (s : State) (z : Zone) : (setDie s z).pins = s.pins := rfl
@[simp] theorem setDie_out (s : State) (z : Zone) : (setDie s z).out = s.out := rfl
@[simp] theorem setDie_fresh (s : State) (z : Zone) : (setDie s z).fresh = s.fresh := rfl
@[simp] theorem setDie_pending (s : State) (z : Zone) : (setDie s z).pending = s.pending := rfl

/-! `setLine` -/
@[simp] theorem setLine_stewards (s : State) (y : RowLine) : (setLine s y).stewards = s.stewards := rfl
@[simp] theorem setLine_shared (s : State) (y : RowLine) : (setLine s y).shared = s.shared := rfl
@[simp] theorem setLine_dram (s : State) (y : RowLine) : (setLine s y).dram = s.dram := rfl
@[simp] theorem setLine_single (s : State) (y : RowLine) : (setLine s y).single = s.single := rfl
@[simp] theorem setLine_poison (s : State) (y : RowLine) : (setLine s y).poison = s.poison := rfl
@[simp] theorem setLine_stn (s : State) (y : RowLine) : (setLine s y).stn = s.stn := rfl
@[simp] theorem setLine_vstn (s : State) (y : RowLine) : (setLine s y).vstn = s.vstn := rfl
@[simp] theorem setLine_hiw (s : State) (y : RowLine) : (setLine s y).hiw = s.hiw := rfl
@[simp] theorem setLine_clk (s : State) (y : RowLine) : (setLine s y).clk = s.clk := rfl
@[simp] theorem setLine_round (s : State) (y : RowLine) : (setLine s y).round = s.round := rfl
@[simp] theorem setLine_mbx (s : State) (y : RowLine) : (setLine s y).mbx = s.mbx := rfl
@[simp] theorem setLine_twin (s : State) (y : RowLine) : (setLine s y).twin = s.twin := rfl
@[simp] theorem setLine_tho (s : State) (y : RowLine) : (setLine s y).tho = s.tho := rfl
@[simp] theorem setLine_therm (s : State) (y : RowLine) : (setLine s y).therm = s.therm := rfl
@[simp] theorem setLine_boot (s : State) (y : RowLine) : (setLine s y).boot = s.boot := rfl
@[simp] theorem setLine_jobs (s : State) (y : RowLine) : (setLine s y).jobs = s.jobs := rfl
@[simp] theorem setLine_pkr (s : State) (y : RowLine) : (setLine s y).pkr = s.pkr := rfl
@[simp] theorem setLine_scr (s : State) (y : RowLine) : (setLine s y).scr = s.scr := rfl
@[simp] theorem setLine_plc (s : State) (y : RowLine) : (setLine s y).plc = s.plc := rfl
@[simp] theorem setLine_plc2 (s : State) (y : RowLine) : (setLine s y).plc2 = s.plc2 := rfl
@[simp] theorem setLine_sight (s : State) (y : RowLine) : (setLine s y).sight = s.sight := rfl
@[simp] theorem setLine_hlt (s : State) (y : RowLine) : (setLine s y).hlt = s.hlt := rfl
@[simp] theorem setLine_mot (s : State) (y : RowLine) : (setLine s y).mot = s.mot := rfl
@[simp] theorem setLine_drm (s : State) (y : RowLine) : (setLine s y).drm = s.drm := rfl
@[simp] theorem setLine_dma (s : State) (y : RowLine) : (setLine s y).dma = s.dma := rfl
@[simp] theorem setLine_lanes (s : State) (y : RowLine) : (setLine s y).lanes = s.lanes := rfl
@[simp] theorem setLine_pwr (s : State) (y : RowLine) : (setLine s y).pwr = s.pwr := rfl
@[simp] theorem setLine_jtag (s : State) (y : RowLine) : (setLine s y).jtag = s.jtag := rfl
@[simp] theorem setLine_pins (s : State) (y : RowLine) : (setLine s y).pins = s.pins := rfl
@[simp] theorem setLine_out (s : State) (y : RowLine) : (setLine s y).out = s.out := rfl
@[simp] theorem setLine_fresh (s : State) (y : RowLine) : (setLine s y).fresh = s.fresh := rfl
@[simp] theorem setLine_pending (s : State) (y : RowLine) : (setLine s y).pending = s.pending := rfl

/-! `modLink` -/
@[simp] theorem modLink_stewards (s : State) (p : Fin 24) (f : PodLink → PodLink) : (modLink s p f).stewards = s.stewards := rfl
@[simp] theorem modLink_shared (s : State) (p : Fin 24) (f : PodLink → PodLink) : (modLink s p f).shared = s.shared := rfl
@[simp] theorem modLink_dram (s : State) (p : Fin 24) (f : PodLink → PodLink) : (modLink s p f).dram = s.dram := rfl
@[simp] theorem modLink_single (s : State) (p : Fin 24) (f : PodLink → PodLink) : (modLink s p f).single = s.single := rfl
@[simp] theorem modLink_poison (s : State) (p : Fin 24) (f : PodLink → PodLink) : (modLink s p f).poison = s.poison := rfl
@[simp] theorem modLink_stn (s : State) (p : Fin 24) (f : PodLink → PodLink) : (modLink s p f).stn = s.stn := rfl
@[simp] theorem modLink_vstn (s : State) (p : Fin 24) (f : PodLink → PodLink) : (modLink s p f).vstn = s.vstn := rfl
@[simp] theorem modLink_hiw (s : State) (p : Fin 24) (f : PodLink → PodLink) : (modLink s p f).hiw = s.hiw := rfl
@[simp] theorem modLink_clk (s : State) (p : Fin 24) (f : PodLink → PodLink) : (modLink s p f).clk = s.clk := rfl
@[simp] theorem modLink_round (s : State) (p : Fin 24) (f : PodLink → PodLink) : (modLink s p f).round = s.round := rfl
@[simp] theorem modLink_mbx (s : State) (p : Fin 24) (f : PodLink → PodLink) : (modLink s p f).mbx = s.mbx := rfl
@[simp] theorem modLink_twin (s : State) (p : Fin 24) (f : PodLink → PodLink) : (modLink s p f).twin = s.twin := rfl
@[simp] theorem modLink_tho (s : State) (p : Fin 24) (f : PodLink → PodLink) : (modLink s p f).tho = s.tho := rfl
@[simp] theorem modLink_therm (s : State) (p : Fin 24) (f : PodLink → PodLink) : (modLink s p f).therm = s.therm := rfl
@[simp] theorem modLink_boot (s : State) (p : Fin 24) (f : PodLink → PodLink) : (modLink s p f).boot = s.boot := rfl
@[simp] theorem modLink_jobs (s : State) (p : Fin 24) (f : PodLink → PodLink) : (modLink s p f).jobs = s.jobs := rfl
@[simp] theorem modLink_pkr (s : State) (p : Fin 24) (f : PodLink → PodLink) : (modLink s p f).pkr = s.pkr := rfl
@[simp] theorem modLink_scr (s : State) (p : Fin 24) (f : PodLink → PodLink) : (modLink s p f).scr = s.scr := rfl
@[simp] theorem modLink_plc (s : State) (p : Fin 24) (f : PodLink → PodLink) : (modLink s p f).plc = s.plc := rfl
@[simp] theorem modLink_plc2 (s : State) (p : Fin 24) (f : PodLink → PodLink) : (modLink s p f).plc2 = s.plc2 := rfl
@[simp] theorem modLink_sight (s : State) (p : Fin 24) (f : PodLink → PodLink) : (modLink s p f).sight = s.sight := rfl
@[simp] theorem modLink_hlt (s : State) (p : Fin 24) (f : PodLink → PodLink) : (modLink s p f).hlt = s.hlt := rfl
@[simp] theorem modLink_mot (s : State) (p : Fin 24) (f : PodLink → PodLink) : (modLink s p f).mot = s.mot := rfl
@[simp] theorem modLink_drm (s : State) (p : Fin 24) (f : PodLink → PodLink) : (modLink s p f).drm = s.drm := rfl
@[simp] theorem modLink_dma (s : State) (p : Fin 24) (f : PodLink → PodLink) : (modLink s p f).dma = s.dma := rfl
@[simp] theorem modLink_lanes (s : State) (p : Fin 24) (f : PodLink → PodLink) : (modLink s p f).lanes = s.lanes := rfl
@[simp] theorem modLink_pwr (s : State) (p : Fin 24) (f : PodLink → PodLink) : (modLink s p f).pwr = s.pwr := rfl
@[simp] theorem modLink_jtag (s : State) (p : Fin 24) (f : PodLink → PodLink) : (modLink s p f).jtag = s.jtag := rfl
@[simp] theorem modLink_pins (s : State) (p : Fin 24) (f : PodLink → PodLink) : (modLink s p f).pins = s.pins := rfl
@[simp] theorem modLink_out (s : State) (p : Fin 24) (f : PodLink → PodLink) : (modLink s p f).out = s.out := rfl
@[simp] theorem modLink_fresh (s : State) (p : Fin 24) (f : PodLink → PodLink) : (modLink s p f).fresh = s.fresh := rfl
@[simp] theorem modLink_pending (s : State) (p : Fin 24) (f : PodLink → PodLink) : (modLink s p f).pending = s.pending := rfl

/-! `setEvent` -/
@[simp] theorem setEvent_shared (n : Nat) (s : State) (k : Fin 8) : (setEvent n s k).shared = s.shared := rfl
@[simp] theorem setEvent_dram (n : Nat) (s : State) (k : Fin 8) : (setEvent n s k).dram = s.dram := rfl
@[simp] theorem setEvent_single (n : Nat) (s : State) (k : Fin 8) : (setEvent n s k).single = s.single := rfl
@[simp] theorem setEvent_poison (n : Nat) (s : State) (k : Fin 8) : (setEvent n s k).poison = s.poison := rfl
@[simp] theorem setEvent_stn (n : Nat) (s : State) (k : Fin 8) : (setEvent n s k).stn = s.stn := rfl
@[simp] theorem setEvent_vstn (n : Nat) (s : State) (k : Fin 8) : (setEvent n s k).vstn = s.vstn := rfl
@[simp] theorem setEvent_hiw (n : Nat) (s : State) (k : Fin 8) : (setEvent n s k).hiw = s.hiw := rfl
@[simp] theorem setEvent_clk (n : Nat) (s : State) (k : Fin 8) : (setEvent n s k).clk = s.clk := rfl
@[simp] theorem setEvent_round (n : Nat) (s : State) (k : Fin 8) : (setEvent n s k).round = s.round := rfl
@[simp] theorem setEvent_mbx (n : Nat) (s : State) (k : Fin 8) : (setEvent n s k).mbx = s.mbx := rfl
@[simp] theorem setEvent_twin (n : Nat) (s : State) (k : Fin 8) : (setEvent n s k).twin = s.twin := rfl
@[simp] theorem setEvent_tho (n : Nat) (s : State) (k : Fin 8) : (setEvent n s k).tho = s.tho := rfl
@[simp] theorem setEvent_therm (n : Nat) (s : State) (k : Fin 8) : (setEvent n s k).therm = s.therm := rfl
@[simp] theorem setEvent_boot (n : Nat) (s : State) (k : Fin 8) : (setEvent n s k).boot = s.boot := rfl
@[simp] theorem setEvent_jobs (n : Nat) (s : State) (k : Fin 8) : (setEvent n s k).jobs = s.jobs := rfl
@[simp] theorem setEvent_pkr (n : Nat) (s : State) (k : Fin 8) : (setEvent n s k).pkr = s.pkr := rfl
@[simp] theorem setEvent_scr (n : Nat) (s : State) (k : Fin 8) : (setEvent n s k).scr = s.scr := rfl
@[simp] theorem setEvent_plc (n : Nat) (s : State) (k : Fin 8) : (setEvent n s k).plc = s.plc := rfl
@[simp] theorem setEvent_plc2 (n : Nat) (s : State) (k : Fin 8) : (setEvent n s k).plc2 = s.plc2 := rfl
@[simp] theorem setEvent_pods (n : Nat) (s : State) (k : Fin 8) : (setEvent n s k).pods = s.pods := rfl
@[simp] theorem setEvent_sight (n : Nat) (s : State) (k : Fin 8) : (setEvent n s k).sight = s.sight := rfl
@[simp] theorem setEvent_hlt (n : Nat) (s : State) (k : Fin 8) : (setEvent n s k).hlt = s.hlt := rfl
@[simp] theorem setEvent_mot (n : Nat) (s : State) (k : Fin 8) : (setEvent n s k).mot = s.mot := rfl
@[simp] theorem setEvent_drm (n : Nat) (s : State) (k : Fin 8) : (setEvent n s k).drm = s.drm := rfl
@[simp] theorem setEvent_dma (n : Nat) (s : State) (k : Fin 8) : (setEvent n s k).dma = s.dma := rfl
@[simp] theorem setEvent_lanes (n : Nat) (s : State) (k : Fin 8) : (setEvent n s k).lanes = s.lanes := rfl
@[simp] theorem setEvent_pwr (n : Nat) (s : State) (k : Fin 8) : (setEvent n s k).pwr = s.pwr := rfl
@[simp] theorem setEvent_jtag (n : Nat) (s : State) (k : Fin 8) : (setEvent n s k).jtag = s.jtag := rfl
@[simp] theorem setEvent_pins (n : Nat) (s : State) (k : Fin 8) : (setEvent n s k).pins = s.pins := rfl
@[simp] theorem setEvent_out (n : Nat) (s : State) (k : Fin 8) : (setEvent n s k).out = s.out := rfl
@[simp] theorem setEvent_fresh (n : Nat) (s : State) (k : Fin 8) : (setEvent n s k).fresh = s.fresh := rfl
@[simp] theorem setEvent_pending (n : Nat) (s : State) (k : Fin 8) : (setEvent n s k).pending = s.pending := rfl

/-! `takeMseq`, `queueRecord` and `alarm` change the mailbag only, and an alarm uses one free value. -/
@[simp] theorem takeMseq_stewards (s : State) (i : Fin 16) : (takeMseq s i).2.stewards = s.stewards := rfl
@[simp] theorem takeMseq_shared (s : State) (i : Fin 16) : (takeMseq s i).2.shared = s.shared := rfl
@[simp] theorem takeMseq_dram (s : State) (i : Fin 16) : (takeMseq s i).2.dram = s.dram := rfl
@[simp] theorem takeMseq_single (s : State) (i : Fin 16) : (takeMseq s i).2.single = s.single := rfl
@[simp] theorem takeMseq_poison (s : State) (i : Fin 16) : (takeMseq s i).2.poison = s.poison := rfl
@[simp] theorem takeMseq_stn (s : State) (i : Fin 16) : (takeMseq s i).2.stn = s.stn := rfl
@[simp] theorem takeMseq_vstn (s : State) (i : Fin 16) : (takeMseq s i).2.vstn = s.vstn := rfl
@[simp] theorem takeMseq_hiw (s : State) (i : Fin 16) : (takeMseq s i).2.hiw = s.hiw := rfl
@[simp] theorem takeMseq_clk (s : State) (i : Fin 16) : (takeMseq s i).2.clk = s.clk := rfl
@[simp] theorem takeMseq_round (s : State) (i : Fin 16) : (takeMseq s i).2.round = s.round := rfl
@[simp] theorem takeMseq_twin (s : State) (i : Fin 16) : (takeMseq s i).2.twin = s.twin := rfl
@[simp] theorem takeMseq_tho (s : State) (i : Fin 16) : (takeMseq s i).2.tho = s.tho := rfl
@[simp] theorem takeMseq_therm (s : State) (i : Fin 16) : (takeMseq s i).2.therm = s.therm := rfl
@[simp] theorem takeMseq_boot (s : State) (i : Fin 16) : (takeMseq s i).2.boot = s.boot := rfl
@[simp] theorem takeMseq_jobs (s : State) (i : Fin 16) : (takeMseq s i).2.jobs = s.jobs := rfl
@[simp] theorem takeMseq_pkr (s : State) (i : Fin 16) : (takeMseq s i).2.pkr = s.pkr := rfl
@[simp] theorem takeMseq_scr (s : State) (i : Fin 16) : (takeMseq s i).2.scr = s.scr := rfl
@[simp] theorem takeMseq_plc (s : State) (i : Fin 16) : (takeMseq s i).2.plc = s.plc := rfl
@[simp] theorem takeMseq_plc2 (s : State) (i : Fin 16) : (takeMseq s i).2.plc2 = s.plc2 := rfl
@[simp] theorem takeMseq_pods (s : State) (i : Fin 16) : (takeMseq s i).2.pods = s.pods := rfl
@[simp] theorem takeMseq_sight (s : State) (i : Fin 16) : (takeMseq s i).2.sight = s.sight := rfl
@[simp] theorem takeMseq_hlt (s : State) (i : Fin 16) : (takeMseq s i).2.hlt = s.hlt := rfl
@[simp] theorem takeMseq_mot (s : State) (i : Fin 16) : (takeMseq s i).2.mot = s.mot := rfl
@[simp] theorem takeMseq_drm (s : State) (i : Fin 16) : (takeMseq s i).2.drm = s.drm := rfl
@[simp] theorem takeMseq_dma (s : State) (i : Fin 16) : (takeMseq s i).2.dma = s.dma := rfl
@[simp] theorem takeMseq_lanes (s : State) (i : Fin 16) : (takeMseq s i).2.lanes = s.lanes := rfl
@[simp] theorem takeMseq_pwr (s : State) (i : Fin 16) : (takeMseq s i).2.pwr = s.pwr := rfl
@[simp] theorem takeMseq_jtag (s : State) (i : Fin 16) : (takeMseq s i).2.jtag = s.jtag := rfl
@[simp] theorem takeMseq_pins (s : State) (i : Fin 16) : (takeMseq s i).2.pins = s.pins := rfl
@[simp] theorem takeMseq_out (s : State) (i : Fin 16) : (takeMseq s i).2.out = s.out := rfl
@[simp] theorem takeMseq_fresh (s : State) (i : Fin 16) : (takeMseq s i).2.fresh = s.fresh := rfl
@[simp] theorem takeMseq_pending (s : State) (i : Fin 16) : (takeMseq s i).2.pending = s.pending := rfl
@[simp] theorem queueRecord_stewards (s : State) (n : Nat) (b : Bool) (x : Option Slot) : (queueRecord s n b x).stewards = s.stewards := by
  simp only [queueRecord]; split <;> rfl
@[simp] theorem queueRecord_shared (s : State) (n : Nat) (b : Bool) (x : Option Slot) : (queueRecord s n b x).shared = s.shared := by
  simp only [queueRecord]; split <;> rfl
@[simp] theorem queueRecord_dram (s : State) (n : Nat) (b : Bool) (x : Option Slot) : (queueRecord s n b x).dram = s.dram := by
  simp only [queueRecord]; split <;> rfl
@[simp] theorem queueRecord_single (s : State) (n : Nat) (b : Bool) (x : Option Slot) : (queueRecord s n b x).single = s.single := by
  simp only [queueRecord]; split <;> rfl
@[simp] theorem queueRecord_poison (s : State) (n : Nat) (b : Bool) (x : Option Slot) : (queueRecord s n b x).poison = s.poison := by
  simp only [queueRecord]; split <;> rfl
@[simp] theorem queueRecord_stn (s : State) (n : Nat) (b : Bool) (x : Option Slot) : (queueRecord s n b x).stn = s.stn := by
  simp only [queueRecord]; split <;> rfl
@[simp] theorem queueRecord_vstn (s : State) (n : Nat) (b : Bool) (x : Option Slot) : (queueRecord s n b x).vstn = s.vstn := by
  simp only [queueRecord]; split <;> rfl
@[simp] theorem queueRecord_hiw (s : State) (n : Nat) (b : Bool) (x : Option Slot) : (queueRecord s n b x).hiw = s.hiw := by
  simp only [queueRecord]; split <;> rfl
@[simp] theorem queueRecord_clk (s : State) (n : Nat) (b : Bool) (x : Option Slot) : (queueRecord s n b x).clk = s.clk := by
  simp only [queueRecord]; split <;> rfl
@[simp] theorem queueRecord_round (s : State) (n : Nat) (b : Bool) (x : Option Slot) : (queueRecord s n b x).round = s.round := by
  simp only [queueRecord]; split <;> rfl
@[simp] theorem queueRecord_twin (s : State) (n : Nat) (b : Bool) (x : Option Slot) : (queueRecord s n b x).twin = s.twin := by
  simp only [queueRecord]; split <;> rfl
@[simp] theorem queueRecord_tho (s : State) (n : Nat) (b : Bool) (x : Option Slot) : (queueRecord s n b x).tho = s.tho := by
  simp only [queueRecord]; split <;> rfl
@[simp] theorem queueRecord_therm (s : State) (n : Nat) (b : Bool) (x : Option Slot) : (queueRecord s n b x).therm = s.therm := by
  simp only [queueRecord]; split <;> rfl
@[simp] theorem queueRecord_boot (s : State) (n : Nat) (b : Bool) (x : Option Slot) : (queueRecord s n b x).boot = s.boot := by
  simp only [queueRecord]; split <;> rfl
@[simp] theorem queueRecord_jobs (s : State) (n : Nat) (b : Bool) (x : Option Slot) : (queueRecord s n b x).jobs = s.jobs := by
  simp only [queueRecord]; split <;> rfl
@[simp] theorem queueRecord_pkr (s : State) (n : Nat) (b : Bool) (x : Option Slot) : (queueRecord s n b x).pkr = s.pkr := by
  simp only [queueRecord]; split <;> rfl
@[simp] theorem queueRecord_scr (s : State) (n : Nat) (b : Bool) (x : Option Slot) : (queueRecord s n b x).scr = s.scr := by
  simp only [queueRecord]; split <;> rfl
@[simp] theorem queueRecord_plc (s : State) (n : Nat) (b : Bool) (x : Option Slot) : (queueRecord s n b x).plc = s.plc := by
  simp only [queueRecord]; split <;> rfl
@[simp] theorem queueRecord_plc2 (s : State) (n : Nat) (b : Bool) (x : Option Slot) : (queueRecord s n b x).plc2 = s.plc2 := by
  simp only [queueRecord]; split <;> rfl
@[simp] theorem queueRecord_pods (s : State) (n : Nat) (b : Bool) (x : Option Slot) : (queueRecord s n b x).pods = s.pods := by
  simp only [queueRecord]; split <;> rfl
@[simp] theorem queueRecord_sight (s : State) (n : Nat) (b : Bool) (x : Option Slot) : (queueRecord s n b x).sight = s.sight := by
  simp only [queueRecord]; split <;> rfl
@[simp] theorem queueRecord_hlt (s : State) (n : Nat) (b : Bool) (x : Option Slot) : (queueRecord s n b x).hlt = s.hlt := by
  simp only [queueRecord]; split <;> rfl
@[simp] theorem queueRecord_mot (s : State) (n : Nat) (b : Bool) (x : Option Slot) : (queueRecord s n b x).mot = s.mot := by
  simp only [queueRecord]; split <;> rfl
@[simp] theorem queueRecord_drm (s : State) (n : Nat) (b : Bool) (x : Option Slot) : (queueRecord s n b x).drm = s.drm := by
  simp only [queueRecord]; split <;> rfl
@[simp] theorem queueRecord_dma (s : State) (n : Nat) (b : Bool) (x : Option Slot) : (queueRecord s n b x).dma = s.dma := by
  simp only [queueRecord]; split <;> rfl
@[simp] theorem queueRecord_lanes (s : State) (n : Nat) (b : Bool) (x : Option Slot) : (queueRecord s n b x).lanes = s.lanes := by
  simp only [queueRecord]; split <;> rfl
@[simp] theorem queueRecord_pwr (s : State) (n : Nat) (b : Bool) (x : Option Slot) : (queueRecord s n b x).pwr = s.pwr := by
  simp only [queueRecord]; split <;> rfl
@[simp] theorem queueRecord_jtag (s : State) (n : Nat) (b : Bool) (x : Option Slot) : (queueRecord s n b x).jtag = s.jtag := by
  simp only [queueRecord]; split <;> rfl
@[simp] theorem queueRecord_pins (s : State) (n : Nat) (b : Bool) (x : Option Slot) : (queueRecord s n b x).pins = s.pins := by
  simp only [queueRecord]; split <;> rfl
@[simp] theorem queueRecord_out (s : State) (n : Nat) (b : Bool) (x : Option Slot) : (queueRecord s n b x).out = s.out := by
  simp only [queueRecord]; split <;> rfl
@[simp] theorem queueRecord_fresh (s : State) (n : Nat) (b : Bool) (x : Option Slot) : (queueRecord s n b x).fresh = s.fresh := by
  simp only [queueRecord]; split <;> rfl
@[simp] theorem queueRecord_pending (s : State) (n : Nat) (b : Bool) (x : Option Slot) : (queueRecord s n b x).pending = s.pending := by
  simp only [queueRecord]; split <;> rfl
@[simp] theorem alarm_stewards (s : State) (n : Nat) (d : List Word) : (alarm s n d).stewards = s.stewards := by
  simp only [alarm]; repeat' split
  all_goals simp
@[simp] theorem alarm_shared (s : State) (n : Nat) (d : List Word) : (alarm s n d).shared = s.shared := by
  simp only [alarm]; repeat' split
  all_goals simp
@[simp] theorem alarm_dram (s : State) (n : Nat) (d : List Word) : (alarm s n d).dram = s.dram := by
  simp only [alarm]; repeat' split
  all_goals simp
@[simp] theorem alarm_single (s : State) (n : Nat) (d : List Word) : (alarm s n d).single = s.single := by
  simp only [alarm]; repeat' split
  all_goals simp
@[simp] theorem alarm_poison (s : State) (n : Nat) (d : List Word) : (alarm s n d).poison = s.poison := by
  simp only [alarm]; repeat' split
  all_goals simp
@[simp] theorem alarm_stn (s : State) (n : Nat) (d : List Word) : (alarm s n d).stn = s.stn := by
  simp only [alarm]; repeat' split
  all_goals simp
@[simp] theorem alarm_vstn (s : State) (n : Nat) (d : List Word) : (alarm s n d).vstn = s.vstn := by
  simp only [alarm]; repeat' split
  all_goals simp
@[simp] theorem alarm_hiw (s : State) (n : Nat) (d : List Word) : (alarm s n d).hiw = s.hiw := by
  simp only [alarm]; repeat' split
  all_goals simp
@[simp] theorem alarm_clk (s : State) (n : Nat) (d : List Word) : (alarm s n d).clk = s.clk := by
  simp only [alarm]; repeat' split
  all_goals simp
@[simp] theorem alarm_round (s : State) (n : Nat) (d : List Word) : (alarm s n d).round = s.round := by
  simp only [alarm]; repeat' split
  all_goals simp
@[simp] theorem alarm_twin (s : State) (n : Nat) (d : List Word) : (alarm s n d).twin = s.twin := by
  simp only [alarm]; repeat' split
  all_goals simp
@[simp] theorem alarm_tho (s : State) (n : Nat) (d : List Word) : (alarm s n d).tho = s.tho := by
  simp only [alarm]; repeat' split
  all_goals simp
@[simp] theorem alarm_therm (s : State) (n : Nat) (d : List Word) : (alarm s n d).therm = s.therm := by
  simp only [alarm]; repeat' split
  all_goals simp
@[simp] theorem alarm_boot (s : State) (n : Nat) (d : List Word) : (alarm s n d).boot = s.boot := by
  simp only [alarm]; repeat' split
  all_goals simp
@[simp] theorem alarm_jobs (s : State) (n : Nat) (d : List Word) : (alarm s n d).jobs = s.jobs := by
  simp only [alarm]; repeat' split
  all_goals simp
@[simp] theorem alarm_pkr (s : State) (n : Nat) (d : List Word) : (alarm s n d).pkr = s.pkr := by
  simp only [alarm]; repeat' split
  all_goals simp
@[simp] theorem alarm_scr (s : State) (n : Nat) (d : List Word) : (alarm s n d).scr = s.scr := by
  simp only [alarm]; repeat' split
  all_goals simp
@[simp] theorem alarm_plc (s : State) (n : Nat) (d : List Word) : (alarm s n d).plc = s.plc := by
  simp only [alarm]; repeat' split
  all_goals simp
@[simp] theorem alarm_plc2 (s : State) (n : Nat) (d : List Word) : (alarm s n d).plc2 = s.plc2 := by
  simp only [alarm]; repeat' split
  all_goals simp
@[simp] theorem alarm_pods (s : State) (n : Nat) (d : List Word) : (alarm s n d).pods = s.pods := by
  simp only [alarm]; repeat' split
  all_goals simp
@[simp] theorem alarm_sight (s : State) (n : Nat) (d : List Word) : (alarm s n d).sight = s.sight := by
  simp only [alarm]; repeat' split
  all_goals simp
@[simp] theorem alarm_hlt (s : State) (n : Nat) (d : List Word) : (alarm s n d).hlt = s.hlt := by
  simp only [alarm]; repeat' split
  all_goals simp
@[simp] theorem alarm_mot (s : State) (n : Nat) (d : List Word) : (alarm s n d).mot = s.mot := by
  simp only [alarm]; repeat' split
  all_goals simp
@[simp] theorem alarm_drm (s : State) (n : Nat) (d : List Word) : (alarm s n d).drm = s.drm := by
  simp only [alarm]; repeat' split
  all_goals simp
@[simp] theorem alarm_dma (s : State) (n : Nat) (d : List Word) : (alarm s n d).dma = s.dma := by
  simp only [alarm]; repeat' split
  all_goals simp
@[simp] theorem alarm_lanes (s : State) (n : Nat) (d : List Word) : (alarm s n d).lanes = s.lanes := by
  simp only [alarm]; repeat' split
  all_goals simp
@[simp] theorem alarm_pwr (s : State) (n : Nat) (d : List Word) : (alarm s n d).pwr = s.pwr := by
  simp only [alarm]; repeat' split
  all_goals simp
@[simp] theorem alarm_jtag (s : State) (n : Nat) (d : List Word) : (alarm s n d).jtag = s.jtag := by
  simp only [alarm]; repeat' split
  all_goals simp
@[simp] theorem alarm_pins (s : State) (n : Nat) (d : List Word) : (alarm s n d).pins = s.pins := by
  simp only [alarm]; repeat' split
  all_goals simp
@[simp] theorem alarm_out (s : State) (n : Nat) (d : List Word) : (alarm s n d).out = s.out := by
  simp only [alarm]; repeat' split
  all_goals simp
@[simp] theorem alarm_pending (s : State) (n : Nat) (d : List Word) : (alarm s n d).pending = s.pending := by
  simp only [alarm]; repeat' split
  all_goals simp

/-! ## Stewards -/

@[simp] theorem stw_setStw_same (s : State) (k : Fin 8) (w : Steward) : stw (setStw s k w) k = w := by
  simp [stw, setStw]

theorem stw_setStw_other (s : State) {k j : Fin 8} (w : Steward) (h : j ≠ k) : stw (setStw s k w) j = stw s j := by
  have : k.val ≠ j.val := fun e => h (Fin.ext e.symm)
  simp [stw, setStw, Vector.getElem_set_ne _ _ this]

@[simp] theorem stw_modStw_same (s : State) (k : Fin 8) (f : Steward → Steward) : stw (modStw s k f) k = f (stw s k) := by
  simp [modStw]

theorem stw_modStw_other (s : State) {k j : Fin 8} (f : Steward → Steward) (h : j ≠ k) :
    stw (modStw s k f) j = stw s j := stw_setStw_other s _ h

/-! ## Station words and fields -/

theorem setStnWord_ok {s : State} (h : StnOk s) (a : Nat) (v : Word) : StnOk (setStnWord s a v) := spWf_put h

theorem stnWord_set_same {s : State} (h : StnOk s) (a : Nat) (v : Word) : stnWord (setStnWord s a v) a = v :=
  spGet_put_same h

theorem stnWord_set_other {s : State} (h : StnOk s) {a b : Nat} (v : Word) (hb : b ≠ a) :
    stnWord (setStnWord s a v) b = stnWord s b := spGet_put_other h hb

theorem reset_stnOk : StnOk State.reset := rfl

end Sys2Proof.Machine
end

