-- ==== Sys2Proof/Laws/Fields.lean ====
section
/-! SUPPORT. Laws of the fields of station words and of the alarm slots: what a read gives after a write. -/
namespace Sys2Proof.Machine
open Sys2Proof

/-! ## Fields of a word -/

theorem fldOf_testBit (f : Fld) (w : Word) (i : Nat) :
    (fldOf f w).testBit i = (decide (i < f.w) && w.getLsbD (f.lo + i)) := by
  simp [fldOf, BitVec.getLsbD, Nat.testBit_mod_two_pow, Nat.testBit_div_two_pow, Nat.add_comm]

theorem mask_testBit (f : Fld) (i : Nat) : f.mask.testBit i = (decide (f.lo ≤ i) && decide (i < f.lo + f.w)) := by
  rw [Fld.mask, Nat.testBit_mul_two_pow, Nat.testBit_two_pow_sub_one]
  by_cases h : f.lo ≤ i <;> simp [h]; omega

theorem fldPut_getLsbD (f : Fld) (w : Word) (v i : Nat) (hi : i < 32) :
    (fldPut f w v).getLsbD i
      = if f.lo ≤ i ∧ i < f.lo + f.w then v.testBit (i - f.lo) else w.getLsbD i := by
  have h2 : ((v % 2 ^ f.w) * 2 ^ f.lo).testBit i
      = (decide (f.lo ≤ i) && (decide (i - f.lo < f.w) && v.testBit (i - f.lo))) := by
    rw [Nat.testBit_mul_two_pow, Nat.testBit_mod_two_pow]
  simp only [fldPut, BitVec.getLsbD_or, BitVec.getLsbD_and, BitVec.getLsbD_not, BitVec.getLsbD_ofNat, hi,
    mask_testBit, h2, decide_true, Bool.true_and]
  by_cases h1 : f.lo ≤ i
  · by_cases h3 : i < f.lo + f.w
    · have : i - f.lo < f.w := by omega
      simp [h1, h3, this]
    · have : ¬ i - f.lo < f.w := by omega
      simp [h1, h3, this]
  · simp [h1]

/-- A field reads as it was put, within its width. -/
theorem fldOf_fldPut_same {f : Fld} (hf : f.lo + f.w ≤ 32) (w : Word) (v : Nat) : fldOf f (fldPut f w v) = v % 2 ^ f.w := by
  apply Nat.eq_of_testBit_eq
  intro i
  rw [fldOf_testBit, Nat.testBit_mod_two_pow]
  by_cases h : i < f.w
  · rw [fldPut_getLsbD _ _ _ _ (by omega)]
    have : f.lo + i < f.lo + f.w := by omega
    simp [h, this]
  · simp [h]

/-- A field that shares no bit with the one put keeps its value. -/
theorem fldOf_fldPut_other {f g : Fld} (hg : g.lo + g.w ≤ 32) (h : f.lo + f.w ≤ g.lo ∨ g.lo + g.w ≤ f.lo) (w : Word)
    (v : Nat) : fldOf g (fldPut f w v) = fldOf g w := by
  apply Nat.eq_of_testBit_eq
  intro i
  simp only [fldOf_testBit]
  by_cases hi : i < g.w
  · rw [fldPut_getLsbD _ _ _ _ (by omega)]
    have : ¬ (f.lo ≤ g.lo + i ∧ g.lo + i < f.lo + f.w) := by omega
    simp [this]
  · simp [hi]

theorem fldOf_lt (f : Fld) (w : Word) : fldOf f w < 2 ^ f.w := Nat.mod_lt _ (Nat.two_pow_pos _)
theorem fld_lt (s : State) (f : Fld) : fld s f < 2 ^ f.w := fldOf_lt f _

/-! ## Fields of the station file -/

theorem setFld_ok {s : State} (h : StnOk s) (f : Fld) (v : Nat) : StnOk (setFld s f v) := setStnWord_ok h _ _

theorem stnWord_setFld_same {s : State} (h : StnOk s) (f : Fld) (v : Nat) :
    stnWord (setFld s f v) f.addr = fldPut f (stnWord s f.addr) v := stnWord_set_same h _ _

theorem stnWord_setFld_other {s : State} (h : StnOk s) {f : Fld} {b : Nat} (v : Nat) (hb : b ≠ f.addr) :
    stnWord (setFld s f v) b = stnWord s b := stnWord_set_other h _ hb

theorem fld_setFld_same {s : State} (h : StnOk s) {f : Fld} (hf : f.lo + f.w ≤ 32) (v : Nat) :
    fld (setFld s f v) f = v % 2 ^ f.w := by
  rw [fld, stnWord_setFld_same h, fldOf_fldPut_same hf]

theorem fld_setFld_addr {s : State} (h : StnOk s) {f g : Fld} (v : Nat) (ha : g.addr ≠ f.addr) :
    fld (setFld s f v) g = fld s g := by
  rw [fld, stnWord_setFld_other h v ha]; rfl

theorem fld_setFld_bits {s : State} (h : StnOk s) {f g : Fld} (v : Nat) (hg : g.lo + g.w ≤ 32)
    (hb : f.lo + f.w ≤ g.lo ∨ g.lo + g.w ≤ f.lo) : fld (setFld s f v) g = fld s g := by
  by_cases ha : g.addr = f.addr
  · rw [fld, ha, stnWord_setFld_same h, fldOf_fldPut_other hg hb, ← ha]; rfl
  · exact fld_setFld_addr h v ha

/-- A counter field after it has counted. -/
theorem fld_addFld_same {s : State} (h : StnOk s) {f : Fld} (hf : f.lo + f.w ≤ 32) (n : Nat) :
    fld (addFld s f n) f = min (fld s f + n) (2 ^ f.w - 1) := by
  rw [addFld, fld_setFld_same h hf]
  apply Nat.mod_eq_of_lt
  have := Nat.two_pow_pos f.w
  simp only [Nat.min_def, Nat.min]; split <;> omega

/-! ## Sparse stores: an entry other than the default reads back from any list -/

theorem spGet_put_ne {α : Type} [DecidableEq α] {d : Nat → α} {a : Nat} {v : α} (hv : v ≠ d a) (m : List (Nat × α)) :
    spGet d (spPut d m a v) a = v := by
  induction m with
  | nil => simp [spPut, hv, spGet]
  | cons e t ih =>
    obtain ⟨k, w⟩ := e
    simp only [spPut]
    split
    · simp [spGet]
    · split
      · simp [spGet]
      · simp [spGet, *]

theorem spGet_put_ne_other {α : Type} [DecidableEq α] {d : Nat → α} {a b : Nat} {v : α} (hv : v ≠ d a) (hb : b ≠ a)
    (m : List (Nat × α)) : spGet d (spPut d m a v) b = spGet d m b := by
  induction m with
  | nil => simp [spPut, hv, spGet, hb]
  | cons e t ih =>
    obtain ⟨k, w⟩ := e
    simp only [spPut]
    split
    · rename_i h1
      simp only [if_false, spGet, hb]
      by_cases hba : b < a
      · have h2 : b < k := by omega
        have h3 : b ≠ k := by omega
        simp [hba, h2, h3]
      · simp [hba]
    · split
      · rename_i h2; subst h2; simp [spGet, hb]
      · simp [spGet, ih]

/-! ## Alarm slots -/

theorem open_ne_init {x : Slot} (h : x.isOpen = true) : x ≠ Slot.init := fun e => by subst e; cases h

theorem slotGet_setSlot_same {s : State} {n : Nat} {x : Slot} (h : x.isOpen = true) : slotGet (setSlot s n x) n = x :=
  spGet_put_ne (d := fun _ => Slot.init) (open_ne_init h) _

theorem slotGet_setSlot_other {s : State} {n m : Nat} {x : Slot} (h : x.isOpen = true) (hm : m ≠ n) :
    slotGet (setSlot s n x) m = slotGet s m :=
  spGet_put_ne_other (d := fun _ => Slot.init) (open_ne_init h) hm _

@[simp] theorem slotGet_takeMseq (s : State) (i : Fin 16) (n : Nat) : slotGet (takeMseq s i).2 n = slotGet s n := rfl

@[simp] theorem slotGet_queueRecord (s : State) (n : Nat) (b : Bool) (x : Option Slot) (m : Nat) :
    slotGet (queueRecord s n b x) m = slotGet s m := by
  simp only [queueRecord]; split <;> rfl

/-- After an occurrence the slot is open. -/
theorem slotGet_alarm_open (s : State) (n : Nat) (d : List Word) : (slotGet (alarm s n d) n).isOpen = true := by
  have hc : ∀ (s : State) (pm : BitVec 64), (slotGet s n).isOpen = true → (slotGet (countSlot s n pm) n).isOpen = true :=
    fun s pm h => by rw [countSlot, slotGet_setSlot_same (by exact h)]; exact h
  have ho : ∀ (s : State) (pm : BitVec 64), (slotGet (openSlot s n pm d) n).isOpen = true :=
    fun s pm => by rw [openSlot, slotGet_setSlot_same rfl]
  simp only [alarm]
  split
  · split <;> split
    · exact hc _ _ (by assumption)
    · exact hc _ _ (by assumption)
    · exact ho _ _
    · exact ho _ _
  · split
    · exact hc _ _ (by assumption)
    · rw [slotGet_queueRecord]; exact ho _ _

/-- Every other slot stays as it is. -/
theorem slotGet_alarm_other (s : State) {n m : Nat} (d : List Word) (h : m ≠ n) :
    slotGet (alarm s n d) m = slotGet s m := by
  have hc : ∀ (s : State) (pm : BitVec 64), (slotGet s n).isOpen = true → slotGet (countSlot s n pm) m = slotGet s m :=
    fun s pm ho => by rw [countSlot, slotGet_setSlot_other (by exact ho) h]
  have ho : ∀ (s : State) (pm : BitVec 64), slotGet (openSlot s n pm d) m = slotGet s m :=
    fun s pm => by rw [openSlot, slotGet_setSlot_other rfl h]
  simp only [alarm]
  split
  · split <;> split
    · exact hc _ _ (by assumption)
    · exact hc _ _ (by assumption)
    · exact ho _ _
    · exact ho _ _
  · split
    · exact hc _ _ (by assumption)
    · rw [slotGet_queueRecord]; exact ho _ _

end Sys2Proof.Machine
end

