-- ==== Sys2Proof/Laws/Step.lean ====
section
/-! SUPPORT. Laws of the step, and of any operation that goes through a list. -/
namespace Sys2Proof.Machine
open Sys2Proof

/-- On an empty queue the block idles. -/
theorem step_idle {s : State} (h : s.pending = []) : step s = .next s := by simp [step, h]

/-- Else the command at the front runs with the queue's rest. -/
theorem step_front {s : State} {c : Instr} {rest : List Instr} (h : s.pending = c :: rest) :
    step s = exec c { s with pending := rest } := by simp [step, h]

/-- What every step of a fold leaves alone, the fold leaves alone. -/
theorem foldl_keeps {α β γ : Type} (g : β → γ) (f : β → α → β) (hf : ∀ b a, g (f b a) = g b) (l : List α) (b : β) :
    g (l.foldl f b) = g b := by
  induction l generalizing b with
  | nil => rfl
  | cons a t ih => rw [List.foldl_cons, ih, hf]

/-- An invariant that every step of a fold keeps holds after it. -/
theorem foldl_inv {α β : Type} (P : β → Prop) (f : β → α → β) (hf : ∀ b a, P b → P (f b a)) (l : List α) {b : β}
    (hb : P b) : P (l.foldl f b) := by
  induction l generalizing b with
  | nil => exact hb
  | cons a t ih => exact ih (hf b a hb)

end Sys2Proof.Machine
end

