-- ==== Sys2Proof/Laws/Dram.lean ====
section
/-! SUPPORT. Laws of the DRAM operations: the check of a codeword, the effect of a read, and a write (R433 to R435). -/
namespace Sys2Proof.Machine
open Sys2Proof

/-- What the check of a codeword may write: the counters and addresses in the stations, the alarm slots and mailbag,
the counter of free values, and when the page store last had an uncorrectable error (R345). Everything else of `t` is as in `s`. -/
structure SameButNotes (s t : State) : Prop where
  stewards : t.stewards = s.stewards
  shared : t.shared = s.shared
  dram : t.dram = s.dram
  vstn : t.vstn = s.vstn
  hiw : t.hiw = s.hiw
  clk : t.clk = s.clk
  round : t.round = s.round
  twin : t.twin = { s.twin with pageErr := t.twin.pageErr }
  tho : t.tho = s.tho
  therm : t.therm = s.therm
  boot : t.boot = s.boot
  jobs : t.jobs = s.jobs
  pkr : t.pkr = s.pkr
  scr : t.scr = s.scr
  plc : t.plc = s.plc
  plc2 : t.plc2 = s.plc2
  pods : t.pods = s.pods
  sight : t.sight = s.sight
  hlt : t.hlt = s.hlt
  mot : t.mot = s.mot
  drm : t.drm = s.drm
  dma : t.dma = s.dma
  lanes : t.lanes = s.lanes
  pwr : t.pwr = s.pwr
  jtag : t.jtag = s.jtag
  pins : t.pins = s.pins
  out : t.out = s.out
  pending : t.pending = s.pending

theorem SameButNotes.refl (s : State) : SameButNotes s s := by constructor <;> rfl

theorem SameButNotes.trans {s t u : State} (h : SameButNotes s t) (g : SameButNotes t u) : SameButNotes s u := by
  constructor
  · exact g.stewards.trans h.stewards
  · exact g.shared.trans h.shared
  · exact g.dram.trans h.dram
  · exact g.vstn.trans h.vstn
  · exact g.hiw.trans h.hiw
  · exact g.clk.trans h.clk
  · exact g.round.trans h.round
  · rw [g.twin, h.twin]
  · exact g.tho.trans h.tho
  · exact g.therm.trans h.therm
  · exact g.boot.trans h.boot
  · exact g.jobs.trans h.jobs
  · exact g.pkr.trans h.pkr
  · exact g.scr.trans h.scr
  · exact g.plc.trans h.plc
  · exact g.plc2.trans h.plc2
  · exact g.pods.trans h.pods
  · exact g.sight.trans h.sight
  · exact g.hlt.trans h.hlt
  · exact g.mot.trans h.mot
  · exact g.drm.trans h.drm
  · exact g.dma.trans h.dma
  · exact g.lanes.trans h.lanes
  · exact g.pwr.trans h.pwr
  · exact g.jtag.trans h.jtag
  · exact g.pins.trans h.pins
  · exact g.out.trans h.out
  · exact g.pending.trans h.pending

theorem noteCorrected_same (s : State) (cw : Nat) : SameButNotes s (noteCorrected s cw) := by
  constructor <;> simp [noteCorrected]

theorem noteUncorrectable_same (s : State) (cw : Nat) : SameButNotes s (noteUncorrectable s cw) := by
  constructor <;> simp [noteUncorrectable] <;> split <;> simp

theorem readCheck_same (s : State) (cw : Nat) : SameButNotes s (readCheck s cw) := by
  simp only [readCheck]; split
  · exact noteUncorrectable_same s cw
  · split
    · exact noteCorrected_same s cw
    · exact .refl s

/-- A read of DRAM leaves notes of the errors it meets, and nothing else. -/
theorem dramReadEffect_same (s : State) (a n : Nat) : SameButNotes s (dramReadEffect s a n) := by
  rw [dramReadEffect]
  exact foldl_inv (SameButNotes s) readCheck (fun b w h => h.trans (readCheck_same b w)) _ (.refl s)

theorem writeCheck_same (a n : Nat) (s : State) (cw : Nat) : SameButNotes s (writeCheck a n s cw) := by
  simp only [writeCheck]; split
  · constructor <;> rfl
  · split
    · exact noteUncorrectable_same s cw
    · split
      · exact (noteCorrected_same s cw).trans (by constructor <;> rfl)
      · exact .refl s

/-- A write of DRAM leaves notes of the errors it meets, and stores its bytes. -/
theorem dramWrite_law (s : State) (a : Nat) (bs : List Byte) :
    ∃ t, SameButNotes s t ∧ dramWrite s a bs = { t with dram := memStore s.dram a bs } := by
  refine ⟨_, foldl_inv (SameButNotes s) (writeCheck a bs.length) (fun b w h => h.trans (writeCheck_same a bs.length b w))
    ((List.range (cwCount a bs.length)).map (fun i => cwFirst a + i)) (.refl s), ?_⟩
  rw [dramWrite, (foldl_inv (SameButNotes s) (writeCheck a bs.length)
    (fun b w h => h.trans (writeCheck_same a bs.length b w))
    ((List.range (cwCount a bs.length)).map (fun i => cwFirst a + i)) (.refl s)).dram]

@[simp] theorem dramWrite_dram (s : State) (a : Nat) (bs : List Byte) :
    (dramWrite s a bs).dram = memStore s.dram a bs := by
  obtain ⟨t, -, h⟩ := dramWrite_law s a bs; rw [h]

/-- A write keeps the canonical form of DRAM. -/
theorem dramWrite_wf {s : State} (h : Memory.wf s.dram = true) (a : Nat) (bs : List Byte) :
    Memory.wf (dramWrite s a bs).dram = true := by rw [dramWrite_dram]; exact memStore_wf h a

end Sys2Proof.Machine
end

