-- ==== Sys2Proof/Laws/Faults.lean ====
section
/-! SUPPORT. Laws of a hand-over's start, of a steward's fault, and of the frame of a steward's instruction (R66, R87,
R88, R353). -/
namespace Sys2Proof.Machine
open Sys2Proof

/-! ## A hand-over starts -/

/-- A hand-over that starts, or is declined, writes these alone: the hand-over's own state, alarm slots, a counter. -/
theorem startHandover_keeps (s : State) :
    (startHandover s).stewards = s.stewards ∧ (startHandover s).dram = s.dram ∧ (startHandover s).shared = s.shared
      ∧ (startHandover s).vstn = s.vstn ∧ (startHandover s).round = s.round ∧ (startHandover s).jobs = s.jobs
      ∧ (startHandover s).scr = s.scr ∧ (startHandover s).plc = s.plc ∧ (startHandover s).plc2 = s.plc2
      ∧ (startHandover s).pods = s.pods ∧ (startHandover s).sight = s.sight ∧ (startHandover s).hlt = s.hlt
      ∧ (startHandover s).mot = s.mot ∧ (startHandover s).dma = s.dma ∧ (startHandover s).pwr = s.pwr
      ∧ (startHandover s).therm = s.therm ∧ (startHandover s).boot = s.boot ∧ (startHandover s).out = s.out
      ∧ (startHandover s).pins = s.pins ∧ (startHandover s).clk = s.clk ∧ (startHandover s).twin = s.twin
      ∧ (startHandover s).pending = s.pending := by
  simp only [startHandover, declineHandover]; repeat' split
  all_goals simp

/-- No open slot closes. -/
theorem startHandover_slot {s : State} {n : Nat} (h : (slotGet s n).isOpen = true) :
    (slotGet (startHandover s) n).isOpen = true := by
  simp only [startHandover, declineHandover]; repeat' split
  · exact h
  · exact h
  · by_cases hn : n = 249
    · subst hn; exact slotGet_alarm_open _ _ _
    · rw [slotGet_alarm_other _ _ hn]; exact h
  · exact h

/-- A fault that calls for a hand-over keeps the stewards and every memory. -/
theorem faultHandover_keeps (s : State) (b : Nat) :
    (faultHandover s b).stewards = s.stewards ∧ (faultHandover s b).dram = s.dram
      ∧ (faultHandover s b).shared = s.shared ∧ (faultHandover s b).vstn = s.vstn := by
  obtain ⟨h1, h2, h3, h4, -⟩ := startHandover_keeps (setNotElig s b true); exact ⟨h1, h2, h3, h4⟩

theorem faultHandover_slot {s : State} {n : Nat} (b : Nat) (h : (slotGet s n).isOpen = true) :
    (slotGet (faultHandover s b) n).isOpen = true := startHandover_slot (s := setNotElig s b true) h

/-! ## A steward's fault -/

/-- The steward as its fault leaves it. -/
def faulted (w : Steward) (code kind : Nat) (faddr : Word) : Steward :=
  { w with run := .halted, fault := BitVec.ofNat 32 (code + 256 * kind), epc := w.pc, faddr := faddr }

theorem stewardFault_stewards (s : State) (k : Fin 8) (code kind : Nat) (faddr : Word) :
    (stewardFault s k code kind faddr).stewards = (setStw s k (faulted (stw s k) code kind faddr)).stewards := by
  simp only [stewardFault]; split
  · rw [(faultHandover_keeps _ _).1]; simp only [alarm_stewards]; rfl
  · simp only [alarm_stewards]; rfl

/-- A fault halts its steward with the registers of R78 written, touches no other steward and no memory, and raises its
alarm; a customer's writes no station. -/
theorem stewardFault_law (s : State) (k : Fin 8) (code kind : Nat) (faddr : Word) :
    let t := stewardFault s k code kind faddr
    stw t k = faulted (stw s k) code kind faddr ∧ (∀ j, j ≠ k → stw t j = stw s j)
      ∧ t.dram = s.dram ∧ t.shared = s.shared ∧ t.vstn = s.vstn ∧ (k.val < 6 → t.stn = s.stn)
      ∧ (slotGet t (3 + k.val)).isOpen = true := by
  intro t
  have key : t.stewards = (setStw s k (faulted (stw s k) code kind faddr)).stewards :=
    stewardFault_stewards s k code kind faddr
  have at1 : ∀ j : Fin 8, stw t j = stw (setStw s k (faulted (stw s k) code kind faddr)) j := fun j => by
    simp only [stw, key]
  refine ⟨?_, ?_, ?_, ?_, ?_, ?_, ?_⟩
  · rw [at1, stw_setStw_same]
  · intro j hj; rw [at1, stw_setStw_other _ _ hj]
  · simp only [t, stewardFault]; split
    · rw [(faultHandover_keeps _ _).2.1]; simp
    · simp
  · simp only [t, stewardFault]; split
    · rw [(faultHandover_keeps _ _).2.2.1]; simp
    · simp
  · simp only [t, stewardFault]; split
    · rw [(faultHandover_keeps _ _).2.2.2]; simp
    · simp
  · intro hk
    have hr : isResident k = false := by simp [isResident]; omega
    simp [t, stewardFault, hr]
  · simp only [t, stewardFault]; split
    · exact faultHandover_slot _ (slotGet_alarm_open _ _ _)
    · exact slotGet_alarm_open _ _ _

/-! ## The frame of an instruction -/

/-- A steward that runs, at an address of instruction memory, executes. -/
theorem onSteward_runs {s : State} {k : Fin 8} (hr : (stw s k).run = .running) (hp : (stw s k).pc.toNat < 0x10000)
    (act : State → State) : onSteward s k act = .next (act s) := by
  simp [onSteward, hr, inImem, hp]

/-- One that does not run executes nothing. -/
theorem onSteward_idle {s : State} {k : Fin 8} (hr : (stw s k).run ≠ .running) (act : State → State) :
    onSteward s k act = .next s := by simp [onSteward, hr]

/-- Beyond instruction memory the fetch faults. -/
theorem onSteward_beyond {s : State} {k : Fin 8} (hr : (stw s k).run = .running)
    (hp : 0x10000 ≤ (stw s k).pc.toNat) (act : State → State) :
    onSteward s k act = .next (faultAccess s k kFetch (stw s k).pc) := by
  have : ¬ (stw s k).pc.toNat < 0x10000 := by omega
  simp [onSteward, hr, inImem, this]

/-- A register write reads back, but for G0. -/
theorem setG_g (w : Steward) (d x : _) (r : Fin 32) :
    (w.setG d x).g[r] = if r = d ∧ d ≠ 0 then x else w.g[r] := by
  simp only [Steward.setG]
  by_cases hd : d = 0
  · simp [hd]
  · by_cases hr : r = d
    · subst hr; simp [hd]
    · have : d.val ≠ r.val := fun e => hr (Fin.ext e.symm)
      simp [hd, hr, Vector.getElem_set_ne _ _ this]

end Sys2Proof.Machine
end

