-- ==== Sys2Proof/Laws/Letters.lean ====
section
/-! SUPPORT. Laws of the letters: what leaves the device, how an outcome is recorded and released, and how a sequenced
letter that finds its stream ready is taken (R57, R113, R118 to R122, R126, R339). -/
namespace Sys2Proof.Machine
open Sys2Proof

/-! ## Numbers in a payload -/

theorem leNat_leBytes (n v : Nat) : leNat (leBytes n v) = v % 256 ^ n := by
  induction n generalizing v with
  | zero => simp [leNat, leBytes]; omega
  | succ n ih =>
    simp only [leBytes, leNat, ih, BitVec.toNat_ofNat]
    show v % 256 + 256 * (v / 256 % 256 ^ n) = v % (256 ^ n * 256)
    rw [Nat.mul_comm (256 ^ n) 256, Nat.mod_mul]

@[simp] theorem leBytes_length (n v : Nat) : (leBytes n v).length = n := by
  induction n generalizing v with
  | zero => rfl
  | succ n ih => simp [leBytes, ih]

/-- The first field of a payload. -/
theorem leField_front {n v : Nat} (pl : List Byte) (hv : v < 256 ^ n) : leField (leBytes n v ++ pl) 0 n = v := by
  simp [leField, leNat_leBytes, Nat.mod_eq_of_lt hv]

/-- A field beyond the bytes `bs`. -/
theorem leField_beyond {bs : List Byte} {o : Nat} (pl : List Byte) (n : Nat) (h : bs.length ≤ o) :
    leField (bs ++ pl) o n = leField pl (o - bs.length) n := by
  simp [leField, List.drop_append, List.drop_eq_nil_of_le h]

/-! ## What leaves by the Round -/

/-- The state with its two Round ports replaced and receipts added to those held. -/
def withRound (s : State) (a b : Port) (hs : List HeldReceipt) : State :=
  { s with round := { s.round with east := a, west := b, held := s.round.held ++ hs } }

theorem withRound_nil (s : State) : withRound s s.round.east s.round.west [] = s := by simp [withRound]

theorem withRound_twice (s : State) (a b c d : Port) (xs ys : List HeldReceipt) :
    withRound (withRound s a b xs) c d ys = withRound s c d (xs ++ ys) := by simp [withRound]

theorem setPort_round (s : State) (w : Bool) (p : Port) : ∃ a b, setPort s (roundLink w) p = withRound s a b [] := by
  cases w
  · exact ⟨p, s.round.west, by simp [withRound, setPort, roundLink]⟩
  · exact ⟨s.round.east, p, by simp [withRound, setPort, roundLink]⟩

theorem pumpPort_round (s : State) (w : Bool) : ∃ a b, pumpPort s (roundLink w) = withRound s a b [] := by
  simp only [pumpPort]
  by_cases h : (port s (roundLink w)).up = true
  · rw [if_pos h]; exact setPort_round _ _ _
  · rw [if_neg h]; exact ⟨s.round.east, s.round.west, (withRound_nil s).symm⟩

theorem queueFrame_round (s : State) (w : Bool) (sp e pl) :
    ∃ a b, queueFrame s (roundLink w) sp e pl = withRound s a b [] := by
  simp only [queueFrame]
  obtain ⟨a, b, h⟩ := setPort_round s w ((port s (roundLink w)).setHop sp { (port s (roundLink w)).hop sp with
    waiting := ((port s (roundLink w)).hop sp).waiting ++ [⟨0, e, pl⟩] })
  obtain ⟨c, d, h'⟩ := pumpPort_round (withRound s a b []) w
  rw [h, h']; exact ⟨c, d, withRound_twice s a b c d [] []⟩

/-- An envelope sent changes the two Round ports only. -/
theorem sendEnv_round (s : State) (w : Bool) (e : Env) (pl : List Byte) :
    ∃ a b, sendEnv s w e pl = withRound s a b [] := by
  simp only [sendEnv]; split <;> exact queueFrame_round _ _ _ _ _

/-- A held envelope is sent, or joins those held: only on an active with a joined twin. -/
theorem holdEnv_round (s : State) (w : Bool) (e : Env) (pl : List Byte) (bulk : Bool) :
    ∃ a b hs, holdEnv s w e pl bulk = withRound s a b hs ∧ ((isActive s && s.twin.joined) = false → hs = []) := by
  simp only [holdEnv]; split
  · rename_i h; exact ⟨s.round.east, s.round.west, _, rfl, by simp [h]⟩
  · obtain ⟨a, b, h⟩ := sendEnv_round s w e pl
    exact ⟨a, b, [], h, fun _ => rfl⟩

theorem holdAll_round (after : List (Env × List Byte)) (s : State) (w : Bool) :
    ∃ a b hs, after.foldl (fun s x => holdEnv s w x.1 x.2 false) s = withRound s a b hs
      ∧ ((isActive s && s.twin.joined) = false → hs = []) := by
  induction after generalizing s with
  | nil => exact ⟨s.round.east, s.round.west, [], (withRound_nil s).symm, fun _ => rfl⟩
  | cons x xs ih =>
    obtain ⟨a, b, hs, h, h2⟩ := holdEnv_round s w x.1 x.2 false
    obtain ⟨a', b', hs', h', h2'⟩ := ih (holdEnv s w x.1 x.2 false)
    refine ⟨a', b', hs ++ hs', ?_, fun hh => ?_⟩
    · rw [List.foldl_cons, h', h, withRound_twice]
    · rw [h] at h2'; rw [h2 hh, h2' hh]; rfl

/-- An outcome's release changes the two Round ports and the receipts held, and nothing else (R57). -/
theorem release_round (s : State) (e : Env) (rep : Bool) (a : Ans) :
    ∃ p q hs, release s e rep a = withRound s p q hs ∧ ((isActive s && s.twin.joined) = false → hs = []) := by
  simp only [release, releaseReceipt]
  obtain ⟨p, q, hs, h, h2⟩ := holdEnv_round s e.west (receiptEnv s e 0x80 (receiptClass e.cls) 0)
    (answerBytes s e rep a (scLine s)) (!rep && a.code == 0 && bulkMirrored s e)
  obtain ⟨p', q', hs', h', h2'⟩ := holdAll_round a.after (holdEnv s e.west
    (receiptEnv s e 0x80 (receiptClass e.cls) 0) (answerBytes s e rep a (scLine s))
    (!rep && a.code == 0 && bulkMirrored s e)) e.west
  refine ⟨p', q', hs ++ hs', ?_, fun hh => ?_⟩
  · rw [h', h, withRound_twice]
  · rw [h] at h2'; rw [h2 hh, h2' hh]; rfl

/-! ## Streams and records -/

/-- A journaled effect changes the filling hamper only. -/
theorem journal_fill (s : State) (x : JEntry) :
    ∃ f, journal s x = { s with twin := { s.twin with fill := f } } := by
  simp only [journal]; split
  · exact ⟨_, rfl⟩
  · exact ⟨s.twin.fill, rfl⟩

theorem isStreamOf_streamOf (s : State) (e : Env) : isStreamOf e (streamOf s e) = true := by
  simp only [streamOf]
  cases h : s.round.streams.find? (isStreamOf e) with
  | none => simp [isStreamOf, toPair]
  | some x => exact List.find?_some h

/-- A stream put is the stream found. -/
theorem streamOf_put {e : Env} {x : Stream} (s : State) (h : isStreamOf e x = true) : streamOf (putStream s e x) e = x := by
  simp [streamOf, putStream, h]

/-- The stream of a letter once its outcome is recorded (R119). -/
def movedOn (s : State) (e : Env) (a : Ans) (due : Bool) : Stream :=
  let o := outcomeOf s e a due
  let x := streamOf s e
  { x with expected := e.seq + 1, record := if o.repeatable then x.record else record16 x.record o }

theorem isStreamOf_movedOn (s : State) (e : Env) (a : Ans) (due : Bool) : isStreamOf e (movedOn s e a due) = true :=
  isStreamOf_streamOf s e

/-- Recording an outcome moves the stream on, and journals it at most. -/
theorem recordOutcome_law (s : State) (e : Env) (a : Ans) (due : Bool) :
    ∃ f, recordOutcome s e a due
      = { putStream s e (movedOn s e a due) with twin := { s.twin with fill := f } } := by
  simp only [recordOutcome, journalStream]; split
  · obtain ⟨f, h⟩ := journal_fill (putStream s e (movedOn s e a due)) (.round e.src e.stream (movedOn s e a due).isOpen
      (e.seq + 1) (if (outcomeOf s e a due).repeatable then none else some (outcomeOf s e a due)))
    exact ⟨f, h⟩
  · exact ⟨s.twin.fill, rfl⟩

/-- The newest outcome is the last of the record. -/
theorem record16_last (os : List Outcome) (o : Outcome) : (record16 os o).getLast? = some o := by
  simp only [record16]
  rw [List.getLast?_drop]
  simp <;> omega

/-- A dead letter is the last entry of its queue and raises its alarm (R126). -/
theorem deadLetter_law (s : State) (e : Env) (pl : List Byte) (c d : Nat) :
    let t := deadLetter s e pl c d
    t.round.streams = s.round.streams ∧ t.twin = s.twin ∧ t.round.held = s.round.held ∧ t.round.east = s.round.east
      ∧ t.round.west = s.round.west ∧ t.dram = s.dram ∧ t.shared = s.shared ∧ t.stewards = s.stewards
      ∧ (slotGet t (15 + (c - 0x10))).isOpen = true
      ∧ ∃ x, t.round.dead.getLast? = some x ∧ x.env = e ∧ x.code = BitVec.ofNat 8 c ∧ x.len = envLen e pl := by
  intro t
  simp only [t, deadLetter]
  split
  all_goals
    refine ⟨by simp, by simp, by simp, by simp, by simp, by simp, by simp, by simp, ?_, by simp⟩
    exact slotGet_alarm_open s (15 + (c - 0x10)) []

/-- Everything a settled letter leaves: a refusal's dead letter, the stream moved on, the outcome released. -/
theorem settleLetter_law (s : State) (e : Env) (pl : List Byte) (a : Ans) :
    let s0 := if a.code = 0 then s else deadLetter s e pl a.code a.detail
    ∃ f p q hs, settleLetter s e pl a
        = withRound { putStream s0 e (movedOn s0 e a false) with twin := { s0.twin with fill := f } } p q hs
      ∧ ((isActive s0 && s0.twin.joined) = false → hs = []) := by
  intro s0
  obtain ⟨f, hf⟩ := recordOutcome_law s0 e a false
  obtain ⟨p, q, hs, h, h2⟩ := release_round (recordOutcome s0 e a false) e false a
  refine ⟨f, p, q, hs, ?_, fun hh => ?_⟩
  · simp only [settleLetter]; rw [h, hf]
  · apply h2; rw [hf]; exact hh

/-! ## A letter is taken -/

/-- A letter in the inbox of a ready device, goes to its handler when its turn has come (R119, R41) or a long operation
runs (R128). -/
theorem acceptWith_boxed {go : State → Env → List Byte → Option State} {s : State} {e : Env} {pl : List Byte}
    (h1 : s.boot.phase = .ready) (h2 : (e, pl) ∈ s.round.inbox) (h3 : s.tho.stopped = false)
    (h4 : s.round.busy.isSome = true ∨ letterTurn s e pl = true) : acceptWith e.kind go s e pl = (go (unbox s e pl) e pl).getD s := by
  have hi : inInbox s e pl = true := by simp [inInbox, h2]
  simp only [acceptWith]
  have hb : (s.boot.phase != .ready) = false := by rw [h1]; rfl
  have hw : (s.round.busy.isNone && !letterTurn s e pl) = false := by
    rcases h4 with h | h
    · simp [Option.isNone_iff_eq_none, Option.isSome_iff_ne_none.mp h]
    · simp [h]
  rw [hb, if_neg (by simp), if_pos hi, hi, h3]
  simp only [Bool.not_true, Bool.false_eq_true, if_false]
  exact if_neg (by simp [hw])

/-- A sequenced letter with the number its open stream expects executes, while no long operation runs. -/
theorem acceptTaken_next {run : State → Env → List Byte → Reply} {s : State} {e : Env} (pl : List Byte)
    (h1 : s.round.busy = none) (h2 : e.cls ≠ 3) (h3 : e.stream ≠ 15) (h4 : e.kind ≠ 0x2A)
    (h5 : (streamOf s e).isOpen = true) (h6 : (streamOf s e).expected = e.seq) :
    acceptTaken run s e pl = executeRoom run s e pl := by
  have hc : (e.cls == 3) = false := beq_eq_false_iff_ne.mpr h2
  have hs : (e.stream == 15) = false := beq_eq_false_iff_ne.mpr h3
  have hd : (e.seq - (streamOf s e).expected).toInt = 0 := by rw [h6]; simp
  simp only [acceptTaken, h1, hc, hs, acceptSequenced, h5, hd]
  rw [if_neg (by simp), if_neg h2, if_neg (by tauto), if_neg (by simp), if_neg (by omega), if_neg (by omega)]

/-- Where the device makes no hampers a letter whose header passes has its effect at once. -/
theorem executeRoom_alone {run : State → Env → List Byte → Reply} {s : State} {e : Env} (pl : List Byte)
    (hm : mirrors s = false) (hh : headerRefusal s e = none) :
    executeRoom run s e pl = some (settleReply e pl (run s e pl)) := by
  simp [executeRoom, runChecked, hm, hh]

end Sys2Proof.Machine
end

