-- ==== Sys2Proof/Tests/Slice0.lean ====
section
/-! SUPPORT. Tests: ill-formed commands that the checks refuse, worked examples of the spec, and for each statement a
state and operands that meet its hypotheses, with the outcome the rules give there. -/
namespace Sys2Proof.Tests
open Sys2Proof Sys2Proof.Machine Sys2Proof.Claims
-- One theorem after another: checked side by side, they ask for more threads than the memory limit holds.
set_option Elab.async false

/-! ## Small states -/

/-- A ready device without a twin, in a role. -/
def ready (r : Role) : State :=
  { State.reset with boot := { State.reset.boot with phase := .ready }, twin := { State.reset.twin with role := r } }

/-- A command's next state satisfies `f`. -/
def after (c : Instr) (s : State) (f : State → Bool) : Bool :=
  match exec c s with
  | .next t => f t
  | _ => false

/-- The state after a command; the state itself if it stops. -/
def nextOf (c : Instr) (s : State) : State :=
  match exec c s with
  | .next t => t
  | _ => s

/-- The command writes `x` to G3 of steward 0 and goes on. -/
def g3 (c : Instr) (s : State) (x : Word) : Bool :=
  after c s (fun t => (stw t 0).g[3] == x && (stw t 0).pc == (stw s 0).pc + 4 && (stw t 0).run == .running)

/-- Steward 0 runs with G1 and G2 set. -/
def runs (g1 g2 : Word) : State :=
  modStw (ready .active) 0 (fun w => { w with run := .running, pc := 0x100, g := (w.g.set 1 g1).set 2 g2 })

/-- Several fields set. -/
def withFlds (s : State) (fs : List (Fld × Nat)) : State := fs.foldl (fun s f => setFld s f.1 f.2) s

/-! ## Ill-formed commands -/

def env0 : Env :=
  { west := false, dest := 0x01, src := 0xFE, cls := 1, stream := 2, kind := 0x01, seq := 5, hops := 130, retx := false,
    wrapped := false, first := true, last := true, bad := false, aux := 0 }
def feed0 : FeedFrame :=
  { jobId := 7, ftype := 2, rsv := 0, slot := 0, number := 0, len := 3, payload := [0, 1, 2], crc := 0, lenOk := true, okBlocks := true, full := false }
def long : List Byte := List.replicate 4097 0

theorem illformed_payload : wellFormed (.write env0 long) = false := by decide +kernel
theorem illformed_args : wellFormed (.camRead env0 (List.replicate 15 0)) = false := by decide +kernel
theorem illformed_frame : wellFormed (.roundFrame .east ⟨0, .ordinary, env0, long, 0, 0, 514, true⟩ false) = false := by
  decide +kernel
theorem illformed_feed : wellFormed (.feedPage { feed0 with len := 4 }) = false := by decide +kernel
theorem illformed_map_entry : wellFormed (.rowLineDecision 0 0 0 [327680] []) = false := by decide +kernel
theorem illformed_threshold : wellFormed (.rowLineDecision 0 0 0 [] [65535]) = false := by decide +kernel
theorem illformed_line : wellFormed (.feedDeadline 4294967296 false) = false := by decide +kernel
theorem illformed_illegal : wellFormed (.illegal 0 0xA084C820 false) = false := by decide +kernel
theorem illformed_housekeeping : wellFormed (.housekeepingRoundEnd [] [0, 0, 0, 0]) = false := by decide +kernel
theorem illformed_scrub : wellFormed (.dramScrub 33 0) = false := by decide +kernel
theorem illformed_rscan : wellFormed (.rscanData 0 0 0 [] false) = false := by decide +kernel
theorem illformed_pixels : wellFormed (.cameraLine 0 ⟨0, [4096], true⟩) = false := by decide +kernel
theorem wellformed_examples : wellFormed (.write env0 [0]) = true ∧ wellFormed (.illegal 0 0xFFFFFFFF false) = true
    ∧ wellFormed (.feedPage feed0) = true ∧ wellFormed (.dramScrub 32 0) = true := by decide +kernel

/-! ## Worked examples of the spec -/

/-- Words of the instruction table that are legal, and one that is not. -/
theorem words_legal : gyenoLegal 0xA084C820 = true ∧ gyenoLegal 0xC8A63800 = true ∧ gyenoLegal 0xD4842800 = true
    ∧ gyenoLegal 0xFFFFFFFF = false := by decide +kernel
/-- CRC-32C of "123456789" (R453). -/
theorem crc_example : crc32c [0x31, 0x32, 0x33, 0x34, 0x35, 0x36, 0x37, 0x38, 0x39] = 0xE3069283 := by decide +kernel

/-! ## The step and the stewards -/

theorem test_step : step { ready .active with pending := [.dmaSwreq 5, .tapReset] }
    = exec (.dmaSwreq 5) { ready .active with pending := [.tapReset] } := rfl
theorem test_idle : step State.reset = .next State.reset := rfl
theorem reset_ok : StoresOk State.reset ∧ RegsOk State.reset := by decide +kernel

theorem witness_StepKeepsStores : StoresOk { runs 5 6 with pending := [.sw 0 2 1 0] } ∧ RegsOk { runs 5 6 with pending := [.sw 0 2 1 0] }
    ∧ (match step { runs 0x10000000 6 with pending := [.sw 0 2 1 0, .tapReset] } with
       | .next t => t.pending == [.tapReset] && memNat (stw t 0).dmem 0 4 == 6
       | _ => false) = true := by decide +kernel

theorem witness_RegisterResults : Runs (runs 0x80000000 31) 0
    ∧ g3 (.sra 0 3 1 2) (runs 0x80000000 31) 0xFFFFFFFF = true
    ∧ after (.add 0 0 1 2) (runs 0x80000000 31) (fun t => (stw t 0).g[0] == 0 && (stw t 0).instret == 1) = true
    ∧ g3 (.addss 0 3 1 1) (runs 0x80000000 31) 0x80000000 = true
    ∧ g3 (.clz 0 3 2) (runs 0x80000000 31) 27 = true
    ∧ g3 (.lui 0 3 0x1FFFFF) (runs 0x80000000 31) 0xFFFFF800 = true
    ∧ g3 (.mulh 0 3 1 2) (runs 0x80000000 31) 0xFFFFFFF0 = true := by
  decide +kernel

/-- A steward whose local data at 0x1001_FFE0 and shared memory at 0x201F_F9E0 hold two words each. -/
def holds (a : Word) : State :=
  let s := modStw (runs a 5) 0 (fun w => { w with dmem := memStore [] 0x1FFE0 [1, 2, 3, 0x84, 5, 6, 7, 8] })
  { s with shared := memStore [] 0x1FF9E0 [0x11, 0x12, 0x13, 0x94], dram := memStore [] 0x40 [9, 8, 7, 6] }

theorem witness_LocalLoads : Runs (holds 0x1001FFE0) 0 ∧ inDmem 0x1001FFE0 32 ∧ inShared 0x201FF9E0 32
    ∧ g3 (.lw 0 3 1 0 false) (holds 0x1001FFE0) 0x84030201 = true
    ∧ g3 (.lh 0 3 1 2 false) (holds 0x201FF9E0) 0xFFFF9413 = true
    ∧ g3 (.lb 0 3 1 3 false) (holds 0x1001FFE0) 0xFFFFFF84 = true
    ∧ after (.vld 0 3 1 0 false) (holds 0x201FF9E0) (fun t => (stw t 0).v[3] == 0x94131211) = true := by decide +kernel

theorem witness_WindowLoads : Runs (holds 0x80000040) 0 ∧ inWindow (holds 0x80000040) 0 0x80000040 4
    ∧ (holds 0x80000040).poison = [] ∧ (holds 0x80000040).single = []
    ∧ fldB (holds 0x80000040) F.DRAM_STAT_FREQ_BUSY = false
    ∧ g3 (.loadDataReturn 0 0) (nextOf (.lw 0 3 1 0 false) (holds 0x80000040)) 0x06070809 = true := by decide +kernel

theorem witness_Stores : Runs (holds 0x1001FFFC) 0 ∧ MemOk (holds 0x1001FFFC) ∧ inDmem 0x1001FFFC 4 ∧ inShared 0x201FF9E0 32
    ∧ inWindow (holds 0x80000040) 0 0x80000040 32
    ∧ after (.sw 0 2 1 0) (holds 0x1001FFFC) (fun t => memNat (stw t 0).dmem 0x1FFFC 4 == 5) = true
    ∧ after (.vst 0 3 1 0) (holds 0x201FF9E0) (fun t => t.shared == []) = true
    ∧ after (.sb 0 2 1 3) (holds 0x80000040) (fun t => memNat t.dram 0x40 4 == 0x05070809) = true := by decide +kernel

theorem witness_Atomics : Runs (holds 0x1001FFE0) 0 ∧ inDmem 0x1001FFE0 4 ∧ inShared 0x201FF9E0 4
    ∧ after (.amoadd 0 3 1 2 false) (holds 0x1001FFE0) (fun t => memNat (stw t 0).dmem 0x1FFE0 4 == 0x84030206
        && (stw t 0).g[3] == 0x84030201) = true
    ∧ after (.amocas 0 2 1 2 false) (holds 0x201FF9E0) (fun t => memNat t.shared 0x1FF9E0 4 == 0x94131211) = true
    ∧ ¬ inDmem 0x80000000 4 ∧ ¬ inShared 0x80000000 4
    ∧ after (.amoswap 0 3 1 2 false) (holds 0x80000000) (fun t => (stw t 0).fault.setWidth 8 == (3 : BitVec 8)
        && (stw t 0).run == .halted && (stw t 0).faddr == 0x80000000) = true := by decide +kernel

theorem witness_BranchesAndJumps : Runs (runs 7 8) 0 ∧ ((0x100 : Word) + (0x3FBF : BitVec 16).signExtend 32 * 4).toNat < 0x10000
    ∧ after (.bltu 0 1 2 0xFFFF) (runs 7 8) (fun t => (stw t 0).pc == 0xFC) = true
    ∧ after (.bge 0 1 2 0xFFFF) (runs 7 8) (fun t => (stw t 0).pc == 0x104) = true
    ∧ after (.jal 0 0x3FFFFFF) (runs 7 8) (fun t => (stw t 0).pc == 0xFC && (stw t 0).g[31] == 0x104) = true
    ∧ after (.jalr 0 1 1) (runs 7 8) (fun t => (stw t 0).pc == 4 && (stw t 0).g[1] == 0x104) = true := by decide +kernel

theorem witness_StewardFaults : Runs (runs 0x10000002 0) 0 ∧ gyenoLegal 0xFFFFFFFF = false
    ∧ after (.brk 0 0xFFFF) (runs 7 8) (fun t => (stw t 0).fault == 7 && (stw t 0).faddr == 0xFFFF
        && (slotGet t 3).isOpen) = true
    ∧ (address (runs 0x10000002 0) 0 1 0).toNat % 4 ≠ 0
    ∧ after (.lw 0 3 1 0 false) (runs 0x10000002 0) (fun t => (stw t 0).fault == 2 && (stw t 0).faddr == 0x10000002) = true
    ∧ after (.watchdogExpiry 0) (modStw (runs 7 8) 0 (fun w => { w with wdog := 1 })) (fun t => (stw t 0).fault == 6
        && (stw t 0).epc == 0x100) = true := by decide +kernel

theorem witness_VectorResults : Runs (runs 0 0) 0
    ∧ after (.vsplat 0 1 0xA 0) (runs 0 0) (fun t => lane (stw t 0).v[1] 63 == 0xA) = true
    ∧ after (.vadds 0 1 1 1 0) (nextOf (.vsplat 0 1 0xA 0) (runs 0 0)) (fun t => lane (stw t 0).v[1] 0 == 0xF) = true := by
  decide +kernel

theorem witness_PredicateAndCrossResults : Runs (runs 0xF0 0) 0
    ∧ after (.pwrlo 0 1 1) (runs 0xF0 0) (fun t => (stw t 0).p[1] == 0xF0) = true
    ∧ after (.pwrlo 0 1 0) (runs 0xF0 0) (fun t => (stw t 0).p[0] == BitVec.allOnes 64) = true
    ∧ after (.pfirst 0 3 1) (nextOf (.pwrlo 0 1 1) (runs 0xF0 0)) (fun t => (stw t 0).g[3] == 4) = true
    ∧ after (.pfirst 0 3 1) (runs 0xF0 0) (fun t => (stw t 0).g[3] == 64) = true := by decide +kernel

/-! ## Stations, control registers, events -/

/-- The resident's steward 6 runs. -/
def resident (g1 g2 : Word) : State :=
  modStw (ready .active) 6 (fun w => { w with run := .running, pc := 0x100, g := (w.g.set 1 g1).set 2 g2 })

theorem witness_StationInstructions : Runs (resident 0x4B0001C8 9) 6
    ∧ scalarExists 0x40000024 = true ∧ scalarExists 0x4000002C = false
    ∧ (immediateOk 0x4B0001C8 && claimed (resident 0x4B0001C8 9) 6 0x4B0001C8) = true
    ∧ after (.sst 6 2 1 0) (resident 0x4B0001C8 9) (fun t => fld t (F.TIME_PERIOD 6) == 9 && (stw t 6).pc == 0x104) = true
    ∧ (immediateOk 0x40000024 && claimed (resident 0 0) 6 0x40000024) = false
    ∧ after (.sld 6 3 1 0) (resident 0x4000002C 9) (fun t => (stw t 6).fault == 0x104) = true := by decide +kernel

theorem witness_PlainStationStores : StnOk (ready .active) ∧ takesStores (ready .active) = true
    ∧ immediateOk 0x50000000 = true ∧ mayStore (ready .active) none 0x50000000 = true ∧ (stnRow 0x50000000).isSome = true
    ∧ after (.stationStore none 0x50000000 0xFFFFFFFF) (ready .active) (fun t => fld t F.PWR_SLACK_TARGET == 31) = true := by
  decide +kernel

theorem witness_ControlRegisters : Runs (runs 0xFFFFFFFF 0) 0
    ∧ after (.scw 0 1 0x009) (runs 0xFFFFFFFF 0) (fun t => (stw t 0).dwin == 0x1F) = true
    ∧ after (.scr 0 3 0x00C) (runs 0 0) (fun t => (stw t 0).fault == 1) = true
    ∧ after (.fence 0 7) (runs 0 0) (fun t => (stw t 0).pc == 0x104) = true
    ∧ after (.fence 0 8) (runs 0 0) (fun t => (stw t 0).run == .halted) = true := by decide +kernel

/-- Steward 0 with pending and enabled events. -/
def pends (pend mask : Word) : State := modStw (runs 2 31) 0 (fun w => { w with evpend := pend, evmask := mask })

theorem witness_EventWaits : Runs (pends 0xC0000000 0x80000000) 0 ∧ lowestEvent (stw (pends 0xC0000000 0x80000000) 0) 31
    ∧ after (.wait 0 3) (pends 0xC0000000 0x80000000) (fun t => (stw t 0).g[3] == 31 && (stw t 0).evpend == 0x40000000) = true
    ∧ after (.wait 0 3) (pends 1 2) (fun t => (stw t 0).run == .sleeping 3 false) = true
    ∧ after (.stewardWake 0) (modStw (pends 1 1) 0 (fun w => { w with run := .sleeping 3 true }))
        (fun t => (stw t 0).g[3] == 0 && (stw t 0).run == .running) = true
    ∧ after (.waittTimeout 0) (modStw (pends 1 1) 0 (fun w => { w with run := .sleeping 3 true }))
        (fun t => (stw t 0).latewin == 1) = true
    ∧ after (.waittTimeout 0) (modStw (pends 1 2) 0 (fun w => { w with run := .sleeping 3 true }))
        (fun t => (stw t 0).g[3] == 32) = true := by decide +kernel

theorem witness_EventsAndMailboxes : Runs (runs 2 31) 0
    ∧ after (.evsig 0 1 2) (runs 2 31) (fun t => (stw t 2).evpend == 0x80000000) = true
    ∧ after (.evsig 0 1 2) (runs 2 23) (fun t => (stw t 0).fault == 1) = true
    ∧ after (.msend 0 3 1 2) (runs 2 31) (fun t => (stw t 2).mbox == [(31, 0)] && (stw t 0).g[3] == 1
        && (stw t 2).evpend.getLsbD 10) = true
    ∧ after (.msend 0 3 1 2) (modStw (runs 2 31) 2 (fun w => { w with mbox := List.replicate 16 (0, 1) }))
        (fun t => (stw t 0).g[3] == 0) = true
    ∧ after (.msend 0 3 1 2) (runs 6 31) (fun t => (stw t 0).run == .halted) = true
    ∧ after (.mrecv 0 3 4) (modStw (runs 2 31) 0 (fun w => { w with mbox := [(5, 7)] }))
        (fun t => (stw t 0).g[3] == 5 && (stw t 0).g[4] == 0x80000007) = true := by decide +kernel

/-! ## The Round and its letters -/

/-- A hop frame for this device, with its CRC. -/
def hopFrame (pl : List Byte) : Frame :=
  { lseq := 0, space := .ordinary, env := env0, payload := pl, crc := crc32c (envBytes env0 pl.length ++ pl), pad := 0,
    blocks := (16 + pl.length) / 8, okBlocks := true }
def linked : State :=
  let s := nextOf (.linkTrained .east) (ready .active)
  { s with therm := { s.therm with devAddr := some 1 } }
def heldBack : State := setPort linked .east { port linked .east with
  ord := { HopSpace.init with replay := [⟨0, env0, []⟩, ⟨1, env0, []⟩] } }

theorem witness_RoundHops : (port linked .east).up = true ∧ groupIsAligned linked (linkGroup .east) = true
    ∧ frameGood (hopFrame [1, 2, 3, 4, 5, 6, 7, 8]) = true
    ∧ after (.roundFrame .east (hopFrame [1, 2, 3, 4, 5, 6, 7, 8]) false) linked (fun t =>
        t.round.inbox == [(env0, [1, 2, 3, 4, 5, 6, 7, 8])] && (port t .east).ord.expected == 1) = true
    ∧ after (.roundFrame .east { hopFrame [] with crc := 0 } false) linked (fun t =>
        t.out == [.nak .east .ordinary 0] && t.round.inbox.isEmpty) = true
    ∧ lseqOlder 0xFFF 0 = true ∧ after (.roundFrame .east { hopFrame [] with lseq := 0xFFF } false) linked
        (fun t => t.out == [.ack .east .ordinary 0xFFF]) = true
    ∧ after (.nak .east .ordinary 1) heldBack (fun t => fld t (F.ROUND_RND_PORT_RESENDS 0) == 1) = true
    ∧ after (.acknowledgement .east 0 0) heldBack (fun t => (port t .east).ord.replay.length == 1) = true
    ∧ after (.linkDown .east) heldBack (fun t => (port t .east).wrapped && (slotGet t 13).isOpen) = true
    ∧ after (.unwrap false) (setPort heldBack .east { port heldBack .east with wrapped := true })
        (fun t => !(port t .east).wrapped) = true := by decide +kernel

def parcel0 : Parcel := ⟨1, 0xFE, 5, 5, 0x14, 4, [1, 2, 3, 4], false⟩
def bulk0 : Env := { env0 with cls := 2, stream := 5, kind := 0x14, first := false, last := false, aux := 4 }
def parcelled (inbox : List (Env × List Byte)) : State :=
  { linked with round := { linked.round with parcels := [parcel0], inbox := inbox } }

theorem witness_Parcels : parcelIn bulk0 parcel0 = true ∧ Machine.nextOf bulk0 parcel0 = true
    ∧ streamWaits (parcelled [(bulk0, [5])]) bulk0 = false
    ∧ after (.parcelEnvelope bulk0 [5]) (parcelled [(bulk0, [5])]) (fun t =>
        t.round.parcels == [⟨1, 0xFE, 5, 5, 0x14, 5, [1, 2, 3, 4, 5], false⟩] && t.round.inbox.isEmpty) = true
    ∧ after (.parcelTimeout 1 0xFE 5) (parcelled []) (fun t => t.round.parcels.isEmpty) = true := by decide +kernel

/-- A letter's envelope, and a device whose inbox holds it and whose stream awaits it. -/
def mail (kind : Byte) (cls : BitVec 2) : Env := { env0 with kind := kind, cls := cls, stream := if cls = 0 then 2 else 5 }
def got (s : State) (e : Env) (pl : List Byte) : State :=
  { s with
    therm := { s.therm with devAddr := some 1 }
    round := { s.round with inbox := [(e, pl)], streams := [⟨false, 0xFE, e.stream, true, 5, []⟩] } }
/-- The code of the last receipt that waits at port East. -/
def codeOf (t : State) : Option Byte := ((t.round.east.exp.waiting ++ t.round.east.ord.waiting).getLast?.map (·.payload)).bind (·.head?)
def le (n w : Nat) : List Byte := leBytes n w
/-- A ready active device without a twin. -/
def bar : State := ready .active

theorem witness_LetterSettlement : let e := mail 0x01 1
    let t := settleLetter (got bar e []) e [] (Ans.refuse 0x1D 3)
    (streamOf t e).expected = 6 ∧ (slotGet t 28).isOpen = true ∧ codeOf t = some 0x1D ∧ t.round.dead.length = 1 := by
  decide +kernel

theorem witness_StationLetterOutcomes : LetterReady 0x01 (got bar (mail 1 0) (le 4 0x43000024 ++ le 4 9)) (mail 1 0) (le 4 0x43000024 ++ le 4 9)
    ∧ immediateOk 0x50000000 = true ∧ bankedStation 0x50000000 = false
    ∧ after (.write (mail 1 1) (le 4 0x50000000 ++ le 4 9)) (got bar (mail 1 1) (le 4 0x50000000 ++ le 4 9))
        (fun t => fld t F.PWR_SLACK_TARGET == 9 && codeOf t == some 0 && t.round.inbox.isEmpty) = true
    ∧ lineQualifiedOk 0x43000004 = true
    ∧ after (.arm (mail 2 1) (le 4 7 ++ le 4 0x43000004 ++ le 4 9)) (got bar (mail 2 1) (le 4 7 ++ le 4 0x43000004 ++ le 4 9))
        (fun t => stnWord t 0x43000004 == 9 && codeOf t == some 0) = true
    ∧ after (.vwrite (mail 3 1) (le 4 0x43100000 ++ le 32 5)) (got bar (mail 3 1) (le 4 0x43100000 ++ le 32 5))
        (fun t => vecGet t 0x43100000 == 5 && codeOf t == some 0) = true
    ∧ after (.read (mail 5 1) (le 4 0x50000000)) (got bar (mail 5 1) (le 4 0x50000000)) (fun t => codeOf t == some 0) = true
    ∧ after (.vread (mail 6 1) (le 4 0x43100000)) (got bar (mail 6 1) (le 4 0x43100000)) (fun t => codeOf t == some 0) = true
    ∧ immediateOk 0x4000002C = false
    ∧ after (.write (mail 1 1) (le 4 0x4000002C ++ le 4 9)) (got bar (mail 1 1) (le 4 0x4000002C ++ le 4 9))
        (fun t => codeOf t == some 0x13 && t.stn == []) = true := by decide +kernel

/-- An image for steward 3 with one claim, on event-free pages 0 and 1 of shared memory, and one word of code. -/
def image0 : List Byte :=
  let body := [5, 1, 0, 0] ++ le 4 2 ++ le 4 0x11223344
  le 4 0x6F6E7947 ++ [1, 0, 3, 1] ++ le 4 0 ++ le 4 4 ++ le 4 0 ++ le 4 8 ++ le 4 (crc32c body).toNat ++ le 4 0 ++ body
def loaded : State := modStw bar 3 (fun w => { w with prog := some (imageOf image0) })

theorem witness_MemoryLetters : pagesClaimed loaded 3 0 4 = true
    ∧ after (.inbox (mail 9 1) (le 4 3 ++ le 4 0x20000000 ++ [1, 2])) (got loaded (mail 9 1) (le 4 3 ++ le 4 0x20000000 ++ [1, 2]))
        (fun t => memNat t.shared 0 2 == 0x201 && (stw t 3).evpend.getLsbD 13 && codeOf t == some 0) = true
    ∧ after (.dramWrite (mail 0x14 2) (le 8 0x40 ++ [1, 2])) (got bar (mail 0x14 2) (le 8 0x40 ++ [1, 2]))
        (fun t => memNat t.dram 0x40 2 == 0x201 && codeOf t == some 0) = true
    ∧ after (.dramWrite (mail 0x14 2) (le 8 0xFFFFFFFFFF ++ [1])) (got bar (mail 0x14 2) (le 8 0xFFFFFFFFFF ++ [1]))
        (fun t => codeOf t == some 0x1C && t.dram == []) = true
    ∧ after (.dramRead (mail 0x15 1) (le 8 0 ++ le 4 5)) (got bar (mail 0x15 1) (le 8 0 ++ le 4 5))
        (fun t => t.round.east.ord.waiting.map (fun f => (f.env.kind, f.payload.length)) == [(0x80, 16), (0x81, 5)]) = true := by
  decide +kernel

theorem witness_ProgramLetters : imageOk image0 = true ∧ claimMalformed image0 0 = false
    ∧ conflictAt bar (imageOf image0).claims = none
    ∧ after (.load (mail 0x10 2) image0) (got bar (mail 0x10 2) image0) (fun t => (stw t 3).run == .running
        && memNat (stw t 3).imem 0 4 == 0x11223344 && codeOf t == some 0) = true
    ∧ after (.restart (mail 0x12 1) [3, 0, 0, 0]) (got loaded (mail 0x12 1) [3, 0, 0, 0]) (fun t => (stw t 3).g[1] == 2
        && (stw t 3).run == .running && codeOf t == some 0) = true
    ∧ after (.unload (mail 0x11 1) [3, 0, 0, 0]) (got loaded (mail 0x11 1) [3, 0, 0, 0]) (fun t => (stw t 3).prog == none) = true
    ∧ after (.haltSteward (mail 0x13 1) [3, 0, 0, 0]) (got bar (mail 0x13 1) [3, 0, 0, 0]) (fun t => codeOf t == some 0x19) = true := by
  decide +kernel

theorem witness_JobAndRecordLetters : (streamOf (ready .active) (mail 0x2A 1)).isOpen = false
    ∧ after (.deadRead (mail 0x28 1) [0, 63, 0, 0]) (got bar (mail 0x28 1) [0, 63, 0, 0]) (fun t => codeOf t == some 0) = true
    ∧ after (.deadClear (mail 0x29 1) []) (got bar (mail 0x29 1) []) (fun t => codeOf t == some 0) = true
    ∧ after (.streamOpen (mail 0x2A 1) []) { got bar (mail 0x2A 1) [] with round := { bar.round with inbox := [(mail 0x2A 1, [])] } }
        (fun t => (streamOf t (mail 0x2A 1)).isOpen && (streamOf t (mail 0x2A 1)).expected == 6) = true
    ∧ after (.job (mail 0x18 1) (List.replicate 48 0)) (got bar (mail 0x18 1) (List.replicate 48 0)) (fun t =>
        t.jobs.running == none && (codeOf t).isSome && codeOf t != some 0) = true := by decide +kernel

theorem witness_LongOperationRuns : LetterReady 0x20 (got bar (mail 0x20 1) [3, 0, 0, 0]) (mail 0x20 1) [3, 0, 0, 0]
    ∧ after (.longThermosCommit (mail 0x20 1)) (got bar (mail 0x20 1) [3, 0, 0, 0]) (fun t =>
        t.round.busy == some ⟨3, some (mail 0x20 1), [], 0⟩ && codeOf t == none) = true
    ∧ after (.longOperationEnd 0) (nextOf (.long (mail 0x20 1) [3, 0, 0, 0]) (got bar (mail 0x20 1) [3, 0, 0, 0])) (fun t =>
        t.round.busy == none && codeOf t == some 0 && t.therm.newest == 1) = true
    ∧ after (.longOperationEnd 0xE) (nextOf (.longDramRetrain (mail 0x20 1)) (got bar (mail 0x20 1) [1, 0, 0, 0])) (fun t =>
        fld t F.DRAM_STAT_RETRAIN_FAIL == 1 && fld t F.DRAM_STAT_TRAINED == 14) = true
    ∧ after (.long (mail 0x20 1) [5, 0, 0, 0]) (got bar (mail 0x20 1) [5, 0, 0, 0]) (fun t => codeOf t == some 0x10) = true := by
  decide +kernel

theorem witness_HandoverLetters : LetterReady 0x22 (got bar (mail 0x22 1) [0, 0, 0, 0]) (mail 0x22 1) [0, 0, 0, 0]
    ∧ after (.handover (mail 0x22 1) [0, 0, 0, 0]) (got bar (mail 0x22 1) [0, 0, 0, 0]) (fun t => codeOf t == some 0
        && (slotGet t 249).isOpen) = true
    ∧ after (.handoverCancel (mail 0x22 1)) (got bar (mail 0x22 1) [2, 0, 0, 0]) (fun t => !t.tho.armed) = true := by
  decide +kernel

theorem witness_RingAndTimeLetters :
    let e := { mail 0x41 3 with stream := 15 }
    RingReady 0x41 (got bar e ([7, 2, 0, 0] ++ le 8 0)) e ([7, 2, 0, 0] ++ le 8 0)
    ∧ after (.assign e ([7, 2, 0, 0] ++ le 8 0)) (got bar e ([7, 2, 0, 0] ++ le 8 0)) (fun t =>
        t.therm.devAddr == some 7 && t.therm.pair == some 2) = true
    ∧ after (.enumerate { e with kind := 0x40 } []) (got bar { e with kind := 0x40 } []) (fun t => codeOf t == some 0) = true
    ∧ after (.sync { e with kind := 0x48 } (le 8 9 ++ le 8 0 ++ le 4 77) 0 0) (got bar { e with kind := 0x48 } (le 8 9 ++ le 8 0 ++ le 4 77))
        (fun t => t.clk.step[(0 : Fin 4)] == 9 && t.clk.period == 77 && fld t F.TIME_TB_SYNC_STAT_STATE == 1) = true
    ∧ (let d := { e with kind := 0x4A, west := true }
       let s := { got bar d (le 8 4) with clk := { bar.clk with reqWest := some (-90) } }
       RingReady 0x4A (advanceTo s 0) d (le 8 4) ∧ (le 8 4).length = 8
         ∧ after (.delayResp d (le 8 4) 0) s (fun t => t.clk.delayWest == 43 && t.clk.reqWest == none) = true)
    ∧ (let d := { e with kind := 0x4A }
       let s := { got bar d (le 8 4) with clk := { bar.clk with reqEast := some (-90) } }
       RingReady 0x4A (advanceTo s 0) d (le 8 4)
         ∧ after (.delayResp d (le 8 4) 0) s (fun t => t.clk.delayEast == 43) = true)
    ∧ (let d := { e with kind := 0x49 }
       RingReady 0x49 (advanceTo (got bar d (le 8 0)) 0) d (le 8 0)
         ∧ after (.delayReq d (le 8 0) 0 0) (got bar d (le 8 0)) (fun t => t.round.inbox.isEmpty) = true)
    ∧ after (.delayReqSend 0 0) bar (fun t => t.clk.reqEast == some (pressLatch bar 0)) = true
    ∧ (let d := { mail 0x48 1 with stream := 15 }
       letterTurn (got bar d []) d [] = true ∧ d.cls ≠ 3
         ∧ after (.sync d [] 0 0) (got bar d []) (fun t => codeOf t == some 0x10) = true) := by
  decide +kernel

theorem witness_RoutineCalls :
    LetterReady 0x08 (got bar (mail 8 1) (callBytes 0x0402 [1])) (mail 8 1) (callBytes 0x0402 [1])
    ∧ after (.pairRestart (mail 8 1) [1]) (got bar (mail 8 1) (callBytes 0x0402 [1])) (fun t => t.boot.restartDue == some 1
        && codeOf t == some 0) = true
    ∧ after (.claimRead (mail 8 1) [5, 511]) (got bar (mail 8 1) (callBytes 0x0300 [5, 511])) (fun t => codeOf t == some 0) = true
    ∧ after (.keyEnroll (mail 8 1) (3 :: List.replicate 12 7)) (got bar (mail 8 1) (callBytes 0x0400 (3 :: List.replicate 12 7)))
        (fun t => t.therm.keyState[3] == 1 && t.therm.csRequired) = true
    ∧ after (.call (mail 8 1) (callBytes 0x0600 [])) (got bar (mail 8 1) (callBytes 0x0600 [])) (fun t => codeOf t == some 0x1D) = true
    ∧ after (.camRoutineTimeout 0) bar (fun t => fld t F.MBG_MB_LATEWIN == 1) = true := by decide +kernel

theorem witness_RefusedLetters : knownKind 0x07 = false
    ∧ after (.unknownLetterKind (mail 7 1) []) (got bar (mail 7 1) []) (fun t => codeOf t == some 0x10 && (slotGet t 15).isOpen) = true
    ∧ after (.unknownLetterKind (mail 7 1) []) (beginLong (got bar (mail 7 1) []) 3 none []) (fun t => codeOf t == some 1) = true := by
  decide +kernel

/-! ## Power, resets, ports -/

def volts : State := withFlds bar [(F.PWR_STAT_VFLOOR, 280), (F.PWR_STAT_VSET, 300)]
def vset (t : State) : Nat := fld t F.PWR_STAT_VSET
/-- Nothing measured but the share of one decoder lane: its slack is 1 less that share. -/
def busy (share : Nat) : SlackMeas := ⟨[], [share], 0, 0⟩

theorem witness_SlackLoop : StnOk volts ∧ 240 ≤ fld volts F.PWR_STAT_VFLOOR
    ∧ after (.slackTimer (busy 1029) 10) volts (fun t => vset t == min 360 (300 + fld volts F.PWR_CFG_STEP_MAX)) = true
    ∧ after (.slackTimer (busy 1023) 10) volts (fun t => vset t == 300 + fld volts F.PWR_CFG_STEP_UP) = true
    ∧ after (.slackTimer (busy 24) (-1)) volts (fun t => fld t F.PWR_STAT_VFLOOR == 282) = true
    ∧ after (.slackTimer (busy 24) 10) { volts with pwr := { volts.pwr with down := 15 } } (fun t => vset t == 299) = true
    ∧ after .vfloorFall volts (fun t => fld t F.PWR_STAT_VFLOOR == 279) = true := by decide +kernel

theorem witness_RailFaults : StnOk bar ∧ alive bar = true
    ∧ after (.phaseOvercurrent 2 9) bar (fun t => t.pwr.off == 4 && (slotGet t 330).isOpen) = true
    ∧ after (.coreOvervoltage 9) bar (fun t => t.boot.ovHold && t.boot.phase == .inReset) = true := by decide +kernel

theorem witness_PodHighVoltage : StnOk bar ∧ takesStores bar = true ∧ isActive bar = true ∧ hvGapOver bar = true
    ∧ after (.hvEnWrite 0x28) bar (fun t => fld t F.PODPWR_HV_STAT == 8 && t.pwr.hvReq == 0x20) = true
    ∧ hvGapOver (nextOf (.hvEnWrite 0x28) bar) = false
    ∧ after .hvSequenceStep (nextOf (.hvEnWrite 0x28) bar) (fun t => fld t F.PODPWR_HV_STAT == 8) = true
    ∧ (let s := nextOf (.hvEnWrite 0x28) bar
       let s := { s with clk := { s.clk with now := 32000000 } }
       hvGapOver s = true ∧ after .hvSequenceStep s (fun t => fld t F.PODPWR_HV_STAT == 0x28) = true)
    ∧ after (.hvOkTimeout 3) (nextOf (.hvEnWrite 0x28) bar) (fun t => fld t F.PODPWR_HV_FAULT == 8
        && fld t F.PODPWR_HV_STAT == 0 && (slotGet t 339).isOpen) = true := by decide +kernel

def warm : State :=
  withFlds { bar with pwr := { bar.pwr with hk := true, die := { bar.pwr.die with seen := true, t := 50 * 65536, amb := 40 * 65536 } } }
    [(F.PWR_DIE_TAU, 100), (F.PWR_DIE_RTH, 2000), (F.PWR_DIE_POTHER, 1000)]
/-- The power is (1200 · 50)/100 + 1000 = 1600 mW (the rail in its units), 3.2 °C above ambient at 2 °C/W. -/
theorem witness_ThermalModel : StnOk warm ∧ alive warm = true ∧ fld warm F.PWR_DIE_TAU = 100
    ∧ after (.thermalModelStep 1200 50) warm (fun t => t.pwr.die.t == 50 * 65536 + (40 * 65536 + 209715 - 50 * 65536) / 100 + 1) = true
    ∧ after (.housekeepingRoundEnd (List.replicate 32 7) [50]) warm (fun t => !t.pwr.hk && fld t (F.PWR_HK_VAL 31) == 7) = true := by
  decide +kernel

def starting : State := nextOf .pinResetRelease State.reset
theorem witness_ResetsAndStartup : after (.powerOnReset true) bar (fun t => t.boot.strap && t.boot.kind == 0 && t.stn == []) = true
    ∧ after .pinResetAssert bar (fun t => t.boot.kind == 1 && t.therm.resets == 1) = true
    ∧ starting.boot.phase = .starting
    ∧ after .restartReset { bar with boot := { bar.boot with restartDue := some 1 } } (fun t => t.twin.peerRst == .high) = true
    ∧ after .restartReset { bar with boot := { bar.boot with restartDue := some 0 } } (fun t => t.boot.kind == 2) = true
    ∧ after .fallbackReset { starting with boot := { starting.boot with pendingBoot := true } } (fun t => t.boot.kind == 3) = true
    ∧ after .powerLoss bar (fun t => t.boot.phase == .unpowered) = true
    ∧ after (.readiness 15 15 ⟨1, true, true⟩) starting (fun t => t.boot.phase == .ready && t.twin.role == .electing
        && (stw t 6).run == .running && fld t F.DRAM_STAT_TRAINED == 15 && fldB t F.DRAM_STAT_RFM_REQ
        && dramUsable t == 60 * 2 ^ 30 && t.drm.tuned[(2 : Fin 4)] == 0x11) = true := by decide +kernel

theorem witness_ThermosWrites : bar.boot.phase = .ready
    ∧ after (.thermosSettingsCommit 7 80) { bar with therm := { bar.therm with dirty := true } } (fun t => t.therm.newest == 1
        && (t.therm.banks[(1 : Fin 2)].map (·.seq)) == some 2 && t.therm.spares == 14 && (slotGet t 12).isOpen) = true
    ∧ after .thermosCounterWrite { bar with twin := { bar.twin with epoch := 9 } } (fun t => t.therm.epoch == 9) = true := by
  decide +kernel

/-- The worked example of R548: shut down by heat, address 7, strap 0, 121 °C. -/
def tooHot : State :=
  { bar with
    boot := { bar.boot with phase := .shut, thermalLatch := true }
    mbx := { bar.mbx with started := true }
    therm := { bar.therm with devAddr := some 7 }
    pwr := { bar.pwr with dieTemp := 121 } }
theorem witness_StatusWord : bar.boot.phase ≠ .unpowered
    ∧ after .i2cStatusRead tooHot (fun t => t.out == [.i2c [0x04, 0x01, 0x79, 0x07]]) = true := by decide +kernel

theorem witness_JtagInstructions : State.reset.boot.phase = .inReset
    ∧ after .extest { State.reset with jtag := { State.reset.jtag with cells := [true] } } (fun t => t.out == [.tdo [true]]) = true
    ∧ after .extest bar (fun t => t.out == [.tdo [false]]) = true
    ∧ after .idcode bar (fun t => t.out.length == 1) = true := by decide +kernel

def bare : State := { bar with boot := { bar.boot with phase := .noFirmware } }
def staged (b : List Byte) (o : Bool) : State := { bare with jtag := { bare.jtag with ir := 0x20, staging := b, overflow := o } }
theorem witness_ImagePath : after .imageLoad bare (fun t => t.jtag.ir == 0x20) = true
    ∧ after (.imageLoadUpdate 0x04030201) (staged [] false) (fun t => t.jtag.staging == [1, 2, 3, 4]) = true
    ∧ after .imageCommit (staged [1] false) (fun t => t.jtag.state == 3) = true := by decide +kernel

def atRest : State := withFlds bar [(F.MOT_AX_CTL_ENABLE 2, 1)]
def onItsWay : State :=
  { atRest with mot := { atRest.mot with axes := atRest.mot.axes.set 2 { Axis.init with mode := 1, v := 65536 } } }
theorem witness_SetPosition : StnOk atRest ∧ takesStores atRest = true ∧ isActive atRest = true ∧ ¬ axisBarred atRest 2
    ∧ (ax atRest 2).moving = false
    ∧ after (.setPos 2 0xFFFFFFF6) atRest (fun t => cmdPos t 2 == -10 && encPos t 2 == -10) = true
    ∧ after (.setPos 2 5) onItsWay (fun t => fldB t (F.MOT_IGNORED 2)) = true := by decide +kernel

theorem witness_TimeBaseSteps : takesStores bar = true ∧ bar.clk.step[(1 : Fin 4)] = 0
    ∧ (advanceTo (nextOf (.tbStep 1 100) bar) 16).clk.acc[(1 : Fin 4)] = bar.clk.acc[(1 : Fin 4)] + BitVec.ofNat 60 (2 * tbInc bar 1 + 100 * 2 ^ 28) := by
  decide +kernel

/-! ## More worked examples -/

/-- The worked block of chapter 06: ratio code 1 (2:1), depth 8. -/
def block0 : List Nat :=
  [40, 41, 42, 43, 44, 45, 46, 47, 48, 49, 49, 48, 47, 46, 45, 44,
   120, 121, 121, 122, 122, 123, 123, 124, 124, 125, 125, 126, 126, 127, 127, 128]
theorem block_example : encodeBlock 8 2 block0
      = [0x05, 0x0A, 0x1E, 0x80, 0x24, 0x92, 0x36, 0x49, 0x09, 0x00, 0x20, 0x49, 0x12, 0x49, 0x12, 0x00]
    ∧ (decodeBlock 8 2 (encodeBlock 8 2 block0)).map (·.take 4) = some [41, 41, 41, 44] := by decide +kernel
/-- The first key bytes after a comma (R245). -/
theorem scrambler_example : scramble [0, 0, 0, 0] = ([0xFF, 0xFF, 0x00, 0xD8] : List Byte).flatMap byteBits := by decide +kernel
/-- The house press's code 6 (R262). -/
theorem waveform_example : waveNs 0x0321451A = 820 := by decide +kernel
/-- A weak nozzle, frame by frame (chapter 11). -/
theorem score_example :
    let x1 := Score.next ⟨0, 0, 0⟩ (-56) 64 200
    let x2 := Score.next x1 (-56) 64 200
    let x3 := Score.next x2 (-56) 64 200
    let x4 := Score.next x3 (-56) 64 200
    [x1.d, x2.d, x3.d, x4.d] = [-14, -24, -32, -38] ∧ x4.w = 4 ∧ gainFor (-38) = 45 ∧ gainFor (-56) = 72
      ∧ divRound (-979712) 17630 = -56 := by decide +kernel

/-! ## Mailbag, time, motion, DRAM, DMA, lanes -/

/-- A device with alarm slot 30 open since its start. -/
def noted : State := alarm bar 30 [1, 2, 3, 4]
theorem witness_Mailbag : StnOk noted ∧ SlotsOk noted ∧ (slotGet noted 30).isOpen = true
    ∧ after .mailbagPass noted (fun t => t.mbx.queue.isEmpty) = true
    ∧ after (.mbClearSlot 30) noted (fun t => !(slotGet t 30).isOpen && (slotGet t 30).count == 1) = true
    ∧ after .mbClearAll noted (fun t => !(slotGet t 30).isOpen) = true
    ∧ (let s := withFlds noted [(F.MBG_MB_CTL_TRACE_EN, 4)]
       traceRoom s 2 1 = true ∧ after (.trGo 2 0x99) s (fun t => t.mbx.ring.length == 1) = true) := by decide +kernel

/-- Compare unit 2 armed on TB-PRESS with a target of 1000 ns, and the time 1,500 ns later. -/
def armed (period : Nat) : State :=
  nextOf (.tmcArm 2 1) (withFlds bar [(F.TIME_TARGET 2, 1000), (F.TIME_PERIOD 2, period)])
theorem witness_TimeAndCompare : StnOk (armed 0) ∧ fldB (armed 0) (F.TIME_TMC_STAT_ARMED 2) = true
    ∧ 0 ≤ tmcDiff (advanceTo (armed 0) 4800) 2
    ∧ after (.compareUnitFire 2 4800) (armed 0) (fun t => !fldB t (F.TIME_TMC_STAT_ARMED 2) && fld t (F.TIME_FIRED 2) == 1) = true
    ∧ after (.compareUnitFire 2 4800) (armed 2000) (fun t => fldB t (F.TIME_TMC_STAT_ARMED 2)
        && fld t (F.TIME_TARGET 2) == 3000) = true
    ∧ after (.tmcDisarm 2) (armed 0) (fun t => !fldB t (F.TIME_TMC_STAT_ARMED 2)) = true
    ∧ after (.tbStep 3 5) bar (fun t => t.clk.step[(3 : Fin 4)] == 5) = true
    ∧ after .tbAnchorUpdate { bar with clk := { bar.clk with ext := 0x100000002 } } (fun t =>
        fld t F.TIME_TB_ANCHOR_LO == 2 && fld t F.TIME_TB_ANCHOR_HI == 1) = true
    ∧ after .syncHoldover (withFlds bar [(F.TIME_TB_SYNC_STAT_STATE, 2)]) (fun t => fld t F.TIME_TB_SYNC_STAT_STATE == 3) = true
    ∧ after .holdoverAlarm (withFlds bar [(F.TIME_TB_SYNC_STAT_STATE, 3)]) (fun t => (slotGet t 369).isOpen) = true := by
  decide +kernel

theorem witness_MotionCommands : StnOk atRest ∧ takesStores atRest = true ∧ isActive atRest = true
    ∧ ¬ axisBarred atRest 2 ∧ axisBarred (withFlds atRest [(F.MOT_STALL 2, 1)]) 2
    ∧ after (.motTarget 2 0xFFFFFFFF) atRest (fun t => t.mot.writes == [.target 2 (-1)]) = true
    ∧ after (.motTarget 2 5) (withFlds atRest [(F.MOT_STALL 2, 1)]) (fun t => fldB t (F.MOT_IGNORED 2)) = true
    ∧ after (.motStop 5) atRest (fun t => t.mot.stop == 5) = true
    ∧ after .motRetract atRest (fun t => t.mot.retract && (slotGet t 364).isOpen) = true
    ∧ after .retractRelease (withFlds atRest [(F.MOT_GSTAT_RETRACT, 1)]) (fun t => !fldB t F.MOT_GSTAT_RETRACT) = true
    ∧ after (.liftLockWrite 1) atRest (fun t => fldB t F.MOT_CTL_LIFT_LOCK) = true
    ∧ after (.axisCmpArm 2 1) (withFlds atRest [(F.MOT_CMP_POS 2, 100)]) (fun t => fldB t (F.MOT_ARMED 2)) = true
    ∧ after (.axisCmpArm 2 0x5) (withFlds atRest [(F.MOT_CMP_POS 2, 0xFFFFFF9C)]) (fun t => fldB t (F.MOT_LATE 2) || fldB t (F.MOT_ARMED 2)) = true
    ∧ after (.axisCmpDisarm 2) (withFlds atRest [(F.MOT_ARMED 2, 1)]) (fun t => !fldB t (F.MOT_ARMED 2)) = true := by
  decide +kernel

theorem witness_MotionEdges : StnOk bar ∧ alive bar = true
    ∧ after (.spliceEdge false 0) (withFlds bar [(F.MOT_CTL_SPL_EN, 1)]) (fun t => !t.mot.retract) = true
    ∧ after (.spliceEdge false 1) (withFlds bar [(F.MOT_CTL_SPL_EN, 1)]) (fun t => t.mot.retract
        && fld t F.MOT_GSTAT_SPLICES == 1) = true
    ∧ after (.axisEncoderEdge 1 true false 1 1) bar (fun t => (ax t 1).count == 1) = true
    ∧ after (.axisEncoderEdge 1 false true 1 1) bar (fun t => (ax t 1).count == -1) = true
    ∧ after (.axisEncoderEdge 1 true true 1 1) bar (fun t => (ax t 1).count == 0 && fld t (F.MOT_ILLEGAL 1) == 1) = true
    ∧ after (.axisIndexEdge 1) (nextOf (.axisEncoderEdge 1 false true 1 1) bar) (fun t => fld t (F.MOT_INDEX_CNT 1) == 2 ^ 32 - 1) = true
    ∧ after (.probeEdge 2 false) (withFlds bar [(F.MOT_PRB_CTL_EN 2, 1)]) (fun t => fldB t (F.MOT_PRB_STAT_NEW 2)) = true
    ∧ after (.holdDelayExpiry 1) bar (fun t => (ax t 1).hold) = true := by decide +kernel

theorem witness_DramController : StnOk bar ∧ alive bar = true
    ∧ after (.dramScrub 64 1) (withFlds bar [(F.DRAM_SCRUB_SCRUB_H, 1)]) (fun t => fld t (F.DRAM_CE_COUNT (dramChannel 64)) == 1) = true
    ∧ after (.dramScrub 64 2) (withFlds bar [(F.DRAM_SCRUB_SCRUB_H, 1)]) (fun t => t.poison == [2]
        && fld t (F.DRAM_UE_COUNT (dramChannel 64)) == 1) = true
    ∧ after (.dramRefresh 1 3) bar (fun t => t.drm.refreshes[19] == 1) = true
    ∧ after (.dramMr4Poll 1 true 9) bar (fun t => t.drm.mr4[(1 : Fin 4)] == 9 && fldB t F.DRAM_STAT_HOT) = true
    ∧ after (.dramFreqGo 2) (withFlds bar [(F.DRAM_CFG_RATE_MASK, 31)]) (fun t => fldB t F.DRAM_STAT_FREQ_BUSY
        && fld t F.DRAM_FREQ_NEXT_RATE == 2) = true
    ∧ after (.dramFreqGo 7) (withFlds bar [(F.DRAM_CFG_RATE_MASK, 31)]) (fun t => fldB t F.DRAM_STAT_FREQ_IGNORED) = true
    ∧ after .dramFreqDone (withFlds bar [(F.DRAM_STAT_FREQ_BUSY, 1), (F.DRAM_FREQ_NEXT_RATE, 2)]) (fun t =>
        fld t F.DRAM_CFG_RATE == 2) = true := by decide +kernel

/-- Channel 3 with one descriptor at DRAM byte 0x1000: 32 bytes from 0x2000 to 0x3000. -/
def desc0 (ctrl : Nat) : List Byte := leBytes 8 0x2000 ++ leBytes 8 0x3000 ++ leBytes 4 32 ++ leBytes 4 ctrl ++ leBytes 8 0
def ringed (ctrl : Nat) : State :=
  let s := { bar with dram := memStore (memStore [] 0x1000 (desc0 ctrl)) 0x2000 (leBytes 32 0x0807060504030201) }
  withFlds s [(F.DMA_RING_BASE_LO 3, 0x1000), (F.DMA_CH_CTL_RING_LOG 3, 4), (F.DMA_HEAD 3, 1)]
/-- The state that a meaning answers; `s` if it stops. -/
def went (r : Res) (s : State) : State :=
  match r with
  | .next t => t
  | _ => s
def copying (ctrl : Nat) : State := went (execDmaRun 3 (ringed ctrl)) (ringed ctrl)
theorem witness_DmaControl : StnOk (ringed 0x80000000) ∧ descAddr (ringed 0x80000000) 3 = 0x1000
    ∧ after (.dmaHeadWrite 3 2) (ringed 0x80000000) (fun t => fld t (F.DMA_HEAD 3) == 2) = true
    ∧ after (.dmaHeadWrite 3 20) (ringed 0x80000000) (fun t => fldB t (F.DMA_CH_STAT_HEAD_IGNORED 3)) = true
    ∧ after (.dmaRun 3) (ringed 0x80000000) (fun t => fld t (F.DMA_CH_STAT_STATE 3) == 2
        && (t.dma.cur[(3 : Fin 16)].map (fun d => (d.src, d.dst, d.left))) == some (0x2000, 0x3000, 32)) = true
    ∧ after (.dmaRun 5) (ringed 0x80000000) (fun t => fld t (F.DMA_CH_STAT_STATE 5) == 1) = true
    ∧ after (.dmaAbort 3) (copying 0x80000000) (fun t => (t.dma.cur[(3 : Fin 16)].map (·.result)) == some (some 5)) = true
    ∧ after (.dmaPause 3) (copying 0x80000000) (fun t => fld t (F.DMA_CH_STAT_STATE 3) == 3) = true
    ∧ after (.dmaPauseDrained 3) (nextOf (.dmaPause 3) (copying 0x80000000)) (fun t => fld t (F.DMA_CH_STAT_STATE 3) == 4) = true
    ∧ after (.dmaResume 3) (nextOf (.dmaPauseDrained 3) (nextOf (.dmaPause 3) (copying 0x80000000))) (fun t =>
        fld t (F.DMA_CH_STAT_STATE 3) == 2) = true
    ∧ after (.dmaSwreq 0xF) bar (fun t => fld t F.DMA_SWREQ == 7) = true := by decide +kernel

def copied : State := went (execDmaBurst 3 false (copying 0x80000000)) (copying 0x80000000)
theorem witness_DmaCopies : StoresOk (copying 0x80000000)
    ∧ memNat copied.dram 0x3000 8 = 0x0807060504030201 ∧ fld copied (F.DMA_CUR_LEFT 3) = 0
    ∧ after (.dmaDescriptorEnd 3) copied (fun t => fld t (F.DMA_TAIL 3) == 1 && memNat t.dram 0x1014 4 == 0
        && memNat t.dram 0x101C 4 == (crc32c (leBytes 32 0x0807060504030201)).toNat) = true
    ∧ (let s := withFlds (copying 0x80000000) [(F.DMA_CH_CTL_PACED 3, 1), (F.DMA_REQ_TMO 3, 5)]
       requested s 3 = false ∧ after (.dmaRequestTimeout 3) s (fun t => fld t (F.DMA_CH_STAT_LAST_RESULT 3) == 4
          && fld t (F.DMA_CH_STAT_STATE 3) == 5) = true
       ∧ (let r := { s with dma := { s.dma with lines := 1 } }
          requested r 3 = true ∧ after (.dmaBurst 3 false) r (fun t => t.dma.lines == 0 && fld t (F.DMA_BURSTS 3) == 1) = true)) := by
  decide +kernel

def paired : State := { bar with twin := { bar.twin with joined := true } }
/-- Lane 12, of pod 2, locked and with a pod link in service. -/
def lit : State := withFlds bar [(F.LANE_STAT_LOS 12, 0), (F.LANE_STAT_LOL 12, 0), (F.LANE_STAT_ALIGNED 12, 1),
  (F.PODL_CTL_ENABLE 2, 1), (F.PODL_STAT_LOCK 2, 1)]
theorem witness_SerialLanes : StnOk lit ∧ alive lit = true ∧ laneInService lit 12 = true
    ∧ after (.laneLos 12) lit (fun t => fldB t (F.LANE_STAT_LOS 12) && !fldB t (F.LANE_STAT_ALIGNED 12)
        && (slotGet t 382).isOpen && !fldB t (F.PODL_STAT_LOCK 2)) = true
    ∧ after (.laneLol 12) lit (fun t => fldB t (F.LANE_STAT_LOL 12)) = true
    ∧ after (.laneLosRelease 12) (nextOf (.laneLos 12) lit) (fun t => !fldB t (F.LANE_STAT_LOS 12)) = true
    ∧ after (.laneLolRelease 12) (nextOf (.laneLol 12) lit) (fun t => fldB t (F.LANE_STAT_ALIGNED 12)) = true
    ∧ after (.groupAligned 2) bar (fun t => t.lanes.aligned == 4) = true
    ∧ after (.groupAlignmentLost 2) (nextOf (.groupAligned 2) bar) (fun t => t.lanes.aligned == 0) = true
    ∧ fldB lit (F.LANE_STAT_LOS 12) = false ∧ fldB lit (F.LANE_STAT_LOL 12) = false
    ∧ after (.laneSettled 12) lit (fun t => fldB t (F.LANE_STAT_SETTLED 12)) = true
    ∧ testIgnored bar 20 4 = false ∧ after (.laneTest 20 0) bar (fun t => fldB t (F.LANE_CTL_TEST 20)) = true
    ∧ testIgnored paired 8 4 = true ∧ after (.laneTest 8 0) paired (fun t => fldB t (F.LANE_STAT_TEST_IGNORED 8)) = true
    ∧ after (.laneChk 12) lit (fun t => fld t (F.LANE_ERR 12) == 0) = true := by decide +kernel

/-! ## The twin -/

def card : Postcard :=
  { pairPos := true, role := 1, joined := false, eligible := true, release := false, hbSeen := true, notElig := 0,
    epoch := 3, hseq := 0, bseq := 0, pcseq := 1, tbPress := 0, pair := 0xFF, version := 0 }
/-- A ready device with a twin whose last postcard is `c`. -/
def twinned (r : Role) (j : Bool) (c : Postcard) : State :=
  let s := ready r
  { s with twin := { s.twin with joined := j, peer := some c, epoch := 3, pinLive := true, pcLive := true, notElig := 0 } }
/-- A joined standby with every feed lane locked: eligible. -/
def follower : State :=
  let s := withFlds (twinned .standby true card) ((List.range 4).map (fun n => (F.LANE_STAT_ALIGNED (4 + n), 1)))
  withFlds { s with lanes := { s.lanes with aligned := 15 } } [(F.TWN_CFG_ELIG_EN, 1)]
def bus : Busy := ⟨5, none, [], 0⟩

theorem witness_ElectionAndTakeover : (ready .electing).twin.peer = none ∧ (ready .electing).twin.pinLive = false
    ∧ after .electWaitExpiry (ready .electing) (fun t => t.twin.peerRst == .high && t.twin.rstFor == 1) = true
    ∧ (let s := { ready .electing with twin := { (ready .electing).twin with pinLive := true } }
       after .electWaitExpiry s (fun t => (slotGet t 242).isOpen) = true)
    ∧ (let w := (nextOf (.twinSilence false) follower).twin
       w.peerRst = .high ∧ w.rstFor = 2 ∧ w.role = .standby)
    ∧ after .peerRstRelease { bar with twin := { bar.twin with peerRst := .waited } } (fun t => t.twin.peerRst == .low) = true := by
  decide +kernel

theorem witness_Postcards : (ready .electing).boot.phase = .ready ∧ card.role = 1
    ∧ pairMismatch { ready .electing with twin := { (ready .electing).twin with peer := some card } } = false
    ∧ after .postcardSend (ready .electing) (fun t => t.out.length == 1 && t.twin.pcseq == 1) = true
    ∧ after (.postcardReceive card) (ready .electing) (fun t => t.twin.role == .standby
        && (t.round.busy.map (·.op)) == some 5) = true
    ∧ after (.postcardReceive { card with pairPos := false }) (ready .electing) (fun t => t.twin.role == .none
        && (slotGet t 1).isOpen) = true
    ∧ after (.postcardReceive { card with epoch := 9 }) (twinned .active true card) (fun t => t.twin.role == .standby
        && (slotGet t 246).isOpen) = true
    ∧ after (.postcardReceive { card with epoch := 9 }) (twinned .standby true card) (fun t => t.twin.epoch == 9) = true
    ∧ after .hbInEdge bar (fun t => t.twin.pinLive && t.twin.hbSeen) = true := by decide +kernel

def handing (h : Handover) (r : Role) (c : Postcard) : State :=
  let s := twinned r true c
  { s with tho := { s.tho with ho := h } }
theorem witness_Handovers : mirrors (handing .due .active card) = true ∧ jobRuns (handing .due .active card) = false
    ∧ after .hamperTimedClose (handing .due .active card) (fun t => t.tho.ho == .final && t.tho.stopped
        && (t.twin.sent.getLast?.map (·.final)) == some true) = true
    ∧ after (.postcardReceive { card with role := 2, joined := true }) (handing .final .active card) (fun t =>
        t.twin.role == .standby && t.tho.ho == .released && !t.pins.activeOut) = true
    ∧ (let w := handing .final .standby { card with release := true }
       w.twin.role = .standby ∧ w.twin.joined = true ∧ w.tho.ho = .final)
    ∧ StnOk (handing .released .standby card)
    ∧ after .handoverLaneIdle (handing .released .standby card) (fun t => t.tho.ho == .no) = true
    ∧ after .clearHidden { bar with twin := { bar.twin with notElig := 0x2001 } } (fun t => t.twin.notElig == 1) = true := by
  decide +kernel

def hamper0 (q : Word) : Hamper :=
  { final := false, timed := true, early := false, hseq := q, epoch := 3, line := 7, tbPress := 0, horizon := 12, pend := 0,
    jobId := 0, bytes := 64, entries := [] }
theorem witness_Hampers : mirrors (twinned .active true card) = true ∧ resyncing (twinned .standby true card) = false
    ∧ StnOk (twinned .standby true card)
    ∧ after .hamperTimedClose (twinned .active true card) (fun t => t.twin.sent.map (·.hseq) == [1] && t.twin.hseq == 1) = true
    ∧ after (.hamperReceive (hamper0 1) true) (twinned .standby true card) (fun t => t.twin.hseq == 1
        && fld t F.SCR_HORIZON == 12 && fld t F.TWN_HLINE == 7) = true
    ∧ after (.hamperReceive (hamper0 2) true) (twinned .standby true card) (fun t => !t.twin.joined
        && (t.round.busy.map (·.op)) == some 5) = true
    ∧ (let s := { twinned .standby false card with round := { bar.round with busy := some bus } }
       resyncing s = true ∧ after (.hamperReceive (hamper0 2) true) s (fun t => t.twin.buffered.length == 1) = true)
    ∧ after (.twinBulkReceive (.dram 0x40 [1, 2]) 0 1) (twinned .standby true card) (fun t => memNat t.dram 0x40 2 == 0x201
        && t.twin.bseqIn == 1) = true := by decide +kernel

def resync (snap : Bool) : State :=
  let s := twinned .standby false card
  { s with round := { s.round with busy := some bus }, twin := { s.twin with snapshot := snap } }
theorem witness_Resync : bus.op = 5 ∧ bus.letter = none
    ∧ after .resyncEnd (resync true) (fun t => t.twin.joined && t.round.busy == none) = true
    ∧ after .resyncTimeout (resync false) (fun t => t.round.busy == none && (slotGet t 252).isOpen) = true
    ∧ after .resyncRetry (twinned .standby false card) (fun t => (t.round.busy.map (·.op)) == some 5) = true := by decide +kernel

theorem witness_TwinSilences : StnOk (twinned .standby true card) ∧ selfEligible follower = true ∧ StnOk follower
    ∧ selfEligible (twinned .standby false card) = false
    ∧ after (.twinSilence false) follower (fun t => t.twin.peerRst == .high && t.twin.rstFor == 2) = true
    ∧ after (.twinSilence false) (twinned .standby false card) (fun t => (slotGet t 248).isOpen) = true
    ∧ after (.twinSilence true) (twinned .standby true card) (fun t => fld t F.TWN_LATEWIN == 1) = true
    ∧ after (.twinPathSilent true false) (twinned .active true card) (fun t => (slotGet t 243).isOpen && !t.twin.pinLive) = true
    ∧ after (.twinPathSilent false false) (twinned .active true card) (fun t => (slotGet t 244).isOpen && !t.twin.pcLive) = true
    ∧ twinFollows (twinned .active true card) = true
    ∧ after (.activeTwinSilence false) (twinned .active true card) (fun t => t.twin.peerRst == .high && t.twin.rstFor == 3
        && (slotGet t 245).isOpen) = true
    ∧ after (.hamperAckTimeout false) (nextOf .hamperTimedClose (twinned .active true card)) (fun t => t.twin.rstFor == 3) = true
    ∧ after (.hamperTimeout false) (twinned .standby true card) (fun t => !t.twin.joined && (slotGet t 250).isOpen) = true := by
  decide +kernel

/-! ## The feed and the compressor -/

/-- A job of one block per pair (16 samples of 8 bits at 2:1), lines of 1,200 per inch both ways. -/
def decl0 : Decl :=
  { jobId := 7, xres := 2, yres := 2, depth := 8, ratio := 2, samples := 16, firstCol := 0, maxRate := 60000,
    storeBase := 0x1000000, storeRows := 16, flags := 0, libBase := 0x2000000, libSlotRows := 4, libSlots := 1 }
def page0 : Page := ⟨1, 0, 4, none, true, some 0⟩
def job0 : JobRun :=
  { decl := decl0, pages := [page0], nextFirst := 4, lastPage := some 1, records := 1, jobEnd := none, lastLine := none,
    taken := [0], held := [(0, block0.take 16)], ring := [], firstPair := none, decided := [], late := [], halt := none, startW := 0 }
/-- The job runs on the active, which has pod 0 with two rows of 64 nozzles, the second 640 sub-lines behind. -/
def press : State :=
  let s := { ready .active with jobs := { (ready .active).jobs with running := some job0, lib := some decl0 } }
  withFlds s [(F.SCR_POD_CFG_FITTED 0, 1), (F.SCR_POD_CFG_ROT_DEPTH 0, 2), (F.SCR_POD_COLS_NPR 0, 64),
    (F.SCR_ROW_Y 0 1, 640), (F.PLC_NUM, 1), (F.PLC_DEN, 1), (F.SCR_POD_FMAX 0, 64000)]

/-- A frame of the job with a good CRC. -/
def good (t : Byte) (slot : BitVec 16) (n : Word) (pl : List Byte) : FeedFrame :=
  let f : FeedFrame := ⟨7, t, 0, slot, n, BitVec.ofNat 32 pl.length, pl, 0, true, true, false⟩
  { f with crc := crc32c (feedBytes f) }
def line1 : FeedFrame := good 1 0 1 ((block0.drop 16).map (BitVec.ofNat 8))
/-- The page store gets the worked block of chapter 06. -/
theorem witness_FeedFrames : GoodFrame press line1 false job0 1 ∧ entryBusy press false job0 0 = false
    ∧ StnOk press ∧ after (.feedLine line1 0) press (fun t => memNat t.dram 0x1000000 16 == leNat (encodeBlock 8 2 block0)
        && memNat t.dram 0x1000000 4 == 0x801E0A05 && (t.jobs.running.map (·.taken)) == some [0, 1]) = true
    ∧ GoodFrame press (good 2 0 2 (le 4 4 ++ le 4 3)) false job0 2
    ∧ after (.feedPage (good 2 0 2 (le 4 4 ++ le 4 3))) press (fun t =>
        (t.jobs.running.map (fun j => (j.pages.length, j.nextFirst))) == some (2, 8)) = true
    ∧ GoodFrame press (good 3 5 2 (le 4 4 ++ le 4 3)) false job0 3
    ∧ after (.feedReplay (good 3 5 2 (le 4 4 ++ le 4 3))) press (fun t =>
        ((t.jobs.running.bind (fun j => j.pages.getLast?)).map (fun p => (p.slot, p.count))) == some (some 5, 3)) = true := by decide +kernel

theorem witness_LibFrames : GoodFrame press (good 4 0 1 (encodeBlock 8 2 block0)) false job0 4
    ∧ after (.feedLib (good 4 0 1 (encodeBlock 8 2 block0))) press (fun t => memNat t.dram 0x2000040 4 == 0x801E0A05) = true
    ∧ GoodFrame press (good 5 0 0 (le 4 4)) false job0 5
    ∧ after (.feedJobEnd (good 5 0 0 (le 4 4))) press (fun t => (t.jobs.running.map (·.jobEnd)) == some (some 4)) = true
    ∧ after (.feedPage { good 5 0 0 (le 4 4) with crc := 0 }) press (fun t => fld t F.FEED_CRC == 1) = true
    ∧ after (.feedLine { line1 with full := true } 0) press (fun t => fld t F.FEED_OTHER == 1) = true
    ∧ after (.feedLine { line1 with okBlocks := false } 0) press (fun t => fld t F.FEED_CRC == 1) = true := by decide +kernel

theorem witness_FeedDeadline : press.jobs.running = some job0 ∧ pageOfLine job0 2 = some page0
    ∧ printLineOf decl0 page0 2 = some 2 ∧ lineComplete press job0 page0 2 = false ∧ StnOk press
    ∧ after (.feedDeadline 2 false) press (fun t => fld t F.FEED_LATE == 1 && (slotGet t 30).isOpen
        && (t.jobs.running.map (·.late)) == some [2]) = true
    ∧ after (.feedDeadline 0 true) (nextOf (.feedLine line1 0) press) (fun t => fld t F.MBG_MB_LATEWIN == 1 &&
        (t.jobs.running.map (fun j => (j.late, j.decided))) == some ([], [0])) = true := by decide +kernel

/-- A compression job of four bytes at 0x100 into 0x200. -/
def packing : State :=
  withFlds { bar with dram := memStore [] 0x100 [1, 2, 3, 4] } [(F.PKR_SRC_LO, 0x100), (F.PKR_SRC_LEN, 4),
    (F.PKR_DST_LO, 0x200), (F.PKR_DST_LEN, 0x1000)]
theorem witness_CompressorSlot : StnOk packing ∧ packing.pkr.run = none
    ∧ after (.pkrCompress 0x21) packing (fun t => fld t F.PKR_STATE == 1
        && (t.pkr.run.map (fun k => (k.src, k.srcLen, k.dst, k.dir, k.final))) == some (0x100, 4, 0x200, false, true)) = true
    ∧ after (.pkrDecompress 0x21) packing (fun t => (t.pkr.run.map (·.dir)) == some true) = true
    ∧ after (.pkrCompress 1) (nextOf (.pkrCompress 0x21) packing) (fun t => fldB t F.PKR_REJECT) = true
    ∧ after (.pkrJobStop [(0, true)]) (nextOf (.pkrCompress 0x21) packing) (fun t => fld t F.PKR_RESULT == 4
        && (slotGet t 33).isOpen && t.pkr.run == none) = true := by decide +kernel

def packJob : PkrJob := ⟨false, false, true, 0x100, 4, 0x200, 0x1000, 0, [], 0, 0, false⟩
theorem witness_CompressorRecord : StnOk packing ∧ MemOk packing ∧ packing.poison = [] ∧ packing.single = []
    ∧ fld packing F.PKR_IN_DONE = 0 ∧ fld packing F.PKR_OUT_DONE = 0 ∧ 0 < packJob.srcLen ∧ packJob.srcLen ≤ 256 := by
  decide +kernel

/-! ## Rows, the web, page starts, line sync -/

/-- The press with the web standing at sub-line `w`. -/
def webAt (w : Int) : State := { press with plc := { press.plc with refW := fix w } }

/-- The press whose deadline handler has decided contone line 0. -/
def ripe : State := { press with jobs := { press.jobs with running := some { job0 with decided := [0] } } }

theorem witness_RowLineDecision : fetchOpen ripe 0 0 0 = true ∧ linesDecided ripe { job0 with decided := [0] } 0 = true
    ∧ linesDecided press job0 0 = false
    ∧ after (.rowLineDecision 0 0 0 [] []) press (fun t => t.scr.decidedTo[rowIx 0 0] == 0) = true
    ∧ fetchOpen (webAt (-5000)) 0 0 0 = false ∧ drives press = true ∧ fitted press 0 = true ∧ (0 : Nat) < rowsOf press 0
    ∧ leadingRow press = some (0, 0) ∧ press.scr.decidedTo[rowIx 0 0] = 0
    ∧ after (.rowLineDecision 0 0 0 [] []) ripe (fun t => t.scr.decidedTo[rowIx 0 0] == 1 && t.scr.leadLine == 1
        && (findLine t 0 0 0).isSome) = true
    ∧ after (.rowLineDecision 0 0 0 [3] []) ripe (fun t => (slotGet t 45).isOpen) = true
    ∧ after (.rowLineDecision 0 1 0 [] []) ripe (fun t => t.scr.decidedTo[rowIx 0 1] == 0) = true
    ∧ after (.rowLineDecision 0 1 0 [] []) (nextOf (.rowLineDecision 0 0 0 [] []) ripe) (fun t =>
        t.scr.decidedTo[rowIx 0 1] == 1) = true := by decide +kernel

theorem witness_RowTrigger : rowFires press job0 0 = true ∧ StnOk press ∧ lastOf job0 = none
    ∧ fireTarget (plcTime press 8) 0 0 0 = 0 ∧ fireTarget (plcTime press 8) 0 1 0 = 640 ∧ wAt (plcTime (webAt 639) 8) 8 = 639
    ∧ after (.rowTrigger 0 0 8) press (fun t => t.plc2.nextFire[rowIx 0 0] == 1) = true
    ∧ after (.rowTrigger 0 1 8) (webAt 639) (fun t => t.plc2.nextFire[rowIx 0 1] == 0) = true
    ∧ after (.rowTrigger 0 1 8) (webAt 640) (fun t => t.plc2.nextFire[rowIx 0 1] == 1) = true
    ∧ (let s := withFlds press [(F.PODL_STAT_UP 0, 1), (F.PODPWR_HV_STAT, 1)]
       let s := setLink s 0 { link s 0 with answered := some 0 }
       let ours := setLink s 0 { link s 0 with firedOnce := true }
       podUp ours 0 = true ∧ hvOn ours 0 = true ∧ beforeOurs (plcTime ours 8) 0 8 = false
         ∧ after (.rowTrigger 0 0 8) ours (fun t => fld t F.PLC_MISSED == 1) = true
         ∧ beforeOurs (plcTime s 8) 0 8 = true
         ∧ after (.rowTrigger 0 0 8) s (fun t => fld t F.PLC_MISSED == 0) = true) := by
  decide +kernel

theorem witness_FireLineBoundary : jobRuns press = true ∧ target (plcTime press 8) 0 ≤ wAt (plcTime press 8) 8
    ∧ after (.fireLineBoundary 8 (busy 924) 100) (withFlds press [(F.PLC_CTL_SYNC_MODE, 1)]) (fun t => t.plc.boundary == 1
        && t.plc.scLine == some 0 && (stw t 5).evpend.getLsbD 0 && t.dma.lines.getLsbD 8 && t.out.contains (.pulse 0 8)) = true
    ∧ after (.fireLineBoundary 8 (busy 924) 100) (nextOf (.fireLineBoundary 8 (busy 924) 100) press) (fun t => t.plc.boundary == 1) = true := by
  decide +kernel

/-- One count is one line here: W is 64 sub-lines after the first forward edge. -/
theorem witness_WebEncoder : alive press = true ∧ StnOk press ∧ press.plc.encFault = false
    ∧ after (.webEdge true false 1 1 100) press (fun t => t.plc.count == 1 && t.plc.refW == fix 64) = true
    ∧ after (.webEdge true false 1 1 100) (withFlds press [(F.PLC_CTL_DIR_INVERT, 1)]) (fun t => t.plc.count == -1) = true
    ∧ after (.webEdge false false 1 1 100) press (fun t => t.plc.count == 0) = true
    ∧ after (.illegalTransition 100) press (fun t => t.plc.illegal == 1 && fld t F.PLC_ILLEGAL == 1 && (slotGet t 70).isOpen) = true
    ∧ after (.webIndexEdge 200) (nextOf (.webEdge false true 1 1 100) press) (fun t => fld t F.PLC_INDEX_LO == 2 ^ 32 - 1
        && fld t F.PLC_INDEX_HI == 65535) = true
    ∧ (nextOf (.webEdge true false 1 1 100) press).plc.mode = .restart
    ∧ after (.webStop 3200100) (nextOf (.webEdge true false 1 1 100) press) (fun t => t.plc.mode == .stopped) = true := by decide +kernel

/-- 600 counts an inch, one edge every 100 µs: S after a full window is 64 sub-lines in 320,000 units. -/
theorem speed_example :
    let s := (List.range 9).foldl (fun s i => countedEdge s true (320000 * (i + 1))) press
    s.plc.speed = 64 * 2 ^ 32 / 320000 ∧ s.plc.mode = .edge ∧ lineInterval s = 100000 := by decide +kernel

def faulty : State := { press with plc := { press.plc with encFault := true } }
theorem witness_ExtrapolationEnd : jobRuns faulty = true ∧ faulty.plc.encFault = true ∧ faulty.jobs.next = none
    ∧ after (.extrapolationEnd 100) faulty (fun t => t.jobs.running == none && t.jobs.ended == some .encoder) = true
    ∧ (let s := { faulty with twin := { faulty.twin with role := .standby, epoch := 3 } }
       endsJobs s = false ∧ after (.extrapolationEnd 100) s (fun t => t.plc2.noFire && t.jobs.running.isSome) = true) := by
  decide +kernel

def cued : State := withFlds bar [(F.PLC_CTL_PAGE_MODE, 1), (F.PLC_CUE_MIN, 100)]
theorem witness_PageStarts : StnOk cued ∧ alive cued = true ∧ fld cued F.PLC_CTL_CUE_PROBE = 0
    ∧ after (.cueMark 0 false 8) cued (fun t => t.plc2.cueW == some 0 && fld t F.PLC_CUES_ACCEPTED == 1
        && fld t F.PLC_CUES_UNUSED == 1) = true
    ∧ after (.cueMark 0 false 16) (nextOf (.cueMark 0 false 8) cued) (fun t => fld t F.PLC_CUES_ACCEPTED == 1) = true
    ∧ (let s := withFlds bar [(F.PLC_PAGECMP_LO, 10000)]
       after (.pagecmpArm 0x20000) s (fun t => t.plc2.cmp == some 10000 && t.plc2.cmpBelow) = true)
    ∧ after (.pagecmpArm 0x30000) bar (fun t => t.plc2.cmp == some 0 && !t.plc2.cmpBelow) = true
    ∧ after (.pageCompareFire 8) { bar with plc2 := { bar.plc2 with cmp := some 5120, cmpBelow := true } } (fun t =>
        t.plc2.cmp == none && fld t F.PLC_CUES_UNUSED == 1) = true := by decide +kernel
/-- R375, R228: page-late carries page, Wp in two words and P; the horizon holds nothing, so P is 0. -/
theorem test_page_late_detail :
    (slotGet (placeRequest (withFlds { press with jobs := { press.jobs with
      running := some { job0 with pages := [{ page0 with p := none }] } } } [(F.PLC_CTL_PAGE_MODE, 2)]) (-1)) 72).detail
      = [1, 0xFFFFFFFF, 0xFFFFFFFF, 0] := by decide +kernel

def led (w : Int) : State := withFlds (webAt w) [(F.PLC_CTL_SYNC_MODE, 2)]
def locked (w : Int) : State := withFlds (led w) [(F.PLC_STAT_SYNC_LOCK, 1)]
theorem witness_LineSync : StnOk (led 1) ∧ jobRuns (led 1) = true
    ∧ after (.lineSyncPulse 8) (led 1) (fun t => target t 0 == 0 && t.plc2.lockCount == 1) = true
    ∧ after (.lineSyncPulse 8) (locked 1) (fun t => target t 0 == 1 && t.plc2.lockCount == 1) = true
    ∧ after (.lineSyncPulse 8) (locked 20) (fun t => target t 0 == 2 && t.plc2.lockCount == 0) = true
    ∧ after (.lineSyncPulse 8) { led 0 with plc2 := { press.plc2 with lockCount := 63 } } (fun t =>
        fldB t F.PLC_STAT_SYNC_LOCK) = true
    ∧ after (.lineSyncPulse 8) (led 2000) (fun t => fldB t F.PLC_FAULT_SYNC_LOST && (slotGet t 123).isOpen) = true
    ∧ after .syncPulseMissing (withFlds (led 0) [(F.PLC_STAT_SYNC_LOCK, 1)]) (fun t => fldB t F.PLC_FAULT_SYNC_LOST) = true := by
  decide +kernel

/-! ## Pods, cameras, health -/

def pod0 : State := withFlds { press with jobs := (ready .active).jobs } [(F.PODL_CTL_RATE 0, 2)]
/-- Pod 0 in a step of its bring-up. -/
def upTo (b : BringUp) (s : State) : State := setLink s 0 { link s 0 with step := b, tag := 9 }
def pstat : PodStatus :=
  { eacc := 3, follow := 0, hv := true, inhibit := false, coasting := false, scanning := false, lost := false, temp := 300,
    coast := 0, drops := 4, crcErr := 0, seqErr := 0, stale := 0, lastLine := 0 }

theorem witness_PodBringup : StnOk pod0 ∧ takesStores pod0 = true ∧ isActive pod0 = true ∧ jobDeclared pod0 = false
    ∧ after (.podlEnable 0) pod0 (fun t => fldB t (F.PODL_CTL_ENABLE 0) && (link t 0).step == .statusAtRate
        && (link t 0).rate == 2) = true
    ∧ after (.podlEnable 0) press (fun t => fldB t F.PODL_GSTAT_CFG_IGNORED && !fldB t (F.PODL_CTL_ENABLE 0)) = true
    ∧ drives pod0 = true
    ∧ after (.podBringupTimeout 0) (upTo .statusAtRate pod0) (fun t => (link t 0).step == .statusAtZero) = true
    ∧ after (.podBringupTimeout 0) (upTo .statusAtNew pod0) (fun t => (link t 0).step == .abandoned && (slotGet t 196).isOpen) = true
    ∧ (let s := upTo .abandoned (withFlds pod0 [(F.PODL_CTL_ENABLE 0, 1)])
       wantsUp s 0 = true ∧ after (.podBringupRetry 0) s (fun t => (link t 0).step == .statusAtRate) = true)
    ∧ after (.podRateSwitch 0) (upTo .rateWritten pod0) (fun t => (link t 0).step == .statusAtNew && (link t 0).rate == 2) = true := by
  decide +kernel

def echoing (k : Nat) : State := setLink pod0 0 { link pod0 0 with step := .echo k, tag := 9, echo := some (8, 100) }
theorem witness_BadUpstream : pod0.boot.phase = .ready ∧ (link pod0 0).bad ≠ 7
    ∧ after (.podStatus 0 pstat true) pod0 (fun t => (link t 0).bad == 1 && fld t (F.PODL_RX_CRC 0) == 1) = true
    ∧ (let s := withFlds pod0 [(F.PODL_STAT_UP 0, 1)]
       let s := setLink s 0 { link s 0 with bad := 7 }
       (link s 0).bad = 7 ∧ podUp s 0 = true ∧ after (.readResp 0 8 0 0 true) s (fun t => !podUp t 0 && (link t 0).bad == 0
          && (slotGet t 196).isOpen) = true) := by decide +kernel

theorem witness_PodAnswers : StnOk pod0
    ∧ after (.podStatus 0 pstat false) (twinned .standby true card) (fun t => fld t (F.PODL_EPOCH 0) == 3
        && fld t (F.PODL_DROPS 0) == 4 && fldB t (F.PODL_STAT_LOCK 0) && fldB t (F.PODL_STAT_HV 0)) = true
    ∧ (let s := upTo .statusAtRate (twinned .active true card)
       solo s = false ∧ podUp s 0 = false
         ∧ after (.podStatus 0 pstat false) s (fun t => (link t 0).step == .readId 0 && t.twin.epoch == 4) = true
         ∧ (let own : PodStatus := { pstat with eacc := s.twin.epoch, follow := if s.boot.strap then 2 else 1 }
            podTaken s own = true ∧ podTaken s pstat = false
            ∧ after (.podStatus 0 own false) s (fun t => t.twin.epoch == s.twin.epoch && (link t 0).accepted
                && (link t 0).step == .readId 0) = true))
    ∧ after (.readResp 0 8 8 0x1234 false) (upTo (.readId 2) pod0) (fun t => fld t (F.PODL_ID 0 2) == 0x1234
        && (link t 0).step == .readId 3 && (link t 0).tag == 10) = true
    ∧ after (.readResp 0 8 24 5 false) (upTo (.readId 6) pod0) (fun t => (link t 0).step == .echo 0) = true
    ∧ delayOutlier (link (echoing 3) 0) 500 = false
    ∧ after (.echoResp 0 8 100 700 false) (echoing 3) (fun t => (link t 0).step == .echo 4 && (link t 0).meas == [500]) = true
    ∧ after (.echoResp 0 8 100 700 false) (echoing 7) (fun t => podUp t 0 && (link t 0).step == .idle) = true
    ∧ after (.echoMeasure 0 900) (withFlds pod0 [(F.PODL_STAT_UP 0, 1)]) (fun t => (link t 0).echo == some (0, 900)
        && (link t 0).tag == 1) = true := by decide +kernel

def rowLine (sent : Bool) : RowLine := ⟨0, 0, 5, [(1, 4), (2, 6)], if sent then 1 else 0, none, false, false⟩
/-- Pod 0 up with one decided row-line of line 5, whose target lies 320 sub-lines ahead at 64 sub-lines in 100 µs. -/
def loaded5 (sent : Bool) : State :=
  let s := withFlds press [(F.PODL_STAT_UP 0, 1), (F.PODPWR_HV_STAT, 1)]
  let s := setLink s 0 { link s 0 with answered := some 0, meas := [1000] }
  { s with
    pods := { s.pods with lines := [rowLine sent] }
    plc := { s.plc with mode := .frozen, speed := 64 * 2 ^ 32 / 320000 } }
/-- A row-line with no code yet, overdue. -/
def tardy : State := let s := loaded5 false; { s with pods := { s.pods with lines := [] } }
/-- Row-lines 4 and 5 of one row wait: 4 goes first. -/
def queued : State :=
  let s := loaded5 false
  { s with pods := { s.pods with lines := [{ rowLine false with l := 4 }, rowLine false] } }
theorem witness_PodLineFrames : findLine (loaded5 false) 0 0 5 = some (rowLine false) ∧ canSend (loaded5 false) 0 = true
    ∧ registerFree (loaded5 false) (rowLine false) = true ∧ dataTurn (loaded5 false) (rowLine false) = true
    ∧ after (.lineDataSend 0 0 5 1 none) (loaded5 false) (fun t => t.out.length == 1
        && ((findLine t 0 0 5).map (allSent ·)) == some true) = true
    ∧ after (.lineDataSend 0 0 5 1 (some 0)) (loaded5 false) (fun t => t.out.isEmpty && (slotGet t 46).isOpen
        && ((findLine t 0 0 5).map (·.cancel)) == some true) = true
    ∧ findLine queued 0 0 5 = some (rowLine false) ∧ dataTurn queued (rowLine false) = false
    ∧ after (.lineDataSend 0 0 5 1 none) queued (fun t => t.out.isEmpty) = true := by decide +kernel

theorem witness_FireSend : (let s := plcTime (loaded5 true) 1590000
      findLine s 0 0 5 = some (rowLine true) ∧ fireWaits s (rowLine true) = true
        ∧ triggerOf s (rowLine true) = some 1600001 ∧ fireTurn s (rowLine true) = true ∧ 1600001 ≤ 1590000 + fireAhead)
    ∧ after (.fireSend 0 0 5 1590000) (loaded5 true) (fun t => t.out.length == 2
        && ((findLine t 0 0 5).map (fun y => (y.done, y.cancel))) == some (true, false)) = true
    ∧ fireWaits (plcTime (loaded5 true) 1560000) (rowLine true) = true
    ∧ after (.fireSend 0 0 5 1560000) (loaded5 true) (fun t => t.out.isEmpty) = true := by decide +kernel

theorem witness_PodUnderrun : (let s := plcTime tardy 1598928
      let x : RowLine := ⟨0, 0, 5, [], 0, none, false, false⟩
      (findLine s 0 0 5).getD x = x ∧ dataMissing s 0 0 5 = true ∧ mayFire s 0 0 5 = true ∧ fitted tardy 0 = true
        ∧ triggerOf s x = some 1600001 ∧ beforeFence s 0 1600001 = false
        ∧ lastDeparture s 0 0 5 false 0 1600001 1598928 = true)
    ∧ after (.podUnderrun 0 0 5 1598928) tardy (fun t => t.out.length == 2 && (slotGet t 148).isOpen
        && (slotGet t 148).detail == [0, 5] && fld t (F.PODL_UNDERRUN 0) == 1) = true
    ∧ after (.podUnderrun 0 0 5 1560000) tardy (fun t => t.out.isEmpty) = true := by decide +kernel

def scanningPod : State := setLink pod0 0 { link pod0 0 with scanning := true }
theorem witness_PodScanLossPurge : StnOk scanningPod ∧ (0 : Nat) < rowsOf scanningPod 0
    ∧ after (.rscanData 0 1 0 [7, 8] false) scanningPod (fun t => memNat t.dram (scanBase scanningPod + 64) 2 == 0x807) = true
    ∧ after (.rscanDone 0 false false) scanningPod (fun t => !(link t 0).scanning) = true
    ∧ after .scanTimeout scanningPod (fun t => !(link t 0).scanning && (slotGet t 172).isOpen) = true
    ∧ podUp (loaded5 false) 0 = true
    ∧ after (.podLinkLost 0) (loaded5 false) (fun t => !podUp t 0 && (slotGet t 196).isOpen) = true
    ∧ after (.podlPurgeGo 0) pod0 (fun t => t.out.length == 1) = true
    ∧ after (.podlPurgeGo 0) press (fun t => t.out.isEmpty && fldB t F.PODL_GSTAT_PURGE_IGNORED) = true
    ∧ jobDeclared { press with twin := { press.twin with role := .standby } } = true
    ∧ after (.podlPurgeGo 0) { press with twin := { press.twin with role := .standby } } (fun t =>
        fldB t F.PODL_GSTAT_PURGE_IGNORED) = true := by decide +kernel

def camWith (s : State) (n : Fin 4) (ops : List CamOp) : State := setCam s n { cam s n with ctl := ops }
theorem witness_CameraControl : StnOk bar
    ∧ after (.camEnable 1) bar (fun t => fld t (F.SIGHT_CAM_STAT_LINK 1) == 1 && t.out.length == 1) = true
    ∧ after (.camBringupRetry 1) (withFlds bar [(F.SIGHT_CAM_CTL_ENABLE 1, 1)]) (fun t => t.out.length == 1) = true
    ∧ after (.camBringupRetry 1) (withFlds bar [(F.SIGHT_CAM_CTL_ENABLE 1, 1), (F.SIGHT_CAM_STAT_LINK 1, 1)])
        (fun t => t.out.isEmpty) = true
    ∧ after (.camControlAck 1 true 0) (camWith bar 1 [.discover]) (fun t => (cam t 1).ctl == [.config]
        && t.out == [.camCtl 1 .config 0 0]) = true
    ∧ after (.camControlAck 1 true 0) (camWith bar 1 [.config]) (fun t => (cam t 1).ctl == [.retrain]) = true
    ∧ (let s := withFlds bar [(F.SIGHT_REG_GAIN 1, 8)]
       setupOps s 1 = [.upGain] ∧ after (.camControlAck 1 true 0) (camWith s 1 [.retrain]) (fun t =>
         (cam t 1).ctl == [.upGain] && (cam t 1).writing.isSome) = true)
    ∧ after (.camControlAck 1 true 0) (camWith bar 1 [.setup 3, .upExp]) (fun t => (cam t 1).ctl == [.upExp]
        && t.out.length == 1) = true
    ∧ after (.camControlAck 1 true 0) (camWith bar 1 [.upGain]) (fun t => fld t (F.SIGHT_CAM_STAT_LINK 1) == 2) = true
    ∧ after (.camControlAck 1 false 0) (camWith bar 1 [.setup 3]) (fun t => (slotGet t 221).isOpen
        && fld t (F.SIGHT_CAM_STAT_LINK 1) == 0) = true := by decide +kernel

/-- Camera 0 up and enabled, four lines a frame, on the running job, while the web runs. -/
def filming : State :=
  let s := withFlds press [(F.SIGHT_CAM_CTL_ENABLE 0, 1), (F.SIGHT_CAM_STAT_LINK 0, 2), (F.SIGHT_LMAX 0, 100000),
    (F.SIGHT_FRAME_LINES 0, 4)]
  { s with plc := { s.plc with mode := .frozen, speed := 64 * 2 ^ 32 / 320000 } }
def frame0 (lines : List (List Nat)) (trigs : List Nat) : CamFrame :=
  { number := 0, job := 0, jobId := 7, recStart := 0, trigs := trigs, byCompare := false, lines := lines, slot := 0, pm := 0,
    expTag := 0, expUnknown := false, close := .running, dropped := false, ctx := none }
def inFrame (f : CamFrame) : State := setCam filming 0 { cam filming 0 with cur := some f }
def pixels (ok : Bool) : CamLine := ⟨0, List.replicate (camWidth filming 0) 5, ok⟩
/-- An ended job of four lines that camera 0 has not passed yet. -/
def trailing : State := { filming with sight := { filming.sight with tails := [⟨0, 7, [], 3, 0⟩] } }
theorem witness_TriggerSlots : StnOk filming ∧ camRuns filming 0 = true ∧ dieThrottle filming = false
    ∧ camCompare filming 0 = none
    ∧ (let s := plcTime filming 8
       (camJob filming 0).map (fun j => (j.no, slotDue s 0 (slotAt s 0 j 0), decide ((cam filming 0).fromW ≤ slotAt s 0 j 0),
         decide (0 ≤ j.last))) = some (0, true, true, true))
    ∧ (cam filming 0).onJob = 0 ∧ (cam filming 0).nextSlot = 0 ∧ 0 % camYb filming 0 = camPhase filming 0
    ∧ after (.triggerSlot 0 0 8) filming (fun t => t.out.contains (.camTrig 0 8)
        && ((cam t 0).cur.map (·.trigs)) == some [0]) = true
    ∧ after (.triggerSlot 0 0 8) (setCam filming 0 { cam filming 0 with gap := 2 }) (fun t => (cam t 0).gap == 1
        && t.out.isEmpty) = true
    ∧ after (.triggerSlot 0 0 8) (setCam filming 0 { cam filming 0 with lastTrig := some 0 }) (fun t =>
        fld t (F.SIGHT_TRIG_SKIP 0) == 1) = true
    ∧ (let s := { trailing with plc := { trailing.plc with refW := fix 1000 } }
       (camJob s 0).map (·.last) = some 3 ∧ after (.triggerSlot 0 4 8) s (fun t => (cam t 0).onJob == 1) = true) := by
  decide +kernel

/-- A spooled frame of camera 1, in the shared mode. -/
def spooling : State :=
  let s := withFlds filming [(F.SIGHT_CFG_MODE, 1), (F.SIGHT_CAM_CTL_ENABLE 1, 1), (F.SIGHT_CAM_STAT_LINK 1, 2),
    (F.SIGHT_SPOOL_BASE_LO 1, 0x10000), (F.SIGHT_FRAME_LINES 1, 2)]
  setCam s 1 { cam s 1 with cur := some (frame0 [] [0, 1]) }
theorem witness_CameraFrames : (let f := frame0 [] [0, 1, 2, 3]
      f.lines.length < f.trigs.length ∧ f.dropped = false ∧ f.close ≠ .discarded ∧ (cam (inFrame f) 0).late = []
        ∧ (pixels true).stream.toNat = fld filming (F.SIGHT_CAM_CTL_STREAM_ID 0))
    ∧ after (.cameraLine 0 (pixels true)) (inFrame (frame0 [] [0, 1, 2, 3])) (fun t =>
        (((cam t 0).cur.map (·.lines.length)) == some 1) && (cam t 0).closed.isEmpty) = true
    ∧ after (.cameraLine 0 (pixels true)) (inFrame (frame0 [[5], [5], [5]] [0, 1, 2, 3])) (fun t =>
        (cam t 0).cur.isNone && (cam t 0).closed.map (·.close) == [.complete]) = true
    ∧ after (.cameraLine 0 (pixels false)) (inFrame (frame0 [] [0])) (fun t => fld t (F.SIGHT_DISCARDED 0) == 1) = true
    ∧ after (.cameraLine 0 { pixels true with stream := 3 }) (inFrame (frame0 [] [0])) (fun t =>
        ((cam t 0).cur.map (·.lines.length)) == some 0) = true
    ∧ spooled spooling 1 = true ∧ camRuns spooling 1 = true
    ∧ after (.cameraLine 1 ⟨0, List.replicate (camWidth spooling 1) 7, true⟩) spooling (fun t =>
        ((cam t 1).cur.map (·.lines)) == some [[]] && memNat t.dram 0x10000 1 == 7) = true
    ∧ after (.frameTimeout 0) (inFrame (frame0 [] [0, 1, 2, 3])) (fun t =>
        (((cam t 0).closed.map (·.close)) == [.incomplete])) = true
    ∧ after (.frameTimeout 0) (setCam filming 0 { cam filming 0 with late := [frame0 [] [0]] }) (fun t =>
        (((cam t 0).closed.map (·.close)) == [.incomplete]) && (cam t 0).late.isEmpty) = true
    ∧ after (.frameTimeout 0) filming (fun t => fld t F.MBG_MB_LATEWIN == 1) = true := by decide +kernel

/-- The spooled frame once it has closed. -/
def spoolReady : State :=
  setCam spooling 1 { cam spooling 1 with cur := none, closed := [{ frame0 [[], []] [0, 1] with close := .complete }] }
theorem witness_SightPipelines : StnOk filming
    ∧ after (.ctxCommit 2) filming (fun t => (cam t 2).pendCtx.isSome || fldB t (F.SIGHT_CTX_REFUSED 2)) = true
    ∧ after (.expGo 2) filming (fun t => (cam t 2).newest.isSome && fld t (F.SIGHT_EXP_TAG_ACCEPTED 2) == 1) = true
    ∧ spooled filming 0 = false ∧ drives filming = true
    ∧ after (.frameProcessed 0) (setCam filming 0 { cam filming 0 with closed := [{ frame0 [] [0] with close := .complete }] })
        (fun t => (cam t 0).closed.isEmpty && t.hlt.frames.length == 1 && (stw t 3).evpend.getLsbD 12
          && t.dma.lines.getLsbD 9) = true
    ∧ sharedMode spoolReady = true ∧ spoolReady.sight.pipe1 = none ∧ dieThrottle spoolReady = false
    ∧ (nextSpooled spoolReady).map (fun x => (x.1, x.2.close)) = some (1, .complete)
    ∧ after .spoolFrameStart spoolReady (fun t => (t.sight.pipe1.map (fun x => x.2.lines.length)) == some 2
        && (cam t 1).closed.isEmpty) = true
    ∧ after .spoolFrameStart { spoolReady with poison := [0x800] } (fun t => t.sight.pipe1.isNone
        && fld t (F.SIGHT_DISCARDED 1) == 1) = true
    ∧ after (.frameProcessed 1) (nextOf .spoolFrameStart spoolReady) (fun t => t.sight.pipe1.isNone
        && t.hlt.frames.length == 1) = true := by decide +kernel

def part0 : HltPart := ⟨0, 0, [], 0, 0, 0⟩
def hframe (skip : Bool) : HltFrame := ⟨1, 0, 0, 7, 0, skip, none, [part0]⟩
def toScore (skip : Bool) : State :=
  let s := withFlds press [(F.HLT_CTL_EN, 1)]
  { s with hlt := { s.hlt with frames := [hframe skip] }, sight := { s.sight with gens := [⟨0, s.scr.live, 0, 0, true, 0⟩] } }
theorem witness_HealthCommands : (toScore true).hlt.off = false
    ∧ after (.healthFrameScore 1) (toScore true) (fun t => t.hlt.frames.isEmpty && fld t F.HLT_NOATTR == 1) = true
    ∧ after (.healthFrameScore 1) (toScore false) (fun t => t.hlt.frames.isEmpty) = true
    ∧ (let s := { press with hlt := { press.hlt with batch := [⟨0, .health 5 0 4 none 3 1 (-14) 0, none⟩] } }
       batchQueued s = false ∧ s.hlt.batch.length ≤ lqFree s
         ∧ after .healthBatchIssue s (fun t => t.hlt.batch.isEmpty && t.scr.lq.length == 1) = true)
    ∧ after .mapJournal { press with hlt := { press.hlt with changed := [5], changedX := some 9 } } (fun t =>
        t.therm.journal.length == 1 && fld t F.HLT_KEPT == 9 && t.hlt.changedX == none) = true
    ∧ after .journalFold { press with therm := { press.therm with journal := [(5, 0x40)] } } (fun t =>
        t.therm.journal.isEmpty && t.therm.ckpt[t.therm.ckptSel].length == 1) = true := by decide +kernel

theorem witness_HealthScoring : (genKept (toScore false) 0 0).map (·.attrib) = some true ∧ (toScore false).poison = [] := by
  decide +kernel
/-! ## A signed firmware image -/

/-- The public key of RFC 6979's example for P-384 (A.2.6), and an image of version 9 that it signed. -/
def makerKey : List Byte := 0x04 :: beBytes 96
  0xEC3A4E415B4E19A4568618029F427FA5DA9A8BC4AE92E02E06AAE5286B300C64DEF8F0EA9055866064A254515480BC138015D9B72D7D57244EA8EF9AC0C621896708A59367F9DFB9F54CA84B3F1C9DB1288B231C3AE0D4FE7344FD2533264720
def signed : List Byte :=
  leBytes 4 0x52464D57 ++ [1, 0, 0, 0, 9, 0, 0, 0, 2, 0, 0, 0, 4, 0, 0, 0] ++ List.replicate 12 0 ++ makerKey
    ++ beBytes 96
      0x94EDBB92A5ECB8AAD4736E56C691916B3F88140666CE9FA73D64C4EA95AD133C81A648152E44ACF96E36DD1E80FABE461263BE61781CC0DFFA01F48BCABF5DB3E042514BABEC6E54F2DFC847BB3074772AB70DC9AF20D699E8ADD6503B82636C
    ++ List.replicate 287 0 ++ [1, 2, 3, 4]
def keyed (s : State) : State :=
  { s with therm := { s.therm with keyDigest := s.therm.keyDigest.set 0 (beBytes 48
    0xEBE1F3B0FED114EAF158783D8C3227F2D8E05EA982EF00C64A08460B4649011FE3DA6E291A22AF14445CCAE1981DFF5B) } }

/-- SHA-384 of "abc", as FIPS 180-4 gives it. -/
theorem test_sha384 : sha384 [0x61, 0x62, 0x63] = beBytes 48
    0xCB00753F45A35E8BB5A03D699AC65007272C32AB0EDED1631A8B605A43FF5BED8086072BA1E7CC2358BAECA134C825A7 := by decide +kernel
/-- The signature of "sample" of RFC 6979 (A.2.6) verifies, and does not when the message changes. -/
theorem test_ecdsa : ecdsaVerify makerKey [0x73, 0x61, 0x6D, 0x70, 0x6C, 0x65] (beBytes 96
    0x94EDBB92A5ECB8AAD4736E56C691916B3F88140666CE9FA73D64C4EA95AD133C81A648152E44ACF96E36DD1E80FABE4699EF4AEB15F178CEA1FE40DB2603138F130E740A19624526203B6351D0A3A94FA329C145786E679E7B82C71A38628AC8) = true
    ∧ ecdsaVerify makerKey [0x73, 0x61, 0x6D, 0x70, 0x6C, 0x66] (beBytes 96
    0x94EDBB92A5ECB8AAD4736E56C691916B3F88140666CE9FA73D64C4EA95AD133C81A648152E44ACF96E36DD1E80FABE4699EF4AEB15F178CEA1FE40DB2603138F130E740A19624526203B6351D0A3A94FA329C145786E679E7B82C71A38628AC8) = false := by
  decide +kernel
theorem witness_signed_image : fwValid (keyed bar) signed = true
    ∧ after .imageCommit (keyed (staged signed false)) (fun t => t.jtag.state == 2 && t.therm.pending == some 0
        && t.therm.slots[(0 : Fin 2)].map (fun f => (f.version, f.svn)) == some (9, 2)) = true
    ∧ LetterReady 0x21 (got (keyed bar) (mail 0x21 2) signed) (mail 0x21 2) signed
    ∧ after (.firmware (mail 0x21 2) signed) (got (keyed bar) (mail 0x21 2) signed) (fun t =>
        t.round.busy.map (fun b => b.op) == some 4) = true
    ∧ after (.longOperationEnd 0) (nextOf (.firmware (mail 0x21 2) signed) (got (keyed bar) (mail 0x21 2) signed))
        (fun t => t.therm.pending == some 1 && codeOf t == some 0) = true := by decide +kernel


/-- A fault that calls for a hand-over leaves its reason on the active too, and a job's end clears those of the job
(R345). -/
theorem test_fault_reason : (let s := faultHandover (faultHandover (twinned .active true card) 7) 5
      (reasons s).getLsbD 7 && (reasons s).getLsbD 5
        && (let t := clearJobReasons s; (reasons t).getLsbD 7 && !(reasons t).getLsbD 5)) = true := by decide +kernel

/-! ## Clauses of the statements about parity, output balls, held levels and the like -/

theorem witness_ParityFaults : Runs (holds 0x1001FFE0) 0 ∧ inDmem 0x1001FFE0 1 ∧ (address (holds 0x1001FFE0) 0 1 0).toNat % 32 = 0
    ∧ after (.lw 0 3 1 0 true) (holds 0x1001FFE0) (fun t => (stw t 0).fault == 8 && (stw t 0).epc == 0x100
        && (stw t 0).run == .halted && (slotGet t 3).isOpen && (stw t 0).g[3] == 0) = true
    ∧ after (.vld 0 3 1 0 true) (holds 0x1001FFE0) (fun t => (stw t 0).fault == 8) = true
    ∧ after (.amoadd 0 3 1 2 true) (holds 0x1001FFE0) (fun t => (stw t 0).fault == 8
        && memNat (stw t 0).dmem 0x1FFE0 4 == 0x84030201) = true
    ∧ after (.illegal 0 0 true) (holds 0x1001FFE0) (fun t => (stw t 0).fault == 8) = true := by decide +kernel

theorem witness_StationWindow : ¬ stationWindow 0x1001FFE0 ∧ Runs (runs 0x1001FFE0 5) 0
    ∧ after (.sld 0 3 1 0) (runs 0x1001FFE0 5) (fun t => (stw t 0).fault == 0x103) = true
    ∧ after (.vsst 0 3 1 0) (runs 0x1001FFE0 5) (fun t => (stw t 0).fault == 0x503) = true := by decide +kernel

theorem witness_WatchdogWord : after (.scr 0 3 0x007) (nextOf (.scw 0 1 0x007) (runs 100 0)) (fun t => (stw t 0).g[3] == 100) = true := by
  decide +kernel

theorem witness_OutputBalls : bar.boot.phase ≠ .unpowered ∧ starting.boot.phase = .starting
    ∧ after .pinResetAssert atRest (fun t => pwmBall t 2 .ap == .highZ && auxOut t 2 == .highZ
        && !activeOutBall t && !hbOut t && txIdle t 9) = true
    ∧ after (.powerOnReset true) bar (fun t => auxOut t 7 == .highZ && !uplinkDriven t 0) = true
    ∧ after .powerLoss bar (fun t => !hvBall t 3 && !peerRstBall t) = true
    ∧ after (.readiness 15 15 ⟨1, true, true⟩) starting (fun t => auxOut t 7 == .high && pwmBall t 0 .ap == .highZ) = true := by decide +kernel

/-- A space whose oldest frame has been resent eight times. -/
def tired : State := setPort linked .east { port linked .east with
  ord := { HopSpace.init with replay := [⟨0, env0, []⟩], resends := 8 } }
theorem witness_ResendLimit : ((port tired .east).hop .ordinary).resends = 8
    ∧ after (.nak .east .ordinary 0) tired (fun t => !(port t .east).up && (slotGet t 13).isOpen) = true := by decide +kernel

theorem witness_HeldLevels : (let s := withFlds press [(F.PLC_CTL_FILTER, 3)]
      after (.webEdge true false 3 4 100) s (fun t => t.plc.count == 0 && !t.plc.a) = true
        ∧ after (.webEdge true false 4 4 100) s (fun t => t.plc.count == 1 && t.plc.a) = true)
    ∧ (let s := withFlds bar [(F.MOT_AX_CTL_FILTER 1, 3)]
       after (.axisEncoderEdge 1 true false 3 3) s (fun t => (ax t 1).count == 0) = true) := by decide +kernel

theorem witness_PageStartModes : fld bar F.PLC_CTL_PAGE_MODE ≠ 1
    ∧ after (.cueMark 0 false 8) bar (fun t => t.plc2.cueW == some 0 && fld t F.PLC_CUES_ACCEPTED == 1
        && fld t F.PLC_CUES_UNUSED == 1) = true
    ∧ (let s := { bar with plc2 := { bar.plc2 with cmp := some 6000, cmpBelow := false } }
       after (.pageCompareFire 8) s (fun t => t.plc2.cmpBelow && t.plc2.cmp == some 6000) = true)
    ∧ (let s := { bar with plc2 := { bar.plc2 with cmp := some 5000, cmpBelow := false } }
       after (.pageCompareFire 8) s (fun t => t.plc2.cmp == some 5000 && !t.plc2.cmpBelow) = true) := by decide +kernel

theorem witness_PausedInspection : (let s := withFlds (toScore false) [(F.SIGHT_CAM_STAT_PAUSED 1, 1)]
      after (.healthFrameScore 1) s (fun t => t.hlt.frames.isEmpty && fld t F.HLT_NOATTR == 1) = true) := by decide +kernel

theorem witness_FirstTwin : (ready .electing).twin.epoch = 0
    ∧ after (.postcardReceive { card with epoch := 0 }) (ready .electing) (fun t => t.twin.epoch != 0) = true
    ∧ after (.twinBulkReceive (.dram 0x40 [1, 2]) 0 2) (twinned .standby true card) (fun t => t.dram == []
        && t.twin.bseqIn == 1) = true := by decide +kernel

theorem witness_PeriodStores :
    after (.stationStore none 0x50000024 4) bar (fun t => fld t (F.TIME_PERIOD 6) == 1000000) = true
    ∧ after (.liftLockWrite 1) atRest (fun t => fld t (F.TIME_PERIOD 7) == cycleUs t * 1000) = true := by decide +kernel

theorem witness_PodLaneStored : (let s := withFlds lit [(F.PODL_ID 2 0, 0x1234)]
      after (.laneSettled 12) s (fun t => t.lanes.podIds.contains (2, 0x1234) && t.therm.dirty) = true) := by decide +kernel

/-! ## Where commands complete -/

theorem witness_StationInstructionsComplete : stationWindow 0x4B0001C8
    ∧ after (.sld 6 3 1 0) (resident 0x50000000 9) (fun t => (stw t 6).g[3] == stnWord (resident 0 0) 0x50000000
        && (stw t 6).pc == 0x104) = true
    ∧ (vView 0x43100000).isSome = true
    ∧ after (.vsld 6 3 1 0) (resident 0x43100000 9) (fun t => (stw t 6).pc == 0x104 && (stw t 6).run == .running) = true
    ∧ (let s := modStw (runs 0x43100000 9) 0 (fun w =>
          { w with v := w.v.set 3 5, prog := some { imageOf image0 with claims := [⟨1, true, 0, 255⟩] } })
       vecImmediateOk 0x43100000 = true ∧ claimed s 0 0x43100000 = true
         ∧ after (.vsst 0 3 1 0) s (fun t => vecGet t 0x43100000 == 5 && (stw t 0).pc == 0x104) = true) := by decide +kernel

theorem witness_LongOperationsComplete : mirrors bar = false ∧ jobRuns bar = false
    ∧ dramFits (taken (got bar (mail 0x20 1) [2, 0, 0, 0]) (mail 0x20 1) [2, 0, 0, 0]) (scanBase bar) 327680 = true
    ∧ after (.longDramRetrain (mail 0x20 1)) (got bar (mail 0x20 1) [1, 0, 0, 0]) (fun t =>
        t.round.busy == some ⟨1, some (mail 0x20 1), [], 0⟩) = true
    ∧ after (.longPodScan (mail 0x20 1)) (got bar (mail 0x20 1) [2, 0, 0, 0]) (fun t =>
        t.round.busy == some ⟨2, some (mail 0x20 1), [], 0⟩) = true
    ∧ after (.longLaneRetune (mail 0x20 1)) (got bar (mail 0x20 1) [6, 0, 0, 0]) (fun t =>
        t.round.busy == some ⟨6, some (mail 0x20 1), [], 0⟩) = true := by decide +kernel

theorem witness_HandoverLettersComplete : (let s := got (twinned .active true card) (mail 0x22 1) [0, 0, 0, 0]
      LetterReady 0x22 s (mail 0x22 1) [0, 0, 0, 0] ∧ isActive s = true ∧ s.tho.ho = .no ∧ twinEligible s = true
        ∧ s.twin.sent = [] ∧ fillRoom s = true
        ∧ after (.handoverNow (mail 0x22 1)) s (fun t => t.tho.ho == .due && t.tho.letters == [mail 0x22 1]) = true)
    ∧ mirrors press = false ∧ jobRuns (got press (mail 0x22 1) [1, 0, 0, 0]) = true
    ∧ after (.handoverArm (mail 0x22 1)) (got press (mail 0x22 1) [1, 0, 0, 0]) (fun t => t.tho.armed && codeOf t == some 0) = true := by
  decide +kernel

/-- A CALL's letter with its routine and words. -/
def called (s : State) (r : Nat) (args : List Word) : State := got s (mail 8 1) (callBytes r args)
theorem witness_RoutinesComplete : (let s := withFlds bar [(F.SIGHT_CAM_STAT_LINK 2, 2)]
      LetterReady 0x08 (called s 0x0100 [2, 0x40]) (mail 8 1) (callBytes 0x0100 [2, 0x40])
        ∧ after (.camRead (mail 8 1) [2, 0x40]) (called s 0x0100 [2, 0x40]) (fun t => (cam t 2).ctl == [.routine true 0x40 0]
          && t.round.calls.length == 1) = true
        ∧ after (.camWrite (mail 8 1) [2, 0x40, 7]) (called s 0x0101 [2, 0x40, 7]) (fun t =>
          (cam t 2).ctl == [.routine false 0x40 7]) = true)
    ∧ jobDeclared bar = false ∧ 1 ≤ lqFree bar
    ∧ after (.hltScanApply (mail 8 1) [10, 0]) (called pod0 0x0200 [10, 0]) (fun t => codeOf t == some 0) = true
    ∧ after (.hltReset (mail 8 1) [0, 1, 0, 0]) (called bar 0x0201 [0, 1, 0, 0]) (fun t => codeOf t == some 0) = true
    ∧ (let s := { bar with therm := { bar.therm with keyState := bar.therm.keyState.set 3 1 } }
       bootSignedBy s 3 = false ∧ after (.keyRevoke (mail 8 1) [3]) (called s 0x0401 [3]) (fun t =>
         t.therm.keyState[(3 : Fin 4)] == 2 && codeOf t == some 0) = true) := by decide +kernel

theorem witness_TestPortComplete : after .extestTrain { State.reset with jtag := { State.reset.jtag with cells := [true, false] } }
      (fun t => t.jtag.ir == 0x04 && t.out == [.tdo [true, false]]) = true
    ∧ after .highz bar (fun t => t.jtag.ir == 0x06 && t.out == [.tdo [false]]) = true
    ∧ after (.bypass 0x77) bar (fun t => t.jtag.ir == 0xFF && t.out == [.tdo [false]]) = true := by decide +kernel
end Sys2Proof.Tests
end

section
/-! The canonical form of the stores is an invariant of the step.  Each operation of the model has one lemma, `f_sound`:
from a state with sound stores `f` leaves sound stores. -/
namespace Sys2Proof.Machine
open Sys2Proof

-- The lemmas are many and short: elaborated one thread each, their stacks pass the check's memory limit.
set_option Elab.async false

/-! ## Soundness of what the operations pass on -/

/-- Both memories of a steward are in canonical form. -/
abbrev StwOk (w : Steward) : Prop := Memory.wf w.imem = true ∧ Memory.wf w.dmem = true

/-- The state an outcome goes on with, where it goes on, has sound stores. -/
def ResOk : Res → Prop
  | .next t => StoresOk t
  | .fault _ | .refused _ => True

/-- The state of a letter's reply has sound stores. -/
def ReplyOk : Reply → Prop
  | .now _ t | .later t | .silent t => StoresOk t

/-- The state, where there is one, has sound stores. -/
def OptOk : Option State → Prop
  | some t => StoresOk t
  | none => True

/-- A pair's state has sound stores. -/
abbrev FstOk {β : Type} (x : State × β) : Prop := StoresOk x.1
abbrev SndOk {β : Type} (x : β × State) : Prop := StoresOk x.2

theorem ResOk.next {t : State} (h : StoresOk t) : ResOk (.next t) := h
theorem ReplyOk.now {a : Ans} {t : State} (h : StoresOk t) : ReplyOk (.now a t) := h
theorem ReplyOk.later {t : State} (h : StoresOk t) : ReplyOk (.later t) := h
theorem ReplyOk.silent {t : State} (h : StoresOk t) : ReplyOk (.silent t) := h
theorem OptOk.some {t : State} (h : StoresOk t) : OptOk (.some t) := h

/-! Soundness never turns on which branch runs: both branches are sound. -/

section
variable {c : Prop} {_ : Decidable c}

theorem StoresOk.ite {a b : State} (ha : StoresOk a) (hb : StoresOk b) : StoresOk (if c then a else b) :=
  iteInduction (fun _ => ha) (fun _ => hb)
theorem StwOk.ite {a b : Steward} (ha : StwOk a) (hb : StwOk b) : StwOk (if c then a else b) :=
  iteInduction (fun _ => ha) (fun _ => hb)
theorem ResOk.ite {a b : Res} (ha : ResOk a) (hb : ResOk b) : ResOk (if c then a else b) :=
  iteInduction (fun _ => ha) (fun _ => hb)
theorem ReplyOk.ite {a b : Reply} (ha : ReplyOk a) (hb : ReplyOk b) : ReplyOk (if c then a else b) :=
  iteInduction (fun _ => ha) (fun _ => hb)
theorem OptOk.ite {a b : Option State} (ha : OptOk a) (hb : OptOk b) : OptOk (if c then a else b) :=
  iteInduction (fun _ => ha) (fun _ => hb)
theorem FstOk.ite {β : Type} {a b : State × β} (ha : FstOk a) (hb : FstOk b) : FstOk (if c then a else b) :=
  iteInduction (fun _ => ha) (fun _ => hb)
theorem SndOk.ite {β : Type} {a b : β × State} (ha : SndOk a) (hb : SndOk b) : SndOk (if c then a else b) :=
  iteInduction (fun _ => ha) (fun _ => hb)

end

theorem StoresOk.foldl {α : Type} {f : State → α → State} {l : List α} {s : State}
    (hf : ∀ s a, StoresOk s → StoresOk (f s a)) (h : StoresOk s) : StoresOk (l.foldl f s) :=
  foldl_inv StoresOk f hf l h

theorem StoresOk.getD {o : Option State} {s : State} (ho : OptOk o) (h : StoresOk s) : StoresOk (o.getD s) := by
  cases o with
  | none => exact h
  | some t => exact ho

theorem OptOk.map {α : Type} {f : α → State} {o : Option α} (hf : ∀ a, StoresOk (f a)) : OptOk (o.map f) := by
  cases o with
  | none => trivial
  | some a => exact hf a

theorem OptOk.mapState {f : State → State} {o : Option State} (hf : ∀ t, StoresOk t → StoresOk (f t))
    (ho : OptOk o) : OptOk (o.map f) := by
  cases o with
  | none => trivial
  | some t => exact hf t ho

/-! ## The five stores of a state -/

theorem StoresOk.dram {s : State} (h : StoresOk s) : Memory.wf s.dram = true := h.1.1
theorem StoresOk.shared {s : State} (h : StoresOk s) : Memory.wf s.shared = true := h.1.2.1
theorem stw_sound {s : State} (h : StoresOk s) {k : Fin 8} : StwOk (stw s k) := h.1.2.2 k

theorem StoresOk.with_dram {s : State} (h : StoresOk s) {m} (hm : Memory.wf m = true) {single poison} :
    StoresOk { s with dram := m, single := single, poison := poison } :=
  ⟨⟨hm, h.1.2⟩, h.2⟩

theorem StoresOk.with_shared {s : State} (h : StoresOk s) {m} (hm : Memory.wf m = true) :
    StoresOk { s with shared := m } := ⟨⟨h.1.1, hm, h.1.2.2⟩, h.2⟩

theorem StoresOk.with_stewards {s : State} (h : StoresOk s) {ws} (hw : ∀ k : Fin 8, StwOk ws[k]) :
    StoresOk { s with stewards := ws } := ⟨⟨h.1.1, h.1.2.1, hw⟩, h.2⟩

/-- An update of other fields leaves the stores sound; of the mailbag only the alarm slots matter. -/
theorem StoresOk.frame {s : State} (h : StoresOk s) {m : Mbx} (hm : m.slots = s.mbx.slots := by rfl)
    {single poison vstn hiw clk round twin tho therm boot jobs pkr scr plc plc2 pods sight hlt mot drm dma lanes
      pwr jtag pins out fresh pending} :
    StoresOk
      ⟨s.stewards, s.shared, s.dram, single, poison, s.stn, vstn, hiw, clk, round, m, twin, tho, therm, boot,
      jobs, pkr, scr, plc, plc2, pods, sight, hlt, mot, drm, dma, lanes, pwr, jtag, pins, out, fresh, pending⟩ :=
  ⟨h.1, h.2.1, by show spWf _ m.slots = true; rw [hm]; exact h.2.2⟩

/-- A steward keeps its memories where other parts of it change. -/
theorem StwOk.frame {w : Steward}
    {g v p pc run prog fault epc faddr evmask evpend wdog wdogAt latewin dwin instret start mbox trace}
    (h : StwOk w) : StwOk
      ⟨g, v, p, pc, run, prog, fault, epc, faddr, evmask, evpend, wdog, wdogAt, latewin, dwin, instret, start,
      w.imem, w.dmem, mbox, trace⟩ :=
  h

theorem Steward.init_sound : StwOk Steward.init := ⟨rfl, rfl⟩

theorem State.reset_sound : StoresOk State.reset :=
  ⟨⟨rfl, rfl, fun k => by simpa [stw, State.reset] using Steward.init_sound⟩, rfl, rfl⟩

section
variable {s : State} (h : StoresOk s)
include h

theorem setStw_sound {w} (hw : StwOk w) {k} : StoresOk (setStw s k w) :=
  h.with_stewards (fun j => by
    by_cases hj : j = k
    · subst hj; simpa using hw
    · have : k.val ≠ j.val := fun e => hj (Fin.ext e.symm)
      simpa [Vector.getElem_set_ne _ _ this, stw] using stw_sound h (k := j))

theorem modStw_sound {k f} (hf : ∀ w, StwOk w → StwOk (f w)) : StoresOk (modStw s k f) :=
  setStw_sound h (hf _ (stw_sound h))

theorem setStnWord_sound {a v} : StoresOk (setStnWord s a v) := ⟨h.1, spWf_put h.2.1, h.2.2⟩

theorem setSlot_sound {n x} : StoresOk (setSlot s n x) := ⟨h.1, h.2.1, spWf_put h.2.2⟩

/-! ### Machine/Ops -/

theorem setFld_sound {f v} : StoresOk (setFld s f v) := setStnWord_sound h
theorem setFldB_sound {f b} : StoresOk (setFldB s f b) := setFld_sound h
theorem setFldInt_sound {f i} : StoresOk (setFldInt s f i) := setFld_sound h
theorem addFld_sound {f n} : StoresOk (addFld s f n) := setFld_sound h
theorem incFld_sound {f} : StoresOk (incFld s f) := addFld_sound h
theorem wrapFld_sound {f} : StoresOk (wrapFld s f) := setFld_sound h
theorem setEvent_sound {n k} : StoresOk (setEvent n s k) := modStw_sound h (fun _ => .frame)
theorem setEventClaimants_sound {n kind idx} : StoresOk (setEventClaimants s n kind idx) :=
  .foldl (fun _ _ h => setEvent_sound h) h

theorem setEventAll_sound {n} : StoresOk (setEventAll s n) := .foldl (fun _ _ h => setEvent_sound h) h
theorem advanceTo_sound {t} : StoresOk (advanceTo s t) := .ite h (.frame (.frame h))
theorem takeMseq_sound {i} : SndOk (takeMseq s i) := h

theorem queueRecord_sound {n first final} : StoresOk (queueRecord s n first final) :=
  .frame (SndOk.ite (takeMseq_sound h) h)

theorem openSlot_sound {n pm detail} : StoresOk (openSlot s n pm detail) := setSlot_sound h
theorem countSlot_sound {n pm} : StoresOk (countSlot s n pm) := setSlot_sound h
theorem alarm_sound {n detail} : StoresOk (alarm s n detail) := by
  have hs : StoresOk (if (slotGet (useFree s) n).isOpen then countSlot (useFree s) n (postmark s (slotExpress n))
      else openSlot (useFree s) n (postmark s (slotExpress n)) detail) :=
    .ite (countSlot_sound (.frame h)) (openSlot_sound (.frame h))
  simp only [alarm, takeMseq]
  exact .ite (.ite (.frame (.frame hs)) (.frame hs))
    (.ite (countSlot_sound (.frame h)) (queueRecord_sound (openSlot_sound (.frame h))))

theorem closeSlot_sound {n} : StoresOk (closeSlot s n) :=
  .ite (.ite (.frame (setSlot_sound h)) (.ite (queueRecord_sound (setSlot_sound h)) (setSlot_sound h))) h

theorem closeAllSlots_sound : StoresOk (closeAllSlots s) := .foldl (fun _ _ h => closeSlot_sound h) h
theorem journal_sound {e} : StoresOk (journal s e) := .ite (.frame h) h
theorem declineHandover_sound : StoresOk (declineHandover s) := alarm_sound (incFld_sound h)
theorem startHandover_sound : StoresOk (startHandover s) :=
  .ite (.ite h (.ite (.frame h) (declineHandover_sound h))) h

theorem faultHandover_sound {b} : StoresOk (faultHandover s b) := startHandover_sound (.frame h)
theorem lateWin_sound : StoresOk (lateWin s) := incFld_sound h

/-! ### Machine/Mem -/

theorem noteCorrected_sound {cw} : StoresOk (noteCorrected s cw) := alarm_sound (incFld_sound h)
theorem noteUncorrectable_sound {cw} : StoresOk (noteUncorrectable s cw) :=
  alarm_sound
    (.ite (.frame (setFld_sound (setFld_sound (incFld_sound h)))) (setFld_sound (setFld_sound (incFld_sound h))))

theorem readCheck_sound {cw} : StoresOk (readCheck s cw) :=
  .ite (noteUncorrectable_sound h) (.ite (noteCorrected_sound h) h)

theorem dramReadEffect_sound {a n} : StoresOk (dramReadEffect s a n) := .foldl (fun _ _ h => readCheck_sound h) h
theorem writeCheck_sound {a n cw} : StoresOk (writeCheck a n s cw) :=
  .ite (.frame h) (.ite (noteUncorrectable_sound h) (.ite (.frame (noteCorrected_sound h)) h))

theorem dramWrite_sound {a bs} : StoresOk (dramWrite s a bs) := by
  unfold dramWrite
  extract_lets t
  have ht : StoresOk t := .foldl (fun _ _ h => writeCheck_sound h) h
  exact ht.with_dram (memStore_wf ht.dram a)

theorem dramClear_sound {a n} : StoresOk (dramClear s a n) := by
  have hw : StoresOk (writeCheck a n (writeCheck a n s (cwFirst a)) (cwFirst (a + n - 1))) :=
    writeCheck_sound (writeCheck_sound h)
  exact .ite h (hw.with_dram (memClear_wf hw.dram _ _))

theorem newEccError_sound {a ecc} : StoresOk (newEccError s a ecc) :=
  .ite (.ite h (.frame h)) (.ite (.ite h (.frame h)) h)

theorem journalScratch_sound {off} : StoresOk (journalScratch s off) := journal_sound h

/-! ### Machine/DramQueue -/

theorem drainDram_sound : StoresOk (drainDram s) := .foldl (fun _ _ h => .frame h) h
theorem admitDram_sound : StoresOk (admitDram s) := .foldl (fun _ _ h => .frame h) h

/-! ### Machine/Operands -/

omit h in
theorem Steward.setG_sound {w} (hw : StwOk w) {r x} : StwOk (Steward.setG w r x) := .ite hw (.frame hw)
omit h in
theorem Steward.setP_sound {w} (hw : StwOk w) {r x} : StwOk (Steward.setP w r x) := .ite hw (.frame hw)
theorem stewardFault_sound {k code kind faddr} : StoresOk (stewardFault s k code kind faddr) :=
  .ite (faultHandover_sound (alarm_sound (modStw_sound h (fun _ => .frame))))
    (alarm_sound (modStw_sound h (fun _ => .frame)))

theorem stewardFaultFree_sound {k code} : StoresOk (stewardFaultFree s k code) := stewardFault_sound (.frame h)
theorem faultIllegal_sound {k} : StoresOk (faultIllegal s k) := stewardFaultFree_sound h
theorem faultMisaligned_sound {k a} : StoresOk (faultMisaligned s k a) := stewardFault_sound h
theorem faultAccess_sound {k kind a} : StoresOk (faultAccess s k kind a) := stewardFault_sound h
theorem faultStation_sound {k kind a} : StoresOk (faultStation s k kind a) := stewardFault_sound h
theorem faultParity_sound {k a} : StoresOk (faultParity s k a) := stewardFault_sound h
theorem onSteward_sound {act} (hact : ∀ x0, StoresOk x0 → StoresOk (act x0)) {k} : ResOk (onSteward s k act) :=
  .ite (.ite (.next (hact _ h)) (.next (faultAccess_sound h))) (.next h)

theorem jumpTo_sound {link} (hlink : ∀ x0, StwOk x0 → StwOk (link x0)) {k t} : StoresOk (jumpTo s k t link) :=
  .ite (modStw_sound h (fun _ h => .frame (hlink _ h))) (faultAccess_sound h)

theorem finG_sound {k d x} : StoresOk (finG s k d x) := modStw_sound h (fun _ h => .frame (Steward.setG_sound h))
theorem finV_sound {k d x} : StoresOk (finV s k d x) := modStw_sound h (fun _ h => .frame (.frame h))
theorem finP_sound {k d x} : StoresOk (finP s k d x) := modStw_sound h (fun _ h => .frame (Steward.setP_sound h))
theorem opT_sound {k d a b f} : ResOk (opT s k d a b f) := onSteward_sound h (fun _ h => finG_sound h)
theorem opI_sound {k d a f} : ResOk (opI s k d a f) := onSteward_sound h (fun _ h => finG_sound h)
theorem opB_sound {k c off} : ResOk (opB s k c off) :=
  onSteward_sound h (fun _ h => .ite (jumpTo_sound h (fun _ h => h)) (modStw_sound h (fun _ => .frame)))

theorem loadFrom_sound {wb} (hwb : ∀ x0 x1, StoresOk x0 → StoresOk (wb x0 x1)) {k addr n kind parity d lkind}
    : StoresOk (loadFrom s k addr n kind parity d lkind wb) :=
  .ite (faultMisaligned_sound h) (by
      split
      · exact .ite (faultParity_sound h) (hwb _ _ h)
      · exact hwb _ _ h
      · exact hwb _ _ h
      · exact modStw_sound (.frame h) (fun _ => .frame)
      · exact faultAccess_sound h)

theorem storeTo_sound {k addr n kind bs} : StoresOk (storeTo s k addr n kind bs) := by
  have hs : ∀ o, StoresOk { s with shared := memStore s.shared o bs } := fun o =>
    h.with_shared (memStore_wf h.shared o)
  refine .ite (faultMisaligned_sound h) ?_
  split
  · exact modStw_sound h (fun _ hw => ⟨hw.1, memStore_wf hw.2 _⟩)
  · exact modStw_sound (hs _) (fun _ => .frame)
  · exact .ite (modStw_sound (journalScratch_sound (hs _)) (fun _ => .frame)) (faultAccess_sound h)
  · exact modStw_sound (.frame (dramWrite_sound h)) (fun _ => .frame)
  · exact faultAccess_sound h

/-! ### Machine/Round -/

theorem setPort_sound {l p} : StoresOk (setPort s l p) := by
  unfold setPort; split <;> exact .frame h

theorem pumpPort_sound {l} : StoresOk (pumpPort s l) := .ite (setPort_sound h) h
theorem queueFrame_sound {l sp e pl} : StoresOk (queueFrame s l sp e pl) := pumpPort_sound (setPort_sound h)
theorem sendEnv_sound {west e pl} : StoresOk (sendEnv s west e pl) := .ite (queueFrame_sound h) (queueFrame_sound h)
theorem resendFrom_sound {l sp e} : StoresOk (resendFrom s l sp e) :=
  .ite h (by split; exacts [addFld_sound (setPort_sound h), setPort_sound h])

theorem countDiscard_sound {l} : StoresOk (countDiscard s l) := by
  unfold countDiscard; split; exacts [incFld_sound h, h]

theorem sendNak_sound {l sp} : StoresOk (sendNak s l sp) := .ite h (.frame (setPort_sound h))
theorem wrapPort_sound {west} : StoresOk (wrapPort s west) :=
  alarm_sound (.foldl (fun _ _ h => queueFrame_sound h) (setPort_sound h))

theorem linkGoesDown_sound {l} : StoresOk (linkGoesDown s l) := by
  unfold linkGoesDown
  split; exacts [.frame (setPort_sound h), .ite (wrapPort_sound h) h, .ite (wrapPort_sound h) h]

theorem resendOrDown_sound {l sp e} : StoresOk (resendOrDown s l sp e) :=
  .ite (linkGoesDown_sound h) (resendFrom_sound h)

theorem execRetryTimeout_sound {l sp} : ResOk (execRetryTimeout l sp s) := by
  unfold execRetryTimeout; split; exacts [.next (lateWin_sound h), .next (resendOrDown_sound h)]

theorem trainPort_sound {l} : StoresOk (trainPort s l) := pumpPort_sound (setPort_sound h)
theorem alarmMismatch_sound {was} : StoresOk (alarmMismatch was s) := .ite (alarm_sound h) h
theorem forwardEnv_sound {e dest pl} : StoresOk (forwardEnv s e dest pl) :=
  .ite h (sendEnv_sound (.ite (.frame h) h))

theorem takeEnv_sound {e pl} : StoresOk (takeEnv s e pl) := .ite h (.frame h)
theorem deliver_sound {e pl} : StoresOk (deliver s e pl) := by
  unfold deliver
  dsimp only; split
  · exact takeEnv_sound (.ite (.frame h) h)
  · exact forwardEnv_sound (takeEnv_sound (.frame (.ite (.frame h) h)))
  · exact forwardEnv_sound (.ite (.frame h) h)
  · exact .ite (.frame h) h

theorem recordParity_sound {e pl} : StoresOk (recordParity s e pl) :=
  .ite (startHandover_sound (alarm_sound h))
    (takeEnv_sound (.ite (journal_sound (.frame (alarm_sound h))) (.frame (alarm_sound h))))

theorem deliverRead_sound {e pl parity} : StoresOk (deliverRead s e pl parity) :=
  .ite (recordParity_sound (.ite (.frame h) h)) (deliver_sound h)

theorem execRoundFrame_sound {l f parity} : ResOk (execRoundFrame l f parity s) :=
  .ite (.next h) (.ite (.next (countDiscard_sound h)) (.ite (.next (sendNak_sound (countDiscard_sound h)))
        (.ite (by
            dsimp only; split
            · exact .next (.frame (setPort_sound h))
            · exact .next (deliverRead_sound (.frame (setPort_sound h)))
            · exact .next (deliverRead_sound (.frame (setPort_sound h))))
          (.ite (.next (.frame (countDiscard_sound h))) (.next (sendNak_sound (countDiscard_sound h)))))))

theorem sendReceiptNow_sound {e pl} : StoresOk (sendReceiptNow s e pl) := sendEnv_sound h
theorem holdEnv_sound {west e pl bulk} : StoresOk (holdEnv s west e pl bulk) := .ite (.frame h) (sendEnv_sound h)
theorem releaseReceipt_sound {e pl bulk} : StoresOk (releaseReceipt s e pl bulk) := holdEnv_sound h
theorem nameBulk_sound {hm} : FstOk (nameBulk s hm) := .ite (journal_sound h) h
theorem nameBulks_sound : StoresOk (nameBulks s) :=
  foldl_inv (fun x : State × List HeldReceipt => StoresOk x.1) _ (fun _ _ h => nameBulk_sound h) _ h

theorem releaseHeld_sound : StoresOk (releaseHeld s) := .foldl (fun _ _ h => sendEnv_sound h) (.frame h)
theorem releaseAll_sound : StoresOk (releaseAll s) := .foldl (fun _ _ h => sendEnv_sound h) (.frame h)
theorem sendMail_sound {stream express mseq bytes} : StoresOk (sendMail s stream express mseq bytes) :=
  sendEnv_sound h

/-! ### Machine/Mailbag -/

theorem passSlot_sound {n} : StoresOk (passSlot s n) := .ite (queueRecord_sound h) h
theorem quietSlot_sound {n} : StoresOk (quietSlot s n) := .ite (closeSlot_sound h) h
theorem leaveRecord_sound {q} : StoresOk (leaveRecord s q) := by
  unfold leaveRecord; dsimp only; split; exacts [sendMail_sound h, setSlot_sound (sendMail_sound h)]

theorem sendExpress_sound : StoresOk (sendExpress s) :=
  .ite h (.foldl (fun _ _ h => incFld_sound (sendMail_sound h)) (.frame h))

theorem drainMail_sound : StoresOk (drainMail s) :=
  have hx := sendExpress_sound h
  .ite h (.ite hx (.foldl (fun _ _ h => sendMail_sound h)
    (.frame (.foldl (fun _ _ h => leaveRecord_sound h) (.frame hx)))))

theorem execMailbagPass_sound : ResOk (execMailbagPass s) :=
  .ite (.next h)
    (.next (drainMail_sound (.foldl (fun _ _ h => quietSlot_sound h) (.foldl (fun _ _ h => passSlot_sound h) h))))

theorem mbClear_sound {v} : StoresOk (mbClear s v) := .ite (closeAllSlots_sound h) (closeSlot_sound h)
theorem placeTrace_sound {k rtype body} : StoresOk (placeTrace s k rtype body) := .frame (takeMseq_sound h)

theorem trGo_sound {k tag} : StoresOk (trGo s k tag) :=
  .ite (.ite (modStw_sound (placeTrace_sound (.ite h (placeTrace_sound h))) (fun _ => .frame))
      (modStw_sound (incFld_sound h) (fun _ => .frame))) h

/-! ### Machine/Screen -/

theorem noteOrphans_sound {old new} : StoresOk (noteOrphans s old new) :=
  .ite (.foldl (fun _ _ h => alarm_sound h) (setFld_sound h)) (setFld_sound h)

theorem lqApplied_sound {es} : StoresOk (lqApplied s es) := .foldl (fun _ _ h => setEvent_sound h) h
theorem putStations_sound {sv} : StoresOk (putStations s sv) := .foldl (fun _ _ h => setStnWord_sound h) h
theorem dramPut_sound {a bs} : StoresOk (dramPut s a bs) := .ite (dramWrite_sound h) h
theorem changeLog_sound {entry oldSt newSt reason gain camera line d frame}
    : StoresOk (changeLog s entry oldSt newSt reason gain camera line d frame) :=
  wrapFld_sound (dramPut_sound h)

theorem clearScore_sound {e} : StoresOk (clearScore s e) := dramPut_sound h
omit h in
theorem healthNote_sound {acc} (hacc : FstOk acc) {x e} : FstOk (healthNote x acc e) := by
  unfold healthNote
  dsimp only; split
  · exact .ite (changeLog_sound (.ite (.ite (incFld_sound hacc) hacc) (incFld_sound hacc)))
      (changeLog_sound (incFld_sound hacc))
  · exact changeLog_sound (clearScore_sound hacc)
  · exact hacc

theorem healthNotes_sound {m es x} : StoresOk (healthNotes s m es x) :=
  .ite (setFld_sound (setEventAll_sound (foldl_inv FstOk _ (fun _ _ h => healthNote_sound h) _ h))) h

theorem newGen_sound {m sv x cols} : StoresOk (newGen s m sv x cols) := .ite (dramPut_sound (.frame h)) (.frame h)
theorem applyNow_sound {es} : StoresOk (applyNow s es) :=
  lqApplied_sound (.ite (.frame (healthNotes_sound (putStations_sound (.frame h))))
      (noteOrphans_sound (.frame (healthNotes_sound (putStations_sound (.frame h))))))

theorem flushLq_sound : StoresOk (flushLq s) := applyNow_sound (.frame h)
theorem journalLq_sound {e} : StoresOk (journalLq s e) := by
  unfold journalLq; split <;> exact journal_sound h

theorem armLq_sound {e} : StoresOk (armLq s e) :=
  .ite (.frame (journalLq_sound h)) (flushLq_sound (.frame (journalLq_sound h)))

theorem buildVersion_sound {es named x} : StoresOk (buildVersion s es named x) :=
  journal_sound (lqApplied_sound (.ite (newGen_sound (healthNotes_sound (setFld_sound (.frame h))))
        (noteOrphans_sound (newGen_sound (healthNotes_sound (setFld_sound (.frame h)))))))

theorem activateVersion_sound {l} : StoresOk (activateVersion s l) :=
  .ite h (.ite h (buildVersion_sound (.ite (.frame h) (alarm_sound (incFld_sound (.frame h))))))

theorem retireVersion_sound : StoresOk (retireVersion s) := by
  unfold retireVersion; split; exacts [journal_sound (setFld_sound (putStations_sound (.frame (.frame h)))), h]

theorem setPodEntries_sound : StoresOk (setPodEntries s) := .foldl (fun _ _ h => setFld_sound h) h

/-! ### Machine/Place -/

theorem trackMax_sound : StoresOk (trackMax s) := .ite (.frame h) h
theorem noteBelow_sound : StoresOk (noteBelow s) := by
  unfold noteBelow; split; exacts [.ite (.frame h) h, h]

theorem followW_sound : StoresOk (followW s) := noteBelow_sound (trackMax_sound h)
theorem plcTime_sound {t} : StoresOk (plcTime s t) := followW_sound (advanceTo_sound h)
theorem slipBy_sound {n} : StoresOk (slipBy s n) := .ite h (.frame h)
theorem checkDebt_sound : StoresOk (checkDebt s) :=
  .ite (.ite (setFld_sound (.frame h)) (alarm_sound (setFld_sound (.frame h)))) (.frame h)

theorem countedEdge_sound {fwd t} : StoresOk (countedEdge s fwd t) :=
  .ite (slipBy_sound (.frame h)) (checkDebt_sound (followW_sound (.frame (.frame (slipBy_sound (.frame h))))))

theorem freeze_sound {t} : StoresOk (freeze s t) := by
  unfold freeze; split; exacts [h, h, .frame h]

theorem encoderFault_sound : StoresOk (encoderFault s) :=
  .ite (faultHandover_sound (sendExpress_sound (alarm_sound (.frame (setFld_sound h)))))
    (.ite (.frame (setFld_sound h)) (sendExpress_sound (alarm_sound (.frame (.frame (setFld_sound h))))))

theorem illegalEdge_sound {t} : StoresOk (illegalEdge s t) :=
  .ite (encoderFault_sound
      (.ite (alarm_sound (incFld_sound (.frame (freeze_sound h)))) (incFld_sound (.frame (freeze_sound h)))))
    (.ite (alarm_sound (incFld_sound (.frame (freeze_sound h)))) (incFld_sound (.frame (freeze_sound h))))

theorem webLevels_sound {a b t} : StoresOk (webLevels s a b t) :=
  .ite (.frame h) (.ite (illegalEdge_sound (.frame h)) (countedEdge_sound (.frame h)))

theorem execWebIndexEdge_sound {t} : ResOk (execWebIndexEdge t s) :=
  .next (.ite (setFldInt_sound (setFldInt_sound (advanceTo_sound h))) h)

theorem setPlace_sound {n l} : StoresOk (setPlace s n l) := by
  unfold setPlace; split; exacts [.frame h, h]

theorem placeRequest_sound {wp} : StoresOk (placeRequest s wp) := by
  unfold placeRequest
  split; exacts [incFld_sound h, .ite (.frame (setPlace_sound h)) (alarm_sound (setFld_sound (setPlace_sound h)))]

theorem placeContiguous_sound : StoresOk (placeContiguous s) := .ite h (by split; exacts [h, .frame h])
theorem execCueMark_sound {probe falling t} : ResOk (execCueMark probe falling t s) :=
  .ite (.ite (.next (plcTime_sound h)) (.next (.ite (placeRequest_sound (incFld_sound (.frame (plcTime_sound h))))
          (incFld_sound (incFld_sound (.frame (plcTime_sound h))))))) (.next (plcTime_sound h))

theorem compareRequest_sound {wp} : StoresOk (compareRequest s wp) :=
  .ite (placeRequest_sound (.frame h)) (incFld_sound (.frame h))

theorem pagecmpWrite_sound {v} : StoresOk (pagecmpWrite s v) :=
  .ite (.ite (.ite (.frame (setStnWord_sound h)) (compareRequest_sound (setStnWord_sound h)))
      (.frame (setStnWord_sound h))) (setStnWord_sound h)

theorem execPageCompareFire_sound {t} : ResOk (execPageCompareFire t s) := by
  unfold execPageCompareFire
  dsimp only; split
  · exact .next (plcTime_sound h)
  · exact .ite (.next (compareRequest_sound (plcTime_sound h))) (.next (plcTime_sound h))

theorem syncLost_sound : StoresOk (syncLost s) := alarm_sound (.frame (setFld_sound (setFld_sound h)))
theorem execLineSyncPulse_sound {t} : ResOk (execLineSyncPulse t s) :=
  .ite (.ite (.next (syncLost_sound (plcTime_sound h))) (.next
        (.ite (setFld_sound (.frame (.ite (.frame (plcTime_sound h)) (plcTime_sound h))))
          (.frame (.ite (.frame (plcTime_sound h)) (plcTime_sound h)))))) (.next (plcTime_sound h))

theorem noteThrottle_sound {p} : StoresOk (noteThrottle s p) := .ite (alarm_sound (.frame h)) h
theorem skipClass_sound {l c} : StoresOk (skipClass l s c) := by
  unfold skipClass
  split; exacts [h, .ite (noteThrottle_sound (alarm_sound (incFld_sound (.frame (.frame h))))) (.frame h)]

theorem skipDecision_sound {l} : StoresOk (skipDecision s l) :=
  journal_sound (.foldl (fun _ _ h => skipClass_sound h) h)

/-! ### Machine/Decide -/

theorem readBlock_sound {v b} : StoresOk (readBlock s v b) :=
  .ite (alarm_sound (incFld_sound (dramReadEffect_sound h))) (dramReadEffect_sound h)

/-! ### Machine/Record -/

theorem openRecord_sound {l} : StoresOk (openRecord s l) := by
  unfold openRecord; split; exacts [h, .ite (dramWrite_sound (dramClear_sound h)) h]

theorem setMark_sound {p r l m} : StoresOk (setMark s p r l m) := .ite (dramWrite_sound h) h
theorem setCode_sound {start l x} : StoresOk (setCode start l s x) := .ite (dramWrite_sound h) h
theorem recordCodes_sound {p r l codes} : StoresOk (recordCodes s p r l codes) :=
  .ite (.foldl (fun _ _ h => setCode_sound h) h) h

/-! ### Machine/Pods -/

theorem sendPod_sound {p type pl} : StoresOk (sendPod s p type pl) := .ite (.frame h) h
theorem writeReg_sound {p addr v} : StoresOk (writeReg s p addr v) := sendPod_sound h
theorem clearPods_sound : StoresOk (clearPods s) := .foldl (fun _ _ h => sendPod_sound h) h
theorem abortPod_sound {p inhibit} : StoresOk (abortPod s p inhibit) := sendPod_sound h
theorem sendIdle_sound {p} : StoresOk (sendIdle s p) := sendPod_sound h
theorem sendEcho_sound {p t} : StoresOk (sendEcho s p t) := .frame (sendPod_sound h)
theorem takeDelay_sound {p m t0} : StoresOk (takeDelay s p m t0) := .ite (alarm_sound h) (setFld_sound (.frame h))
theorem fallBack_sound {p} : StoresOk (fallBack s p) := setFld_sound (.frame h)
theorem bringUp_sound {p quick} : StoresOk (bringUp s p quick) :=
  .ite (.ite (sendIdle_sound (.ite (sendEcho_sound (.frame (setFld_sound (setFld_sound h))))
          (.frame (setFld_sound (setFld_sound h))))) (fallBack_sound
        (sendIdle_sound (.ite (sendEcho_sound (.frame (setFld_sound (setFld_sound h))))
            (.frame (setFld_sound (setFld_sound h))))))) h

theorem askId_sound {p k} : StoresOk (askId s p k) := .frame (sendPod_sound h)
theorem configurePod_sound {p} : StoresOk (configurePod s p) :=
  sendEcho_sound (.frame (.ite h (.foldl (fun _ _ h => writeReg_sound h) (writeReg_sound h))))

theorem noteStored_sound {p} : StoresOk (noteStored s p) := setFldB_sound h
theorem afterIds_sound {p} : StoresOk (afterIds s p) :=
  .ite (.frame (writeReg_sound (noteStored_sound h))) (configurePod_sound (noteStored_sound h))

theorem statusWait_sound {p} : StoresOk (statusWait s p) := by
  unfold statusWait; split; exacts [askId_sound h, askId_sound h, configurePod_sound h, h]

theorem portLost_sound {p} : StoresOk (portLost s p) :=
  .ite (bringUp_sound (alarm_sound (setFld_sound (setFld_sound h)))) (setFld_sound (setFld_sound h))

theorem discardUpstream_sound {p} : StoresOk (discardUpstream s p) :=
  .ite (portLost_sound (.frame (incFld_sound h))) (.frame (incFld_sound h))

theorem execReadResp_sound {p tag addr v bad} : ResOk (execReadResp p tag addr v bad s) :=
  .ite (.next (discardUpstream_sound h)) (by
      dsimp only; split
      · exact .ite (.next (.ite (askId_sound (setFld_sound (.frame (.frame h))))
              (afterIds_sound (setFld_sound (.frame (.frame h)))))) (.next (.frame h))
      · exact .next (.frame h))

theorem execEchoResp_sound {p tag turn t bad} : ResOk (execEchoResp p tag turn t bad s) := by
  have ha : StoresOk (goodUpstream (advanceTo s t) p) := .frame (advanceTo_sound h)
  refine .ite (.next (discardUpstream_sound (advanceTo_sound h))) ?_
  dsimp only
  split
  · refine .ite ?_ (.next ha)
    split
    · exact .ite (.next (setFld_sound (.frame (takeDelay_sound (.frame ha)))))
        (.next (sendEcho_sound (.frame (takeDelay_sound (.frame ha)))))
    · exact .next (takeDelay_sound (.frame ha))
  · exact .next ha

theorem execEchoMeasure_sound {p t} : ResOk (execEchoMeasure p t s) :=
  .next (.ite (sendEcho_sound (advanceTo_sound h)) (advanceTo_sound h))

theorem execLineDataSend_sound {p r l n parityBad} : ResOk (execLineDataSend p r l n parityBad s) := by
  unfold execLineDataSend
  split
  · exact .next h
  · exact .ite (.ite (.next (alarm_sound (.frame (.foldl (fun _ _ h => sendPod_sound h) h))))
        (.next (.frame (.foldl (fun _ _ h => sendPod_sound h) h)))) (.next h)

theorem sendFire_sound {p r l cancel fill tf t} : StoresOk (sendFire s p r l cancel fill tf t) :=
  .frame (sendPod_sound (sendPod_sound h))

theorem issueTrigger_sound {p r l tf} : FstOk (issueTrigger s p r l tf) :=
  .ite (alarm_sound (incFld_sound (.frame h))) (.frame h)

theorem triggered_sound {x tf} : FstOk (triggered s x tf) := by
  unfold triggered; split; exacts [h, StoresOk.frame (issueTrigger_sound h)]

theorem execFireSend_sound {p r l t} : ResOk (execFireSend p r l t s) := by
  unfold execFireSend
  dsimp only; split
  · exact .next (plcTime_sound h)
  · exact .ite (by
        split
        · exact .next (plcTime_sound h)
        · exact .ite (.next (plcTime_sound h)) (.ite
              (.next (setMark_sound (.frame (sendFire_sound (triggered_sound (plcTime_sound h))))))
              (.ite (.next
                  (incFld_sound (setMark_sound (.frame (sendFire_sound (triggered_sound (plcTime_sound h)))))))
                (.next (recordCodes_sound (setMark_sound
                      (addFld_sound (.frame (sendFire_sound (triggered_sound (plcTime_sound h)))))))))))
      (.next (plcTime_sound h))

theorem execPodUnderrun_sound {p r l t} : ResOk (execPodUnderrun p r l t s) :=
  .ite (by
      dsimp only; split
      · exact .next (plcTime_sound h)
      · exact .ite (.next (plcTime_sound h)) (.ite (.next (setMark_sound
                (alarm_sound (incFld_sound (.frame
                      (sendFire_sound (triggered_sound (.ite (plcTime_sound h) (.frame (plcTime_sound h))))))))))
            (.next (recordCodes_sound (setMark_sound (addFld_sound
                    (alarm_sound (incFld_sound (.frame (sendFire_sound
                            (triggered_sound (.ite (plcTime_sound h) (.frame (plcTime_sound h))))))))))))))
    (.next (plcTime_sound h))

theorem execRscanData_sound {p row seg bytes bad} : ResOk (execRscanData p row seg bytes bad s) :=
  .ite (.next (discardUpstream_sound h)) (.ite (.next (dramWrite_sound (.frame h))) (.next (.frame h)))

theorem execScanTimeout_sound : ResOk (execScanTimeout s) :=
  .next (.foldl (fun _ _ h => .ite (alarm_sound (.frame h)) h) h)

theorem startScan_sound : StoresOk (startScan s) :=
  .foldl (fun _ _ h => .ite (.frame (sendPod_sound h)) h) (dramClear_sound h)

theorem purgeGo_sound {v} : StoresOk (purgeGo s v) :=
  .ite (setFld_sound h) (by dsimp only; split; exacts [sendPod_sound h, h])

/-! ### Machine/Camera -/

theorem handBack_sound {i} : StoresOk (handBack s i) := by
  unfold handBack
  split; exacts [.ite (.ite (.frame (.frame (.frame h))) (.frame (startHandover_sound (.frame (.frame h))))) h, h]

theorem sendHead_sound {n} : StoresOk (sendHead s n) := by
  unfold sendHead; split; exacts [h, .frame h]

theorem pushOps_sound {n ops} : StoresOk (pushOps s n ops) := .ite (sendHead_sound (.frame h)) (.frame h)
theorem popOp_sound {n} : StoresOk (popOp s n) := sendHead_sound (.frame h)
theorem expAcked_sound {n e} : StoresOk (expAcked s n e) := setFld_sound (.frame h)
theorem readBack_sound {n} : StoresOk (readBack s n) := pushOps_sound (.frame h)
theorem writeSet_sound {n e} : StoresOk (writeSet s n e) :=
  .ite (expAcked_sound (.frame (.ite (.frame h) h))) (pushOps_sound (.frame (.ite (.frame h) h)))

theorem openGap_sound {n} : StoresOk (openGap s n) :=
  .ite (.frame h) (.ite (readBack_sound (.frame h)) (by split; exacts [writeSet_sound (.frame h), .frame h]))

theorem shut_sound {n f how} : StoresOk (shut s n f how) := .frame (.ite (incFld_sound h) h)
theorem closeFrame_sound {n how} : StoresOk (closeFrame s n how) := by
  unfold closeFrame; split; exacts [h, openGap_sound (shut_sound (.frame h))]

theorem closeOldest_sound {n how} : StoresOk (closeOldest s n how) := by
  unfold closeOldest; split; exacts [shut_sound (.frame h), closeFrame_sound h]

theorem gapEnds_sound {n} : StoresOk (gapEnds s n) := .ite (readBack_sound (.frame h)) (.frame h)
theorem startFrame_sound {n job jobId recStart byCompare}
    : StoresOk (startFrame s n job jobId recStart byCompare) :=
  .ite (alarm_sound (incFld_sound (.frame (setFld_sound (gapEnds_sound (.frame h))))))
    (.frame (setFld_sound (gapEnds_sound (.frame h))))

theorem issueTrig_sound {n job jobId recStart l byCompare t}
    : StoresOk (issueTrig s n job jobId recStart l byCompare t) :=
  .frame (.frame (.ite (startFrame_sound h) h))

theorem closeShort_sound {n} : StoresOk (closeShort s n) := by
  unfold closeShort; split; exacts [.ite (closeFrame_sound h) h, h]

theorem camOnJob_sound {n no} : StoresOk (camOnJob s n no) := .ite h (.frame (closeShort_sound h))
theorem execTriggerSlot_sound {n l t} : ResOk (execTriggerSlot n l t s) :=
  .ite (by
      split
      · exact .next (plcTime_sound h)
      · exact .ite (.next (camOnJob_sound (plcTime_sound h)))
          (.ite (.next (.frame (camOnJob_sound (camOnJob_sound (plcTime_sound h)))))
            (.ite (.next (.frame (.frame (camOnJob_sound (plcTime_sound h)))))
              (.ite (.next (incFld_sound (.frame (camOnJob_sound (plcTime_sound h)))))
                (.next (issueTrig_sound (.frame (camOnJob_sound (plcTime_sound h))))))))) (.next (plcTime_sound h))

theorem compareTriggers_sound {u t} : StoresOk (compareTriggers s u t) :=
  .foldl (fun _ _ h => .ite (issueTrig_sound h) h) h

theorem ctxCommit_sound {n} : StoresOk (ctxCommit s n) :=
  .ite (setFld_sound h) (journal_sound (setFld_sound (.frame h)))

theorem takeCtx_sound {n} : SndOk (takeCtx s n) := setFld_sound (.frame h)
theorem expGo_sound {n} : StoresOk (expGo s n) := journal_sound (setFld_sound (.frame h))
theorem backDone_sound {n} : StoresOk (backDone s n) := by
  unfold backDone; dsimp only; split; exacts [expAcked_sound h, alarm_sound (setFld_sound (.frame h))]

theorem camBringUp_sound {n} : StoresOk (camBringUp s n) := .ite (pushOps_sound (.frame (setFld_sound h))) h
theorem camUp_sound {n} : StoresOk (camUp s n) := .frame (setFld_sound (expAcked_sound h))
theorem bringStep_sound {n} : StoresOk (bringStep s n) :=
  .ite (sendHead_sound (.frame h)) (sendHead_sound (camUp_sound (.frame h)))

theorem bringFails_sound {n} : StoresOk (bringFails s n) := handBack_sound (setFld_sound (.frame h))
theorem bringRefused_sound {n entry} : StoresOk (bringRefused s n entry) := bringFails_sound (alarm_sound h)
theorem camLinkDown_sound {n} : StoresOk (camLinkDown s n) :=
  closeFrame_sound (.frame (.foldl (fun _ _ h => shut_sound h) (setFld_sound (.frame h))))

theorem camsAtRole_sound : StoresOk (camsAtRole s) := .frame (.foldl (fun _ _ h => .frame (setFld_sound h)) h)
theorem camAck_sound {n ok v} : StoresOk (camAck s n ok v) := by
  unfold camAck
  split
  · exact h
  · exact .ite (bringStep_sound (.frame h)) (bringFails_sound h)
  · exact .ite (bringStep_sound (.frame h)) (bringFails_sound h)
  · exact .ite (bringStep_sound (.frame h)) (bringRefused_sound (.frame h))
  · exact .ite (bringStep_sound h) (bringRefused_sound h)
  · exact .ite (bringStep_sound h) (bringRefused_sound (.frame h))
  · exact .ite (bringStep_sound h) (bringRefused_sound (.frame h))
  · exact .ite (popOp_sound (.frame h)) (backDone_sound (popOp_sound (.frame h)))
  · exact backDone_sound (popOp_sound (.frame h))
  · exact popOp_sound h
  · exact .ite (.ite (by
          dsimp only; split; exacts [.ite (popOp_sound h) (expAcked_sound (popOp_sound h)), popOp_sound h])
        (.ite (readBack_sound (popOp_sound (.frame h))) (popOp_sound (.frame h)))) (popOp_sound h)

theorem joinLine_sound {n f ln} : FstOk (joinLine s n f ln) := by
  unfold joinLine
  extract_lets ok drop t keep
  have ht : StoresOk t := .ite (incFld_sound h) h
  have hc : SndOk (if f.ctx.isNone && !spooled t n && keep then (some (takeCtx t n).1, (takeCtx t n).2)
      else (f.ctx, t)) :=
    .ite (takeCtx_sound ht) ht
  exact StoresOk.ite (dramPut_sound hc) hc

theorem takeLine_sound {n ln} : StoresOk (takeLine s n ln) := by
  unfold takeLine
  split
  · exact .ite (closeOldest_sound (.frame (joinLine_sound h))) (.frame (joinLine_sound h))
  · exact .ite h (.ite (closeFrame_sound (.frame (joinLine_sound h))) (.frame (joinLine_sound h)))
  · exact h

theorem execFrameTimeout_sound {n} : ResOk (execFrameTimeout n s) := by
  unfold execFrameTimeout
  split; exacts [.next (closeOldest_sound h), .next (lateWin_sound h), .ite (.next h) (.next (closeFrame_sound h))]

theorem execSpoolFrameStart_sound : ResOk (execSpoolFrameStart s) :=
  .ite (by
      split
      · exact .next h
      · exact .ite (.next h) (.ite (.next (incFld_sound (.frame (dramReadEffect_sound h))))
            (.next (.frame (takeCtx_sound (.frame (dramReadEffect_sound h))))))) (.next h)

theorem camsAtJobStart_sound {maxRate} : StoresOk (camsAtJobStart s maxRate) :=
  .foldl (fun _ _ h => .ite
      (alarm_sound (setFld_sound (.ite (.frame (closeShort_sound (setFldB_sound h))) (setFldB_sound h))))
      (setFld_sound (.ite (.frame (closeShort_sound (setFldB_sound h))) (setFldB_sound h)))) (.frame h)

/-! ### Machine/Motion -/

theorem axFaultSide_sound {x} : StoresOk (axFaultSide s x) :=
  .ite (.frame (.frame (.frame (handBack_sound (setEventAll_sound (.frame h))))))
    (handBack_sound (setEventAll_sound (.frame h)))

theorem stallAlarm_sound {x kind} : StoresOk (stallAlarm s x kind) := alarm_sound h
theorem stallFault_sound {x} : StoresOk (stallFault s x) :=
  axFaultSide_sound (.frame (.frame (stallAlarm_sound (incFld_sound (setFldB_sound h)))))

theorem counterFault_sound {x} : StoresOk (counterFault s x) :=
  axFaultSide_sound (.frame (stallAlarm_sound (setFldB_sound h)))

theorem encoderAxFault_sound {x} : StoresOk (encoderAxFault s x) :=
  axFaultSide_sound (.frame (stallAlarm_sound (setFldB_sound h)))

theorem softFault_sound {x hi pos} : StoresOk (softFault s x hi pos) :=
  axFaultSide_sound (.frame (alarm_sound (setFldB_sound h)))

theorem noteIgnored_sound {x} : StoresOk (noteIgnored s x) := setFldB_sound h
theorem segGoWrite_sound {x} : StoresOk (segGoWrite s x) :=
  .ite (noteIgnored_sound h) (.ite (.frame h) (setFldB_sound h))

theorem setPosWrite_sound {x v} : StoresOk (setPosWrite s x v) := .ite (noteIgnored_sound h) (.frame h)
theorem startRetract_sound : StoresOk (startRetract s) :=
  .ite (incFld_sound h) (.frame (alarm_sound (setFldB_sound (incFld_sound h))))

theorem motCmd_sound {v} : StoresOk (motCmd s v) := .ite (startRetract_sound (.frame h)) (.frame h)
theorem cmpFire_sound {x late} : StoresOk (cmpFire s x late) :=
  setEventAll_sound (.ite (setFldB_sound (setFldB_sound (setFldB_sound (wrapFld_sound h))))
      (setFldB_sound (setFldB_sound (wrapFld_sound h))))

theorem axCmpArm_sound {x} : StoresOk (axCmpArm s x) :=
  .ite (.ite (setFldB_sound (setFldB_sound h)) (cmpFire_sound h)) (setFldB_sound (setFldB_sound h))

theorem axCmpDisarm_sound {x} : StoresOk (axCmpDisarm s x) := setFldB_sound (setFldB_sound h)
theorem axCmpCtl_sound {x v} : StoresOk (axCmpCtl s x v) := .ite (axCmpArm_sound h) (.ite (axCmpDisarm_sound h) h)
theorem axCounted_sound {x fwd} : StoresOk (axCounted s x fwd) :=
  .ite (counterFault_sound (.ite (cmpFire_sound (.frame h)) (.frame h)))
    (.ite (cmpFire_sound (.frame h)) (.frame h))

theorem axIllegal_sound {x} : StoresOk (axIllegal s x) :=
  .ite (encoderAxFault_sound (.frame (incFld_sound (.frame h)))) (incFld_sound (.frame h))

theorem axLevels_sound {x a b} : StoresOk (axLevels s x a b) :=
  .ite (.frame h) (.ite (axIllegal_sound (.frame h)) (axCounted_sound (.frame h)))

theorem execProbeEdge_sound {n falling} : ResOk (execProbeEdge n falling s) :=
  .next (.ite (setEventAll_sound (incFld_sound (setFldB_sound (setFld_sound (setFldInt_sound h))))) h)

theorem applyMotWrite_sound {w} : StoresOk (applyMotWrite s w) := by
  unfold applyMotWrite; split; exacts [.frame (.ite h (alarm_sound (setFldB_sound h))), .frame h]

theorem applyStop_sound {stop x} : StoresOk (applyStop stop s x) := .ite (.frame h) h
theorem applyRetract_sound {x} : StoresOk (applyRetract s x) := .ite (.frame h) h
theorem stallCheck_sound {x} : StoresOk (stallCheck s x) :=
  .ite (.ite (stallFault_sound (.frame h)) (.frame h)) (.frame h)

theorem generate_sound {x dt} : StoresOk (generate s x dt) :=
  .ite (.frame h) (.ite (.ite (setEventAll_sound (.frame h)) (.frame h))
      (.ite (.ite (setEventAll_sound (.frame h)) (.frame h)) h))

theorem rejoin_sound : StoresOk (rejoin s) := .ite (.frame h) h
theorem followLift_sound : StoresOk (followLift s) := .ite (.frame h) (rejoin_sound h)
theorem cmdCounterCheck_sound {old x} : StoresOk (cmdCounterCheck old s x) := .ite (counterFault_sound h) h
theorem softCheck_sound {x} : StoresOk (softCheck s x) :=
  .ite (softFault_sound h) (.ite (softFault_sound h) (.ite (softFault_sound h) (.ite (softFault_sound h) h)))

theorem dutyAx_sound {x} : StoresOk (dutyAx s x) := .ite (.frame h) (.frame h)
theorem driveAx_sound {x dt} : StoresOk (driveAx s x dt) := dutyAx_sound (.frame h)
theorem motionCycle_sound : StoresOk (motionCycle s) :=
  .ite (.foldl (fun _ _ h => driveAx_sound h) (.foldl (fun _ _ h => softCheck_sound h)
        (.foldl (fun _ _ h => cmdCounterCheck_sound h) (followLift_sound
            (.foldl (fun _ _ h => generate_sound h) (.foldl (fun _ _ h => stallCheck_sound h)
                (.ite (.foldl (fun _ _ h => applyRetract_sound h)
                    (.foldl (fun _ _ h => applyStop_sound h)
                      (.foldl (fun _ _ h => applyMotWrite_sound h) (.frame h))))
                  (.foldl (fun _ _ h => applyStop_sound h)
                    (.foldl (fun _ _ h => applyMotWrite_sound h) (.frame h)))))))))) h

theorem mirrorAx_sound {x m} : StoresOk (mirrorAx s x m) :=
  .ite (.frame (.frame (setFldB_sound (setFldB_sound (setStnWord_sound h)))))
    (.frame (setFldB_sound (setFldB_sound (setStnWord_sound h))))

theorem mirrorMotion_sound {axes retract lock} : StoresOk (mirrorMotion s axes retract lock) :=
  .foldl (fun _ _ h => by split; exacts [mirrorAx_sound h, h]) (setFldB_sound (setFldB_sound (.frame h)))

theorem resumeAx_sound {x m} : StoresOk (resumeAx s x m) := dutyAx_sound (.frame (.ite h (.frame h)))
theorem motionAtRole_sound : StoresOk (motionAtRole s) :=
  .foldl (fun _ _ h => by split; exacts [resumeAx_sound h, .frame h]) (.frame h)

/-! ### Machine/Sight -/

theorem writeParts_sound {f g parts} : FstOk (writeParts s f g parts) :=
  foldl_inv FstOk _ (fun _ _ h => .frame (dramPut_sound h)) _ h

theorem readRecords_sound {f} : StoresOk (readRecords s f) :=
  .ite h (.foldl (fun _ _ h => .ite (dramReadEffect_sound h) h) h)

theorem processFrame_sound {n f} : StoresOk (processFrame s n f) := by
  simp only [processFrame]
  exact .frame (setEventAll_sound (.frame (setFldB_sound
          (setFld_sound (addFld_sound (addFld_sound (dramPut_sound (writeParts_sound (readRecords_sound h)))))))))

theorem execFrameProcessed_sound {n} : ResOk (execFrameProcessed n s) := by
  refine .ite (.next h) (.ite ?_ ?_)
  · split
    · exact .next (.ite (processFrame_sound (.frame h)) h)
    · exact .next h
  · split
    · refine .next (processFrame_sound ?_)
      exact .frame h
    · exact .next h

/-! ### Machine/Health -/

theorem putScore_sound {e x d} : StoresOk (putScore s e x d) := dramPut_sound h
theorem toBatch_sound {e k dec camera d frame} : StoresOk (toBatch s e k dec camera d frame) := .ite (.frame h) h
theorem noteHeld_sound {e} : StoresOk (noteHeld s e) :=
  .ite (incFld_sound h) (alarm_sound (.frame (incFld_sound h)))

theorem takeSample_sound {camera frame x} : StoresOk (takeSample camera frame s x) :=
  .ite h (by
      dsimp only; split
      · exact putScore_sound (incFld_sound h)
      · exact toBatch_sound
          (.ite (noteHeld_sound (putScore_sound (incFld_sound h))) (putScore_sound (incFld_sound h))))

theorem findBad_sound {a n} : StoresOk (findBad s a n) := .foldl (fun _ _ h => noteUncorrectable_sound h) h
theorem scorePart_sound {f part} : StoresOk (scorePart f s part) := by
  unfold scorePart
  dsimp only; split
  · exact incFld_sound h
  · exact .ite (incFld_sound (findBad_sound (findBad_sound (findBad_sound h))))
      (.ite (incFld_sound h)
        (.ite (alarm_sound (incFld_sound (.frame h))) (.foldl (fun _ _ h => takeSample_sound h) (.frame h))))

theorem execHealthFrameScore_sound {n} : ResOk (execHealthFrameScore n s) := by
  unfold execHealthFrameScore
  split
  · exact .next h
  · exact .ite (.next (addFld_sound (.frame h))) (.next (.foldl (fun _ _ h => scorePart_sound h) (.frame h)))

theorem execHealthBatchIssue_sound : ResOk (execHealthBatchIssue s) :=
  .ite (.next h) (.next (.foldl (fun _ _ h => armLq_sound h) (.frame h)))

omit h in
theorem scanEntry_sound {acc} (hacc : FstOk acc) {rtol good e} : FstOk (scanEntry rtol good acc e) :=
  .ite hacc (.ite (.ite hacc (journal_sound (changeLog_sound (clearScore_sound (.frame hacc)))))
      (.ite (journal_sound (changeLog_sound (clearScore_sound (.frame hacc)))) hacc))

theorem scanApply_sound {rtol good} : FstOk (scanApply s rtol good) :=
  StoresOk.ite (setEventAll_sound (.frame (.frame (foldl_inv FstOk _ (fun _ _ h => scanEntry_sound h) _ h))))
    (noteOrphans_sound
      (setEventAll_sound (.frame (.frame (foldl_inv FstOk _ (fun _ _ h => scanEntry_sound h) _ h)))))

theorem hltReset_sound {first count st zero} : FstOk (hltReset s first count st zero) :=
  StoresOk.foldl (fun _ _ h => armLq_sound h) h

theorem healthAtJobStart_sound : StoresOk (healthAtJobStart s) :=
  .ite (alarm_sound (setFldB_sound (.frame (.foldl (fun _ _ h => clearScore_sound h) h))))
    (setFldB_sound (.frame (.foldl (fun _ _ h => clearScore_sound h) h)))

theorem healthAtRole_sound : StoresOk (healthAtRole s) := setFld_sound (.frame (.ite (dramClear_sound h) h))

/-! ### Machine/Jobs -/

theorem capacityAlarms_sound {d} : StoresOk (capacityAlarms s d) :=
  .foldl (fun _ _ h => by split; exacts [alarm_sound h, h]) h

theorem jobCounters_sound : StoresOk (jobCounters s) :=
  .foldl (fun _ _ h => setFld_sound h) (setFld_sound (setFld_sound
        (setFld_sound (setFld_sound (setFld_sound (setFld_sound
                (setFld_sound (setFld_sound (setFld_sound (setFld_sound (setFld_sound (setFld_sound h))))))))))))

theorem runJob_sound {j} : StoresOk (runJob s j) :=
  placeContiguous_sound (setEventAll_sound (clearPods_sound (healthAtJobStart_sound
          (camsAtJobStart_sound (capacityAlarms_sound (noteOrphans_sound
                (.frame (setFld_sound (setFld_sound (setPodEntries_sound
                        (.frame (jobCounters_sound
                            (.frame (.frame (.frame (.frame (closeAllSlots_sound h)))))))))))))))))

theorem startJob_sound {j} : StoresOk (startJob s j) :=
  .ite (setEventAll_sound (journal_sound (alarm_sound (setFld_sound (.frame h))))) (runJob_sound h)

theorem declareJob_sound {d} : StoresOk (declareJob s d) :=
  .ite (.frame (journal_sound h)) (startJob_sound (journal_sound h))

theorem endJob_sound {r} : StoresOk (endJob s r) := by
  unfold endJob
  split
  · exact h
  · exact .ite (startHandover_sound (.frame (setEventAll_sound
            (journal_sound (clearPods_sound (flushLq_sound
                  (setFldB_sound (.frame (.frame (.frame (.frame (.frame (retireVersion_sound h)))))))))))))
      (setEventAll_sound (journal_sound (clearPods_sound (flushLq_sound
              (setFldB_sound (.frame (.frame (.frame (.frame (.frame (retireVersion_sound h)))))))))))

theorem endAndNext_sound {r} : StoresOk (endAndNext s r) := by
  unfold endAndNext
  dsimp only; split
  · exact .ite (endJob_sound (startJob_sound (endJob_sound h))) (startJob_sound (endJob_sound h))
  · exact endJob_sound h

theorem execExtrapolationEnd_sound {t} : ResOk (execExtrapolationEnd t s) :=
  .next (.ite (.ite (endAndNext_sound (.frame (.frame (plcTime_sound h)))) (.frame (.frame (plcTime_sound h))))
      (plcTime_sound h))

/-! ### Machine/Packer -/

theorem pkrStat_sound {state result} : StoresOk (pkrStat s state result) := setFld_sound (setFld_sound h)
theorem pkrEnd_sound {result} : StoresOk (pkrEnd s result) := .frame (pkrStat_sound h)
theorem pkrRun_sound {j} : StoresOk (pkrRun s j) := .frame (pkrStat_sound h)
theorem pkrGo_sound {v} : StoresOk (pkrGo s v) := by
  unfold pkrGo
  extract_lets s1 _ s2 s3 _ _ s4
  have h1 : StoresOk s1 := setStnWord_sound h
  have h3 : StoresOk s3 := setFld_sound (setFld_sound (.ite h1 (.frame h1)))
  have h4 : StoresOk s4 := dramReadEffect_sound h3
  refine .ite (setFld_sound h) (.ite (pkrStat_sound h3) (.ite (.ite (pkrEnd_sound h4) ?_) ?_))
  · split
    · exact pkrEnd_sound h4
    · exact .ite (pkrEnd_sound h4) (pkrRun_sound h4)
  · split <;> exact pkrRun_sound h3

theorem pkrJobWrite_sound {v} : StoresOk (pkrJobWrite s v) := .ite (pkrGo_sound h) (setStnWord_sound h)
theorem pkrAdvance_sound {j used out hist} : FstOk (pkrAdvance s j used out hist) :=
  setFld_sound (setFld_sound (dramWrite_sound h))

theorem verifyFault_sound : StoresOk (verifyFault s) :=
  faultHandover_sound (alarm_sound (incFld_sound (incFld_sound h)))

omit h in
/-- However a record goes, the stores stay sound: nothing changed, its source was read, or it was written besides. -/
theorem pkrRecords_sound {bad fuel n} {s : State} (h : StoresOk s) {j} : FstOk (pkrRecords bad fuel n s j) := by
  induction fuel generalizing n s j with
  | zero => exact h
  | succ fuel ih =>
    have hr : ∀ {s a n}, StoresOk s → StoresOk (dramReadEffect s a n) := fun h => dramReadEffect_sound h
    have hp : ∀ {s j used out hist}, StoresOk s → StoresOk (pkrAdvance s j used out hist).1 := fun h =>
      pkrAdvance_sound h
    have hv : ∀ {c : Prop} {_ : Decidable c}, StoresOk (if c then incFld s F.PKR_VERIFY_RETRY else s) :=
      .ite (incFld_sound h) h
    unfold pkrRecords
    dsimp only
    refine .ite ?_ ?_
    · split
      · exact .ite (hr h) h
      · exact .ite (hr h) h
      · refine .ite (hr h) (.ite h ?_)
        refine .ite ?_ (ih (hp (hr h)))
        dsimp only [FstOk]; exact hp (hr h)
    · refine .ite h (.ite (hr h) ?_)
      refine .ite ?_ (.ite hv ?_)
      · dsimp only [FstOk]; exact verifyFault_sound (hr h)
      · refine .ite ?_ (ih (hp (hr hv)))
        dsimp only [FstOk]; exact hp (hr hv)

theorem execPkrJobStop_sound {bad} : ResOk (execPkrJobStop bad s) := by
  unfold execPkrJobStop
  split
  · exact .next h
  · rename_i j _
    refine .ite (.next h) ?_
    have hp := pkrRecords_sound (bad := bad) (fuel := j.srcLen + 1) (n := 0) h (j := j)
    generalize pkrRecords bad (j.srcLen + 1) 0 s j = x at hp
    obtain ⟨t, j', resume, res⟩ := x
    have ht : StoresOk (if j'.save then dramWrite t j'.stateAt (stateRecord j') else t) := .ite (dramWrite_sound hp) hp
    exact .ite (.next (.frame (pkrStat_sound ht))) (.next (pkrEnd_sound ht))

theorem pkrRoleChange_sound : StoresOk (pkrRoleChange s) := pkrEnd_sound h

/-! ### Machine/Feed -/

theorem putJob_sound {next j} : StoresOk (putJob s next j) := .ite (.frame h) (.frame h)
theorem discardCrc_sound : StoresOk (discardCrc s) := incFld_sound h
theorem discardOther_sound : StoresOk (discardOther s) := incFld_sound h
theorem writePair_sound {next j c top bot mismatches} : StoresOk (writePair s next j c top bot mismatches) :=
  .ite (verifyFault_sound (putJob_sound h)) (.ite (alarm_sound
        (addFld_sound (putJob_sound (.ite (.ite (incFld_sound h) h) (addFld_sound (.ite (incFld_sound h) h))))))
      (putJob_sound (dramWrite_sound (.ite (.ite (incFld_sound h) h) (addFld_sound (.ite (incFld_sound h) h))))))

theorem takeFeedLine_sound {next j p c x mismatches} : StoresOk (takeFeedLine s next j p c x mismatches) :=
  .ite (writePair_sound h) (by
      dsimp only; split; exacts [.ite (writePair_sound h) (writePair_sound h), putJob_sound h])

theorem feedLineFrame_sound {next j f mismatches} : StoresOk (feedLineFrame s next j f mismatches) := by
  unfold feedLineFrame
  dsimp only; split; exacts [discardOther_sound h, .ite (discardOther_sound h) (takeFeedLine_sound h)]

theorem writeRecord_sound {j number first count} : StoresOk (writeRecord s j number first count) :=
  .frame (dramWrite_sound h)

theorem feedPageFrame_sound {next j f slot} : StoresOk (feedPageFrame s next j f slot) :=
  .ite (discardOther_sound h) (.ite (putJob_sound (.ite (writeRecord_sound h) h))
      (placeContiguous_sound (putJob_sound (.ite (writeRecord_sound h) h))))

theorem feedLibFrame_sound {j f} : StoresOk (feedLibFrame s j f) :=
  .ite (discardOther_sound h) (.ite (alarm_sound (discardOther_sound h))
      (.ite (discardOther_sound (.ite (.frame h) h)) (.ite (.frame (dramWrite_sound h)) (dramWrite_sound h))))

theorem feedEndFrame_sound {next j f} : StoresOk (feedEndFrame s next j f) :=
  .ite (discardOther_sound h) (.ite (.ite (endAndNext_sound (putJob_sound h)) (putJob_sound h)) (by
        dsimp only; split; exacts [.ite (endAndNext_sound (putJob_sound h)) (putJob_sound h), putJob_sound h]))

theorem takeFeed_sound {f mismatches} : StoresOk (takeFeed f mismatches s) :=
  .ite (discardCrc_sound h) (.ite (discardOther_sound h) (.ite (discardCrc_sound h)
        (.ite (discardOther_sound h) (by
            split
            · exact discardOther_sound h
            · exact .ite (discardOther_sound h) (.ite h (.ite (feedLineFrame_sound h)
                    (.ite (feedPageFrame_sound h)
                      (.ite (feedPageFrame_sound h) (.ite (feedLibFrame_sound h) (feedEndFrame_sound h))))))))))

theorem actFeedLine_sound {f mismatches} : ResOk (actFeedLine f mismatches s) := .next (takeFeed_sound h)
theorem actFeedPage_sound {f} : ResOk (actFeedPage f s) := .next (takeFeed_sound h)
theorem actFeedReplay_sound {f} : ResOk (actFeedReplay f s) := .next (takeFeed_sound h)
theorem actFeedLib_sound {f} : ResOk (actFeedLib f s) := .next (takeFeed_sound h)
theorem actFeedJobEnd_sound {f} : ResOk (actFeedJobEnd f s) := .next (takeFeed_sound h)
theorem lateLine_sound {j p c l} : StoresOk (lateLine s j p c l) := by
  unfold lateLine
  dsimp only; split
  · exact .ite (endAndNext_sound (putJob_sound (alarm_sound (.ite h (incFld_sound h)))))
      (putJob_sound (alarm_sound (.ite h (incFld_sound h))))
  · exact putJob_sound (alarm_sound (.ite h (incFld_sound h)))

theorem actFeedDeadline_sound {c tie} : ResOk (actFeedDeadline c tie s) := by
  unfold actFeedDeadline
  split
  · exact .next h
  · exact .ite (.next h) (by
        split
        · exact .next h
        · split
          · exact .next h
          · exact .ite (.next h) (.ite (.next (putJob_sound (.ite (lateWin_sound h) h))) (.next (lateLine_sound h))))

/-! ### Machine/Fire -/

theorem beginLine_sound {l} : StoresOk (beginLine s l) :=
  .frame (openRecord_sound (skipDecision_sound (activateVersion_sound h)))

theorem raiseHorizon_sound {l} : StoresOk (raiseHorizon s l) := .ite (setFld_sound h) h
theorem parityFault_sound : StoresOk (parityFault s) := faultHandover_sound (alarm_sound h)
theorem bufferLine_sound {p r l codes} : StoresOk (bufferLine s p r l codes) := .ite h (.frame h)
theorem retireAfter_sound {p r l} : StoresOk (retireAfter s p r l) := by
  unfold retireAfter; split; exacts [.ite (retireVersion_sound h) h, h]

theorem followLine_sound {j p r l} : StoresOk (followLine s j p r l) :=
  .frame (.foldl (fun _ _ h => readBlock_sound h) h)

theorem execRowLineDecision_sound {p r l parity thrParity} : ResOk (execRowLineDecision p r l parity thrParity s) := by
  unfold execRowLineDecision
  refine .ite ?_ ?_
  · split
    · exact .next h
    · refine .ite (.next h) ?_
      extract_lets t
      have ht : StoresOk t := .ite (beginLine_sound h) (.ite h (openRecord_sound h))
      split
      · exact .next ht
      · refine .ite (.next h) ?_
        extract_lets _ _ u
        have hu : StoresOk u := .foldl (fun _ _ h => readBlock_sound h) ht
        refine .next (retireAfter_sound (raiseHorizon_sound (bufferLine_sound ?_)))
        exact .frame (.ite hu (parityFault_sound hu))
  · split
    · exact .next (.ite (followLine_sound h) h)
    · exact .next h

theorem sendCancel_sound {p r l t x} : StoresOk (sendCancel s p r l t x) := by
  unfold sendCancel; split; exacts [.ite h (sendFire_sound h), h]

theorem settle_sound {p r l t x y} : StoresOk (settle s p r l t x y) := by
  unfold settle
  split
  · exact h
  · exact setMark_sound h
  · exact setMark_sound h
  · exact sendCancel_sound (setMark_sound h)
  · exact sendCancel_sound (incFld_sound (setMark_sound h))

theorem endIfDone_sound {j} : StoresOk (endIfDone s j) :=
  .ite (by split; exacts [.ite (endAndNext_sound h) h, .ite (endAndNext_sound h) h, h]) h

theorem actRowTrigger_sound {p r t} : ResOk (actRowTrigger p r t s) := by
  have ht := plcTime_sound h (t := t)
  unfold actRowTrigger
  extract_lets u l
  split
  · exact .next ht
  · extract_lets v x issued
    have hv : StoresOk v := .ite (openRecord_sound ht) ht
    have hw : FstOk (if issued || !isActive v then (v, false) else issueTrigger v p r l t) :=
      .ite hv (issueTrigger_sound hv)
    exact .ite (.next (endIfDone_sound (.frame (settle_sound hw)))) (.next ht)

/-! ### Machine/Power -/

theorem setRail_sound {vfloor vset} : StoresOk (setRail s vfloor vset) := setFldInt_sound (setFldInt_sound h)
theorem evalSlack_sound {meas replica} : StoresOk (evalSlack s meas replica) :=
  .ite (setRail_sound (.frame (setFldInt_sound h))) (.ite (setRail_sound (.frame (setFldInt_sound h)))
      (.ite (setRail_sound (.frame (setFldInt_sound h)))
        (.ite (setRail_sound (.frame (setFldInt_sound h))) (setRail_sound (.frame (setFldInt_sound h))))))

theorem journalPower_sound : StoresOk (journalPower s) := journal_sound h
theorem hvRaise_sound : StoresOk (hvRaise s) := by
  unfold hvRaise; split; exacts [setFld_sound (.frame h), .frame h]

theorem hvWrite_sound {v} : StoresOk (hvWrite s v) :=
  .ite (.ite (hvRaise_sound (.frame (setFld_sound (journalPower_sound (setFld_sound h)))))
      (.frame (setFld_sound (journalPower_sound (setFld_sound h))))) (journalPower_sound (setFld_sound h))

theorem abortMarks_sound {p} : StoresOk (abortMarks s p) :=
  .foldl (fun _ _ h => setMark_sound h) (.foldl (fun _ _ h => setMark_sound h) h)

theorem hvAbort_sound {p inhibit} : StoresOk (hvAbort s p inhibit) :=
  abortMarks_sound (.frame (setFld_sound (abortPod_sound h)))

theorem hvFault_sound {p detail} : StoresOk (hvFault s p detail) :=
  alarm_sound (journalPower_sound (setFld_sound (hvAbort_sound h)))

theorem podShutdown_sound {p} : StoresOk (podShutdown s p) :=
  alarm_sound (journalPower_sound (setFld_sound (hvAbort_sound h)))

theorem podLevels_sound {p} : StoresOk (podLevels s p) :=
  .ite (podShutdown_sound (.ite (alarm_sound (setFld_sound (.frame h))) (setFld_sound (.frame h))))
    (.ite (alarm_sound (setFld_sound (.frame h))) (setFld_sound (.frame h)))

theorem stepPod_sound {p} : StoresOk (stepPod s p) := .ite (podLevels_sound (.ite (.frame (.frame h)) (.frame h))) h
theorem podReading_sound {p temp} : StoresOk (podReading s p temp) := .ite (.frame h) h
theorem podZonesAtRole_sound : StoresOk (podZonesAtRole s) := setFld_sound (setFld_sound (.frame h))
theorem pressOutputsLow_sound : StoresOk (pressOutputsLow s) := .frame (setFld_sound h)
theorem coreOff_sound : StoresOk (coreOff s) :=
  h.with_stewards (fun k => by simpa [stw] using stw_sound h (k := k)) |>.frame

theorem dieShutdown_sound : StoresOk (dieShutdown s) :=
  .frame (coreOff_sound (.frame (pressOutputsLow_sound (drainMail_sound (alarm_sound (.frame h))))))

theorem pauseCameras_sound : StoresOk (pauseCameras s) := .foldl (fun _ _ h => setFld_sound h) h
theorem dieLevels_sound : StoresOk (dieLevels s) := by
  unfold dieLevels; extract_lets _ _ _ _ s1 s2 s3 s4
  have h1 : StoresOk s1 := setFldB_sound h
  have h2 : StoresOk s2 := .ite (alarm_sound h1) h1
  have h3 : StoresOk s3 := setFldB_sound h2
  have h4 : StoresOk s4 := .ite (pauseCameras_sound (alarm_sound h3)) h3
  exact .ite (dieShutdown_sound h4) h4

theorem actThermalModelStep_sound {vcore icore} : ResOk (actThermalModelStep vcore icore s) :=
  .ite (.next (.ite (.ite (dieLevels_sound (.ite (.frame (.frame (.frame (setFld_sound (setFld_sound h)))))
              (.frame (.frame (setFld_sound (setFld_sound h)))))) (.frame (setFld_sound (setFld_sound h))))
        (.foldl (fun _ _ h => stepPod_sound h) (.ite (dieLevels_sound
              (.ite (.frame (.frame (.frame (setFld_sound (setFld_sound h)))))
                (.frame (.frame (setFld_sound (setFld_sound h)))))) (.frame (setFld_sound (setFld_sound h)))))))
    (.next h)

theorem writeHk_sound {codes} : StoresOk (writeHk s codes) := .foldl (fun _ _ h => setFld_sound h) h
theorem hkPod_sound {codes p} : StoresOk (hkPod codes s p) :=
  .ite (.ite (hvFault_sound (.frame (.frame (.frame (setFld_sound (setFld_sound h))))))
      (.frame (.frame (setFld_sound (setFld_sound h))))) h

theorem actHousekeepingRoundEnd_sound {codes dieT} : ResOk (actHousekeepingRoundEnd codes dieT s) :=
  .ite (.next (.foldl (fun _ _ h => hkPod_sound h) (.frame (setFld_sound (writeHk_sound (.frame h)))))) (.next h)

theorem throttleAtBoundary_sound : StoresOk (throttleAtBoundary s) := by
  simp only [throttleAtBoundary]
  exact .foldl (fun _ _ h => .ite h (.ite (.frame (setFld_sound h)) (setFld_sound h))) h

/-! ### Machine/Compare -/

theorem auxPulse_sound {f t} : StoresOk (auxPulse s f t) := .ite (.frame h) h
theorem startHk_sound : StoresOk (startHk s) := .ite (incFld_sound h) (.frame h)
theorem startMotion_sound : StoresOk (startMotion s) := .ite (incFld_sound h) (motionCycle_sound h)
theorem tmcAct_sound {u t} : StoresOk (tmcAct s u t) :=
  compareTriggers_sound (.ite (startMotion_sound (.ite
          (startHk_sound (auxPulse_sound (.frame (setEventClaimants_sound (wrapFld_sound (setFld_sound h))))))
          (auxPulse_sound (.frame (setEventClaimants_sound (wrapFld_sound (setFld_sound h)))))))
      (.ite (startHk_sound (auxPulse_sound (.frame (setEventClaimants_sound (wrapFld_sound (setFld_sound h))))))
        (auxPulse_sound (.frame (setEventClaimants_sound (wrapFld_sound (setFld_sound h)))))))

theorem tmcCatchUp_sound {u t} : StoresOk (tmcCatchUp s u t) :=
  .ite h (addFld_sound (setFld_sound (.ite h (setFldB_sound (tmcAct_sound h)))))

theorem tmcFire_sound {u t} : StoresOk (tmcFire s u t) :=
  .ite (setFldB_sound (.frame (tmcAct_sound h))) (tmcCatchUp_sound (setFld_sound (.frame (tmcAct_sound h))))

theorem execCompareUnitFire_sound {u t} : ResOk (execCompareUnitFire u t s) :=
  .next (.ite (advanceTo_sound h)
      (.ite (.frame (advanceTo_sound h)) (.ite (advanceTo_sound h) (tmcFire_sound (advanceTo_sound h)))))

theorem tmcArm_sound {u} : StoresOk (tmcArm s u) :=
  .ite (.frame (setFldB_sound h))
    (.ite (.frame (.frame (setFldB_sound h))) (tmcFire_sound (setFldB_sound (.frame (setFldB_sound h)))))

theorem tmcDisarm_sound {u} : StoresOk (tmcDisarm s u) := .frame (setFldB_sound h)
theorem tmcCtl_sound {u v} : StoresOk (tmcCtl s u v) := .ite (tmcArm_sound h) (.ite (tmcDisarm_sound h) h)

/-! ### Machine/Dma -/

theorem setDmaState_sound {c n} : StoresOk (setDmaState s c n) := setFld_sound h
theorem showAddr_sound {lo hi a} : StoresOk (showAddr s lo hi a) := setFld_sound (setFld_sound h)
theorem showCur_sound {c d} : StoresOk (showCur s c d) := setFld_sound (showAddr_sound (showAddr_sound h))
theorem dmaStop_sound {c last} : StoresOk (dmaStop s c last) := setFld_sound (setFld_sound (setDmaState_sound h))
theorem descBytes_sound {c} : SndOk (descBytes s c) := .ite (dramReadEffect_sound h) (StoresOk.frame h)
theorem dmaTake_sound {c} : StoresOk (dmaTake s c) :=
  .ite h (.ite (setDmaState_sound h) (.ite (setDmaState_sound h)
        (.ite (dmaStop_sound (descBytes_sound h)) (.ite (dmaStop_sound (descBytes_sound h))
            (setDmaState_sound
              (showCur_sound (.frame (.ite (descBytes_sound h) (setFld_sound (descBytes_sound h))))))))))

theorem spaceWrite_sound {shm a bs} : StoresOk (spaceWrite s shm a bs) :=
  .ite (h.with_shared (memStore_wf h.shared a)) (dramWrite_sound h)

theorem dmaMove_sound {c d n} : StoresOk (dmaMove s c d n) :=
  showCur_sound (.frame (setFld_sound
        (.ite (.ite h (dramReadEffect_sound h)) (spaceWrite_sound (.ite h (dramReadEffect_sound h))))))

omit h in
theorem dmaMoveAll_sound {c n} {s : State} (h : StoresOk s) : StoresOk (dmaMoveAll c n s) := by
  induction n generalizing s with
  | zero => exact h
  | succ n ih => unfold dmaMoveAll; split; exacts [.ite h (ih (dmaMove_sound h)), h]

theorem dmaFinish_sound {c d result} : StoresOk (dmaFinish s c d result) := by
  unfold dmaFinish
  extract_lets _ _ put s1 s2 s3 s4 s5 s6
  have hput : ∀ {s o bs}, StoresOk s → StoresOk (put s o bs) := fun h => .ite (dramWrite_sound h) h
  have h5 : StoresOk s5 := wrapFld_sound (setFld_sound (setFld_sound (.frame (hput (hput h)))))
  have h6 : StoresOk s6 := .ite (setEventClaimants_sound h5) h5
  exact .ite (dmaTake_sound h6) (dmaStop_sound h6)

theorem execDmaDescriptorEnd_sound {c} : ResOk (execDmaDescriptorEnd c s) := by
  unfold execDmaDescriptorEnd
  split
  · exact .next h
  · dsimp only; split
    · exact .next (.ite (dmaMoveAll_sound h) h)
    · split
      · exact .next (dmaFinish_sound (.ite (dmaMoveAll_sound h) h))
      · exact .ite (.next (dmaFinish_sound (.ite (dmaMoveAll_sound h) h))) (.next (.ite (dmaMoveAll_sound h) h))

theorem grant_sound {c} : StoresOk (grant s c) := .ite (.frame h) h
theorem pacedBurst_sound {c d withdrawn} : StoresOk (pacedBurst s c d withdrawn) :=
  .ite (incFld_sound (incFld_sound (dmaMove_sound (grant_sound h)))) (incFld_sound (dmaMove_sound (grant_sound h)))

theorem execDmaBurst_sound {c withdrawn} : ResOk (execDmaBurst c withdrawn s) := by
  unfold execDmaBurst
  split
  · exact .next h
  · exact .ite (.ite (.ite (.next (pacedBurst_sound h)) (.next h)) (.next (dmaMove_sound h))) (.next h)

theorem execDmaRequestTimeout_sound {c} : ResOk (execDmaRequestTimeout c s) := by
  unfold execDmaRequestTimeout
  split
  · exact .next h
  · exact .ite (.ite (.next (lateWin_sound (pacedBurst_sound h))) (.next (dmaFinish_sound h))) (.next h)

theorem dmaSwreq_sound {v} : StoresOk (dmaSwreq s v) := setFld_sound h
theorem dmaHead_sound {c v} : StoresOk (dmaHead s c v) :=
  .ite (setFld_sound h) (.ite (setFld_sound h) (dmaTake_sound (setFld_sound h)))

theorem dmaStart_sound {c} : StoresOk (dmaStart s c) := .ite (dmaTake_sound (setFld_sound (setFld_sound h))) h
theorem dmaHalt_sound {c} : StoresOk (dmaHalt s c) :=
  .ite (by
      dsimp only; split; exacts [setDmaState_sound (setFld_sound h), setDmaState_sound (.frame (setFld_sound h))]) h

theorem dmaHold_sound {c} : StoresOk (dmaHold s c) := by
  unfold dmaHold; dsimp only; split <;> exact .ite (setDmaState_sound (setFld_sound h)) (setFld_sound h)

theorem dmaGoOn_sound {c} : StoresOk (dmaGoOn s c) := by
  unfold dmaGoOn
  dsimp only; split
  · exact .ite (setFld_sound h) (.ite (setDmaState_sound (setFld_sound h)) (setFld_sound h))
  · exact .ite (dmaTake_sound (setFld_sound h)) (setFld_sound h)

theorem dmaCtl_sound {c v} : StoresOk (dmaCtl s c v) := by
  unfold dmaCtl; extract_lets _ _ s1 s2
  have h : StoresOk s1 := .ite h (.ite (setFld_sound h) (setStnWord_sound h))
  have h : StoresOk s2 := .ite h (.ite (dmaHold_sound h) (dmaGoOn_sound h))
  exact .ite (dmaStart_sound h) (dmaHalt_sound h)

theorem dmaRingBase_sound {c a v} : StoresOk (dmaRingBase s c a v) := .ite (setFld_sound h) (setStnWord_sound h)
theorem dmaAtRole_sound : StoresOk (dmaAtRole s) :=
  .foldl (fun _ _ h => setFld_sound (setFld_sound (setFld_sound (setFld_sound (setDmaState_sound (.frame h)))))) h

theorem dmaAbortAll_sound : StoresOk (dmaAbortAll s) := .foldl (fun _ _ h => dmaHalt_sound h) h

/-! ### Machine/Lanes -/

theorem laneConsequence_sound {l} : StoresOk (laneConsequence s l) := by
  unfold laneConsequence
  split; exacts [linkGoesDown_sound h, linkGoesDown_sound h, h, portLost_sound h, camLinkDown_sound h]

theorem laneLoses_sound {l los} : StoresOk (laneLoses s l los) :=
  .ite h (.ite
      (laneConsequence_sound (alarm_sound (incFld_sound (setFldB_sound (setFldB_sound (setFldB_sound h))))))
      (setFldB_sound (setFldB_sound (setFldB_sound h))))

theorem actLaneLos_sound {l} : ResOk (actLaneLos l s) := .next (.ite (laneLoses_sound h) h)
theorem actLaneLol_sound {l} : ResOk (actLaneLol l s) := .next (.ite (laneLoses_sound h) h)
theorem actLaneLolRelease_sound {l} : ResOk (actLaneLolRelease l s) :=
  .next (.ite (by
        dsimp only; split; exacts [setFldB_sound (setFldB_sound (setFldB_sound h)), setFldB_sound (setFldB_sound h)])
      h)

theorem execLaneSettled_sound {l} : ResOk (execLaneSettled l s) :=
  .next (.ite (.ite (setFldB_sound h) (.frame (setFldB_sound h))) h)

theorem actGroupAligned_sound {g} : ResOk (actGroupAligned g s) := .next (.ite (.frame h) h)
theorem actGroupAlignmentLost_sound {g} : ResOk (actGroupAlignmentLost g s) := .next (.frame h)
theorem laneChk_sound {l} : StoresOk (laneChk s l) := setFld_sound h
theorem checkerStops_sound {l} : StoresOk (checkerStops s l) := setFld_sound (.frame h)
theorem enterTest_sound {l} : StoresOk (enterTest s l) := by
  unfold enterTest; split; exacts [h, laneConsequence_sound h]

theorem leaveTest_sound {l} : StoresOk (leaveTest s l) := by
  unfold leaveTest; split; exacts [.ite (camBringUp_sound h) h, h]

theorem laneCtl_sound {l v} : StoresOk (laneCtl s l v) := by
  unfold laneCtl; extract_lets _ _ s1 s2 s3
  have h1 : StoresOk s1 := setStnWord_sound h
  have h2 : StoresOk s2 := .ite (checkerStops_sound h1) h1
  have h3 : StoresOk s3 := .ite (laneChk_sound h2) h2
  exact .ite (setFldB_sound h) (.ite (enterTest_sound h3) (.ite (leaveTest_sound h3) h3))

theorem retuneLane_sound {ok l} : StoresOk (retuneLane ok s l) :=
  .ite h (.ite (.frame (setFldB_sound h)) (alarm_sound (setFldB_sound h)))

theorem retuneEnd_sound {ok} : StoresOk (retuneEnd s ok) := by
  simp only [retuneEnd]
  exact .foldl (fun _ _ h => retuneLane_sound h) h

/-! ### Machine/DramCtl -/

theorem scrubCodeword_sound {addr ecc} : StoresOk (scrubCodeword s addr ecc) :=
  .ite (readCheck_sound (newEccError_sound h)) (.frame (readCheck_sound (newEccError_sound h)))

theorem actDramScrub_sound {addr ecc} : ResOk (actDramScrub addr ecc s) := .next (.ite (scrubCodeword_sound h) h)
theorem freqGo_sound : StoresOk (freqGo s) := .ite (setFldB_sound h) (setFldB_sound (drainDram_sound h))
theorem freqTimings_sound : StoresOk (freqTimings s) :=
  .ite (setStnWord_sound (setStnWord_sound (setStnWord_sound h)))
    (setStnWord_sound (setStnWord_sound (setStnWord_sound (.frame (.frame (.frame h))))))

theorem execDramFreqDone_sound : ResOk (execDramFreqDone s) :=
  .next (.ite (admitDram_sound (setFldB_sound (setFld_sound (setFld_sound (freqTimings_sound h))))) h)

/-! ### Machine/Sync -/

theorem tbStep_sound {b v} : StoresOk (tbStep s b v) := .ite h (.frame h)
theorem syncStep_sound {o} : StoresOk (syncStep s o) :=
  .ite (alarm_sound (.frame (incFld_sound (.frame (setFld_sound h)))))
    (.frame (.frame (incFld_sound (.frame (setFld_sound h)))))

theorem useOffset_sound {inc} : StoresOk (useOffset s inc) := setFld_sound h
theorem takeSync_sound {o inc} : StoresOk (takeSync s o inc) :=
  .ite (syncStep_sound (setFldInt_sound h)) (.ite
      (.ite (setFld_sound (.frame (setFldInt_sound h))) (syncStep_sound (setFldInt_sound h)))
      (.ite (.ite (.ite (syncStep_sound (setFldInt_sound h)) (.frame (setFldInt_sound h)))
          (useOffset_sound (.frame (setFldInt_sound h)))) (.ite
          (.ite (setFld_sound (.frame (useOffset_sound (setFldInt_sound h))))
            (.frame (useOffset_sound (setFldInt_sound h)))) (.frame (useOffset_sound (setFldInt_sound h))))))

/-! ### Machine/StationRead -/

theorem readStation_sound {a} : SndOk (readStation s a) := by
  unfold readStation
  split; exacts [StoresOk.frame h, StoresOk.ite (.frame (.ite (.frame h) h)) (.ite (.frame h) h)]

/-! ### Machine/StationStore -/

theorem plainStore_sound {a v} : StoresOk (plainStore s a v) := by
  unfold plainStore; split; exacts [h, setStnWord_sound h]

theorem maskedStore_sound {a v keep} : StoresOk (maskedStore s a v keep) := plainStore_sound h
theorem storeScr_sound {a v} : StoresOk (storeScr s a v) :=
  .ite (.ite (setFldB_sound h) (.frame (plainStore_sound h))) (plainStore_sound h)

theorem storePlc_sound {a v} : StoresOk (storePlc s a v) :=
  .ite (pagecmpWrite_sound h) (.ite (plainStore_sound h) (.ite
        (.ite (maskedStore_sound h) (.ite h (plainStore_sound h)))
        (.ite (.frame (plainStore_sound h)) (plainStore_sound h))))

theorem podlCtl_sound {p a v} : StoresOk (podlCtl s p a v) :=
  .ite (.ite (bringUp_sound (plainStore_sound h)) (plainStore_sound h))
    (.ite (.frame (setFldB_sound (setFldB_sound (plainStore_sound h)))) (plainStore_sound h))

theorem storePodl_sound {a v} : StoresOk (storePodl s a v) := by
  simp only [storePodl]
  split
  · exact .ite (.ite (setFldB_sound h) (.ite (podlCtl_sound h) (plainStore_sound h))) (plainStore_sound h)
  · exact .ite (purgeGo_sound h) (plainStore_sound h)

theorem camCtl_sound {n a v} : StoresOk (camCtl s n a v) := by
  unfold camCtl; extract_lets _ _ s'
  have h : StoresOk s' := .ite (maskedStore_sound (setFldB_sound h)) (plainStore_sound h)
  exact .ite (camBringUp_sound h) (.ite (camLinkDown_sound h) h)

theorem storeSight_sound {a v} : StoresOk (storeSight s a v) := by
  simp only [storeSight]
  exact .ite (.ite (setFldB_sound h) (plainStore_sound h)) (.ite
      (.ite (camCtl_sound h) (.ite (.ite (setFldB_sound h) (plainStore_sound h))
          (.ite (.ite (expGo_sound h) h) (plainStore_sound h))))
      (.ite (.ite (ctxCommit_sound h) h) (plainStore_sound h)))

theorem storeHlt_sound {a v} : StoresOk (storeHlt s a v) := .ite h (plainStore_sound h)
theorem storeTwn_sound {a v} : StoresOk (storeTwn s a v) := .ite (.frame (plainStore_sound h)) (plainStore_sound h)
theorem storeMbg_sound {a v} : StoresOk (storeMbg s a v) := .ite (mbClear_sound h) (plainStore_sound h)
theorem storeTrace_sound {k a v} : StoresOk (storeTrace s k a v) :=
  .ite (trGo_sound h) (modStw_sound h (fun _ => .frame))

theorem storeTime_sound {a v} : StoresOk (storeTime s a v) := by
  unfold storeTime
  split
  · exact .ite (tmcCtl_sound (plainStore_sound h)) (plainStore_sound h)
  · exact .ite (setStnWord_sound h) (.ite (tbStep_sound h) (plainStore_sound h))

theorem storeAxis_sound {x o a v} : StoresOk (storeAxis s x o a v) :=
  .ite (.ite (.ite (noteIgnored_sound h) (.frame (plainStore_sound h))) (plainStore_sound h))
    (.ite (.ite (segGoWrite_sound (plainStore_sound h)) (plainStore_sound h))
      (.ite (.ite (setPosWrite_sound h) h)
        (.ite (.ite (axCmpCtl_sound (plainStore_sound h)) (plainStore_sound h)) (plainStore_sound h))))

theorem cyclePeriod_sound : StoresOk (cyclePeriod s) := setFld_sound h
theorem storeMot_sound {a v} : StoresOk (storeMot s a v) :=
  .ite (.ite (setFldB_sound h) (cyclePeriod_sound (plainStore_sound h)))
    (.ite (.ite (motCmd_sound h) h) (.ite (storeAxis_sound h) (plainStore_sound h)))

theorem storeDram_sound {a v} : StoresOk (storeDram s a v) :=
  .ite (freqGo_sound (plainStore_sound h)) (plainStore_sound h)

theorem storeDma_sound {a v} : StoresOk (storeDma s a v) := by
  unfold storeDma
  split
  · exact .ite (dmaCtl_sound h) (.ite (dmaRingBase_sound h) (.ite (dmaHead_sound h) (plainStore_sound h)))
  · exact .ite (dmaSwreq_sound h) (plainStore_sound h)

theorem storeLane_sound {a v} : StoresOk (storeLane s a v) := by
  simp only [storeLane]
  exact .ite (laneCtl_sound h) (.ite (setStnWord_sound h) (plainStore_sound h))

theorem storePwr_sound {a v} : StoresOk (storePwr s a v) :=
  .ite (setFld_sound (plainStore_sound h)) (plainStore_sound h)

theorem storePodpwr_sound {a v} : StoresOk (storePodpwr s a v) :=
  .ite (hvWrite_sound h) (.ite (journalPower_sound (plainStore_sound h)) (plainStore_sound h))

theorem storeEffect_sound {a v} : StoresOk (storeEffect s a v) := by
  unfold storeEffect
  split
  · exact .ite (pkrJobWrite_sound h) (plainStore_sound h)
  · exact storeScr_sound h
  · exact storePlc_sound h
  · exact storePodl_sound h
  · exact storeSight_sound h
  · exact storeHlt_sound h
  · exact storeTwn_sound h
  · exact storeMbg_sound h
  · exact storeTime_sound h
  · exact storeMot_sound h
  · exact storeDram_sound h
  · exact storeDma_sound h
  · exact storeLane_sound h
  · exact storePwr_sound h
  · exact storePodpwr_sound h
  · exact plainStore_sound h

omit h in
theorem noteKept_sound {s'} (hs' : StoresOk s') {a} : StoresOk (noteKept s s' a) := by
  unfold noteKept; split; exacts [.ite (.frame hs') hs', hs']

theorem journalStore_sound {a v} : StoresOk (journalStore s a v) := .ite (journal_sound h) h
theorem storeStation_sound {k a v} : StoresOk (storeStation s k a v) :=
  .ite (by split; exacts [storeTrace_sound h, h])
    (noteKept_sound (storeEffect_sound (journalStore_sound (.frame h))))

theorem storeVec_sound {a v} : StoresOk (storeVec s a v) := by
  unfold storeVec
  dsimp only; split
  · exact .ite (setFldB_sound (journal_sound h)) (setFldB_sound (.frame (journal_sound h)))
  · exact setFldB_sound (.frame (journal_sound h))
  · exact journal_sound h

theorem storeCmd_sound {a v} : ResOk (storeCmd s a v) := .next (.ite (storeStation_sound h) h)
theorem actStationStore_sound {k addr v} : ResOk (actStationStore k addr v s) :=
  .next (.ite (storeStation_sound h) h)

theorem actClearHidden_sound : ResOk (actClearHidden s) := storeCmd_sound h

/-! ### Machine/Hamper -/

theorem sendTwin_sound {sp e bytes o} : StoresOk (sendTwin s sp e bytes o) := .frame (queueFrame_sound h)
theorem sendPostcard_sound {release} : StoresOk (sendPostcard s release) := .ite (sendTwin_sound (.frame h)) h
theorem closeHamper_sound {final timed early} : StoresOk (closeHamper s final timed early) :=
  .ite (auxPulse_sound (sendTwin_sound (setFld_sound (setFld_sound (.frame h))))) (.frame h)

theorem sendBulkFrame_sound {b n i} : StoresOk (sendBulkFrame b n s i) := sendTwin_sound (.frame h)
theorem sendBulk_sound {b} : StoresOk (sendBulk s b) := .foldl (fun _ _ h => sendBulkFrame_sound h) h
theorem sendDram_sound {addr data} : StoresOk (sendDram s addr data) := .foldl (fun _ _ h => sendBulk_sound h) h
theorem trackRange_sound {a n} : StoresOk (trackRange s a n) :=
  .ite (.frame h) (.ite (alarm_sound (.frame h)) (.frame h))

/-! ### Machine/Thermos -/

theorem commitBank_sound {bulk} : StoresOk (commitBank s bulk) := setFld_sound (.frame (.frame h))
theorem spareCheck_sound : StoresOk (spareCheck s) := .ite (alarm_sound h) h
theorem wearPages_sound {wear swapped} : StoresOk (wearPages s wear swapped) :=
  .ite (.frame h) (spareCheck_sound (.frame h))

theorem appendJournal_sound {es} : StoresOk (appendJournal s es) := .ite (.frame h) (.frame h)
theorem execMapJournal_sound : ResOk (execMapJournal s) := by
  unfold execMapJournal; split; exacts [.next h, .next (setFld_sound (.frame (appendJournal_sound h)))]

theorem execJournalFold_sound : ResOk (execJournalFold s) := .next (by split; exacts [h, .frame h])
theorem fullCommit_sound : StoresOk (fullCommit s) := setFldB_sound (.frame (.frame (commitBank_sound (.frame h))))

/-! ### Machine/Accept -/

theorem refuse_sound {code detail} : ReplyOk (refuse s code detail) := .now h
theorem done_sound : ReplyOk (done s) := .now h
theorem answerNow_sound {e a} : StoresOk (answerNow s e a) := sendReceiptNow_sound h
theorem bounce_sound {e code detail aux} : StoresOk (bounce s e code detail aux) := answerNow_sound h
theorem bounceBusy_sound {e b} : StoresOk (bounceBusy s e b) := bounce_sound h
theorem deadLetter_sound {e pl code detail} : StoresOk (deadLetter s e pl code detail) :=
  .frame (.ite (incFld_sound (alarm_sound h)) (alarm_sound h))

theorem refuseUnsequenced_sound {e pl} : StoresOk (refuseUnsequenced s e pl) := deadLetter_sound (answerNow_sound h)
theorem journalStream_sound {e x o} : StoresOk (journalStream s e x o) := .ite (journal_sound h) h
theorem recordOutcome_sound {e a due} : StoresOk (recordOutcome s e a due) := journalStream_sound (.frame h)
theorem release_sound {e rep a} : StoresOk (release s e rep a) :=
  .foldl (fun _ _ h => holdEnv_sound h) (releaseReceipt_sound h)

theorem settleLetter_sound {e pl a} : StoresOk (settleLetter s e pl a) :=
  release_sound (recordOutcome_sound (.ite h (deadLetter_sound h)))

theorem resendRecord_sound {e o} : StoresOk (resendRecord s e o) :=
  .ite (releaseReceipt_sound h) (sendReceiptNow_sound h)

theorem runChecked_sound {run} (hrun : ∀ x0 x1 x2, StoresOk x0 → ReplyOk (run x0 x1 x2)) {e pl}
    : ReplyOk (runChecked run s e pl) := by
  unfold runChecked; split; exacts [refuse_sound h, hrun _ _ _ h]

omit h in
theorem settleReply_sound {e pl r} (hr : ReplyOk r) : StoresOk (settleReply e pl r) := by
  cases r with
  | now => exact settleLetter_sound hr
  | later | silent => exact hr

theorem executeRoom_sound {run} (hrun : ∀ x0 x1 x2, StoresOk x0 → ReplyOk (run x0 x1 x2)) {e pl} :
    OptOk (executeRoom run s e pl) := by
  have hr : ∀ {s}, StoresOk s → StoresOk (settleReply e pl (runChecked run s e pl)) :=
    fun h => settleReply_sound (runChecked_sound h hrun)
  exact .ite (.some (hr h)) (.ite
    (.ite (.some (hr h)) (.some (hr (closeHamper_sound h)))) (.ite (.some (hr h)) trivial))

theorem openStream_sound {e} : StoresOk (openStream s e) :=
  release_sound (recordOutcome_sound (.frame (.ite (journal_sound h) h)))

theorem acceptSequenced_sound {run} (hrun : ∀ x0 x1 x2, StoresOk x0 → ReplyOk (run x0 x1 x2)) {e pl} :
    OptOk (acceptSequenced run s e pl) := by
  have hr := runChecked_sound (e := e) (pl := pl) h hrun
  unfold acceptSequenced
  refine .ite (openStream_sound h) (.ite (bounce_sound h) (.ite (bounce_sound h) (.ite
    (.ite ?_ (by split; exacts [resendRecord_sound h, bounce_sound h])) (executeRoom_sound h hrun))))
  generalize runChecked run s e pl = r at hr
  cases r with
  | now => exact release_sound hr
  | later | silent => exact hr

theorem acceptRing_sound {run} (hrun : ∀ x0 x1 x2, StoresOk x0 → ReplyOk (run x0 x1 x2)) {e pl} :
    StoresOk (acceptRing run s e pl) := by
  have hr := hrun s e pl h
  unfold acceptRing
  refine .ite ?_ (refuseUnsequenced_sound h)
  generalize run s e pl = r at hr
  cases r with
  | now => exact answerNow_sound (.ite hr (deadLetter_sound hr))
  | later | silent => exact hr

theorem acceptTaken_sound {run} (hrun : ∀ x0 x1 x2, StoresOk x0 → ReplyOk (run x0 x1 x2)) {e pl}
    : OptOk (acceptTaken run s e pl) := by
  unfold acceptTaken
  split
  · exact .some (bounceBusy_sound h)
  · exact .ite (.some (refuseUnsequenced_sound h)) (.ite (.some (acceptRing_sound h (fun _ _ _ h => hrun _ _ _ h)))
        (acceptSequenced_sound h (fun _ _ _ h => hrun _ _ _ h)))

theorem acceptWith_sound {go} (hgo : ∀ x0 x1 x2, StoresOk x0 → OptOk (go x0 x1 x2)) {kind e0 pl}
    : StoresOk (acceptWith kind go s e0 pl) :=
  .ite h (.ite (.ite h (deliver_sound h)) (.ite (.frame (.ite h (deliver_sound h)))
        (.ite (.ite h (deliver_sound h))
          (.getD (hgo _ _ _ (.frame (.ite h (deliver_sound h)))) (.ite h (deliver_sound h))))))

theorem accept_sound {run} (hrun : ∀ x0 x1 x2, StoresOk x0 → ReplyOk (run x0 x1 x2)) {kind e pl}
    : StoresOk (accept kind run s e pl) :=
  acceptWith_sound h (fun _ _ _ h => acceptTaken_sound (.frame h) (fun _ _ _ h => hrun _ _ _ h))

theorem settleCall_sound {c a} : StoresOk (settleCall s c a) := settleLetter_sound (.frame h)
theorem beginLong_sound {op letter image} : StoresOk (beginLong s op letter image) := setFldB_sound (.frame h)
theorem endLong_sound {b} : StoresOk (endLong s b) :=
  drainMail_sound (by
      split
      · exact settleLetter_sound (.ite (setFldB_sound (.frame h)) (.frame h))
      · exact .ite (setFldB_sound (.frame h)) (.frame h))

/-! ### Machine/Gyeno -/

theorem execIllegal_sound {k w parity} : ResOk (execIllegal k w parity s) :=
  .ite (onSteward_sound h (fun _ h => stewardFaultFree_sound h))
    (.ite (.next h) (onSteward_sound h (fun _ h => faultIllegal_sound h)))

theorem stewardRead_sound {k a} : SndOk (stewardRead s k a) := .ite h (readStation_sound h)
theorem stationAccess_sound {act} (hact : StoresOk act) {k x n kind ok}
    : StoresOk (stationAccess s k x n kind ok act) :=
  .ite (faultMisaligned_sound h) (.ite (faultAccess_sound h) (.ite hact (faultStation_sound h)))

theorem execSld_sound {k d a imm} : ResOk (execSld k d a imm s) :=
  onSteward_sound h (fun _ h => stationAccess_sound h (finG_sound (stewardRead_sound h)))

theorem armOrWait_sound {k e} : StoresOk (armOrWait s k e) :=
  .ite (modStw_sound (armLq_sound h) (fun _ => .frame)) (modStw_sound h (fun _ => .frame))

theorem execSsq_sound {k d a b} : ResOk (execSsq k d a b s) :=
  onSteward_sound h (fun _ h => stationAccess_sound h (armOrWait_sound h))

theorem execVsld_sound {k vd a imm} : ResOk (execVsld k vd a imm s) :=
  onSteward_sound h (fun _ h => stationAccess_sound h (finV_sound h))

theorem execVsst_sound {k vd a imm} : ResOk (execVsst k vd a imm s) :=
  onSteward_sound h (fun _ h => stationAccess_sound h (modStw_sound (storeVec_sound h) (fun _ => .frame)))

theorem execVssq_sound {k vd a c} : ResOk (execVssq k vd a c s) :=
  onSteward_sound h (fun _ h => stationAccess_sound h (armOrWait_sound h))

theorem execLqQueueRoom_sound {k} : ResOk (execLqQueueRoom k s) :=
  .next (by split; exacts [.ite (modStw_sound (armLq_sound h) (fun _ h => .frame (.frame h))) h, h])

theorem execScr_sound {k d n} : ResOk (execScr k d n s) :=
  onSteward_sound h (fun _ h => by split; exacts [finG_sound h, faultIllegal_sound h])

omit h in
/-- A control register that SCW writes holds no memory. -/
theorem setControlReg_sound {w w' n v} (hw : StwOk w) (he : setControlReg s w n v = some w') : StwOk w' := by
  unfold setControlReg at he
  split at he <;> cases he <;> exact hw

theorem execScw_sound {k d n} : ResOk (execScw k d n s) :=
  onSteward_sound h (fun s h => by
    split
    · rename_i w hw
      exact setStw_sound h (.frame (setControlReg_sound (stw_sound h) hw))
    · exact faultIllegal_sound h)

theorem execFence_sound {k imm} : ResOk (execFence k imm s) :=
  onSteward_sound h (fun _ h => .ite (faultIllegal_sound h) (modStw_sound h (fun _ => .frame)))

omit h in
theorem Steward.takeEvent_sound {w} (hw : StwOk w) {d} : StwOk (Steward.takeEvent w d) :=
  .frame (Steward.setG_sound (.frame hw))

omit h in
theorem Steward.noEvent_sound {w} (hw : StwOk w) {d} : StwOk (Steward.noEvent w d) :=
  .frame (Steward.setG_sound (.frame hw))

theorem waitOn_sound {k d timed} : StoresOk (waitOn s k d timed) :=
  modStw_sound h (fun _ h => .ite (.frame h) (Steward.takeEvent_sound h))

theorem pollOn_sound {k d} : StoresOk (pollOn s k d) :=
  modStw_sound h (fun _ h => .ite (Steward.noEvent_sound h) (Steward.takeEvent_sound h))

theorem execWaitt_sound {k d a} : ResOk (execWaitt k d a s) :=
  onSteward_sound h (fun _ h => .ite (pollOn_sound h) (waitOn_sound h))

theorem execEvsig_sound {k a b} : ResOk (execEvsig k a b s) :=
  onSteward_sound h (fun _ h => .ite (modStw_sound (setEvent_sound h) (fun _ => .frame)) (faultIllegal_sound h))

theorem execStewardWake_sound {k} : ResOk (execStewardWake k s) :=
  .next (by split; exacts [.ite h (modStw_sound h (fun _ h => Steward.takeEvent_sound h)), h])

theorem execWaittTimeout_sound {k} : ResOk (execWaittTimeout k s) :=
  .next (by
      split
      · exact modStw_sound h (fun _ h => .ite (Steward.noEvent_sound h) (Steward.takeEvent_sound (.frame h)))
      · exact h)

theorem faultMsend_sound {k} : StoresOk (faultMsend s k) := stewardFault_sound (.frame (.frame h))
theorem deposit_sound {t k v} : StoresOk (deposit s t k v) :=
  .ite (setEvent_sound (modStw_sound h (fun _ => .frame))) (modStw_sound h (fun _ => .frame))

theorem execMsend_sound {k d a b} : ResOk (execMsend k d a b s) :=
  onSteward_sound h (fun _ h => .ite (faultMsend_sound h) (.ite (finG_sound (deposit_sound h)) (finG_sound h)))

theorem execMrecv_sound {k d b} : ResOk (execMrecv k d b s) :=
  onSteward_sound h (fun _ h => by
      split
      · exact modStw_sound h (fun _ h => .frame (Steward.setG_sound (Steward.setG_sound h)))
      · exact modStw_sound h (fun _ h => .frame (Steward.setG_sound (Steward.setG_sound (.frame h)))))

theorem execWatchdogExpiry_sound {k} : ResOk (execWatchdogExpiry k s) :=
  .next (.ite h (stewardFaultFree_sound (modStw_sound h (fun _ => .frame))))

/-! ### Machine/Letters -/

theorem orBad_sound {run} (hrun : ReplyOk run) {bad} : ReplyOk (orBad s bad run) := by
  unfold orBad; split; exacts [refuse_sound h, hrun]

theorem itemLetter_sound {run} (hrun : ReplyOk run) {e pl size limit addrAt ok}
    : ReplyOk (itemLetter e pl size limit addrAt ok s run) := by
  unfold itemLetter; split; exacts [refuse_sound h, hrun]

theorem runWrite_sound {e pl} : ReplyOk (runWrite s e pl) :=
  itemLetter_sound h (done_sound (.foldl (fun _ _ h => storeStation_sound h) h))

theorem armAll_sound {need es} : ReplyOk (armAll s need es) :=
  .ite (refuse_sound h) (done_sound (.foldl (fun _ _ h => armLq_sound h) h))

theorem runArm_sound {e pl} : ReplyOk (runArm s e pl) := itemLetter_sound h (armAll_sound h)
theorem runVwrite_sound {e pl} : ReplyOk (runVwrite s e pl) :=
  itemLetter_sound h (done_sound (.foldl (fun _ _ h => storeVec_sound h) h))

theorem runVarm_sound {e pl} : ReplyOk (runVarm s e pl) := itemLetter_sound h (armAll_sound h)
omit h in
theorem readAll_sound {as : List Nat} {s : State} (h : StoresOk s) : SndOk (readAll s as) := by
  induction as generalizing s with
  | nil => exact h
  | cons a as ih => exact ih (readStation_sound h)

theorem runRead_sound {e pl} : ReplyOk (runRead s e pl) := itemLetter_sound h (.now (readAll_sound h))
theorem runVread_sound {e pl} : ReplyOk (runVread s e pl) := itemLetter_sound h (.now h)
theorem runInbox_sound {e pl} : ReplyOk (runInbox s e pl) :=
  have hr : ∀ {c d}, ReplyOk (refuse s c d) := refuse_sound h
  .ite hr (.ite hr (.ite hr (orBad_sound h (.ite hr (.ite
    (done_sound (setEvent_sound (h.with_shared (memStore_wf h.shared _)))) hr)))))

theorem startSteward_sound {k reason} : StoresOk (startSteward s k reason) := by
  unfold startSteward; split; exacts [modStw_sound h (fun _ => .frame), h]

omit h in
theorem Steward.forget_sound {w} (hw : StwOk w) : StwOk (Steward.forget w) :=
  ⟨hw.1, by unfold Steward.forget; dsimp only; split; exacts [memStore_wf rfl 0, rfl]⟩

theorem forgetCustomers_sound : StoresOk (forgetCustomers s) := by
  have hc : StoresOk (customers.foldl (fun s k => modStw s k Steward.forget) s) :=
    .foldl (fun _ _ h => modStw_sound h (fun _ => Steward.forget_sound)) h
  exact hc.with_shared (memClear_wf hc.shared _ _)

theorem haltStw_sound {k} : StoresOk (haltStw s k) := modStw_sound h (fun _ => .frame)
theorem unloadStw_sound {k} : StoresOk (unloadStw s k) := modStw_sound h (fun _ => .frame)
theorem stewardLetter_sound {run} (hrun : ∀ x0, StoresOk (run x0)) {pl} : ReplyOk (stewardLetter s pl run) :=
  orBad_sound h (.ite (refuse_sound h) (.ite (refuse_sound h) (done_sound (hrun _))))

theorem runUnload_sound {_e pl} : ReplyOk (runUnload s _e pl) :=
  stewardLetter_sound h (fun _ => unloadStw_sound (journal_sound h))

theorem runRestart_sound {_e pl} : ReplyOk (runRestart s _e pl) :=
  stewardLetter_sound h (fun _ => startSteward_sound (journal_sound h))

theorem runHalt_sound {_e pl} : ReplyOk (runHalt s _e pl) :=
  stewardLetter_sound h (fun _ => haltStw_sound (journal_sound h))

theorem runDramRead_sound {e pl} : ReplyOk (runDramRead s e pl) :=
  orBad_sound h (.ite (refuse_sound h) (.ite (.now (dramReadEffect_sound h)) (refuse_sound h)))

theorem runJobLetter_sound {_e pl} : ReplyOk (runJobLetter s _e pl) :=
  orBad_sound h (by split; exacts [refuse_sound h, done_sound (declareJob_sound h)])

theorem startLong_sound {e op} : ReplyOk (startLong s e op) :=
  .ite (refuse_sound h) (.later (.ite (.foldl (fun _ _ h => .ite (setFldB_sound h) h)
          (.ite (startScan_sound (beginLong_sound h)) (beginLong_sound h)))
        (.ite (startScan_sound (beginLong_sound h)) (beginLong_sound h))))

theorem runLong_sound {e pl} : ReplyOk (runLong s e pl) :=
  orBad_sound h (.ite (.ite (refuse_sound h) (startLong_sound h)) (refuse_sound h))

theorem handoverAtOnce_sound {e} : ReplyOk (handoverAtOnce s e) :=
  .ite (done_sound (startHandover_sound h)) (.later (.frame (startHandover_sound h)))

theorem runHandover_sound {e pl} : ReplyOk (runHandover s e pl) :=
  orBad_sound h (by
      split
      · exact handoverAtOnce_sound h
      · exact .ite (done_sound (.frame h)) (handoverAtOnce_sound h)
      · exact done_sound (.frame h)
      · exact refuse_sound h)

theorem runDeadRead_sound {_e pl} : ReplyOk (runDeadRead s _e pl) :=
  orBad_sound h (.ite (refuse_sound h) (.ite (refuse_sound h) (.now h)))

theorem runDeadClear_sound {_e pl} : ReplyOk (runDeadClear s _e pl) :=
  orBad_sound h (done_sound (setFld_sound (.frame h)))

theorem runStreamOpen_sound {_e _pl} : ReplyOk (runStreamOpen s _e _pl) := done_sound h
theorem runEnumerate_sound {e pl} : ReplyOk (runEnumerate s e pl) := orBad_sound h (.now h)
theorem runAssign_sound {_e pl} : ReplyOk (runAssign s _e pl) :=
  orBad_sound h (.ite (.silent h) (.ite (refuse_sound h)
        (.ite (refuse_sound h) (orBad_sound h (done_sound (alarmMismatch_sound (.frame h)))))))

theorem runLinkStatus_sound {_e pl} : ReplyOk (runLinkStatus s _e pl) := orBad_sound h (.now h)
theorem runStatus_sound {_e pl} : ReplyOk (runStatus s _e pl) := orBad_sound h (.now h)
theorem execStreamOpen_sound {e pl} : ResOk (execStreamOpen e pl s) :=
  .next (accept_sound h (fun _ _ _ h => runStreamOpen_sound h))

theorem actAssign_sound {e pl} : ResOk (actAssign e pl s) :=
  .next (accept_sound h (fun _ _ _ h => runAssign_sound h))

theorem execLinkStatus_sound {e pl} : ResOk (execLinkStatus e pl s) :=
  .next (accept_sound h (fun _ _ _ h => runLinkStatus_sound h))

theorem retrainEnd_sound {ok} : StoresOk (retrainEnd s ok) := .frame (setFld_sound (setFld_sound h))
theorem longEffect_sound {b ok} : StoresOk (longEffect s b ok) := by
  unfold longEffect
  split; exacts [retrainEnd_sound h, fullCommit_sound h, .frame (.frame h), retuneEnd_sound h, h]

theorem execLongOperationEnd_sound {okMask} : ResOk (execLongOperationEnd okMask s) :=
  .next (by split; exacts [h, .ite h (endLong_sound (longEffect_sound h))])

/-! ### Machine/Parcels -/

theorem runTooLong_sound {_e _pl} : ReplyOk (runTooLong s _e _pl) := refuse_sound h
theorem sendPart_sound {e all off} : StoresOk (sendPart s e all off) := .ite (sendDram_sound h) h
theorem firstEnvelope_sound {e pl} : StoresOk (firstEnvelope s e pl) :=
  .ite (refuseUnsequenced_sound (.frame h)) (.ite (bounce_sound (.frame h))
      (.ite (bounce_sound (.frame h)) (.ite (by
            split; exacts [resendRecord_sound (.frame h), bounce_sound (.frame h)])
          (.ite (.frame (sendPart_sound (.frame h))) (.frame h)))))

theorem middleEnvelope_sound {e pl} : OptOk (middleEnvelope s e pl) := by
  unfold middleEnvelope
  split
  · exact .some h
  · exact .ite (.ite (executeRoom_sound (.frame h) (fun _ _ _ h => runTooLong_sound h))
        (.some (.frame (.ite (sendPart_sound h) h)))) (.some (.frame h))

theorem goEnvelope_sound {e pl} : OptOk (goEnvelope s e pl) := by
  unfold goEnvelope
  split; exacts [.some (.ite (bounceBusy_sound h) h), .ite (.some (firstEnvelope_sound h)) (middleEnvelope_sound h)]

theorem execParcelEnvelope_sound {e pl} : ResOk (execParcelEnvelope e pl s) :=
  .next (.ite (acceptWith_sound h (fun _ _ _ h => goEnvelope_sound h)) h)

theorem goLast_sound {run} (hrun : ∀ x0 x1 x2, StoresOk x0 → ReplyOk (run x0 x1 x2)) {e pl} :
    OptOk (goLast run s e pl) := by
  have hlong : ∀ {c : Prop} {_ : Decidable c}, ∀ x0 x1 x2, StoresOk x0 →
      ReplyOk ((if c then runTooLong else run) x0 x1 x2) := by
    intro c _
    split
    · exact fun _ _ _ h => runTooLong_sound h
    · exact hrun
  refine .ite (.ite (.some (.frame h)) (acceptTaken_sound (.frame h) hrun)) (.ite (.some h) ?_)
  split
  · exact .some h
  · exact .ite (.mapState (fun _ h => .frame h) (executeRoom_sound h hlong)) (.some (.frame h))

theorem acceptParcel_sound {run} (hrun : ∀ x0 x1 x2, StoresOk x0 → ReplyOk (run x0 x1 x2)) {kind e pl}
    : StoresOk (acceptParcel kind run s e pl) :=
  .ite (acceptWith_sound h (fun _ _ _ h => goLast_sound h (fun _ _ _ h => hrun _ _ _ h))) h

theorem execParcelTimeout_sound {dest src stream} : ResOk (execParcelTimeout dest src stream s) :=
  .next (by split; exacts [h, .ite (lateWin_sound h) (.frame h)])

theorem installImage_sound {im} : StoresOk (installImage s im) :=
  modStw_sound h (fun _ hw => ⟨memStore_wf hw.1 _, memClear_wf (memStore_wf hw.2 _) _ _⟩)

theorem runLoad_sound {_e pl} : ReplyOk (runLoad s _e pl) :=
  .ite (refuse_sound h) (by
      dsimp only; split
      · exact refuse_sound h
      · exact .ite (refuse_sound h) (by
            split
            · exact refuse_sound h
            · exact done_sound (startSteward_sound (installImage_sound (journal_sound (.ite (sendBulk_sound h) h))))))

theorem execLoad_sound {e pl} : ResOk (execLoad e pl s) :=
  .next (acceptParcel_sound h (fun _ _ _ h => runLoad_sound h))

theorem runDramWrite_sound {e pl} : ReplyOk (runDramWrite s e pl) :=
  .ite (refuse_sound h) (.ite (.ite (done_sound (trackRange_sound (sendPart_sound (dramWrite_sound h))))
        (done_sound (sendPart_sound (dramWrite_sound h)))) (refuse_sound h))

theorem execDramWrite_sound {e pl} : ResOk (execDramWrite e pl s) :=
  .next (acceptParcel_sound h (fun _ _ _ h => runDramWrite_sound h))

theorem runFirmware_sound {e pl} : ReplyOk (runFirmware s e pl) :=
  .ite (refuse_sound h) (.ite (refuse_sound h) (.later (beginLong_sound (.ite (sendBulk_sound h) h))))

theorem execFirmware_sound {e pl} : ResOk (execFirmware e pl s) :=
  .next (acceptParcel_sound h (fun _ _ _ h => runFirmware_sound h))

/-! ### Machine/Calls -/

theorem fails_sound {detail} : ReplyOk (fails s detail) := refuse_sound h
theorem outOfRange_sound : ReplyOk (outOfRange s) := fails_sound h
theorem withArgs_sound {run} (hrun : ∀ x0, ReplyOk (run x0)) {args n} : ReplyOk (withArgs s args n run) :=
  .ite (refuse_sound h) (.ite (refuse_sound h) (hrun _))

theorem camRoutine_sound {e routine args} : ReplyOk (camRoutine s e routine args) :=
  .ite (outOfRange_sound h) (.ite (fails_sound h) (.later (pushOps_sound (.frame h))))

theorem execCamControlAck_sound {n ok v} : ResOk (execCamControlAck n ok v s) := by
  unfold execCamControlAck
  split
  · exact .next (by split; exacts [settleCall_sound (camAck_sound h), camAck_sound h])
  · exact .next (camAck_sound h)

theorem execCamRoutineTimeout_sound {n} : ResOk (execCamRoutineTimeout n s) :=
  .next (by
      split
      · exact lateWin_sound h
      · exact settleCall_sound (by split; exacts [h, .ite (popOp_sound h) (.frame h)]))

theorem routineScanApply_sound {args} : ReplyOk (routineScanApply s args) :=
  .ite (outOfRange_sound h) (.ite (fails_sound h) (.now (scanApply_sound h)))

theorem routineHltReset_sound {args} : ReplyOk (routineHltReset s args) :=
  .ite (outOfRange_sound h) (.ite (fails_sound h) (.ite (fails_sound h) (.now (hltReset_sound h))))

theorem routineClaimRead_sound {args} : ReplyOk (routineClaimRead s args) := .ite (fails_sound h) (.now h)
theorem routineKeyEnroll_sound {args} : ReplyOk (routineKeyEnroll s args) :=
  .ite (fails_sound h) (.ite (fails_sound h) (.ite (fails_sound h) (done_sound (.frame h))))

theorem routineKeyRevoke_sound {args} : ReplyOk (routineKeyRevoke s args) :=
  .ite (fails_sound h)
    (.ite (fails_sound h) (.ite (fails_sound h) (.ite (outOfRange_sound h) (done_sound (.frame h)))))

theorem routinePairRestart_sound {args} : ReplyOk (routinePairRestart s args) :=
  .ite (fails_sound h) (.ite (fails_sound h) (done_sound (.frame h)))

theorem peerWriteChecked_sound {e args} : ReplyOk (peerWriteChecked s e args) :=
  .ite (fails_sound h) (.ite (fails_sound h) (by split; exacts [.now h, .later (.frame (sendBulk_sound h))]))

theorem routinePeerWrite_sound {e args} : ReplyOk (routinePeerWrite s e args) :=
  .ite (refuse_sound h) (.ite (outOfRange_sound h) (withArgs_sound h (fun _ => peerWriteChecked_sound h)))

theorem settlePeer_sound {c a} : StoresOk (settlePeer s c a) := settleCall_sound (.frame h)
theorem settlePeers_sound : StoresOk (settlePeers s) := .foldl (fun _ _ h => settlePeer_sound (.frame h)) h
theorem execPeerWriteTimeout_sound : ResOk (execPeerWriteTimeout s) :=
  .next (by split; exacts [lateWin_sound h, settlePeer_sound h])

theorem routine_sound {e n args} : ReplyOk (routine s e n args) := by
  unfold routine
  split
  · exact withArgs_sound h (fun _ => camRoutine_sound h)
  · exact withArgs_sound h (fun _ => camRoutine_sound h)
  · exact withArgs_sound h (fun _ => routineScanApply_sound h)
  · exact withArgs_sound h (fun _ => routineHltReset_sound h)
  · exact withArgs_sound h (fun _ => routineClaimRead_sound h)
  · exact withArgs_sound h (fun _ => routineKeyEnroll_sound h)
  · exact withArgs_sound h (fun _ => routineKeyRevoke_sound h)
  · exact withArgs_sound h (fun _ => routinePairRestart_sound h)
  · exact routinePeerWrite_sound h
  · exact fails_sound h

theorem runCall_sound {e pl} : ReplyOk (runCall s e pl) :=
  .ite (refuse_sound h) (.ite (refuse_sound h) (.ite (refuse_sound h) (.ite (refuse_sound h) (routine_sound h))))

theorem runUnknown_sound {_e _pl} : ReplyOk (runUnknown s _e _pl) := refuse_sound h
theorem execUnknownLetterKind_sound {e pl} : ResOk (execUnknownLetterKind e pl s) :=
  .next (.ite h (accept_sound h (fun _ _ _ h => runUnknown_sound h)))

/-! ### Machine/Twin -/

theorem placePages_sound {pages} : StoresOk (placePages s pages) := by
  unfold placePages; split; exacts [.frame h, h]

theorem alignTo_sound {line tb} : StoresOk (alignTo s line tb) :=
  .ite (.frame (.frame (setFldInt_sound h))) (.ite (.frame (.frame (setFldInt_sound h)))
      (.ite (.frame (alarm_sound (.frame (setFldInt_sound h)))) (.frame (setFldInt_sound h))))

theorem takePlace_sound {x} : StoresOk (takePlace s x) := placePages_sound (.frame h)
theorem applyPlace_sound {line tb x measure} : StoresOk (applyPlace s line tb x measure) :=
  .ite (.ite (alignTo_sound (.ite (.frame (takePlace_sound h)) (takePlace_sound h)))
      (.ite (.frame (takePlace_sound h)) (takePlace_sound h))) h

theorem applyMapAct_sound {named x} : StoresOk (applyMapAct s named x) := buildVersion_sound (.frame h)
theorem applyEntry_sound {measure x} : StoresOk (applyEntry measure s x) := by
  unfold applyEntry
  split
  · exact applyPlace_sound h
  · exact .frame h
  · exact noteKept_sound (storeEffect_sound h)
  · exact storeVec_sound h
  · exact armLq_sound h
  · exact armLq_sound h
  · exact applyMapAct_sound h
  · exact retireVersion_sound h
  · exact armLq_sound h
  · exact .frame h
  · exact h.with_shared (memStore_wf h.shared _)
  · exact mirrorMotion_sound h
  · exact setFld_sound (setFld_sound (setFld_sound h))
  · exact declareJob_sound h
  · exact endAndNext_sound h
  · exact ctxCommit_sound h
  · exact expGo_sound h
  · exact setFld_sound (setFld_sound (.frame h))
  · exact installImage_sound h
  · exact unloadStw_sound h
  · exact haltStw_sound h
  · exact h
  · exact h

theorem applyHamper_sound {hm} : StoresOk (applyHamper s hm) :=
  .frame (setFld_sound
      (setFld_sound (setFld_sound (setFld_sound (setFld_sound (.foldl (fun _ _ h => applyEntry_sound h) h))))))

theorem putMirrored_sound {a v} : StoresOk (putMirrored s a v) := setStnWord_sound h
theorem takeStations_sound {words vecs} : StoresOk (takeStations s words vecs) :=
  .frame (.foldl (fun _ _ h => putMirrored_sound h) (.foldl (fun _ _ h => putMirrored_sound h) h))

theorem takeJobs_sound {running next place} : StoresOk (takeJobs s running next place) := by
  cases running with
  | none => exact .frame h
  | some x => refine .getD (.map (fun _ => takePlace_sound ?_)) ?_ <;>
      exact .ite (.frame h) (.frame (.frame (.frame h)))

theorem takeSight_sound {sets exps} : StoresOk (takeSight s sets exps) :=
  .foldl (fun _ _ h => setFld_sound (.frame h)) (.foldl (fun _ _ h => setFld_sound (.frame h)) h)

theorem takeFirmware_sound {im} : StoresOk (takeFirmware s im) := .ite (.frame (.frame h)) (alarm_sound h)
theorem takePeerWrite_sound {ws} : StoresOk (takePeerWrite s ws) :=
  .ite (.foldl (fun _ _ h => storeStation_sound h) h) h

theorem applyBulk_sound {x} : StoresOk (applyBulk s x) := by
  unfold applyBulk
  split
  · exact .ite (dramWrite_sound h) (trackRange_sound (dramWrite_sound h))
  · exact takeFirmware_sound h
  · exact takePeerWrite_sound h
  · exact takeStations_sound h
  · exact .frame h
  · exact .frame h
  · exact .frame h
  · exact .foldl (fun _ _ h => applyEntry_sound h) h
  · exact takeJobs_sound h
  · exact takeSight_sound h
  · exact .ite h (installImage_sound h)
  · split; exacts [.frame (dramWrite_sound h), h]
  · exact .frame h
  · exact .frame h

theorem actTwinBulkReceive_sound {b i n} : ResOk (actTwinBulkReceive b i n s) :=
  .next (.ite (.ite (applyBulk_sound (.frame h)) (.frame h)) h)

theorem sendSnapshot_sound : StoresOk (sendSnapshot s) :=
  .foldl (fun _ _ h => sendBulk_sound h)
    (sendBulk_sound (.foldl (fun _ _ h => sendDram_sound h) (.foldl (fun _ _ h => sendBulk_sound h) (.frame h))))

/-! ### Machine/Roles -/

theorem changeRole_sound {r} : StoresOk (changeRole s r) := setEventAll_sound (setFld_sound (.frame (.frame h)))
theorem sendDue_sound : StoresOk (sendDue s) := .frame (.foldl (fun _ _ h => sendReceiptNow_sound h) h)
theorem takeBar_sound {epoch forced} : StoresOk (takeBar s epoch forced) := by
  simp only [takeBar]
  refine sendPostcard_sound (sendDue_sound ?_)
  refine .foldl (fun _ _ h => camBringUp_sound h) ?_
  refine .foldl (fun _ _ h => startSteward_sound h) (forgetCustomers_sound ?_)
  refine .foldl (fun _ _ h => bringUp_sound h) (.frame (setFld_sound (.frame ?_)))
  exact healthAtRole_sound (camsAtRole_sound (pkrRoleChange_sound (podZonesAtRole_sound
    (dmaAtRole_sound (motionAtRole_sound (changeRole_sound (.frame h)))))))

theorem electActive_sound {epoch} : StoresOk (electActive s epoch) := by
  simp only [electActive]
  refine sendPostcard_sound ?_
  refine .foldl (fun _ _ h => camBringUp_sound h) ?_
  refine .foldl (fun _ _ h => bringUp_sound h) ?_
  exact .frame (camsAtRole_sound (podZonesAtRole_sound (changeRole_sound (.frame h))))

theorem loseBar_sound : StoresOk (loseBar s) := by
  simp only [loseBar]
  refine changeRole_sound (.frame (healthAtRole_sound (pkrRoleChange_sound (.frame (camsAtRole_sound ?_)))))
  refine .foldl (fun _ _ h => camLinkDown_sound h) (forgetCustomers_sound ?_)
  exact .foldl (fun _ _ h => haltStw_sound h) (dmaAbortAll_sound (pressOutputsLow_sound h))

theorem idlePods_sound : StoresOk (idlePods s) := .foldl (fun _ _ h => .frame (setFldB_sound (setFldB_sound h))) h
theorem startResync_sound : StoresOk (startResync s) :=
  sendPostcard_sound
    (.foldl (fun _ _ h => unloadStw_sound h) (.frame (beginLong_sound (.ite h (changeRole_sound h)))))

omit h in
theorem applyInOrder_sound {hs : List Hamper} {s : State} (h : StoresOk s) : StoresOk (applyInOrder s hs) := by
  induction hs generalizing s with
  | nil => exact h
  | cons x xs ih => exact .ite (ih (applyHamper_sound h)) (ih h)

theorem execResyncEnd_sound : ResOk (execResyncEnd s) :=
  .next (by
      split
      · exact .ite (sendPostcard_sound (endLong_sound (.frame (.frame (.frame (applyInOrder_sound h)))))) h
      · exact h)

theorem execResyncTimeout_sound : ResOk (execResyncTimeout s) :=
  .next (by split; exacts [.ite (endLong_sound (alarm_sound (.frame h))) h, h])

theorem unjoin_sound : StoresOk (unjoin s) := startResync_sound (.frame h)
theorem acceptHamper_sound {hm} : StoresOk (acceptHamper s hm) :=
  sendPostcard_sound (auxPulse_sound (.ite (applyHamper_sound h) (.frame (applyHamper_sound h))))

theorem execHamperReceive_sound {hm whole} : ResOk (execHamperReceive hm whole s) :=
  .next (.ite h (.ite (.frame h) (.ite (.ite (acceptHamper_sound h) (.ite (unjoin_sound h) h)) h)))

theorem twnLate_sound : StoresOk (twnLate s) := incFld_sound h
theorem execHamperTimeout_sound {arrived} : ResOk (execHamperTimeout arrived s) :=
  .next (.ite (twnLate_sound h) (.ite (unjoin_sound (alarm_sound h)) h))

theorem dropTwin_sound : StoresOk (dropTwin s) :=
  .foldl (fun _ _ h => settleLetter_sound h) (.ite (declineHandover_sound
        (.ite (.foldl (fun _ _ h => startSteward_sound h) (releaseAll_sound (.frame h)))
          (releaseAll_sound (.frame h)))) (.ite
        (.foldl (fun _ _ h => startSteward_sound h) (releaseAll_sound (.frame h))) (releaseAll_sound (.frame h))))

theorem resetTwin_sound : StoresOk (resetTwin s) := alarm_sound (dropTwin_sound (.frame h))
theorem execActiveTwinSilence_sound {arrived} : ResOk (execActiveTwinSilence arrived s) :=
  .next (.ite (twnLate_sound h) (.ite (resetTwin_sound (.frame h)) (.frame h)))

theorem giveBar_sound : StoresOk (giveBar s) :=
  sendPostcard_sound (incFld_sound
      (.frame (loseBar_sound (.frame (.foldl (fun _ _ h => sendIdle_sound h) (releaseHeld_sound h))))))

theorem takeAck_sound {c} : StoresOk (takeAck s c) :=
  settlePeers_sound (releaseHeld_sound (nameBulks_sound
        (.frame (.ite (by split; exacts [.frame (setFld_sound (setFld_sound (setFld_sound h))), h]) h))))

theorem standbyPostcard_sound {c} : StoresOk (standbyPostcard s c) :=
  .ite (.ite (giveBar_sound (takeAck_sound (.ite (.frame h) h))) (takeAck_sound (.ite (.frame h) h)))
    (.ite (sendSnapshot_sound (dropTwin_sound h)) (.ite (sendSnapshot_sound h) (takeAck_sound h)))

theorem standDown_sound : StoresOk (standDown s) :=
  startResync_sound (.frame (alarm_sound (idlePods_sound (loseBar_sound (.frame h)))))

theorem pairFound_sound {c} : StoresOk (pairFound s c) := .ite (.frame h) h
theorem electingPostcard_sound {c} : StoresOk (electingPostcard s c) :=
  .ite (sendPostcard_sound (alarm_sound (changeRole_sound h)))
    (.ite (sendPostcard_sound (changeRole_sound h)) (.ite (startResync_sound (pairFound_sound h))
        (.ite (.ite h (.ite (.ite (electActive_sound h) h) (startResync_sound (sendPostcard_sound (.frame h)))))
          h)))

theorem settleHanded_sound : StoresOk (settleHanded s) := .foldl (fun _ _ h => settleLetter_sound h) (.frame h)
theorem takeHandover_sound : StoresOk (takeHandover s) :=
  .frame (sendExpress_sound (alarm_sound (takeBar_sound (incFld_sound h))))

theorem activePostcard_sound {c} : StoresOk (activePostcard s c) :=
  .ite (takeHandover_sound h) (.ite (.ite (settleHanded_sound (.ite (.frame h) h)) (.ite (.frame h) h)) h)

theorem actPostcardReceive_sound {c} : ResOk (actPostcardReceive c s) := by
  refine .next (.ite h ?_)
  extract_lets _ _ t u
  have ht : StoresOk t := .frame h
  have hu : StoresOk u := .ite (alarm_sound ht) ht
  split
  · exact electingPostcard_sound hu
  · exact .ite (standDown_sound hu) (.ite (standbyPostcard_sound (pairFound_sound hu)) hu)
  · exact activePostcard_sound hu
  · exact hu

theorem execTwinSilence_sound {arrived} : ResOk (execTwinSilence arrived s) :=
  .next (.ite h (.ite (twnLate_sound h) (.ite (.frame (.frame h)) (alarm_sound (.frame h)))))

theorem execTwinPathSilent_sound {pin arrived} : ResOk (execTwinPathSilent pin arrived s) :=
  .next (.ite h (.ite (twnLate_sound h) (.ite (alarm_sound (incFld_sound (.frame h))) (.frame h))))

theorem execPeerResetWaitEnd_sound : ResOk (execPeerResetWaitEnd s) :=
  .next (.ite (.ite (electActive_sound (.frame h))
        (.ite (sendExpress_sound (alarm_sound (incFld_sound (takeBar_sound (.frame h))))) (.frame h))) h)

theorem stopForHandover_sound : StoresOk (stopForHandover s) :=
  .ite (.frame (closeHamper_sound (.frame (.foldl (fun _ _ h => recordOutcome_sound h)
            (.foldl (fun _ _ h => haltStw_sound h) (dmaAbortAll_sound (.frame h))))))) h

theorem execHamperTimedClose_sound : ResOk (execHamperTimedClose s) :=
  .next (.ite h (.ite (stopForHandover_sound h) (closeHamper_sound h)))

theorem statusStations_sound {p x} : StoresOk (statusStations s p x) :=
  setFld_sound (setFld_sound (setFld_sound (setFld_sound (setFld_sound
            (setFld_sound (setFldB_sound (setFldB_sound
                  (setFldB_sound (setFldB_sound (setFldB_sound (setFld_sound (setFld_sound h))))))))))))

theorem raiseEpoch_sound {p x} : StoresOk (raiseEpoch s p x) := .ite (.frame h) (.ite (.frame h) h)
theorem clearInhibit_sound {p x} : StoresOk (clearInhibit s p x) := .ite (journalPower_sound (setFld_sound h)) h
theorem activeStatus_sound {p x} : StoresOk (activeStatus s p x) :=
  .ite (standDown_sound h) (.ite (alarm_sound (.frame h))
      (statusWait_sound (.frame (podReading_sound (clearInhibit_sound (raiseEpoch_sound h))))))

theorem execPodStatus_sound {p st bad} : ResOk (execPodStatus p st bad s) :=
  .next (.ite h (.ite (discardUpstream_sound h)
        (.ite (activeStatus_sound (statusStations_sound (.frame h))) (statusStations_sound (.frame h)))))

theorem execPodBringupTimeout_sound {p} : ResOk (execPodBringupTimeout p s) :=
  .next (.ite h (by split; exacts [h, h, fallBack_sound h, handBack_sound (alarm_sound (.frame h))]))

/-! ### Machine/Boundary -/

theorem lineSyncOut_sound {t} : StoresOk (lineSyncOut s t) := .ite (.frame h) h
theorem boundaryHamper_sound : StoresOk (boundaryHamper s) :=
  .ite (stopForHandover_sound h) (.ite h (.ite (closeHamper_sound h) h))

theorem execFireLineBoundary_sound {t m replica} : ResOk (execFireLineBoundary t m replica s) := by
  have ht := plcTime_sound h (t := t)
  simp only [execFireLineBoundary]
  refine .next (.ite (boundaryHamper_sound (throttleAtBoundary_sound ?_)) ht)
  exact evalSlack_sound (.frame (auxPulse_sound (lineSyncOut_sound (setEventAll_sound (.frame (.frame ht))))))

/-! ### Machine/Startup -/

omit h in
theorem initialState_sound : StoresOk (initialState s) := .frame State.reset_sound
omit h in
theorem resetKind0_sound {strap} : StoresOk (resetKind0 s strap) := .frame (.frame initialState_sound)
theorem warmState_sound : StoresOk (warmState s) :=
  .frame (State.reset_sound.with_dram h.dram (single := []) (poison := []))

theorem resetWarm_sound {kind p} : StoresOk (resetWarm s kind p) := .frame (.frame (warmState_sound h))
theorem bootFrom_sound {n pend} : StoresOk (bootFrom s n pend) :=
  .ite (.frame h) (.ite (.frame (alarm_sound h)) (.frame (alarm_sound h)))

theorem bootRom_sound : StoresOk (bootRom s) :=
  .ite (.frame h) (by split; exacts [.ite (bootFrom_sound (.frame h)) (bootFrom_sound h), bootFrom_sound h])

theorem execRestartReset_sound : ResOk (execRestartReset s) :=
  .next (by split; exacts [h, .ite (bootRom_sound (resetWarm_sound h)) h, .frame (.frame h)])

theorem restoreWord_sound {e} : StoresOk (restoreWord s e) := by
  unfold restoreWord; split; exacts [setStnWord_sound h, h]

theorem restoreSmall_sound : StoresOk (restoreSmall s) := by
  unfold restoreSmall
  split
  · exact setFldB_sound
      (.foldl (fun _ _ h => setFldB_sound h) (.frame (.foldl (fun _ _ h => restoreWord_sound h) h)))
  · exact alarm_sound h

theorem restoreBulk_sound : StoresOk (restoreBulk s) := by
  unfold restoreBulk; split; exacts [setFldB_sound (.frame h), alarm_sound h]

theorem restoreMap_sound : StoresOk (restoreMap s) :=
  .ite (setFldB_sound (.frame (.frame h)))
    (.ite (alarm_sound (.frame (.frame h))) (alarm_sound (.frame (.frame h))))

theorem restoreDram_sound {trained fastOk part} : StoresOk (restoreDram s trained fastOk part) :=
  .frame (setFld_sound (setFld_sound (setFldB_sound (setFldB_sound (setFld_sound h)))))

theorem restoreAll_sound {trained fastOk part} : StoresOk (restoreAll s trained fastOk part) :=
  restoreDram_sound (.frame (restoreMap_sound (setPodEntries_sound (restoreBulk_sound (restoreSmall_sound h)))))

theorem confirmImage_sound : StoresOk (confirmImage s) := by
  unfold confirmImage; split; exacts [.frame h, h]

theorem residentUnit_sound {u act period} : StoresOk (residentUnit s u act period) :=
  tmcArm_sound (setFld_sound (setFld_sound (setFld_sound (setFld_sound h))))

theorem startResident_sound : StoresOk (startResident s) :=
  residentUnit_sound (residentUnit_sound (modStw_sound (modStw_sound h (fun _ => .frame)) (fun _ => .frame)))

omit h in
theorem numberEarly_sound {qs : List QRec} {s : State} (h : StoresOk s) : StoresOk (numberEarly s qs) := by
  induction qs generalizing s with
  | nil => exact h
  | cons q qs ih => exact ih (takeMseq_sound (i := 1) h :)

theorem firstRecord_sound : StoresOk (firstRecord s) :=
  numberEarly_sound (alarm_sound (s := { s with mbx := { s.mbx with queue := [], started := true } }) h)

theorem execReadiness_sound {trained fastOk part} : ResOk (execReadiness trained fastOk part s) :=
  .next (.ite (firstRecord_sound (.frame (.foldl (fun _ _ h => .frame h)
            (startResident_sound (.ite (confirmImage_sound (spareCheck_sound (restoreAll_sound h)))
                (spareCheck_sound (restoreAll_sound h))))))) h)

/-! ### Machine/Jtag -/

theorem loadIr_sound {c} : StoresOk (loadIr s c) := .ite h (.frame h)
theorem capture_sound {bits} : StoresOk (capture s bits) := .ite h (.frame h)
theorem boundaryOp_sound {c} : StoresOk (boundaryOp s c) := capture_sound (loadIr_sound h)
theorem pinOp_sound {c} : StoresOk (pinOp s c) := capture_sound (loadIr_sound h)
theorem execImageLoad_sound : ResOk (execImageLoad s) :=
  .next (.ite (.frame (loadIr_sound h)) (capture_sound (loadIr_sound h)))

theorem execImageCommit_sound : ResOk (execImageCommit s) :=
  .next (.ite (.ite (.frame (.frame (loadIr_sound h))) (.frame (loadIr_sound h))) (capture_sound (loadIr_sound h)))

/-! ### Machine/Scalar -/

theorem scalarLoad_sound {k d a imm n lkind parity} : ResOk (scalarLoad s k d a imm n lkind parity) :=
  onSteward_sound h (fun _ h => loadFrom_sound h (fun _ _ h => finG_sound h))

theorem scalarStore_sound {k d a imm n} : ResOk (scalarStore s k d a imm n) :=
  onSteward_sound h (fun _ h => storeTo_sound h)

theorem execLoadDataReturn_sound {k ecc} : ResOk (execLoadDataReturn k ecc s) := by
  unfold execLoadDataReturn
  split
  · exact .ite (.next h) (.ite (.next (stewardFault_sound
            (modStw_sound (dramReadEffect_sound (newEccError_sound (.frame h))) (fun _ => .frame))))
        (.ite (.next
            (finV_sound (modStw_sound (dramReadEffect_sound (newEccError_sound (.frame h))) (fun _ => .frame))))
          (.next
            (finG_sound (modStw_sound (dramReadEffect_sound (newEccError_sound (.frame h))) (fun _ => .frame))))))
  · exact .next h

theorem amo_sound {k d a b parity new} : ResOk (amo s k d a b parity new) := by
  refine onSteward_sound h (fun s h => .ite (faultMisaligned_sound h) ?_)
  split
  · refine .ite (faultParity_sound h) (modStw_sound h (fun w hw => ?_))
    have hm : ∀ o v, StwOk { w with dmem := memPutNat w.dmem o 4 v } := fun o v => ⟨hw.1, memPutNat_wf hw.2 o 4 v⟩
    exact .frame (Steward.setG_sound (hm _ _))
  · exact finG_sound (h.with_shared (memPutNat_wf h.shared _ _ _))
  · exact faultAccess_sound h

theorem execJal_sound {k off} : ResOk (execJal k off s) :=
  onSteward_sound h (fun _ h => jumpTo_sound h (fun _ h => Steward.setG_sound h))

theorem execJalr_sound {k d a} : ResOk (execJalr k d a s) :=
  onSteward_sound h (fun _ h => jumpTo_sound h (fun _ h => Steward.setG_sound h))

theorem execHalt_sound {k} : ResOk (execHalt k s) :=
  onSteward_sound h (fun _ h => modStw_sound h (fun _ h => .frame (.frame h)))

/-! ### Machine/TimeLetters -/

theorem runSync_sound {t inc e pl} : ReplyOk (runSync t inc s e pl) :=
  orBad_sound h (.silent (takeSync_sound (.frame h)))

theorem dropBusyBroadcast_sound {e pl} : StoresOk (dropBusyBroadcast s e pl) := .ite (.frame h) h
theorem execSync_sound {e pl t inc} : ResOk (execSync e pl t inc s) :=
  .next (accept_sound (dropBusyBroadcast_sound (advanceTo_sound h)) (fun _ _ _ h => runSync_sound h))

theorem runDelayReq_sound {t2 t3 e pl} : ReplyOk (runDelayReq t2 t3 s e pl) :=
  orBad_sound h (.silent (sendEnv_sound h))

theorem execDelayReq_sound {e pl t2 t3} : ResOk (execDelayReq e pl t2 t3 s) :=
  .next (accept_sound (advanceTo_sound h) (fun _ _ _ h => runDelayReq_sound h))

theorem execDelayReqSend_sound {t1East t1West} : ResOk (execDelayReqSend t1East t1West s) :=
  .ite (.next h) (.next (.frame (sendEnv_sound (sendEnv_sound (advanceTo_sound h)))))

theorem runDelayResp_sound {t4 e pl} : ReplyOk (runDelayResp t4 s e pl) :=
  orBad_sound h (.silent (by split; exacts [.frame h, .frame h, h]))

theorem execDelayResp_sound {e pl t4} : ResOk (execDelayResp e pl t4 s) :=
  .next (accept_sound (advanceTo_sound h) (fun _ _ _ h => runDelayResp_sound h))

/-! ### Machine/Vector -/

theorem opMerge_sound {k vd va vb pg f} : ResOk (opMerge s k vd va vb pg f) :=
  onSteward_sound h (fun _ h => finV_sound h)

theorem opZero_sound {k pd pg f} : ResOk (opZero s k pd pg f) := onSteward_sound h (fun _ h => finP_sound h)
theorem opPred_sound {k pd pa pb f} : ResOk (opPred s k pd pa pb f) := onSteward_sound h (fun _ h => finP_sound h)
theorem execVld_sound {k vd a imm parity} : ResOk (execVld k vd a imm parity s) :=
  onSteward_sound h (fun _ h => loadFrom_sound h (fun _ _ h => finV_sound h))

/-! ### Machine/Watch -/

omit h in
theorem told_sound {t} (ht : StoresOk t) : StoresOk (told s t) := .ite (sendPostcard_sound ht) ht
theorem tells_sound {act} (hact : ∀ x0, StoresOk x0 → ResOk (act x0)) : ResOk (tells act s) := by
  have hr := hact s h
  unfold tells
  generalize act s = r at hr
  cases r with
  | next t => exact told_sound hr
  | fault | refused => trivial

theorem execSst_sound {k d a imm} : ResOk (execSst k d a imm s) :=
  onSteward_sound h
    (fun _ h => stationAccess_sound h (told_sound (modStw_sound (storeStation_sound h) (fun _ => .frame))))

/-! ### The step -/

/-- Every command leaves the stores sound.  Commands with one proof stand in one case. -/
theorem exec_sound (c : Instr) : ResOk (exec c s) := by
  cases c <;> dsimp only [exec]
  case add | sub | and | or | xor | sll | srl | sra | slt | sltu | min | max | minu | maxu | mul | mulh | mulhu
      | addss | subss => exact opT_sound h
  case slli | srli | srai | clz | popc | addi | andi | ori | xori | slti | sltiu => exact opI_sound h
  case lui | vext | prdlo | prdhi | pcnt | pfirst | vsum => exact onSteward_sound h (fun _ h => finG_sound h)
  case lw | lh | lhu | lb | lbu => exact scalarLoad_sound h
  case sw | sh | sb => exact scalarStore_sound h
  case loadDataReturn => exact execLoadDataReturn_sound h
  case amoswap | amoadd | amoand | amoor | amocas => exact amo_sound h
  case beq | bne | blt | bge | bltu | bgeu | bpany | bpnone => exact opB_sound h
  case j => exact onSteward_sound h (fun _ h => jumpTo_sound h (fun _ h => h))
  case jal => exact execJal_sound h
  case jalr => exact execJalr_sound h
  case halt => exact execHalt_sound h
  case brk => exact onSteward_sound h (fun _ h => stewardFault_sound h)
  case illegal => exact execIllegal_sound h
  case vadd | vadds | vsubs | vand | vor | vxor | vmin | vmax | vlut | vsplat | vslu | vsldLanes =>
    exact opMerge_sound h
  case vsel | vins => exact onSteward_sound h (fun _ h => finV_sound h)
  case vceq | vclt | vceqi | vclti => exact opZero_sound h
  case pand | por | pxor | pandn => exact opPred_sound h
  case pwrlo | pwrhi => exact onSteward_sound h (fun _ h => finP_sound h)
  case vld => exact execVld_sound h
  case vst => exact onSteward_sound h (fun _ h => storeTo_sound h)
  case sld => exact execSld_sound h
  case sst => exact execSst_sound h
  case ssq => exact execSsq_sound h
  case vsld => exact execVsld_sound h
  case vsst => exact execVsst_sound h
  case vssq => exact execVssq_sound h
  case lqQueueRoom => exact execLqQueueRoom_sound h
  case scr => exact execScr_sound h
  case scw => exact execScw_sound h
  case fence => exact execFence_sound h
  case wait => exact onSteward_sound h (fun _ h => waitOn_sound h)
  case waitt => exact execWaitt_sound h
  case evpoll => exact onSteward_sound h (fun _ h => pollOn_sound h)
  case evsig => exact execEvsig_sound h
  case msend => exact execMsend_sound h
  case mrecv => exact execMrecv_sound h
  case stewardWake => exact execStewardWake_sound h
  case waittTimeout => exact execWaittTimeout_sound h
  case watchdogExpiry => exact execWatchdogExpiry_sound h
  case roundFrame => exact execRoundFrame_sound h
  case nak => exact .next (resendOrDown_sound h)
  case acknowledgement => exact .next (pumpPort_sound (setPort_sound h))
  case nakRepeat | peerRstRelease | holdDelayExpiry | dramDriftTrack | thermosCounterWrite | hbInEdge
      | podRateSwitch => exact .next (.ite (.frame h) h)
  case retryTimeout => exact execRetryTimeout_sound h
  case linkDown => exact .next (linkGoesDown_sound h)
  case linkTrained => exact .ite (.next (trainPort_sound (.frame h))) (.next h)
  case unwrap => exact .next (.ite (setPort_sound h) h)
  case parcelEnvelope => exact execParcelEnvelope_sound h
  case parcelTimeout => exact execParcelTimeout_sound h
  case write => exact .next (accept_sound h (fun _ _ _ h => runWrite_sound h))
  case arm => exact .next (accept_sound h (fun _ _ _ h => runArm_sound h))
  case vwrite => exact .next (accept_sound h (fun _ _ _ h => runVwrite_sound h))
  case varm => exact .next (accept_sound h (fun _ _ _ h => runVarm_sound h))
  case read => exact .next (accept_sound h (fun _ _ _ h => runRead_sound h))
  case vread => exact .next (accept_sound h (fun _ _ _ h => runVread_sound h))
  case inbox => exact .next (accept_sound h (fun _ _ _ h => runInbox_sound h))
  case load => exact execLoad_sound h
  case unload => exact .next (accept_sound h (fun _ _ _ h => runUnload_sound h))
  case restart => exact .next (accept_sound h (fun _ _ _ h => runRestart_sound h))
  case haltSteward => exact .next (accept_sound h (fun _ _ _ h => runHalt_sound h))
  case dramWrite => exact execDramWrite_sound h
  case dramRead => exact .next (accept_sound h (fun _ _ _ h => runDramRead_sound h))
  case job => exact .next (accept_sound h (fun _ _ _ h => runJobLetter_sound h))
  case longDramRetrain | longPodScan | longThermosCommit | longLaneRetune | long =>
    exact .next (accept_sound h (fun _ _ _ h => runLong_sound h))
  case longOperationEnd => exact execLongOperationEnd_sound h
  case firmware => exact execFirmware_sound h
  case handoverNow | handoverArm | handoverCancel | handover =>
    exact .next (accept_sound h (fun _ _ _ h => runHandover_sound h))
  case deadRead => exact .next (accept_sound h (fun _ _ _ h => runDeadRead_sound h))
  case deadClear => exact .next (accept_sound h (fun _ _ _ h => runDeadClear_sound h))
  case streamOpen => exact execStreamOpen_sound h
  case enumerate => exact .next (accept_sound h (fun _ _ _ h => runEnumerate_sound h))
  case assign => exact tells_sound h (fun _ h => actAssign_sound h)
  case linkStatus => exact execLinkStatus_sound h
  case status => exact .next (accept_sound h (fun _ _ _ h => runStatus_sound h))
  case sync => exact execSync_sound h
  case delayReq => exact execDelayReq_sound h
  case delayResp => exact execDelayResp_sound h
  case delayReqSend => exact execDelayReqSend_sound h
  case camRead | camWrite | hltScanApply | hltReset | claimRead | keyEnroll | keyRevoke | pairRestart | peerWrite
      | call => exact .next (accept_sound h (fun _ _ _ h => runCall_sound h))
  case camRoutineTimeout => exact execCamRoutineTimeout_sound h
  case peerWriteTimeout => exact execPeerWriteTimeout_sound h
  case feedLine => exact tells_sound h (fun _ h => actFeedLine_sound h)
  case feedPage => exact tells_sound h (fun _ h => actFeedPage_sound h)
  case feedReplay => exact tells_sound h (fun _ h => actFeedReplay_sound h)
  case feedLib => exact tells_sound h (fun _ h => actFeedLib_sound h)
  case feedJobEnd => exact tells_sound h (fun _ h => actFeedJobEnd_sound h)
  case feedDeadline => exact tells_sound h (fun _ h => actFeedDeadline_sound h)
  case pkrCompress | pkrDecompress => exact .next (pkrGo_sound h)
  case pkrJobStop => exact execPkrJobStop_sound h
  case rowLineDecision => exact execRowLineDecision_sound h
  case webEdge | illegalTransition => exact .next (.ite (webLevels_sound (plcTime_sound h)) h)
  case extrapolationEnd => exact execExtrapolationEnd_sound h
  case webIndexEdge => exact execWebIndexEdge_sound h
  case webStop => exact .next (.ite (plcTime_sound h) (.frame (plcTime_sound h)))
  case fireLineBoundary => exact execFireLineBoundary_sound h
  case rowTrigger => exact tells_sound h (fun _ h => actRowTrigger_sound h)
  case cueMark => exact execCueMark_sound h
  case pagecmpArm | podlEnable | podlPurgeGo | camEnable | ctxCommit | expGo | tmcArm | tmcDisarm | motTarget
      | segGo | motStop | motRetract | retractRelease | setPos | liftLockWrite | axisCmpArm | axisCmpDisarm
      | dramFreqGo | dmaHeadWrite | dmaRun | dmaAbort | dmaPause | dmaResume | dmaSwreq | laneTest | laneChk
      | hvEnWrite => exact storeCmd_sound h
  case pageCompareFire => exact execPageCompareFire_sound h
  case lineSyncPulse => exact execLineSyncPulse_sound h
  case syncPulseMissing => exact .next (.ite (syncLost_sound h) h)
  case lineDataSend => exact execLineDataSend_sound h
  case fireSend => exact execFireSend_sound h
  case podUnderrun => exact execPodUnderrun_sound h
  case podBringupTimeout => exact execPodBringupTimeout_sound h
  case podBringupRetry => exact .next (.ite (bringUp_sound h) h)
  case podStatus => exact execPodStatus_sound h
  case readResp => exact execReadResp_sound h
  case echoResp => exact execEchoResp_sound h
  case echoMeasure => exact execEchoMeasure_sound h
  case rscanData => exact execRscanData_sound h
  case rscanDone => exact .next (.ite (discardUpstream_sound h) (.frame (.frame h)))
  case scanTimeout => exact execScanTimeout_sound h
  case podLinkLost | podStatusSilence => exact .next (portLost_sound h)
  case camBringupRetry => exact .next (.ite (camBringUp_sound h) h)
  case camControlAck => exact execCamControlAck_sound h
  case triggerSlot => exact execTriggerSlot_sound h
  case cameraLine => exact .next (.ite (takeLine_sound h) h)
  case frameTimeout => exact execFrameTimeout_sound h
  case spoolFrameStart => exact execSpoolFrameStart_sound h
  case frameProcessed => exact execFrameProcessed_sound h
  case healthFrameScore => exact execHealthFrameScore_sound h
  case healthBatchIssue => exact execHealthBatchIssue_sound h
  case mapJournal => exact execMapJournal_sound h
  case journalFold => exact execJournalFold_sound h
  case electWaitExpiry => exact .next (.ite (.ite (alarm_sound h) (.frame h)) h)
  case peerResetWaitEnd => exact execPeerResetWaitEnd_sound h
  case postcardSend => exact .next (sendPostcard_sound h)
  case postcardReceive => exact tells_sound h (fun _ h => actPostcardReceive_sound h)
  case hamperTimedClose => exact execHamperTimedClose_sound h
  case hamperReceive => exact execHamperReceive_sound h
  case twinBulkReceive => exact tells_sound h (fun _ h => actTwinBulkReceive_sound h)
  case resyncEnd => exact execResyncEnd_sound h
  case resyncTimeout => exact execResyncTimeout_sound h
  case resyncRetry => exact .next (.ite (startResync_sound h) h)
  case twinSilence => exact execTwinSilence_sound h
  case twinPathSilent => exact execTwinPathSilent_sound h
  case activeTwinSilence => exact execActiveTwinSilence_sound h
  case hamperAckTimeout => exact .next (.ite (twnLate_sound h) (.ite (resetTwin_sound h) h))
  case hamperTimeout => exact execHamperTimeout_sound h
  case handoverLaneIdle => exact .next (.ite (.frame (idlePods_sound h)) h)
  case clearHidden => exact tells_sound h (fun _ h => actClearHidden_sound h)
  case mailbagPass => exact execMailbagPass_sound h
  case mbClearSlot | mbClearAll => exact .next (mbClear_sound h)
  case trGo => exact .next (trGo_sound h)
  case compareUnitFire => exact execCompareUnitFire_sound h
  case housekeepingRoundEnd => exact tells_sound h (fun _ h => actHousekeepingRoundEnd_sound h)
  case tbStep => exact .ite (.next h) (storeCmd_sound h)
  case tbAnchorUpdate => exact .next (setFld_sound (setFld_sound h))
  case syncHoldover => exact .next (.ite (setFld_sound h) h)
  case holdoverAlarm => exact .next (.ite (alarm_sound h) h)
  case spliceEdge => exact .next (.ite (startRetract_sound h) h)
  case axisEncoderEdge => exact .next (.ite (axLevels_sound h) h)
  case axisIndexEdge => exact .next (.ite (setFldInt_sound h) h)
  case probeEdge => exact execProbeEdge_sound h
  case dramScrub => exact tells_sound h (fun _ h => actDramScrub_sound h)
  case dramRefresh => exact .next (.ite (.frame (.frame h)) h)
  case dramMr4Poll => exact .next (.ite (.ite (setFldB_sound (.frame h)) (.frame h)) h)
  case dramFreqDone => exact execDramFreqDone_sound h
  case dmaBurst => exact execDmaBurst_sound h
  case dmaRequestTimeout => exact execDmaRequestTimeout_sound h
  case dmaDescriptorEnd => exact execDmaDescriptorEnd_sound h
  case laneLos => exact tells_sound h (fun _ h => actLaneLos_sound h)
  case laneLol => exact tells_sound h (fun _ h => actLaneLol_sound h)
  case laneLosRelease => exact .next (.ite (setFldB_sound h) h)
  case laneSettled => exact execLaneSettled_sound h
  case slackTimer => exact .next (evalSlack_sound h)
  case vfloorFall => exact .next (setFld_sound h)
  case phaseOvercurrent => exact .next (.ite (alarm_sound (.frame (setFld_sound h))) h)
  case coreUndervoltage => exact .next (.ite (alarm_sound (setFld_sound h)) h)
  case coreOvervoltage => exact .next (.ite (alarm_sound (.frame (warmState_sound h))) h)
  case hvSequenceStep => exact .next (.ite (hvRaise_sound h) h)
  case hvOkTimeout => exact .next (.ite (hvFault_sound h) h)
  case thermalModelStep => exact tells_sound h (fun _ h => actThermalModelStep_sound h)
  case powerOnReset => exact .next (resetKind0_sound)
  case pinResetAssert => exact .next (.ite (.ite h (resetWarm_sound h)) h)
  case pinResetRelease => exact .next (.ite (bootRom_sound h) h)
  case restartReset => exact execRestartReset_sound h
  case fallbackReset => exact .next (.ite (bootRom_sound (.frame (resetWarm_sound h))) h)
  case powerLoss => exact .next (.ite (.frame initialState_sound) h)
  case readiness => exact execReadiness_sound h
  case thermosSettingsCommit => exact .next (.ite (wearPages_sound (commitBank_sound h)) h)
  case i2cStatusRead => exact .next (.ite h (.frame h))
  case tapReset => exact .next (loadIr_sound h)
  case extest | extestPulse | extestTrain => exact .next (boundaryOp_sound h)
  case idcode | imageStatus => exact .next (capture_sound (loadIr_sound h))
  case samplePreload => exact .next (.ite h (.frame (loadIr_sound h)))
  case clamp | highz | bypass => exact .next (pinOp_sound h)
  case imageLoad => exact execImageLoad_sound h
  case imageLoadUpdate => exact .next (.ite (.ite (.frame h) (.frame h)) h)
  case imageCommit => exact execImageCommit_sound h
  case stationStore => exact tells_sound h (fun _ h => actStationStore_sound h)
  case unknownLetterKind => exact execUnknownLetterKind_sound h
  case laneLolRelease => exact tells_sound h (fun _ h => actLaneLolRelease_sound h)
  case groupAligned => exact tells_sound h (fun _ h => actGroupAligned_sound h)
  case groupAlignmentLost => exact tells_sound h (fun _ h => actGroupAlignmentLost_sound h)
  case dmaPauseDrained => exact .next (.ite (setDmaState_sound h) h)

theorem step_sound : ResOk (step s) := by
  unfold step
  split
  · exact h
  · exact exec_sound h.frame _

end
end Sys2Proof.Machine
end

section
namespace Sys2Proof.Machine
open Sys2Proof

/-- Settles O3: `step_sound`, at a step that goes on. -/
theorem stepKeepsStores : Obligations.StepKeepsStores := by
  unfold Obligations.StepKeepsStores
  intro s t h hst
  have hres := step_sound h
  rwa [hst] at hres

end Sys2Proof.Machine
end

section
/-! A store to a plain block, the blocks whose stations do nothing but hold their bits. -/
namespace Sys2Proof.Machine
open Sys2Proof

/-! ## Updates that leave the stations and the memories alone -/

/-- `t` has the stations, the memories and the stewards of `s`. -/
structure SameStores (s t : State) : Prop where
  stn : t.stn = s.stn
  vstn : t.vstn = s.vstn
  dram : t.dram = s.dram
  shared : t.shared = s.shared
  stewards : t.stewards = s.stewards

theorem SameStores.refl (s : State) : SameStores s s := ⟨rfl, rfl, rfl, rfl, rfl⟩

theorem SameStores.trans {s t u : State} (h : SameStores s t) (g : SameStores t u) : SameStores s u :=
  ⟨g.stn.trans h.stn, g.vstn.trans h.vstn, g.dram.trans h.dram, g.shared.trans h.shared, g.stewards.trans h.stewards⟩

theorem SameStores.ok {s t : State} (h : SameStores s t) (hs : StnOk s) : StnOk t := by
  rw [StnOk, h.stn]; exact hs

theorem SameStores.word {s t : State} (h : SameStores s t) (a : Nat) : stnWord t a = stnWord s a := by
  rw [stnWord, h.stn]; rfl

theorem setPort_same (s : State) (l : Link) (p : Port) : SameStores s (setPort s l p) := by
  cases l <;> exact ⟨rfl, rfl, rfl, rfl, rfl⟩

theorem pumpPort_same (s : State) (l : Link) : SameStores s (pumpPort s l) := by
  unfold pumpPort
  dsimp only
  split
  · exact setPort_same s l _
  · exact .refl s

theorem sendTwin_same (s : State) (sp : Space) (e : Env) (bytes : List Byte) (o : Out) :
    SameStores s (sendTwin s sp e bytes o) :=
  ((setPort_same s .twin _).trans (pumpPort_same _ .twin)).trans ⟨rfl, rfl, rfl, rfl, rfl⟩

theorem sendPostcard_same (s : State) (release : Bool) : SameStores s (sendPostcard s release) := by
  unfold sendPostcard
  split
  · refine SameStores.trans ?_ (sendTwin_same _ _ _ _ _)
    exact ⟨rfl, rfl, rfl, rfl, rfl⟩
  · exact .refl s

theorem told_same (s t : State) : SameStores t (told s t) := by
  unfold told
  split
  · exact sendPostcard_same t false
  · exact .refl t

theorem noteKept_same (s t : State) (a : Nat) : SameStores t (noteKept s t a) := by
  unfold noteKept
  split
  · split
    · exact ⟨rfl, rfl, rfl, rfl, rfl⟩
    · exact .refl t
  · exact .refl t

theorem journal_same (s : State) (x : JEntry) : SameStores s (journal s x) := by
  unfold journal
  split
  · exact ⟨rfl, rfl, rfl, rfl, rfl⟩
  · exact .refl s

theorem journalStore_same (s : State) (a : Nat) (v : Word) : SameStores s (journalStore s a v) := by
  unfold journalStore
  split
  · exact journal_same s _
  · exact .refl s

/-! ## The plain blocks -/

/-- An address of ROUND, FEED, AUX, PWR or THM. -/
abbrev PlainBlock (a : Nat) : Prop :=
  a / 0x1000000 = 0x40 ∨ a / 0x1000000 = 0x41 ∨ a / 0x1000000 = 0x44 ∨ a / 0x1000000 = 0x50 ∨ a / 0x1000000 = 0x52

/-- The banked group lies in the mailbag's block. -/
theorem block_of_bankedStation {a : Nat} (h : bankedStation a = true) : a / 0x1000000 = 0x4A := by
  have hranges : ∀ r ∈ groupRanges, groupClass r.group = .banked →
      r.lo / 0x1000000 = 0x4A ∧ r.hi / 0x1000000 = 0x4A := by decide
  have hclass : stnClass a = .banked := by simpa [bankedStation] using h
  rw [stnClass, stnGroup] at hclass
  cases hfind : groupRanges.find? (fun r => decide (r.lo ≤ a) && decide (a ≤ r.hi)) with
  | none => simp [hfind] at hclass
  | some r =>
    rw [hfind] at hclass
    have hin := List.find?_some hfind
    obtain ⟨hlo, hhi⟩ := hranges r (List.mem_of_find?_eq_some hfind) hclass
    simp only [Bool.and_eq_true, decide_eq_true_eq] at hin
    omega

theorem bankedStation_of_plain {a : Nat} (hb : PlainBlock a) : bankedStation a = false := by
  by_contra h
  have := block_of_bankedStation (by simpa using h)
  omega

/-- No plain block but PWR has an effect of its own, and that of PWR is at HK_PERIOD alone. -/
theorem storeEffect_of_plain {a : Nat} (hb : PlainBlock a) (s : State) (v : Word) :
    storeEffect s a v = storePwr s a v := by
  have hother : a / 0x1000000 ≠ 0x50 → storePwr s a v = plainStore s a v := fun hne => by
    have : a ≠ 0x50000024 := by omega
    simp only [storePwr, this, if_false]
  rcases hb with hb | hb | hb | hb | hb
  · have hblock : (a - 0x40000000) / 0x1000000 = 0 := by omega
    simp only [storeEffect, hblock, hother (by omega)]
  · have hblock : (a - 0x40000000) / 0x1000000 = 1 := by omega
    simp only [storeEffect, hblock, hother (by omega)]
  · have hblock : (a - 0x40000000) / 0x1000000 = 4 := by omega
    simp only [storeEffect, hblock, hother (by omega)]
  · have hblock : (a - 0x40000000) / 0x1000000 = 16 := by omega
    simp only [storeEffect, hblock]
  · have hblock : (a - 0x40000000) / 0x1000000 = 18 := by omega
    simp only [storeEffect, hblock, hother (by omega)]

/-! ## What a plain store writes -/

/-- The bits of the station stored to: RW bits as written, W1C bits cleared by a 1, the others as they were (R9). -/
theorem plainStore_getLsbD {s : State} (h : StnOk s) {a : Nat} {r : StnRow} (hr : stnRow a = some r) (v : Word)
    {i : Nat} (hi : i < 32) :
    (stnWord (plainStore s a v) a).getLsbD i
      = (((r.rw.testBit i && v.getLsbD i) || (!r.rw.testBit i && (stnWord s a).getLsbD i))
          && !(r.w1c.testBit i && v.getLsbD i)) := by
  simp only [plainStore, hr, stnWord_set_same h, BitVec.getLsbD_and, BitVec.getLsbD_or, BitVec.getLsbD_not,
    BitVec.getLsbD_ofNat, hi, decide_true, Bool.true_and]
  cases r.rw.testBit i <;> cases r.w1c.testBit i <;> simp

theorem plainStore_other {s : State} (h : StnOk s) {a y : Nat} (v : Word) (hy : y ≠ a) :
    stnWord (plainStore s a v) y = stnWord s y := by
  unfold plainStore
  split
  · rfl
  · exact stnWord_set_other h _ hy

theorem plainStore_ok {s : State} (h : StnOk s) (a : Nat) (v : Word) : StnOk (plainStore s a v) := by
  unfold plainStore
  split
  · exact h
  · exact setStnWord_ok h _ _

/-- What a store of `v` to the plain station `a` of row `r` leaves in `t`. -/
structure StoredPlainly (s t : State) (a : Nat) (v : Word) (r : StnRow) : Prop where
  bits : ∀ i : Nat, i < 32 → (stnWord t a).getLsbD i
    = (((r.rw.testBit i && v.getLsbD i) || (!r.rw.testBit i && (stnWord s a).getLsbD i))
        && !(r.w1c.testBit i && v.getLsbD i))
  others : ∀ y : Nat, y ≠ a → (a = 0x50000024 → y ≠ (F.TIME_PERIOD 6).addr) → stnWord t y = stnWord s y
  hkPeriod : a = 0x50000024 → fld t (F.TIME_PERIOD 6) = max 1 (fld t F.PWR_HK_PERIOD) * 250000
  vstn : t.vstn = s.vstn
  dram : t.dram = s.dram
  shared : t.shared = s.shared
  stewards : t.stewards = s.stewards

/-- Updates beside the stations, before the store and after it, change nothing of that. -/
theorem StoredPlainly.of_same {s s' t t' : State} {a : Nat} {v : Word} {r : StnRow} (h : StoredPlainly s' t' a v r)
    (hs : SameStores s s') (ht : SameStores t' t) : StoredPlainly s t a v r where
  bits i hi := by rw [ht.word, h.bits i hi, hs.word]
  others y hy hk := by rw [ht.word, h.others y hy hk, hs.word]
  hkPeriod ha := by simpa only [fld, ht.word] using h.hkPeriod ha
  vstn := by rw [ht.vstn, h.vstn, hs.vstn]
  dram := by rw [ht.dram, h.dram, hs.dram]
  shared := by rw [ht.shared, h.shared, hs.shared]
  stewards := by rw [ht.stewards, h.stewards, hs.stewards]

/-- Unit 6 takes the period of the housekeeping rounds, which fits its field. -/
theorem fld_period_hkPeriodNs {s : State} (h : StnOk s) :
    fld (setFld s (F.TIME_PERIOD 6) (hkPeriodNs s)) (F.TIME_PERIOD 6) = hkPeriodNs s := by
  rw [fld_setFld_same h (by decide)]
  have hlt : fld s F.PWR_HK_PERIOD < 64 := fld_lt s F.PWR_HK_PERIOD
  refine Nat.mod_eq_of_lt ?_
  simp only [hkPeriodNs, Nat.max_def]
  split <;> omega

theorem storePwr_stores {s : State} (h : StnOk s) {a : Nat} {r : StnRow} (hr : stnRow a = some r) (v : Word) :
    StoredPlainly s (storePwr s a v) a v r := by
  have hok := plainStore_ok h a v
  have hframe : (plainStore s a v).vstn = s.vstn ∧ (plainStore s a v).dram = s.dram
      ∧ (plainStore s a v).shared = s.shared ∧ (plainStore s a v).stewards = s.stewards := by
    unfold plainStore; split <;> exact ⟨rfl, rfl, rfl, rfl⟩
  obtain ⟨hvstn, hdram, hshared, hstewards⟩ := hframe
  by_cases ha : a = 0x50000024
  · have heq : storePwr s a v = setFld (plainStore s a v) (F.TIME_PERIOD 6) (hkPeriodNs (plainStore s a v)) := by
      simp only [storePwr, ha, if_true]
    have hperiod : a ≠ (F.TIME_PERIOD 6).addr := by rw [ha]; decide
    rw [heq]
    exact {
      bits := fun i hi => by rw [stnWord_setFld_other hok _ hperiod]; exact plainStore_getLsbD h hr v hi
      others := fun y hy hk => by rw [stnWord_setFld_other hok _ (hk ha)]; exact plainStore_other h v hy
      hkPeriod := fun _ => by
        rw [fld_period_hkPeriodNs hok, fld_setFld_addr hok (g := F.PWR_HK_PERIOD) _ (by decide)]; rfl
      vstn := hvstn, dram := hdram, shared := hshared, stewards := hstewards }
  · have heq : storePwr s a v = plainStore s a v := by simp only [storePwr, ha, if_false]
    rw [heq]
    exact {
      bits := fun i hi => plainStore_getLsbD h hr v hi
      others := fun y hy _ => plainStore_other h v hy
      hkPeriod := fun e => absurd e ha
      vstn := hvstn, dram := hdram, shared := hshared, stewards := hstewards }

theorem storeStation_plain {s : State} (h : StnOk s) (k : Option (Fin 8)) {a : Nat} {r : StnRow}
    (hr : stnRow a = some r) (hb : PlainBlock a) (v : Word) : StoredPlainly s (storeStation s k a v) a v r := by
  simp only [storeStation, bankedStation_of_plain hb, storeEffect_of_plain hb]
  have hbefore : SameStores s (journalStore { s with hiw := s.hiw.filter (fun e => e.1 != a) } a v) := by
    refine SameStores.trans ?_ (journalStore_same _ a v)
    exact ⟨rfl, rfl, rfl, rfl, rfl⟩
  exact (storePwr_stores (hbefore.ok h) hr v).of_same hbefore (noteKept_same _ _ a)

/-- Settles O12: the store's effect is `storeStation_plain`; the postcard that may follow it touches no station. -/
theorem plainStationStores : Obligations.PlainStationStores := by
  unfold Obligations.PlainStationStores
  intro s k x v r h hready hok hmay hr hb
  have hexec : exec (.stationStore k x v) s = .next (told s (storeStation s k x.toNat v)) := by
    show tells (actStationStore k x v) s = _
    simp only [tells, actStationStore, hready, hok, hmay, Bool.and_self, if_true]
  have hstored := (storeStation_plain h k hr hb v).of_same (.refl s) (told_same s _)
  have hx : x = 0x50000024 → x.toNat = 0x50000024 := fun e => by rw [e]; rfl
  have hx' : x.toNat = 0x50000024 → x = 0x50000024 := fun e => BitVec.eq_of_toNat_eq e
  exact ⟨_, hexec, hstored.bits, fun y hy hk => hstored.others y hy (hk ∘ hx'), hstored.hkPeriod ∘ hx,
    hstored.vstn, hstored.dram, hstored.shared, hstored.stewards⟩

end Sys2Proof.Machine
end

section
/-! What of a device's part in its pair the operations leave as it is: its role and epoch, what it knows of its twin, the
reset line, ACTIVE_OUT, the long operation, the held receipts, and that no open alarm slot closes.  Each operation that
a change of role goes through has one lemma, `f_duty`. -/
namespace Sys2Proof.Machine
open Sys2Proof

-- Many short lemmas: elaborated one thread each, their stacks would pass the check's memory limit.
set_option Elab.async false


/-- `t` plays the part of `s` in the pair, and has every slot open that `s` has. -/
structure SameDuty (s t : State) : Prop where
  role : t.twin.role = s.twin.role
  epoch : t.twin.epoch = s.twin.epoch
  peer : t.twin.peer = s.twin.peer
  joined : t.twin.joined = s.twin.joined
  peerRst : t.twin.peerRst = s.twin.peerRst
  activeOut : t.pins.activeOut = s.pins.activeOut
  busy : t.round.busy = s.round.busy
  held : t.round.held = s.round.held
  slots : ∀ n, (slotGet s n).isOpen = true → (slotGet t n).isOpen = true

theorem SameDuty.refl (s : State) : SameDuty s s := ⟨rfl, rfl, rfl, rfl, rfl, rfl, rfl, rfl, fun _ h => h⟩

/-- An update of fields beside these, within their units too. -/
theorem SameDuty.within {s t u : State} (h : SameDuty s t) (role : u.twin.role = t.twin.role := by rfl)
    (epoch : u.twin.epoch = t.twin.epoch := by rfl) (peer : u.twin.peer = t.twin.peer := by rfl)
    (joined : u.twin.joined = t.twin.joined := by rfl) (peerRst : u.twin.peerRst = t.twin.peerRst := by rfl)
    (activeOut : u.pins.activeOut = t.pins.activeOut := by rfl) (busy : u.round.busy = t.round.busy := by rfl)
    (held : u.round.held = t.round.held := by rfl) (slots : u.mbx.slots = t.mbx.slots := by rfl) : SameDuty s u where
  role := role.trans h.role
  epoch := epoch.trans h.epoch
  peer := peer.trans h.peer
  joined := joined.trans h.joined
  peerRst := peerRst.trans h.peerRst
  activeOut := activeOut.trans h.activeOut
  busy := busy.trans h.busy
  held := held.trans h.held
  slots n hn := by rw [slotGet, slots]; exact h.slots n hn

/-- An update of other units; of the mailbag only the alarm slots matter. -/
theorem SameDuty.frame {s t : State} (h : SameDuty s t) {m : Mbx} (hm : m.slots = t.mbx.slots := by rfl)
    {stewards shared dram single poison stn vstn hiw clk tho therm boot jobs pkr scr plc plc2 pods sight hlt mot drm dma
      lanes pwr jtag out fresh pending} :
    SameDuty s
      ⟨stewards, shared, dram, single, poison, stn, vstn, hiw, clk, t.round, m, t.twin, tho, therm, boot, jobs, pkr, scr,
      plc, plc2, pods, sight, hlt, mot, drm, dma, lanes, pwr, jtag, t.pins, out, fresh, pending⟩ :=
  h.within (slots := hm)

theorem SameDuty.ite {c : Prop} {_ : Decidable c} {s t u : State} (ht : SameDuty s t) (hu : SameDuty s u) :
    SameDuty s (if c then t else u) := iteInduction (fun _ => ht) (fun _ => hu)

theorem SameDuty.foldl {α : Type} {f : State → α → State} {l : List α} {s t : State}
    (hf : ∀ u a, SameDuty s u → SameDuty s (f u a)) (h : SameDuty s t) : SameDuty s (l.foldl f t) :=
  foldl_inv (SameDuty s) f hf l h

section
variable {s t : State} (h : SameDuty s t)
include h

/-! ## Fields, stewards, alarms -/

theorem setFld_duty {f v} : SameDuty s (setFld t f v) := .frame h
theorem setFldB_duty {f b} : SameDuty s (setFldB t f b) := .frame h
theorem incFld_duty {f} : SameDuty s (incFld t f) := .frame h
theorem modStw_duty {k f} : SameDuty s (modStw t k f) := .frame h
theorem setEventAll_duty {n} : SameDuty s (setEventAll t n) := .foldl (fun _ _ h => modStw_duty h) h

theorem alarm_duty {n d} : SameDuty s (alarm t n d) where
  role := by rw [alarm_twin, h.role]
  epoch := by rw [alarm_twin, h.epoch]
  peer := by rw [alarm_twin, h.peer]
  joined := by rw [alarm_twin, h.joined]
  peerRst := by rw [alarm_twin, h.peerRst]
  activeOut := by rw [alarm_pins, h.activeOut]
  busy := by rw [alarm_round, h.busy]
  held := by rw [alarm_round, h.held]
  slots m hm := by
    by_cases e : m = n
    · rw [e]; exact slotGet_alarm_open t n d
    · rw [slotGet_alarm_other t d e]; exact h.slots m hm

theorem startSteward_duty {k reason} : SameDuty s (startSteward t k reason) := by
  unfold startSteward; split; exacts [modStw_duty h, h]

theorem forgetCustomers_duty : SameDuty s (forgetCustomers t) := .frame (.foldl (fun _ _ h => modStw_duty h) h)

/-! ## What leaves the device -/

theorem setPort_duty {l p} : SameDuty s (setPort t l p) := by
  cases l <;> exact h.within

theorem pumpPort_duty {l} : SameDuty s (pumpPort t l) := .ite (setPort_duty h) h
theorem queueFrame_duty {l sp e pl} : SameDuty s (queueFrame t l sp e pl) := pumpPort_duty (setPort_duty h)
theorem sendEnv_duty {west e pl} : SameDuty s (sendEnv t west e pl) := .ite (queueFrame_duty h) (queueFrame_duty h)
theorem sendExpress_duty : SameDuty s (sendExpress t) :=
  .ite h (.foldl (fun _ _ h => incFld_duty (sendEnv_duty h)) (.frame h))

theorem sendTwin_duty {sp e bytes o} : SameDuty s (sendTwin t sp e bytes o) := .frame (queueFrame_duty h)
theorem sendPostcard_duty {release} : SameDuty s (sendPostcard t release) := .ite (sendTwin_duty h.within) h
theorem withStreams_duty {xs} : SameDuty s { t with round := { t.round with streams := xs } } := h.within
theorem sendDue_duty : SameDuty s (sendDue t) := withStreams_duty (.foldl (fun _ _ h => sendEnv_duty h) h)

/-! ## The units at a change of role -/

theorem dutyAx_duty {x} : SameDuty s (dutyAx t x) := .ite (.frame h) (.frame h)
theorem resumeAx_duty {x m} : SameDuty s (resumeAx t x m) := dutyAx_duty (.frame (.ite h (.frame h)))
theorem motionAtRole_duty : SameDuty s (motionAtRole t) :=
  .foldl (fun _ _ h => by split; exacts [resumeAx_duty h, .frame h]) (.frame h)

theorem dmaAtRole_duty : SameDuty s (dmaAtRole t) := .foldl (fun _ _ h => .frame h) h
theorem podZonesAtRole_duty : SameDuty s (podZonesAtRole t) := .frame h
theorem pkrRoleChange_duty : SameDuty s (pkrRoleChange t) := .frame h
theorem camsAtRole_duty : SameDuty s (camsAtRole t) := .frame (.foldl (fun _ _ h => .frame h) h)

theorem noteUncorrectable_duty {cw} : SameDuty s (noteUncorrectable t cw) :=
  alarm_duty (.ite h.within (.frame h))
theorem writeCheck_duty {a n cw} : SameDuty s (writeCheck a n t cw) :=
  .ite (.frame h) (.ite (noteUncorrectable_duty h) (.ite (.frame (alarm_duty (incFld_duty h))) h))
theorem dramClear_duty {a n} : SameDuty s (dramClear t a n) := .ite h (.frame (writeCheck_duty (writeCheck_duty h)))
theorem healthAtRole_duty : SameDuty s (healthAtRole t) := by
  unfold healthAtRole
  split
  · exact .frame (dramClear_duty h)
  · exact .frame h

theorem sendPod_duty {p type pl} : SameDuty s (sendPod t p type pl) := .ite (.frame h) h
theorem bringUp_duty {p quick} : SameDuty s (bringUp t p quick) := by
  have hsent : ∀ u, SameDuty s u → SameDuty s (sendIdle (if quick then sendEcho u p u.clk.now else u) p) :=
    fun u hu => sendPod_duty (.ite (.frame (sendPod_duty hu)) hu)
  exact .ite (.ite (hsent _ (.frame h)) (.frame (hsent _ (.frame h)))) h

theorem sendHead_duty {n} : SameDuty s (sendHead t n) := by
  unfold sendHead; split; exacts [h, .frame h]
theorem pushOps_duty {n ops} : SameDuty s (pushOps t n ops) := .ite (sendHead_duty (.frame h)) (.frame h)
theorem camBringUp_duty {n} : SameDuty s (camBringUp t n) := .ite (pushOps_duty (.frame h)) h

/-! ## The units of a device that gives up the bar -/

theorem dmaHalt_duty {c} : SameDuty s (dmaHalt t c) :=
  .ite (by dsimp only; split; exacts [.frame h, .frame h]) h
theorem pressOutputsLow_duty :
    SameDuty { s with pins := { s.pins with activeOut := false } } (pressOutputsLow t) := { h with activeOut := rfl }
theorem motionHanded_duty : SameDuty s (motionHanded t) := .frame h
theorem dmaAbortAll_duty : SameDuty s (dmaAbortAll t) := .foldl (fun _ _ h => dmaHalt_duty h) h

theorem writeSet_duty {n e} : SameDuty s (writeSet t n e) :=
  .ite (.frame (.ite (.frame h) h)) (pushOps_duty (.frame (.ite (.frame h) h)))
theorem openGap_duty {n} : SameDuty s (openGap t n) :=
  .ite (.frame h) (.ite (pushOps_duty (.frame h)) (by split; exacts [writeSet_duty (.frame h), .frame h]))
theorem shut_duty {n f how} : SameDuty s (shut t n f how) := .frame (.ite (incFld_duty h) h)
theorem closeFrame_duty {n how} : SameDuty s (closeFrame t n how) := by
  unfold closeFrame; split; exacts [h, openGap_duty (shut_duty (.frame h))]
theorem camLinkDown_duty {n} : SameDuty s (camLinkDown t n) :=
  closeFrame_duty (.frame (.foldl (fun _ _ h => shut_duty h) (.frame h)))

theorem idlePods_duty : SameDuty s (idlePods t) := .foldl (fun _ _ h => .frame h) h

end

end Sys2Proof.Machine
end

section
/-! Changes of role: what the device's part is after each, and with that the election, the take-over and what a postcard
brings about (R328 to R336, R346). -/
namespace Sys2Proof.Machine
open Sys2Proof

-- Many short lemmas: elaborated one thread each, their stacks would pass the check's memory limit.
set_option Elab.async false

/-! ## The part after a change of role -/

/-- `s` in the role `r`. -/
def withRole (s : State) (r : Role) : State := { s with twin := { s.twin with role := r } }

/-- `s` with the bar taken: active at this epoch, no twin joined, ACTIVE_OUT driven. -/
def barTaken (s : State) (epoch : Word) : State :=
  { s with
    twin := { s.twin with role := .active, epoch := epoch, joined := false }
    pins := { s.pins with activeOut := true } }

/-- `s` with the bar given up. -/
def barGivenUp (s : State) : State :=
  { s with
    twin := { s.twin with role := .standby, joined := false }
    pins := { s.pins with activeOut := false } }

/-- `s` as a standby that runs its resync `b`. -/
def resyncBegun (s : State) (b : Busy) : State :=
  { s with
    twin := { s.twin with role := .standby, joined := false }
    round := { s.round with busy := some b } }

theorem changeRole_duty {s t : State} {r : Role} (h : SameDuty s (withRole t r)) : SameDuty s (changeRole t r) :=
  setEventAll_duty (setFld_duty h.within)

theorem electActive_duty (s : State) (epoch : Word) : SameDuty (barTaken s epoch) (electActive s epoch) := by
  simp only [electActive]
  refine sendPostcard_duty (.foldl (fun _ _ h => camBringUp_duty h) ?_)
  refine .foldl (fun _ _ h => bringUp_duty h) (.frame ?_)
  exact camsAtRole_duty (podZonesAtRole_duty (changeRole_duty (SameDuty.refl _).within))

theorem takeBar_duty (s : State) (epoch : Word) (forced : Bool) :
    SameDuty (barTaken s epoch) (takeBar s epoch forced) := by
  simp only [takeBar]
  refine sendPostcard_duty (sendDue_duty (.foldl (fun _ _ h => camBringUp_duty h) ?_))
  refine .foldl (fun _ _ h => startSteward_duty h) (forgetCustomers_duty (.foldl (fun _ _ h => bringUp_duty h) ?_))
  generalize hu : healthAtRole _ = u
  have hunits : SameDuty (barTaken s epoch) u := by
    rw [← hu]
    refine healthAtRole_duty (camsAtRole_duty (pkrRoleChange_duty (podZonesAtRole_duty ?_)))
    exact dmaAtRole_duty (motionAtRole_duty (changeRole_duty (SameDuty.refl _).within))
  exact .frame (setFld_duty (.frame hunits))

/-- Without ACTIVE_OUT the device has given up the bar once it is standby and its twin counts as not joined. -/
theorem SameDuty.givenUp {s t : State} (h : SameDuty { s with pins := { s.pins with activeOut := false } } t)
    {pods calls sent fill fillX bseqIn yielded} :
    SameDuty (barGivenUp s) (withRole
      { t with
        pods := pods
        round := { t.round with calls := calls }
        twin := { t.twin with
          joined := false, sent := sent, fill := fill, fillX := fillX, bseqIn := bseqIn, yielded := yielded } } .standby) :=
  { h with role := rfl, joined := rfl }

theorem loseBar_duty (s : State) : SameDuty (barGivenUp s) (loseBar s) := by
  simp only [loseBar]
  refine changeRole_duty (.givenUp (healthAtRole_duty (pkrRoleChange_duty (motionHanded_duty (camsAtRole_duty ?_)))))
  refine .foldl (fun _ _ h => camLinkDown_duty h) (forgetCustomers_duty ?_)
  exact .foldl (fun _ _ h => modStw_duty h) (dmaAbortAll_duty (pressOutputsLow_duty (.refl s)))

/-- A resync makes the device standby, whatever it was, and long operation 5 runs. -/
theorem startResync_duty (s : State) :
    ∃ now, SameDuty (resyncBegun s ⟨5, none, [], now⟩) (startResync s) := by
  simp only [startResync]
  have hrole : SameDuty (withRole s .standby) (if s.twin.role = .standby then s else changeRole s .standby) := by
    split
    · rename_i h
      exact { SameDuty.refl s with role := h }
    · exact changeRole_duty (.refl _)
  generalize (if s.twin.role = .standby then s else changeRole s .standby) = u at hrole ⊢
  refine ⟨u.clk.now, sendPostcard_duty (.foldl (fun _ _ h => modStw_duty h) ?_)⟩
  exact { hrole with busy := rfl, joined := rfl }

/-- A device that stands down is a standby without ACTIVE_OUT, sends no receipt it held, and has raised its alarm. -/
theorem standDown_law (s : State) :
    (standDown s).twin.role = .standby ∧ (slotGet (standDown s) 246).isOpen = true
      ∧ (standDown s).pins.activeOut = false ∧ (standDown s).round.held = [] := by
  have hresync {u : State} (hlost : SameDuty (barGivenUp { s with round := { s.round with held := [] } }) u)
      (halarm : (slotGet u 246).isOpen = true) {t : State} (ht : t = startResync { u with tho := TwinHo.init }) :
      t.twin.role = .standby ∧ (slotGet t 246).isOpen = true ∧ t.pins.activeOut = false ∧ t.round.held = [] := by
    obtain ⟨now, hduty⟩ := startResync_duty { u with tho := TwinHo.init }
    rw [ht]
    exact ⟨hduty.role, hduty.slots 246 halarm, hduty.activeOut.trans hlost.activeOut, hduty.held.trans hlost.held⟩
  exact hresync (alarm_duty (idlePods_duty (loseBar_duty _))) (slotGet_alarm_open _ 246 []) rfl

/-! ## Election and take-over -/

/-- Settles O27: an election ends in `electActive`, a take-over in `takeBar`, whose parts `electActive_duty` and
`takeBar_duty` give. -/
theorem electionAndTakeover : Obligations.ElectionAndTakeover := by
  unfold Obligations.ElectionAndTakeover
  intro s
  refine ⟨fun hready hrole hpeer => ⟨fun hpin => ?_, fun hpin => ?_⟩, fun hrst hfor hrole => ?_, fun hrst hfor hrole => ?_,
    fun hrst => ?_⟩
  · have hexec : exec .electWaitExpiry s = .next (assertPeerRst s 1) := by
      show execElectWaitExpiry s = _
      simp [execElectWaitExpiry, hready, hrole, hpeer, hpin]
    exact ⟨_, hexec, rfl, rfl, hrole⟩
  · have hexec : exec .electWaitExpiry s = .next (alarm s 242 []) := by
      show execElectWaitExpiry s = _
      simp [execElectWaitExpiry, hready, hrole, hpeer, hpin]
    exact ⟨_, hexec, slotGet_alarm_open s 242 [], by rw [alarm_twin]⟩
  · have hexec : exec .peerResetWaitEnd s
        = .next (electActive { s with twin := { s.twin with peerRst := .waited } } s.twin.epoch) := by
      show execPeerResetWaitEnd s = _
      simp [execPeerResetWaitEnd, hrst, hfor, hrole]
    have hduty := electActive_duty { s with twin := { s.twin with peerRst := .waited } } s.twin.epoch
    exact ⟨_, hexec, hduty.role, hduty.epoch, hduty.peerRst, hduty.activeOut⟩
  · let w : State := { s with twin := { s.twin with peerRst := .waited } }
    have hexec : exec .peerResetWaitEnd s = .next (sendExpress
        (alarm (incFld (takeBar w (nextEpoch w) true) F.TWN_EVENTS_TAKEOVERS) 247 [])) := by
      show execPeerResetWaitEnd s = _
      simp [execPeerResetWaitEnd, hrst, hfor, hrole, w]
    have hbar := alarm_duty (n := 247) (d := [])
      (incFld_duty (f := F.TWN_EVENTS_TAKEOVERS) (takeBar_duty w (nextEpoch w) true))
    have hduty := sendExpress_duty hbar
    exact ⟨_, hexec, hduty.role, hduty.epoch, hduty.peerRst, hduty.activeOut,
      (sendExpress_duty (.refl _)).slots 247 (slotGet_alarm_open _ 247 [])⟩
  · show execPeerRstRelease s = _
    simp [execPeerRstRelease, hrst]

/-! ## Postcards -/

theorem told_duty {s t u : State} (h : SameDuty s t) : SameDuty s (told u t) := .ite (sendPostcard_duty h) h

/-- The state that has heard `c`: it is the twin's newest, and a pair number that differs from now on is alarmed. -/
def heard (s : State) (c : Postcard) : State :=
  let t := { s with twin := { s.twin with peer := some c, pcLive := true } }
  if pairMismatch t && !pairMismatch s then alarm t 2 [] else t

theorem heard_twin (s : State) (c : Postcard) :
    (heard s c).twin = { s.twin with peer := some c, pcLive := true } := by
  unfold heard; dsimp only; split
  · rw [alarm_twin]
  · rfl

theorem heard_boot (s : State) (c : Postcard) : (heard s c).boot = s.boot := by
  unfold heard; dsimp only; split
  · rw [alarm_boot]
  · rfl

theorem heard_tho (s : State) (c : Postcard) : (heard s c).tho = s.tho := by
  unfold heard; dsimp only; split
  · rw [alarm_tho]
  · rfl

/-- A ready device hears the postcard, and then does as its role says. -/
theorem actPostcardReceive_electing {s : State} {c : Postcard} (hready : s.boot.phase = .ready)
    (hrole : s.twin.role = .electing) : actPostcardReceive c s = .next (electingPostcard (heard s c) c) := by
  have hheard : (heard s c).twin.role = .electing := by rw [heard_twin]; exact hrole
  simp only [heard] at hheard ⊢
  simp only [actPostcardReceive, hready, bne_self_eq_false, Bool.false_eq_true, if_false, hheard]

theorem actPostcardReceive_standby {s : State} {c : Postcard} (hready : s.boot.phase = .ready)
    (hrole : s.twin.role = .standby) : actPostcardReceive c s = .next (activePostcard (heard s c) c) := by
  have hheard : (heard s c).twin.role = .standby := by rw [heard_twin]; exact hrole
  simp only [heard] at hheard ⊢
  simp only [actPostcardReceive, hready, bne_self_eq_false, Bool.false_eq_true, if_false, hheard]

/-- An active that hears a newer epoch of another active stands down. -/
theorem actPostcardReceive_newer {s : State} {c : Postcard} (hready : s.boot.phase = .ready)
    (hrole : s.twin.role = .active) (hactive : c.role = 1) (hnewer : s.twin.epoch.toNat < c.epoch.toNat) :
    actPostcardReceive c s = .next (standDown (heard s c)) := by
  have hheard : (heard s c).twin.role = .active := by rw [heard_twin]; exact hrole
  have hepoch : (heard s c).twin.epoch.toNat < c.epoch.toNat := by rw [heard_twin]; exact hnewer
  simp only [heard] at hheard hepoch ⊢
  simp only [actPostcardReceive, hready, bne_self_eq_false, Bool.false_eq_true, if_false, hheard, hactive, hepoch,
    and_self, if_true]

/-- The eligibility postcard may follow. -/
theorem postcardReceive_of_act {s t : State} {c : Postcard} (h : actPostcardReceive c s = .next t) :
    exec (.postcardReceive c) s = .next (told s t) := by
  show tells (actPostcardReceive c) s = _
  rw [tells, h]

/-- After an election that finds a twin the device is not solo. -/
theorem pairFound_epoch (s : State) (c : Postcard) : (pairFound s c).twin.epoch ≠ 0 := by
  unfold pairFound
  split
  · dsimp only
    split
    · decide
    · assumption
  · rename_i h
    simpa [solo] using h

theorem settleHanded_law (s : State) :
    (settleHanded s).twin.role = s.twin.role ∧ (settleHanded s).twin.epoch = s.twin.epoch := by
  refine foldl_inv (fun u : State => u.twin.role = s.twin.role ∧ u.twin.epoch = s.twin.epoch) _
    (fun u e hu => ?_) _ ⟨rfl, rfl⟩
  obtain ⟨f, p, q, hs, heq, -⟩ := settleLetter_law u e [] Ans.done
  rw [heq]
  exact hu

/-- A postcard goes out with the contents of the device that sends it, under its next number. -/
theorem sendPostcard_ready {s : State} (hready : s.boot.phase = .ready) (release : Bool) :
    (sendPostcard s release).out = s.out ++ [.postcard (ownPostcard s release)]
      ∧ (sendPostcard s release).twin.pcseq = s.twin.pcseq + 1 := by
  have hqueue : ∀ (u : State) (sp : Space) (e : Env) (pl : List Byte), (queueFrame u .twin sp e pl).out = u.out
      ∧ (queueFrame u .twin sp e pl).twin.pcseq = u.twin.pcseq := by
    intro u sp e pl
    simp only [queueFrame, pumpPort]
    split <;> exact ⟨rfl, rfl⟩
  simp only [sendPostcard, hready, if_true, sendTwin, emit]
  obtain ⟨hout, hseq⟩ := hqueue { s with twin := { s.twin with pcseq := (ownPostcard s release).pcseq } } .express twinEnv
    (postcardBytes (ownPostcard s release))
  exact ⟨by rw [hout], hseq⟩

/-- An electing device whose twin is active joins it as its standby. -/
theorem electingPostcard_active {s : State} {c : Postcard} (hpos : c.pairPos ≠ s.boot.strap)
    (hmatch : pairMismatch s = false) (hrole : c.role = 1) :
    electingPostcard s c = startResync (pairFound s c) := by
  simp [electingPostcard, hpos, hmatch, hrole]

/-- At one PAIR_POS the device takes no role. -/
theorem electingPostcard_samePos {s : State} {c : Postcard} (hpos : c.pairPos = s.boot.strap) :
    electingPostcard s c = sendPostcard (alarm (changeRole s .none) 1 []) false := by
  simp [electingPostcard, hpos]

/-- A standby takes a newer epoch from the active, and keeps its role, unless the active hands it the bar. -/
theorem activePostcard_newer {s : State} {c : Postcard} (hho : s.tho.ho ≠ .final) (hrole : c.role = 1)
    (hnewer : s.twin.epoch.toNat < c.epoch.toNat) :
    (activePostcard s c).twin.role = s.twin.role ∧ (activePostcard s c).twin.epoch = c.epoch := by
  simp only [activePostcard, beq_eq_false_iff_ne.mpr hho, Bool.and_false, Bool.false_and, Bool.false_eq_true, if_false,
    hrole, if_true, hnewer, decide_true, Bool.true_and]
  split
  · exact settleHanded_law _
  · exact ⟨rfl, rfl⟩

/-- Settles O28: a ready device hears the postcard and does as its role says, the lemmas on `actPostcardReceive`; what
that leaves is `startResync_duty`, `standDown_law` and `activePostcard_newer`. -/
theorem postcards : Obligations.Postcards := by
  unfold Obligations.Postcards
  intro s c hready s1
  have hheard := heard_twin s c
  refine ⟨⟨sendPostcard s false, rfl, sendPostcard_ready hready false⟩, fun hrole hpos hmatch hactive => ?_,
    fun hrole hpos => ?_, fun hrole hactive hnewer => ?_, fun hrole hactive hnewer hho => ?_, ?_⟩
  · have hs1 : heard s c = s1 := by simp [heard, s1, hmatch]
    have hact : actPostcardReceive c s = .next (startResync (pairFound s1 c)) := by
      rw [actPostcardReceive_electing hready hrole, hs1, electingPostcard_active (s := s1) hpos hmatch hactive]
    obtain ⟨now, hresync⟩ := startResync_duty (pairFound s1 c)
    have hduty := told_duty (u := s) hresync
    have hpeer : (pairFound s1 c).twin.peer = some c := by unfold pairFound; split <;> rfl
    exact ⟨_, _, postcardReceive_of_act hact, hduty.role, hduty.busy, rfl, hduty.joined, hduty.peer.trans hpeer,
      hduty.epoch ▸ pairFound_epoch s1 c⟩
  · have hact := actPostcardReceive_electing (c := c) hready hrole
    rw [electingPostcard_samePos (hpos.trans (by rw [heard_boot]))] at hact
    have hduty := told_duty (u := s) (sendPostcard_duty (release := false) (alarm_duty (n := 1) (d := [])
      (changeRole_duty (r := .none) (.refl (withRole (heard s c) .none)))))
    exact ⟨_, postcardReceive_of_act hact, hduty.role,
      (told_duty (sendPostcard_duty (.refl _))).slots 1 (slotGet_alarm_open _ 1 [])⟩
  · obtain ⟨hstandby, halarm, hout, hheld⟩ := standDown_law (heard s c)
    have hduty := told_duty (u := s) (.refl (standDown (heard s c)))
    exact ⟨_, postcardReceive_of_act (actPostcardReceive_newer hready hrole hactive hnewer),
      hduty.role.trans hstandby, hduty.slots 246 halarm, hduty.activeOut.trans hout, hduty.held.trans hheld⟩
  · obtain ⟨hstays, hepoch⟩ := activePostcard_newer (s := heard s c) (by rw [heard_tho]; exact hho) hactive
      (by rw [hheard]; exact hnewer)
    have hduty := told_duty (u := s) (.refl (activePostcard (heard s c) c))
    exact ⟨_, postcardReceive_of_act (actPostcardReceive_standby hready hrole), hduty.epoch.trans hepoch,
      hduty.role.trans (hstays.trans (by rw [hheard]; exact hrole))⟩
  · have hexec : exec .hbInEdge s = .next { s with twin := { s.twin with pinLive := true, hbSeen := true } } := by
      show execHbInEdge s = _
      simp [execHbInEdge, hready]
    exact ⟨_, hexec, rfl, rfl, rfl⟩

end Sys2Proof.Machine
end

section
/-! The resident starts: whatever its compare units do as they are armed, no steward stops or starts running; and from a
station store in canonical form they are armed ahead, so that nothing fires (R59, R399 to R401, R516). -/
namespace Sys2Proof.Machine
open Sys2Proof

-- Many short lemmas: elaborated one thread each, their stacks would pass the check's memory limit.
set_option Elab.async false

/-! ## What leaves every steward running or halted as it is -/

/-- Each steward of `t` runs, or is halted, as in `s`. -/
def SameRuns (s t : State) : Prop := ∀ k : Fin 8, (stw t k).run = (stw s k).run

theorem SameRuns.refl (s : State) : SameRuns s s := fun _ => rfl

theorem SameRuns.of_stewards {s t u : State} (h : SameRuns s t) (hu : u.stewards = t.stewards) : SameRuns s u :=
  fun k => by rw [← h k, stw, hu]; rfl

/-- An update beside the stewards. -/
theorem SameRuns.frame {s t : State} (h : SameRuns s t)
    {shared dram single poison stn vstn hiw clk round mbx twin tho therm boot jobs pkr scr plc plc2 pods sight hlt mot drm
      dma lanes pwr jtag pins out fresh pending} :
    SameRuns s
      ⟨t.stewards, shared, dram, single, poison, stn, vstn, hiw, clk, round, mbx, twin, tho, therm, boot, jobs, pkr, scr,
      plc, plc2, pods, sight, hlt, mot, drm, dma, lanes, pwr, jtag, pins, out, fresh, pending⟩ := h

theorem SameRuns.ite {c : Prop} {_ : Decidable c} {s t u : State} (ht : SameRuns s t) (hu : SameRuns s u) :
    SameRuns s (if c then t else u) := iteInduction (fun _ => ht) (fun _ => hu)

theorem SameRuns.foldl {α : Type} {f : State → α → State} {l : List α} {s t : State}
    (hf : ∀ u a, SameRuns s u → SameRuns s (f u a)) (h : SameRuns s t) : SameRuns s (l.foldl f t) :=
  foldl_inv (SameRuns s) f hf l h

section
variable {s t : State} (h : SameRuns s t)
include h

theorem setEvent_runs {n k} : SameRuns s (setEvent n t k) := fun j => by
  rw [← h j]
  by_cases hj : j = k
  · rw [hj, setEvent, stw_modStw_same]
  · rw [setEvent, stw_modStw_other t _ hj]

theorem setEventAll_runs {n} : SameRuns s (setEventAll t n) := .foldl (fun _ _ h => setEvent_runs h) h
theorem setEventClaimants_runs {n kind idx} : SameRuns s (setEventClaimants t n kind idx) :=
  .foldl (fun _ _ h => setEvent_runs h) h
theorem alarm_runs {n d} : SameRuns s (alarm t n d) := h.of_stewards (alarm_stewards t n d)
theorem setFld_runs {f v} : SameRuns s (setFld t f v) := .frame h
theorem setFldB_runs {f b} : SameRuns s (setFldB t f b) := .frame h
theorem incFld_runs {f} : SameRuns s (incFld t f) := .frame h

theorem handBack_runs {i} : SameRuns s (handBack t i) := by
  have hstart : ∀ u, SameRuns s u → SameRuns s (startHandover u) := fun u hu =>
    hu.of_stewards (startHandover_keeps u).1
  unfold handBack
  split
  · exact .ite (.ite (.frame (.frame (.frame h))) (.frame (hstart _ (.frame (.frame h))))) h
  · exact h

/-! ## Faults of an axis, and the motion cycle -/

theorem axFaultSide_runs {x} : SameRuns s (axFaultSide t x) := by
  have hside : SameRuns s (handBack (setEventAll (dropWrites t x) 15) (24 + x.val)) :=
    handBack_runs (setEventAll_runs (.frame h))
  exact .ite (.frame (.frame (.frame hside))) hside

theorem stallFault_runs {x} : SameRuns s (stallFault t x) :=
  axFaultSide_runs (.frame (.frame (alarm_runs (incFld_runs (setFldB_runs h)))))
theorem counterFault_runs {x} : SameRuns s (counterFault t x) :=
  axFaultSide_runs (.frame (alarm_runs (setFldB_runs h)))
theorem softFault_runs {x hi pos} : SameRuns s (softFault t x hi pos) :=
  axFaultSide_runs (.frame (alarm_runs (setFldB_runs h)))

theorem applyMotWrite_runs {w} : SameRuns s (applyMotWrite t w) := by
  unfold applyMotWrite; split; exacts [.frame (.ite h (alarm_runs (setFldB_runs h))), .frame h]
theorem applyStop_runs {stop x} : SameRuns s (applyStop stop t x) := .ite (.frame h) h
theorem applyRetract_runs {x} : SameRuns s (applyRetract t x) := .ite (.frame h) h
theorem stallCheck_runs {x} : SameRuns s (stallCheck t x) :=
  .ite (.ite (stallFault_runs (.frame h)) (.frame h)) (.frame h)
theorem generate_runs {x dt} : SameRuns s (generate t x dt) :=
  .ite (.frame h) (.ite (.ite (setEventAll_runs (.frame h)) (.frame h))
    (.ite (.ite (setEventAll_runs (.frame h)) (.frame h)) h))
theorem followLift_runs : SameRuns s (followLift t) := .ite (.frame h) (.ite (.frame h) h)
theorem cmdCounterCheck_runs {old x} : SameRuns s (cmdCounterCheck old t x) := .ite (counterFault_runs h) h
theorem softCheck_runs {x} : SameRuns s (softCheck t x) :=
  .ite (softFault_runs h) (.ite (softFault_runs h) (.ite (softFault_runs h) (.ite (softFault_runs h) h)))
theorem driveAx_runs {x dt} : SameRuns s (driveAx t x dt) := .ite (.frame (.frame h)) (.frame (.frame h))

theorem motionCycle_runs : SameRuns s (motionCycle t) := by
  have hstaged {stop u} (hu : SameRuns s u) : SameRuns s ((List.finRange 4).foldl (applyStop stop) u) :=
    .foldl (fun _ _ h => applyStop_runs h) hu
  have hwrites : SameRuns s (t.mot.writes.foldl applyMotWrite
      { t with mot := { t.mot with writes := [], stop := 0, retract := false, last := some (tbVal t 3) } }) :=
    .foldl (fun _ _ h => applyMotWrite_runs h) (.frame h)
  refine .ite (.foldl (fun _ _ h => driveAx_runs h) (.foldl (fun _ _ h => softCheck_runs h) ?_)) h
  refine .foldl (fun _ _ h => cmdCounterCheck_runs h) (followLift_runs (.foldl (fun _ _ h => generate_runs h) ?_))
  exact .foldl (fun _ _ h => stallCheck_runs h)
    (.ite (.foldl (fun _ _ h => applyRetract_runs h) (hstaged hwrites)) (hstaged hwrites))

/-! ## A camera's trigger, and the firing of a compare unit -/

theorem readBack_runs {n} : SameRuns s (readBack t n) := by
  refine .ite ?_ (.frame (.frame h))
  unfold sendHead
  split
  · exact .frame (.frame h)
  · exact .frame (.frame (.frame h))
theorem gapEnds_runs {n} : SameRuns s (gapEnds t n) := .ite (readBack_runs (.frame h)) (.frame h)
theorem startFrame_runs {n job jobId recStart byCompare} : SameRuns s (startFrame t n job jobId recStart byCompare) :=
  .ite (alarm_runs (incFld_runs (.frame (setFld_runs (gapEnds_runs (.frame h))))))
    (.frame (setFld_runs (gapEnds_runs (.frame h))))
theorem compareTriggers_runs {u at'} : SameRuns s (compareTriggers t u at') :=
  .foldl (fun _ _ h => .ite (.frame (.frame (.ite (startFrame_runs h) h))) h) h

theorem startHk_runs : SameRuns s (startHk t) := .ite (incFld_runs h) (.frame h)
theorem startMotion_runs : SameRuns s (startMotion t) := .ite (incFld_runs h) (motionCycle_runs h)

theorem auxPulse_runs {f at'} : SameRuns s (auxPulse t f at') := .ite (.frame h) h
theorem tmcAct_runs {u at'} : SameRuns s (tmcAct t u at') := by
  have hpulse {f v} (hv : SameRuns s v) : SameRuns s (auxPulse (dmaLine v u) f at') := auxPulse_runs (.frame hv)
  have hhk {v c} {_ : Decidable c} (hv : SameRuns s v) : SameRuns s (if c then startHk v else v) :=
    .ite (startHk_runs hv) hv
  have hmotion {v c} {_ : Decidable c} (hv : SameRuns s v) : SameRuns s (if c then startMotion v else v) :=
    .ite (startMotion_runs hv) hv
  exact compareTriggers_runs (hmotion (hhk (hpulse (setEventClaimants_runs (.frame h)))))

theorem tmcFire_runs {u at'} : SameRuns s (tmcFire t u at') := by
  have hacted : SameRuns s (setHeld (tmcAct t u at') u false) := .frame (tmcAct_runs h)
  have hcatchUp : ∀ v, SameRuns s v → SameRuns s (tmcCatchUp v u at') := fun v hv =>
    .ite hv (.frame (.frame (.ite hv (setFldB_runs (tmcAct_runs hv)))))
  exact .ite (setFldB_runs hacted) (hcatchUp _ (setFld_runs hacted))

theorem residentUnit_runs {u act period} : SameRuns s (residentUnit t u act period) := by
  have hset : SameRuns s (setHeld (setFldB (setFld (setFld (setFld (setFld t (F.TIME_TMC_CTL_BASE u) 3)
      ⟨(F.TIME_TMC_CTL_BASE u).addr, act, 1⟩ 1) (F.TIME_PERIOD u) period) (F.TIME_TARGET u)
        ((tbVal t 3).toNat + period)) (F.TIME_TMC_STAT_ARMED u) true) u false) := .frame h
  exact .ite hset (.ite (.frame hset) (tmcFire_runs (setFldB_runs hset)))

end

/-- Once the resident has started, stewards 6 and 7 run. -/
theorem startResident_runs (s : State) :
    (stw (startResident s) 6).run = .running ∧ (stw (startResident s) 7).run = .running := by
  have hruns : SameRuns (modStw (modStw s 6 (fun w => { w with run := .running })) 7 (fun w => { w with run := .running }))
      (startResident s) := residentUnit_runs (residentUnit_runs (.refl _))
  constructor
  · rw [hruns 6, stw_modStw_other _ _ (by decide), stw_modStw_same]
  · rw [hruns 7, stw_modStw_same]

/-! ## Armed ahead -/

/-- A target `period` ahead of a base lies ahead of it, also where the base wraps on the way. -/
theorem target_ahead (now : Word) {period : Nat} (hpos : 0 < period) (hlt : period < 2 ^ 31) :
    0 < (BitVec.ofNat 32 ((now.toNat + period) % 2 ^ 32) - now).toInt := by
  have hdiff : BitVec.ofNat 32 ((now.toNat + period) % 2 ^ 32) - now = BitVec.ofNat 32 period := by
    apply BitVec.eq_of_toNat_eq
    have := now.isLt
    simp only [BitVec.toNat_sub, BitVec.toNat_ofNat]
    omega
  have hnat : (BitVec.ofNat 32 period).toNat = period := by
    rw [BitVec.toNat_ofNat]
    exact Nat.mod_eq_of_lt (by omega)
  rw [hdiff, BitVec.toInt_eq_toNat_of_lt (by rw [hnat]; omega), hnat]
  exact Int.natCast_pos.mpr hpos

/-- A unit on TB-MOTION whose target lies a period ahead is not behind it. -/
theorem tmcBehind_ahead {t : State} {u period : Nat} (hbase : fld t (F.TIME_TMC_CTL_BASE u) = 3)
    (htarget : fld t (F.TIME_TARGET u) = ((tbVal t 3).toNat + period) % 2 ^ 32) (hpos : 0 < period)
    (hlt : period < 2 ^ 31) : tmcBehind t u = false := by
  have hmotion : tmcBase t u = 3 := by rw [tmcBase, hbase]; rfl
  rw [tmcBehind, hmotion, htarget]
  exact decide_eq_false (Int.not_le.mpr (target_ahead (tbVal t 3) hpos hlt))

@[simp] theorem fld_setHeld (s : State) (u : Nat) (b : Bool) (f : Fld) : fld (setHeld s u b) f = fld s f := rfl
@[simp] theorem tbVal_setHeld (s : State) (u : Nat) (b : Bool) (k : Fin 4) : tbVal (setHeld s u b) k = tbVal s k := rfl
@[simp] theorem tbVal_setFld (s : State) (f : Fld) (v : Nat) (k : Fin 4) : tbVal (setFld s f v) k = tbVal s k := rfl

/-- The fields of a compare unit as the resident stores them, ARMED with them. -/
def residentSet (s : State) (u : Fin 8) (act period : Nat) : State :=
  let ctl := setFld (setFld s (F.TIME_TMC_CTL_BASE u) 3) ⟨(F.TIME_TMC_CTL_BASE u).addr, act, 1⟩ 1
  setFldB (setFld (setFld ctl (F.TIME_PERIOD u) period) (F.TIME_TARGET u) ((tbVal s 3).toNat + period))
    (F.TIME_TMC_STAT_ARMED u) true

/-- Armed from a canonical station store the resident's unit waits, as its target lies ahead. -/
theorem residentUnit_waits {s : State} (h : StnOk s) (u : Fin 8) {act period : Nat} (hact : 2 ≤ act) (hpos : 0 < period)
    (hlt : period < 2 ^ 31) : residentUnit s u act period = setHeld (residentSet s u act period) u false := by
  have hmotion := setFld_ok h (F.TIME_TMC_CTL_BASE u) 3
  have hctl := setFld_ok hmotion ⟨(F.TIME_TMC_CTL_BASE u).addr, act, 1⟩ 1
  have hperiod := setFld_ok hctl (F.TIME_PERIOD u) period
  have hset := setFld_ok hperiod (F.TIME_TARGET u) ((tbVal s 3).toNat + period)
  have hbase : fld (residentSet s u act period) (F.TIME_TMC_CTL_BASE u) = 3 := by
    rw [residentSet, setFldB, fld_setFld_addr hset _ (by simp), fld_setFld_addr hperiod _ (by simp),
      fld_setFld_addr hctl _ (by simp), fld_setFld_bits hmotion _ (by simp) (.inr (by simpa using hact)),
      fld_setFld_same h (by simp)]
    rfl
  have htarget : fld (residentSet s u act period) (F.TIME_TARGET u) = ((tbVal s 3).toNat + period) % 2 ^ 32 := by
    rw [residentSet, setFldB, fld_setFld_addr hset _ (by simp), fld_setFld_same hperiod (by simp)]
  have htb : tbVal (residentSet s u act period) 3 = tbVal s 3 := by simp only [residentSet, setFldB, tbVal_setFld]
  have hahead : tmcBehind (setHeld (residentSet s u act period) u false) u = false :=
    tmcBehind_ahead (by rw [fld_setHeld, hbase]) (by rw [fld_setHeld, htarget, tbVal_setHeld, htb]) hpos hlt
  simp only [residentSet] at hahead
  simp only [residentUnit, residentSet, tmcArm, tbVal_setFld, hahead, Bool.not_false, if_true]

/-- The station store of `t` is canonical, and outside TIME it shows what that of `s` shows. -/
structure TimeOnly (s t : State) : Prop where
  ok : StnOk t
  others : ∀ a : Nat, a / 0x1000000 ≠ 0x4B → stnWord t a = stnWord s a

theorem setFld_timeOnly {s t : State} (h : TimeOnly s t) {f : Fld} (hf : f.addr / 0x1000000 = 0x4B) {v : Nat} :
    TimeOnly s (setFld t f v) where
  ok := setFld_ok h.ok f v
  others a ha := by rw [stnWord_setFld_other h.ok v (by rintro rfl; exact ha hf), h.others a ha]

theorem setFldB_timeOnly {s t : State} (h : TimeOnly s t) {f : Fld} (hf : f.addr / 0x1000000 = 0x4B) {b : Bool} :
    TimeOnly s (setFldB t f b) := setFld_timeOnly h hf

theorem setHeld_timeOnly {s t : State} (h : TimeOnly s t) {u : Nat} {b : Bool} : TimeOnly s (setHeld t u b) :=
  ⟨h.ok, h.others⟩

theorem residentUnit_timeOnly {s t : State} (h : TimeOnly s t) (u : Fin 8) {act period : Nat} (hact : 2 ≤ act)
    (hpos : 0 < period) (hlt : period < 2 ^ 31) : TimeOnly s (residentUnit t u act period) := by
  have hu := u.isLt
  have hctl := setFld_timeOnly (setFld_timeOnly h (f := F.TIME_TMC_CTL_BASE u) (v := 3) (by dsimp only; omega))
    (f := ⟨(F.TIME_TMC_CTL_BASE u).addr, act, 1⟩) (v := 1) (by dsimp only; omega)
  have hperiod := setFld_timeOnly hctl (f := F.TIME_PERIOD u) (v := period) (by dsimp only; omega)
  have htarget := setFld_timeOnly hperiod (f := F.TIME_TARGET u) (v := (tbVal t 3).toNat + period) (by dsimp only; omega)
  rw [residentUnit_waits h.ok u hact hpos hlt]
  exact setHeld_timeOnly (setFldB_timeOnly htarget (by dsimp only; omega))

/-- The resident starts with stations of TIME alone, where the station store is canonical. -/
theorem startResident_timeOnly {s : State} (h : StnOk s) : TimeOnly s (startResident s) := by
  have hrun : TimeOnly s (modStw (modStw s 6 (fun w => { w with run := .running })) 7
      (fun w => { w with run := .running })) := ⟨h, fun _ _ => rfl⟩
  have hhk (t : State) : 0 < hkPeriodNs t ∧ hkPeriodNs t < 2 ^ 31 := by
    have : fld t F.PWR_HK_PERIOD < 64 := fld_lt t F.PWR_HK_PERIOD
    simp only [hkPeriodNs, Nat.max_def]
    split <;> omega
  have hcycle (t : State) : 0 < cyclePeriodNs t ∧ cyclePeriodNs t < 2 ^ 31 := by
    simp only [cyclePeriodNs, cycleUs]
    split
    · omega
    · split <;> omega
  unfold startResident
  refine residentUnit_timeOnly (residentUnit_timeOnly hrun 6 (by decide) ?_ ?_) 7 (by decide) ?_ ?_
  · exact (hhk _).1
  · exact (hhk _).2
  · exact (hcycle _).1
  · exact (hcycle _).2

end Sys2Proof.Machine
end

section
/-! Resets, start-up, the output balls, and the writes of the thermos (R20, R36, R331, R497 to R505, R511 to R516). -/
namespace Sys2Proof.Machine
open Sys2Proof

-- Many short lemmas: elaborated one thread each, their stacks would pass the check's memory limit.
set_option Elab.async false

/-! ## What a reset clears -/

/-- From `s` a reset has made `t`: stations, shared memory and stewards as after a reset, the images and settings banks of
the thermos kept, and the reset counted. -/
def Cleared (s t : State) : Prop :=
  t.stn = [] ∧ t.shared = [] ∧ (∀ k : Fin 8, stw t k = Steward.init)
    ∧ t.therm.slots = s.therm.slots ∧ t.therm.banks = s.therm.banks ∧ t.pending = s.pending
    ∧ (s.therm.resets ≠ BitVec.allOnes 24 → t.therm.resets = s.therm.resets + 1)

theorem stw_of_replicate {t : State} (h : t.stewards = Vector.replicate 8 Steward.init) (k : Fin 8) :
    stw t k = Steward.init := by simp [stw, h]

theorem resetKind0_cleared (s : State) (strap : Bool) : Cleared s (resetKind0 s strap) :=
  ⟨rfl, rfl, stw_of_replicate rfl, rfl, rfl, rfl, fun h => if_neg h⟩

theorem resetWarm_cleared (s : State) (kind : Nat) (p : Phase) : Cleared s (resetWarm s kind p) :=
  ⟨rfl, rfl, stw_of_replicate rfl, rfl, rfl, rfl, fun h => if_neg h⟩

/-! ## The boot choice -/

/-- Whether an image boots is the thermos's affair: the security floor and the keys. -/
theorem slotBoots_congr {s t : State} (hfloor : t.therm.floor = s.therm.floor)
    (hstate : t.therm.keyState = s.therm.keyState) (hdigest : t.therm.keyDigest = s.therm.keyDigest)
    (hcs : t.therm.csRequired = s.therm.csRequired) (f : Option FwSlot) : slotBoots t f = slotBoots s f := by
  simp only [slotBoots, fwValid, fwVendorOk, fwCsOk, hfloor, hstate, hdigest, hcs]

/-- The image of the boot slot is valid, no image is pending, and the thermal latch is not set: the boot ROM starts it,
also after a reset, which leaves all that as it is. -/
theorem bootRom_boots {s u : State} (hlatch : s.boot.thermalLatch = false)
    (hboots : slotBoots s s.therm.slots[s.therm.bootSlot] = true) (hpending : u.therm.pending = none)
    (latch : u.boot.thermalLatch = s.boot.thermalLatch := by rfl) (slots : u.therm.slots = s.therm.slots := by rfl)
    (bootSlot : u.therm.bootSlot = s.therm.bootSlot := by rfl) (floor : u.therm.floor = s.therm.floor := by rfl)
    (keyState : u.therm.keyState = s.therm.keyState := by rfl)
    (keyDigest : u.therm.keyDigest = s.therm.keyDigest := by rfl)
    (csRequired : u.therm.csRequired = s.therm.csRequired := by rfl) :
    bootRom u = { u with boot := { u.boot with phase := .starting, slot := s.therm.bootSlot, pendingBoot := false } } := by
  have hu : slotBoots u s.therm.slots[s.therm.bootSlot] = true := by
    rw [slotBoots_congr floor keyState keyDigest csRequired]; exact hboots
  simp only [bootRom, latch, hlatch, hpending, bootFrom, slots, bootSlot, hu, Bool.false_eq_true, if_false, if_true]

/-! ## The restore keeps the station store canonical -/

theorem alarm_ok {s : State} (h : StnOk s) (n : Nat) (d : List Word) : StnOk (alarm s n d) := by
  rw [StnOk, alarm_stn]; exact h

theorem restoreSmall_ok {s : State} (h : StnOk s) : StnOk (restoreSmall s) := by
  have hword : ∀ (t : State) (e : Nat × Word), StnOk t → StnOk (restoreWord t e) := by
    intro t e ht
    unfold restoreWord
    split
    · exact setStnWord_ok ht _ _
    · exact ht
  unfold restoreSmall
  split
  · refine setFld_ok (foldl_inv StnOk _ (fun _ _ ht => setFld_ok ht _ _) _ ?_) _ _
    exact foldl_inv StnOk restoreWord hword _ h
  · exact alarm_ok h 12 _

theorem restoreBulk_ok {s : State} (h : StnOk s) : StnOk (restoreBulk s) := by
  unfold restoreBulk
  split
  · exact setFld_ok (s := { s with vstn := _ }) h _ _
  · exact alarm_ok h 12 _

theorem setPodEntries_ok {s : State} (h : StnOk s) : StnOk (setPodEntries s) :=
  foldl_inv StnOk _ (fun _ _ ht => setFld_ok ht _ _) _ h

theorem restoreMap_ok {s : State} (h : StnOk s) : StnOk (restoreMap s) := by
  have hput : ∀ m : MapCopy, StnOk (renumberAll { s with scr := { s.scr with live := m } }) := fun _ => h
  unfold restoreMap
  dsimp only
  split
  · exact setFld_ok (hput _) _ _
  · split
    · exact alarm_ok (hput _) 12 _
    · exact alarm_ok (hput _) 12 _

theorem fldB_setFldB_same {s : State} (h : StnOk s) {f : Fld} (hf : f.lo + f.w ≤ 32) (hw : f.w ≠ 0) (b : Bool) :
    fldB (setFldB s f b) f = b := by
  have h2 : 1 < 2 ^ f.w := Nat.one_lt_two_pow hw
  cases b
  · simp [fldB, setFldB, fld_setFld_same h hf]
  · simp [fldB, setFldB, fld_setFld_same h hf, Nat.mod_eq_of_lt h2]

theorem fld_setFldB_addr {s : State} (h : StnOk s) {f g : Fld} (b : Bool) (ha : g.addr ≠ f.addr) :
    fld (setFldB s f b) g = fld s g := fld_setFld_addr h _ ha

theorem fld_setFldB_bits {s : State} (h : StnOk s) {f g : Fld} (b : Bool) (hg : g.lo + g.w ≤ 32)
    (hb : f.lo + f.w ≤ g.lo ∨ g.lo + g.w ≤ f.lo) : fld (setFldB s f b) g = fld s g := fld_setFld_bits h _ hg hb

/-- What the DRAM stations show of the parts and of their training. -/
def TrainingShown (trained : BitVec 4) (part : DramPart) (t : State) : Prop :=
  fld t F.DRAM_STAT_TRAINED = trained.toNat ∧ fld t F.DRAM_CFG_DENSITY = part.density.val
    ∧ fldB t F.DRAM_CFG_RANKS2 = part.ranks2 ∧ fldB t F.DRAM_STAT_RFM_REQ = part.rfm

/-- They show it for as long as the stations of DRAM keep their words. -/
theorem TrainingShown.of_words {trained : BitVec 4} {part : DramPart} {s t : State} (h : TrainingShown trained part s)
    (hwords : ∀ a : Nat, a / 0x1000000 = 0x4D → stnWord t a = stnWord s a) : TrainingShown trained part t := by
  obtain ⟨htrained, hdensity, hranks, hrfm⟩ := h
  have hfld {f : Fld} (hf : f.addr / 0x1000000 = 0x4D) : fld t f = fld s f := by rw [fld, hwords _ hf]; rfl
  refine ⟨(hfld (by decide)).trans htrained, (hfld (by decide)).trans hdensity, ?_, ?_⟩
  · rw [fldB, hfld (by decide)]; exact hranks
  · rw [fldB, hfld (by decide)]; exact hrfm

theorem TrainingShown.of_stn {trained : BitVec 4} {part : DramPart} {s t : State} (h : TrainingShown trained part s)
    (hstn : t.stn = s.stn) : TrainingShown trained part t :=
  h.of_words (fun a _ => by rw [stnWord, hstn]; rfl)

theorem restoreDram_shows {s : State} (h : StnOk s) (trained fastOk : BitVec 4) (part : DramPart) :
    StnOk (restoreDram s trained fastOk part) ∧ TrainingShown trained part (restoreDram s trained fastOk part) := by
  let density := setFld s F.DRAM_CFG_DENSITY part.density.val
  let ranks := setFldB density F.DRAM_CFG_RANKS2 part.ranks2
  let rfm := setFldB ranks F.DRAM_STAT_RFM_REQ part.rfm
  let stat := setFld rfm F.DRAM_STAT_TRAINED trained.toNat
  let last := setFld stat F.DRAM_STAT_RETRAIN_FAIL (~~~ trained).toNat
  have hdensity : StnOk density := setFld_ok h _ _
  have hranks : StnOk ranks := setFld_ok hdensity _ _
  have hrfm : StnOk rfm := setFld_ok hranks _ _
  have hstat : StnOk stat := setFld_ok hrfm _ _
  have htrained : fld last F.DRAM_STAT_TRAINED = trained.toNat := by
    rw [fld_setFld_bits hstat _ (by decide) (by decide), fld_setFld_same hrfm (by decide)]
    exact Nat.mod_eq_of_lt trained.isLt
  have hdens : fld last F.DRAM_CFG_DENSITY = part.density.val := by
    rw [fld_setFld_addr hstat _ (by decide), fld_setFld_addr hrfm _ (by decide), fld_setFldB_addr hranks _ (by decide),
      fld_setFldB_bits hdensity _ (by decide) (by decide), fld_setFld_same h (by decide)]
    exact Nat.mod_eq_of_lt (Nat.lt_of_lt_of_le part.density.isLt (by decide))
  have hranks2 : fldB last F.DRAM_CFG_RANKS2 = part.ranks2 := by
    rw [fldB, fld_setFld_addr hstat _ (by decide), fld_setFld_addr hrfm _ (by decide),
      fld_setFldB_addr hranks _ (by decide)]
    exact fldB_setFldB_same hdensity (by decide) (by decide) _
  have hreq : fldB last F.DRAM_STAT_RFM_REQ = part.rfm := by
    rw [fldB, fld_setFld_bits hstat _ (by decide) (by decide), fld_setFld_bits hrfm _ (by decide) (by decide)]
    exact fldB_setFldB_same hranks (by decide) (by decide) _
  exact ⟨setFld_ok hstat _ _, htrained, hdens, hranks2, hreq⟩

/-! ## Readiness -/

theorem alarm_started (s : State) (n : Nat) (d : List Word) : (alarm s n d).mbx.started = s.mbx.started := by
  have hqueue (t : State) (x : Option Slot) : (queueRecord t n true x).mbx.started = t.mbx.started := by
    simp only [queueRecord]; split <;> rfl
  simp only [alarm]
  split
  · split <;> split <;> rfl
  · split
    · rfl
    · exact hqueue _ _

/-- The records queued before readiness keep the slots, and the stream they open. -/
theorem numberEarly_law (qs : List QRec) (s : State) :
    ∃ m : Mbx, numberEarly s qs = { s with mbx := m } ∧ m.slots = s.mbx.slots ∧ m.started = s.mbx.started := by
  induction qs generalizing s with
  | nil => exact ⟨s.mbx, rfl, rfl, rfl⟩
  | cons q qs ih => exact ih _

/-- Device-started is recorded, and nothing but the mailbag and a free value has changed. -/
theorem firstRecord_law (s : State) :
    (firstRecord s).boot = s.boot ∧ (firstRecord s).twin = s.twin ∧ (firstRecord s).stewards = s.stewards
      ∧ (firstRecord s).stn = s.stn ∧ (firstRecord s).mbx.started = true ∧ (slotGet (firstRecord s) 0).isOpen = true := by
  simp only [firstRecord]
  generalize hu : alarm _ 0 _ = u
  obtain ⟨m, hm, hslots, hstarted⟩ := numberEarly_law s.mbx.queue u
  rw [hm]
  subst hu
  refine ⟨by simp, by simp, by simp, by simp, ?_, ?_⟩
  · rw [hstarted, alarm_started]
  · rw [slotGet, hslots]
    exact slotGet_alarm_open _ 0 _

/-- The device with everything restored, the pending image it runs confirmed. -/
def restored (s : State) (trained fastOk : BitVec 4) (part : DramPart) : State :=
  let s := spareCheck (restoreAll s trained fastOk part)
  if s.boot.pendingBoot then confirmImage s else s

theorem restored_stn (s : State) (trained fastOk : BitVec 4) (part : DramPart) :
    (restored s trained fastOk part).stn = (restoreAll s trained fastOk part).stn := by
  have hconfirm (t : State) : (confirmImage t).stn = t.stn := by unfold confirmImage; split <;> rfl
  have hspare (t : State) : (spareCheck t).stn = t.stn := by
    unfold spareCheck; split
    · rw [alarm_stn]
    · rfl
  unfold restored
  dsimp only
  split
  · rw [hconfirm, hspare]
  · rw [hspare]

theorem restored_shows {s : State} (h : StnOk s) (trained fastOk : BitVec 4) (part : DramPart) :
    StnOk (restored s trained fastOk part) ∧ TrainingShown trained part (restored s trained fastOk part) := by
  obtain ⟨hok, hshown⟩ := restoreDram_shows (s := restoreNumbers (restoreMap (setPodEntries (restoreBulk (restoreSmall s)))))
    (restoreMap_ok (setPodEntries_ok (restoreBulk_ok (restoreSmall_ok h)))) trained fastOk part
  have hstn := restored_stn s trained fastOk part
  exact ⟨by rw [StnOk, hstn]; exact hok, hshown.of_stn hstn⟩

/-- READINESS: the device is ready and elects, the resident runs, device-started is recorded, and the stations show the
parts and their training. -/
theorem readiness_law {s : State} (hphase : s.boot.phase = .starting) (trained fastOk : BitVec 4) (part : DramPart) :
    ∃ t, exec (.readiness trained fastOk part) s = .next t ∧ t.boot.phase = .ready ∧ t.twin.role = .electing
      ∧ (stw t 6).run = .running ∧ (stw t 7).run = .running ∧ t.mbx.started = true ∧ (slotGet t 0).isOpen = true
      ∧ (StnOk s → TrainingShown trained part t) := by
  have hexec : exec (.readiness trained fastOk part) s = .next (firstRecord (becomeReady
      ((List.finRange 4).foldl restoreCtx (startResident (restored s trained fastOk part))))) := by
    show execReadiness trained fastOk part s = _
    simp only [execReadiness, hphase, if_true, restored]
  obtain ⟨hsix, hseven⟩ := startResident_runs (restored s trained fastOk part)
  have hshown : StnOk s → TrainingShown trained part (startResident (restored s trained fastOk part)) := by
    intro h
    obtain ⟨hok, hrestored⟩ := restored_shows h trained fastOk part
    exact hrestored.of_words (fun a ha => (startResident_timeOnly hok).others a (by rw [ha]; decide))
  generalize startResident (restored s trained fastOk part) = u at *
  have hstewards : ((List.finRange 4).foldl restoreCtx u).stewards = u.stewards :=
    foldl_keeps (fun s : State => s.stewards) restoreCtx (fun _ _ => rfl) _ u
  have hstn : ((List.finRange 4).foldl restoreCtx u).stn = u.stn :=
    foldl_keeps (fun s : State => s.stn) restoreCtx (fun _ _ => rfl) _ u
  generalize (List.finRange 4).foldl restoreCtx u = v at *
  obtain ⟨hboot, htwin, hstw, hstn', hstarted, hslot⟩ := firstRecord_law (becomeReady v)
  have hrun (k : Fin 8) : stw (firstRecord (becomeReady v)) k = stw u k := by
    rw [stw, hstw]; show v.stewards[k] = _; rw [hstewards]; rfl
  refine ⟨_, hexec, by rw [hboot]; rfl, by rw [htwin]; rfl, by rw [hrun, hsix], by rw [hrun, hseven], hstarted, hslot,
    fun h => (hshown h).of_stn (hstn'.trans hstn)⟩

/-- The reset input is asserted on a powered device that no reset of this kind holds already. -/
theorem pinResetAssert_resets {s : State} (hpower : s.boot.phase ≠ .unpowered)
    (hheld : s.boot.phase ≠ .inReset ∨ s.boot.ovHold = true) :
    exec .pinResetAssert s = .next (resetWarm s 1 .inReset) := by
  show execPinResetAssert s = _
  have hnot : ¬ (s.boot.phase = .inReset ∧ s.boot.ovHold = false) := by
    rintro ⟨hphase, hov⟩
    rcases hheld with h | h
    · exact h hphase
    · simp [hov] at h
  simp only [execPinResetAssert, powered, bne_iff_ne.mpr hpower, if_true, if_neg hnot]

theorem powerLoss_powered {s : State} (hpower : s.boot.phase ≠ .unpowered) :
    exec .powerLoss s = .next
      { initialState s with boot := { (initialState s).boot with phase := .unpowered, thermalLatch := false } } := by
  show execPowerLoss s = _
  simp only [execPowerLoss, powered, bne_iff_ne.mpr hpower, if_true]

/-- The claims on resets and start-up: a reset from each side, then the boot choice, the loss of power and readiness. -/
theorem resetsAndStartup : Claims.ResetsAndStartup := by
  unfold Claims.ResetsAndStartup
  intro s pairPos trained fastOk part n cleared boots
  refine ⟨?_, fun hpower hheld => ?_, fun hphase hov hpending hboots => ?_, fun hdue => ?_, fun hdue hlow hpending hboots => ?_,
    fun hphase htried hboots => ?_, fun hpower => ?_, fun hphase => readiness_law hphase trained fastOk part⟩
  · exact ⟨_, rfl, rfl, rfl, rfl, rfl, resetKind0_cleared s pairPos⟩
  · exact ⟨_, pinResetAssert_resets hpower hheld, rfl, rfl, rfl, rfl, resetWarm_cleared s 1 .inReset⟩
  · obtain ⟨hlatch, hvalid⟩ := hboots
    have hexec : exec .pinResetRelease s = .next (bootRom s) := by
      show execPinResetRelease s = _
      simp only [execPinResetRelease, hphase, hov, and_self, if_true]
    rw [bootRom_boots hlatch hvalid hpending] at hexec
    exact ⟨_, hexec, rfl, rfl, rfl⟩
  · have hexec : exec .restartReset s = .next { assertPeerRst s 4 with boot := { s.boot with restartDue := some 0 } } := by
      show execRestartReset s = _
      simp only [execRestartReset, hdue]
      rfl
    exact ⟨_, hexec, rfl, rfl, rfl⟩
  · obtain ⟨hlatch, hvalid⟩ := hboots
    have hexec : exec .restartReset s = .next (bootRom (resetWarm s 2 .starting)) := by
      show execRestartReset s = _
      simp only [execRestartReset, hdue, hlow, if_true]
    rw [bootRom_boots (u := resetWarm s 2 .starting) hlatch hvalid hpending] at hexec
    exact ⟨_, hexec, rfl, rfl, rfl, resetWarm_cleared s 2 .starting⟩
  · obtain ⟨hlatch, hvalid⟩ := hboots
    let u : State := { resetWarm s 3 .starting with therm := { (resetWarm s 3 .starting).therm with pending := none } }
    have hexec : exec .fallbackReset s = .next (bootRom u) := by
      show execFallbackReset s = _
      simp only [execFallbackReset, hphase, htried, and_self, if_true, u]
    rw [bootRom_boots (u := u) hlatch hvalid rfl] at hexec
    exact ⟨_, hexec, rfl, rfl, rfl, rfl⟩
  · exact ⟨_, powerLoss_powered hpower, rfl, rfl, rfl, rfl, rfl⟩

/-! ## Output balls -/

/-- What R36 says of the output balls in reset and without power. -/
def QuietBalls (t : State) : Prop :=
  (∀ (k : Fin 4) (h : Half), pwmBall t k h = .highZ) ∧ (∀ b : Fin 8, auxOut t b = .highZ)
    ∧ activeOutBall t = false ∧ peerRstBall t = false ∧ lineSyncBall t = false ∧ (∀ p : Fin 24, hvBall t p = false)
    ∧ hbOut t = false ∧ (∀ l : Fin 42, txIdle t l = true) ∧ ∀ n : Fin 4, uplinkDriven t n = false

/-- The motor balls float while the device is not the active. -/
theorem pwmBall_of_role {t : State} (h : t.twin.role ≠ .active) (k : Fin 4) (x : Half) : pwmBall t k x = .highZ := by
  simp [pwmBall, isActive, h]

/-- A device in reset or unpowered, with its twin unit, pins and stations as a reset leaves them, is quiet. -/
theorem quietBalls_of_reset {t : State} (hphase : t.boot.phase = .inReset ∨ t.boot.phase = .unpowered)
    (hrole : t.twin.role = .electing) (hrst : t.twin.peerRst = .low) (hpins : t.pins = Pins.init) (hstn : t.stn = []) :
    QuietBalls t := by
  have hready : (t.boot.phase == .ready) = false := by rcases hphase with h | h <;> rw [h] <;> rfl
  have hshut : (t.boot.phase == .shut) = false := by rcases hphase with h | h <;> rw [h] <;> rfl
  have halive : alive t = false := by rcases hphase with h | h <;> simp [alive, h]
  have hactive : t.twin.role ≠ .active := by rw [hrole]; decide
  have hhv : fld t F.PODPWR_HV_STAT = 0 := by
    rw [fld, stnWord, hstn]; decide
  refine ⟨pwmBall_of_role hactive, fun b => ?_, ?_, ?_, ?_, fun p => ?_, ?_, fun l => ?_, fun n => ?_⟩
  · simp [auxOut, shownReady, hready, hshut]
  · rw [activeOutBall, hpins]; rfl
  · simp [peerRstBall, hrst]
  · rw [lineSyncBall, hpins]; rfl
  · rw [hvBall, hhv, Nat.zero_testBit]
  · simp [hbOut, hready]
  · simp [txIdle, laneInService, halive, hready]
  · simp [uplinkDriven, isActive, hrole]

/-- The claims on the output balls: the resets leave what `quietBalls_of_reset` asks for. -/
theorem outputBalls : Claims.OutputBalls := by
  unfold Claims.OutputBalls
  intro s pairPos trained fastOk part quiet
  refine ⟨?_, fun hpower hheld => ?_, fun hpower => ?_, fun hphase => ?_⟩
  · exact ⟨_, rfl, quietBalls_of_reset (t := resetKind0 s pairPos) (.inl rfl) rfl rfl rfl rfl⟩
  · exact ⟨_, pinResetAssert_resets hpower hheld,
      quietBalls_of_reset (t := resetWarm s 1 .inReset) (.inl rfl) rfl rfl rfl rfl⟩
  · exact ⟨_, powerLoss_powered hpower, quietBalls_of_reset (.inr rfl) rfl rfl rfl rfl⟩
  · obtain ⟨t, hexec, hready, hrole, -⟩ := readiness_law hphase trained fastOk part
    refine ⟨t, hexec, ?_, ?_, pwmBall_of_role (by rw [hrole]; decide)⟩
    · simp [auxOut, shownReady, auxLevel, level, hready]
    · simp [hbOut, hbHalf, hready]

/-! ## Writes of the thermos -/

theorem other_ne (b : Fin 2) : other b ≠ b := by
  revert b; decide

/-- A settings commit puts its bank beside the newest one, whose number it follows. -/
theorem commitBank_law (s : State) (bulk : Fin 2) {b : SetBank} (hb : s.therm.banks[s.therm.newest] = some b) :
    ∃ c, (commitBank s bulk).therm
        = { s.therm with banks := s.therm.banks.set (other s.therm.newest) (some c), newest := other s.therm.newest, dirty := false }
      ∧ c.seq = b.seq + 1 ∧ c.bulkBank = bulk := by
  refine ⟨_, rfl, ?_, rfl⟩
  simp only [newestBank, hb]

theorem wearPages_therm (s : State) (wear : BitVec 16) (swapped : Nat) : ∃ w, (wearPages s wear swapped).therm
    = { s.therm with wear := w, spares := s.therm.spares - swapped } := by
  simp only [wearPages, spareCheck]
  split
  · exact ⟨_, rfl⟩
  · split
    · rw [alarm_therm]; exact ⟨_, rfl⟩
    · exact ⟨_, rfl⟩

/-- The claims on the thermos: a commit is `commitBank_law`, the pages it wears `wearPages_therm`. -/
theorem thermosWrites : Claims.ThermosWrites := by
  unfold Claims.ThermosWrites
  intro s b wear swapped hready
  refine ⟨fun hdirty hb => ?_, fun hclean => ?_, ?_⟩
  · have hexec : exec (.thermosSettingsCommit wear swapped) s
        = .next (wearPages (commitBank s (bulkInUse s)) wear swapped) := by
      show execThermosSettingsCommit wear swapped s = _
      simp [execThermosSettingsCommit, hready, hdirty]
    obtain ⟨c, hcommit, hseq, hbulk⟩ := commitBank_law s (bulkInUse s) hb
    obtain ⟨w, hworn⟩ := wearPages_therm (commitBank s (bulkInUse s)) wear swapped
    have hne : (other s.therm.newest).val ≠ s.therm.newest.val := fun h => other_ne _ (Fin.ext h)
    rw [hcommit] at hworn
    exact ⟨_, c, hexec, by rw [hworn], by rw [hworn]; exact other_ne _, by simp [hworn], hseq,
      by rw [hbulk, bulkInUse, newestBank, hb], by simpa [hworn, Vector.getElem_set_ne _ _ hne] using hb, by rw [hworn]⟩
  · show execThermosSettingsCommit wear swapped s = _
    simp [execThermosSettingsCommit, hclean]
  · have hexec : exec .thermosCounterWrite s = .next { s with
        therm := { s.therm with epoch := s.twin.epoch, keptAddr := s.therm.devAddr, keptPair := s.therm.pair } } := by
      show execThermosCounterWrite s = _
      simp [execThermosCounterWrite, hready]
    exact ⟨_, hexec, rfl, rfl, rfl, rfl⟩

/-- Settles O59: the three claims. -/
theorem resetsAndThermos : Obligations.ResetsAndThermos := ⟨resetsAndStartup, outputBalls, thermosWrites⟩

end Sys2Proof.Machine
end

section
/-! What the outcome of a letter leaves in its stream, the dead-letter queue and the receipts held (R57, R119, R120, R126). -/
namespace Sys2Proof.Machine
open Sys2Proof

/-- The state whose stream then moves on: a refusal has become a dead letter. -/
def buried (s : State) (e : Env) (pl : List Byte) (a : Ans) : State :=
  if a.code = 0 then s else deadLetter s e pl a.code a.detail

theorem settleLetter_buried (s : State) (e : Env) (pl : List Byte) (a : Ans) :
    settleLetter s e pl a = release (recordOutcome (buried s e pl a) e a false) e false a := rfl

theorem buried_done (s : State) (e : Env) (pl : List Byte) {a : Ans} (h : a.code = 0) : buried s e pl a = s := if_pos h

theorem buried_refused (s : State) (e : Env) (pl : List Byte) {a : Ans} (h : a.code ≠ 0) :
    buried s e pl a = deadLetter s e pl a.code a.detail := if_neg h

/-- A dead letter touches neither the streams nor the twin nor the receipts held. -/
theorem buried_keeps (s : State) (e : Env) (pl : List Byte) (a : Ans) :
    (buried s e pl a).round.streams = s.round.streams ∧ (buried s e pl a).twin = s.twin
      ∧ (buried s e pl a).round.held = s.round.held := by
  by_cases h : a.code = 0
  · rw [buried_done s e pl h]; exact ⟨rfl, rfl, rfl⟩
  · rw [buried_refused s e pl h]
    obtain ⟨hstreams, htwin, hheld, -⟩ := deadLetter_law s e pl a.code a.detail
    exact ⟨hstreams, htwin, hheld⟩

theorem streamOf_buried (s : State) (e : Env) (pl : List Byte) (a : Ans) :
    streamOf (buried s e pl a) e = streamOf s e := by
  rw [streamOf, (buried_keeps s e pl a).1, streamOf]

/-- After the outcome the letter's stream has moved on, and the dead letters and alarm slots are those of `buried`. -/
theorem settleLetter_leaves (s : State) (e : Env) (pl : List Byte) (a : Ans) :
    streamOf (settleLetter s e pl a) e = movedOn (buried s e pl a) e a false
      ∧ (settleLetter s e pl a).round.dead = (buried s e pl a).round.dead
      ∧ ∀ n, slotGet (settleLetter s e pl a) n = slotGet (buried s e pl a) n := by
  obtain ⟨f, p, q, hs, heq, -⟩ := settleLetter_law s e pl a
  rw [heq]
  exact ⟨streamOf_put (buried s e pl a) (isStreamOf_movedOn _ e a false), rfl, fun _ => rfl⟩

/-! ## The record -/

theorem movedOn_repeatable (s : State) {e : Env} (a : Ans) (due : Bool) (h : repeatable e.kind = true) :
    (movedOn s e a due).record = (streamOf s e).record := if_pos h

theorem movedOn_recorded (s : State) {e : Env} (a : Ans) (due : Bool) (h : repeatable e.kind = false) :
    (movedOn s e a due).record.getLast? = some (outcomeOf s e a due) := by
  have hrecord : (movedOn s e a due).record = record16 (streamOf s e).record (outcomeOf s e a due) :=
    if_neg (by simp [outcomeOf, h])
  rw [hrecord, record16_last]

/-! ## The receipt -/

/-- On an active with a joined twin the receipt waits behind the filling hamper. -/
theorem release_joined {s : State} (hjoined : (isActive s && s.twin.joined) = true) (e : Env) (rep : Bool) {a : Ans}
    (hafter : a.after = []) : ∃ h, (release s e rep a).round.held = s.round.held ++ [h] ∧ h.hseq = s.twin.hseq + 1
      ∧ h.env = receiptEnv s e 0x80 (receiptClass e.cls) 0 ∧ h.payload = answerBytes s e rep a (scLine s) := by
  simp only [release, hafter, List.foldl_nil, releaseReceipt, holdEnv, if_pos hjoined]
  exact ⟨_, rfl, rfl, rfl, rfl⟩

theorem recordOutcome_keeps (s : State) (e : Env) (a : Ans) (due : Bool) :
    (recordOutcome s e a due).round.held = s.round.held
      ∧ (recordOutcome s e a due).twin.hseq = s.twin.hseq
      ∧ (isActive (recordOutcome s e a due) && (recordOutcome s e a due).twin.joined) = (isActive s && s.twin.joined) := by
  obtain ⟨f, heq⟩ := recordOutcome_law s e a due
  rw [heq]
  exact ⟨rfl, rfl, rfl⟩

/-- Settles O17: the stream and the dead letters are those of `settleLetter_leaves`, the receipt is `release_joined`'s. -/
theorem letterSettlement : Obligations.LetterSettlement := by
  unfold Obligations.LetterSettlement
  intro s e pl a t
  obtain ⟨hstream, hdead, hslot⟩ := settleLetter_leaves s e pl a
  obtain ⟨-, htwin, hheld⟩ := buried_keeps s e pl a
  have hsame := streamOf_buried s e pl a
  have hactive : (isActive (buried s e pl a) && (buried s e pl a).twin.joined) = (isActive s && s.twin.joined) := by
    rw [isActive, htwin, isActive]
  refine ⟨?_, ?_, fun hrep => ?_, fun hrep => ?_, fun hdone => ?_, fun hlo hhi => ?_, fun hact hjoined hafter => ?_,
    fun halone => ?_⟩
  · rw [hstream]; rfl
  · rw [hstream, ← hsame]; rfl
  · rw [hstream, movedOn_repeatable _ a false hrep, hsame]
  · exact ⟨_, hstream ▸ movedOn_recorded _ a false hrep, rfl, rfl, rfl, rfl, rfl⟩
  · rw [hdead, buried_done s e pl hdone]
  · have hrefused := buried_refused s e pl (a := a) (by omega)
    obtain ⟨-, -, -, -, -, -, -, -, hopen, d, hlast, henv, hcode, hlen⟩ := deadLetter_law s e pl a.code a.detail
    rw [hslot, hdead, hrefused]
    exact ⟨hopen, d, hlast, henv, hcode, hlen⟩
  · obtain ⟨hrheld, hrhseq, hract⟩ := recordOutcome_keeps (buried s e pl a) e a false
    obtain ⟨h, hreceipt, hhseq, henv, hpayload⟩ := release_joined (s := recordOutcome (buried s e pl a) e a false)
      (by rw [hract, hactive, hact, hjoined]; rfl) e false hafter
    refine ⟨h, ?_, ?_, ?_⟩
    · rw [← hheld, ← hrheld]; exact hreceipt
    · rw [hhseq, hrhseq, htwin]
    · rw [henv, hpayload]; exact ⟨rfl, rfl, rfl, rfl⟩
  · obtain ⟨f, p, q, hs, heq, hnone⟩ := settleLetter_law s e pl a
    have hnil : hs = [] := hnone (hactive.trans halone)
    have hkept : t.round.held = (buried s e pl a).round.held ++ hs := by simp only [t, heq]; rfl
    rw [hkept, hnil, List.append_nil, hheld]

end Sys2Proof.Machine
end

section
/-! What the power manager's operations leave as it is: the words of a set `A` of stations, the die's model temperature,
and whether a housekeeping round runs. -/
namespace Sys2Proof.Machine
open Sys2Proof

/-- `t` follows `s`: its station store is canonical, and the words in `A`, the die's model temperature and the
housekeeping round are as they were. -/
structure Kept (A : Nat → Prop) (s t : State) : Prop where
  ok : StnOk t
  words : ∀ a, A a → stnWord t a = stnWord s a
  dieT : t.pwr.die.t = s.pwr.die.t
  hk : t.pwr.hk = s.pwr.hk

section
variable {A : Nat → Prop} {s t : State}

theorem Kept.refl (h : StnOk s) : Kept A s s := ⟨h, fun _ _ => rfl, rfl, rfl⟩

theorem Kept.fld (h : Kept A s t) {f : Fld} (hf : A f.addr) : Machine.fld t f = Machine.fld s f :=
  congrArg (fldOf f) (h.words f.addr hf)

/-- A change outside the stations that leaves the die's temperature and the round alone. -/
theorem Kept.frame (h : Kept A s t) {u : State} (hstn : u.stn = t.stn := by rfl)
    (hdie : u.pwr.die.t = t.pwr.die.t := by rfl) (hhk : u.pwr.hk = t.pwr.hk := by rfl) : Kept A s u where
  ok := by rw [StnOk, hstn]; exact h.ok
  words a ha := by rw [stnWord, hstn]; exact h.words a ha
  dieT := hdie.trans h.dieT
  hk := hhk.trans h.hk

theorem Kept.ite {c : Prop} {_ : Decidable c} {u : State} (ht : Kept A s t) (hu : Kept A s u) :
    Kept A s (if c then t else u) := by split <;> assumption

/-- An operation that runs under a condition. -/
theorem Kept.when {c : Prop} {_ : Decidable c} {f : State → State} (h : Kept A s t)
    (hf : ∀ {u}, Kept A s u → Kept A s (f u)) : Kept A s (if c then f t else t) := .ite (hf h) h

theorem Kept.foldl {α : Type} {f : State → α → State} {l : List α} (h : Kept A s t)
    (hf : ∀ u, Kept A s u → ∀ x ∈ l, Kept A s (f u x)) : Kept A s (l.foldl f t) := List.foldlRecOn l f h hf

/-! ## Fields, alarms, the journal -/

variable (h : Kept A s t)
include h

theorem setFld_kept {f : Fld} {v : Nat} (hf : ¬ A f.addr) : Kept A s (setFld t f v) where
  ok := setFld_ok h.ok f v
  words a ha := by rw [stnWord_setFld_other h.ok v (by rintro rfl; exact hf ha), h.words a ha]
  dieT := h.dieT
  hk := h.hk

theorem setFldB_kept {f : Fld} {b : Bool} (hf : ¬ A f.addr) : Kept A s (setFldB t f b) := setFld_kept h hf
theorem incFld_kept {f : Fld} (hf : ¬ A f.addr) : Kept A s (incFld t f) := setFld_kept h hf

theorem alarm_kept {n : Nat} {d : List Word} : Kept A s (alarm t n d) :=
  h.frame (alarm_stn t n d) (by rw [alarm_pwr]) (by rw [alarm_pwr])

theorem journal_kept {x : JEntry} : Kept A s (journal t x) := by
  obtain ⟨f, hf⟩ := journal_fill t x
  rw [hf]; exact h.frame

theorem setPodZone_kept {p : Fin 24} {z : Zone} : Kept A s (setPodZone t p z) := h.frame

theorem abortPod_kept {p : Fin 24} {inhibit : Bool} : Kept A s (abortPod t p inhibit) := .ite h.frame h

/-! ## What leaves by the Round and the twin link -/

theorem sendMail_kept {stream : Nat} {express : Bool} {mseq : Word} {bytes : List Byte} :
    Kept A s (sendMail t stream express mseq bytes) := by
  rw [sendMail]
  obtain ⟨a, b, hsent⟩ := sendEnv_round t t.round.hostWest _ bytes
  rw [hsent]; exact h.frame

theorem pumpPort_twin_kept : Kept A s (pumpPort t .twin) := .ite h.frame h

theorem setPort_twin_kept {p : Port} : Kept A s (setPort t .twin p) := h.frame
theorem emit_kept {o : Out} : Kept A s (emit t o) := h.frame

theorem sendTwin_kept {sp : Space} {e : Env} {bytes : List Byte} {o : Out} : Kept A s (sendTwin t sp e bytes o) :=
  emit_kept (pumpPort_twin_kept (setPort_twin_kept h))

theorem sendPostcard_kept {release : Bool} : Kept A s (sendPostcard t release) := .ite (sendTwin_kept h.frame) h

theorem told_kept {u : State} : Kept A s (told u t) := .ite (sendPostcard_kept h) h

/-! ## Record marks: writes of DRAM, which note the errors they meet -/

section
variable (hA : ∀ a, A a → a / 0x1000000 ≠ 0x4D)
include hA

theorem noteUncorrectable_kept {cw : Nat} : Kept A s (noteUncorrectable t cw) := by
  have hch : dramChannel (32 * cw) < 4 := Nat.mod_lt _ (by omega)
  have hcount := incFld_kept h (f := F.DRAM_UE_COUNT (dramChannel (32 * cw))) (fun ha => hA _ ha (by dsimp only; omega))
  have hlo := setFld_kept hcount (f := F.DRAM_LAST_UE_LO (dramChannel (32 * cw))) (v := 32 * cw)
    (fun ha => hA _ ha (by dsimp only; omega))
  have hhi := setFld_kept hlo (f := F.DRAM_LAST_UE_HI (dramChannel (32 * cw))) (v := 32 * cw / 2 ^ 32)
    (fun ha => hA _ ha (by dsimp only; omega))
  exact alarm_kept (.ite hhi.frame hhi)

theorem noteCorrected_kept {cw : Nat} : Kept A s (noteCorrected t cw) := by
  have hch : dramChannel (32 * cw) < 4 := Nat.mod_lt _ (by omega)
  exact alarm_kept (incFld_kept h (fun ha => hA _ ha (by dsimp only; omega)))

theorem writeCheck_kept {a n cw : Nat} : Kept A s (writeCheck a n t cw) :=
  .ite h.frame (.ite (noteUncorrectable_kept h hA) (.ite (noteCorrected_kept h hA).frame h))

theorem dramWrite_kept {a : Nat} {bs : List Byte} : Kept A s (dramWrite t a bs) :=
  (h.foldl (fun _ hu _ _ => writeCheck_kept hu hA)).frame

theorem setMark_kept {p r l m : Nat} : Kept A s (setMark t p r l m) := .ite (dramWrite_kept h hA) h

theorem abortMarks_kept {p : Fin 24} : Kept A s (abortMarks t p) :=
  (h.foldl (fun _ hu _ _ => setMark_kept hu hA)).foldl (fun _ hu _ _ => setMark_kept hu hA)
end

end

/-! ## The measured words of PWR -/

/-- A word of PWR other than PWR_STAT, which the levels of the die write. -/
abbrev Measured (a : Nat) : Prop := a / 0x1000000 = 0x50 ∧ a ≠ 0x5000000C

section
variable {s t : State} (h : Kept Measured s t)
include h

theorem hvAbort_kept {p : Fin 24} {inhibit : Bool} : Kept Measured s (hvAbort t p inhibit) := by
  have hlowered := setFld_kept (abortPod_kept h (p := p) (inhibit := inhibit)) (f := F.PODPWR_HV_STAT)
    (v := clearBit24 (fld (abortPod t p inhibit) F.PODPWR_HV_STAT) p) (by decide)
  exact abortMarks_kept hlowered.frame (fun _ ha => by omega)

theorem hvFault_kept {p : Fin 24} {detail : Nat} : Kept Measured s (hvFault t p detail) :=
  alarm_kept (journal_kept (setFld_kept (hvAbort_kept h) (by decide)))

theorem podShutdown_kept {p : Fin 24} : Kept Measured s (podShutdown t p) :=
  alarm_kept (journal_kept (setFld_kept (hvAbort_kept h) (by decide)))

/-! ## The steps of the zones -/

theorem podLevels_kept {p : Fin 24} : Kept Measured s (podLevels t p) :=
  .when (f := (podShutdown · p)) (.when (f := (alarm · (256 + p) _))
    (setFld_kept (setPodZone_kept h) (by decide)) (fun hu => alarm_kept hu)) (fun hu => podShutdown_kept hu)

theorem stepPod_kept {p : Fin 24} : Kept Measured s (stepPod t p) :=
  .ite (podLevels_kept (.ite (setPodZone_kept h).frame (setPodZone_kept h))) h

theorem leaveRecord_kept {q : QRec} : Kept Measured s (leaveRecord t q) := by
  unfold leaveRecord
  dsimp only
  split
  · exact sendMail_kept h
  · exact (sendMail_kept h).frame

theorem sendExpress_kept : Kept Measured s (sendExpress t) :=
  .ite h (h.frame.foldl (fun _ hu _ _ => incFld_kept (sendMail_kept hu) (by decide)))

theorem drainMail_kept : Kept Measured s (drainMail t) := by
  have hqueue := (sendExpress_kept h).frame (u := { sendExpress t with mbx := { (sendExpress t).mbx with queue := [] } })
  have hleft := hqueue.foldl (f := leaveRecord) (l := (sendExpress t).mbx.queue) (fun _ hu _ _ => leaveRecord_kept hu)
  exact .ite h (.ite (sendExpress_kept h) (hleft.frame.foldl (fun _ hu _ _ => sendMail_kept hu)))

theorem dieShutdown_kept : Kept Measured s (dieShutdown t) := by
  have hmail := drainMail_kept (alarm_kept (n := 255) (d := [])
    (h.frame (u := { t with boot := { t.boot with thermalLatch := true } })))
  exact (setFld_kept hmail (f := F.PODPWR_HV_STAT) (v := 0) (by decide)).frame

theorem pauseCameras_kept : Kept Measured s (pauseCameras t) :=
  h.foldl (fun _ hu n hn => setFld_kept hu (by have := List.mem_range.mp hn; dsimp only; omega))

theorem dieLevels_kept : Kept Measured s (dieLevels t) :=
  .when (f := dieShutdown) (.when (f := fun u => pauseCameras (alarm u 254 []))
    (setFldB_kept (.when (f := (alarm · 253 _)) (setFldB_kept h.frame (by decide)) (fun hu => alarm_kept hu)) (by decide))
    (fun hu => pauseCameras_kept (alarm_kept hu))) (fun hu => dieShutdown_kept hu)

/-! ## The housekeeping round -/

theorem hkPod_kept {codes : List (BitVec 12)} {p : Fin 24} : Kept Measured s (hkPod codes t p) := by
  have hp := p.isLt
  have hcurrent := fun ma => setFld_kept h (f := F.PODPWR_PZ_I p) (v := ma) (by dsimp only; omega)
  have hpower := fun ma mw => setFld_kept (hcurrent ma) (f := F.PODPWR_PZ_P p) (v := mw) (by dsimp only; omega)
  exact .ite (.ite (hvFault_kept (hpower _ _).frame) (hpower _ _).frame) h

end

end Sys2Proof.Machine
end

section
/-! The core rail (R44, R482 to R484): the slack loop and the rail faults. -/
namespace Sys2Proof.Machine
open Sys2Proof

/-! ## Signed fields -/

theorem setFldInt_ok {s : State} (h : StnOk s) (f : Fld) (i : Int) : StnOk (setFldInt s f i) := setFld_ok h _ _

theorem fld_setFldInt_same {s : State} (h : StnOk s) {f : Fld} (hf : f.lo + f.w ≤ 32) (i : Int) :
    (fld (setFldInt s f i) f : Int) = i % (2 ^ f.w : Int) := by
  have hpos : (0 : Int) < 2 ^ f.w := by positivity
  have hlt : (i % (2 ^ f.w : Int)).toNat < 2 ^ f.w := by
    rw [Int.toNat_lt (Int.emod_nonneg i hpos.ne')]
    exact_mod_cast Int.emod_lt_of_pos i hpos
  rw [setFldInt, fld_setFld_same h hf, Nat.mod_eq_of_lt hlt, Int.toNat_of_nonneg (Int.emod_nonneg i hpos.ne')]

theorem fld_setFldInt_addr {s : State} (h : StnOk s) {f g : Fld} (i : Int) (ha : g.addr ≠ f.addr) :
    fld (setFldInt s f i) g = fld s g := fld_setFld_addr h _ ha

theorem fld_setFldInt_bits {s : State} (h : StnOk s) {f g : Fld} (i : Int) (hg : g.lo + g.w ≤ 32)
    (hb : f.lo + f.w ≤ g.lo ∨ g.lo + g.w ≤ f.lo) : fld (setFldInt s f i) g = fld s g := fld_setFld_bits h _ hg hb

/-! ## The rail -/

/-- VFLOOR and VSET after a change are the values asked for, held within the rail's range; nothing else of PWR moves. -/
theorem setRail_shows {s : State} (h : StnOk s) (vfloor vset : Int) :
    (fld (setRail s vfloor vset) F.PWR_STAT_VFLOOR : Int) = max 240 (min 360 vfloor)
      ∧ (fld (setRail s vfloor vset) F.PWR_STAT_VSET : Int) = max (max 240 (min 360 vfloor)) (min 360 vset)
      ∧ fld (setRail s vfloor vset) F.PWR_SLACK_MIN = fld s F.PWR_SLACK_MIN
      ∧ (setRail s vfloor vset).pwr = s.pwr := by
  have hfloor := setFldInt_ok h F.PWR_STAT_VFLOOR (max 240 (min 360 vfloor))
  refine ⟨?_, ?_, ?_, rfl⟩
  · rw [setRail, fld_setFldInt_bits hfloor _ (by simp) (by simp), fld_setFldInt_same h (by simp)]
    norm_num
    omega
  · rw [setRail, fld_setFldInt_same hfloor (by simp)]
    norm_num
    omega
  · rw [setRail, fld_setFldInt_addr hfloor _ (by simp), fld_setFldInt_addr h _ (by simp)]

/-! ## What an evaluation reads -/

/-- The state that has noted the interval's least slack, and counts `k` evaluations with slack to spare. -/
def slackNoted (s : State) (m : Int) (k : Nat) : State :=
  { setFldInt s F.PWR_SLACK_MIN m with pwr := { s.pwr with down := k } }

theorem fld_set_slackMin {s : State} (h : StnOk s) (m : Int) {g : Fld} (ha : g.addr ≠ 0x50000014) :
    fld (setFldInt s F.PWR_SLACK_MIN m) g = fld s g := fld_setFldInt_addr h m ha

theorem fldB_set_slackMin {s : State} (h : StnOk s) (m : Int) {g : Fld} (ha : g.addr ≠ 0x50000014) :
    fldB (setFldInt s F.PWR_SLACK_MIN m) g = fldB s g := congrArg (· != 0) (fld_set_slackMin h m ha)

/-- A pod's urgency does not turn on PWR. -/
theorem urgent_set_slackMin {s : State} (h : StnOk s) (m : Int) (p : Nat) :
    urgent (setFldInt s F.PWR_SLACK_MIN m) p = urgent s p := by
  have hfitted : fitted (setFldInt s F.PWR_SLACK_MIN m) p = fitted s p :=
    fldB_set_slackMin h m (by dsimp only; omega)
  have hrows : rowsOf (setFldInt s F.PWR_SLACK_MIN m) p = rowsOf s p := by
    simp only [rowsOf, depthOf, ilOf, fld_set_slackMin h m (g := F.SCR_POD_CFG_ROT_DEPTH p) (by dsimp only; omega),
      fldB_set_slackMin h m (g := F.SCR_POD_CFG_INTERLEAVE p) (by dsimp only; omega)]
  have hlead : leadOf (setFldInt s F.PWR_SLACK_MIN m) p = leadOf s p := by
    simp only [leadOf, hfitted, hrows]; rfl
  simp only [urgent, hfitted, hlead, fld_set_slackMin h m (g := F.PODL_CTL_WM p) (by dsimp only; omega)]
  rfl

theorem slackTarget_set_slackMin {s : State} (h : StnOk s) (m : Int) :
    slackTarget (setFldInt s F.PWR_SLACK_MIN m) = slackTarget s := by
  have hthrottle : dieThrottle (setFldInt s F.PWR_SLACK_MIN m) = dieThrottle s := fldB_set_slackMin h m (by simp)
  simp only [slackTarget, hthrottle, fld_set_slackMin h m (g := F.PWR_SLACK_TARGET) (by simp)]

/-- An urgent pod counts as slack 0 on the active. -/
theorem slackMin_urgent {s : State} (meas : SlackMeas) (h : (isActive s && (List.range 24).any (urgent s)) = true) :
    slackMin s meas ≤ 0 := by
  simp only [slackMin, h, if_true]
  exact min_le_right _ _

/-- Evaluations in a row with slack to spare, this one included. -/
def downRun (s : State) (m : Int) : Nat :=
  if ((slackTarget s : Int) + 2) * 1024 < 100 * m then s.pwr.down + 1 else 0

/-- An evaluation of the slack loop, on what `s` shows (R44, R483, R484). -/
theorem evalSlack_eq {s : State} (h : StnOk s) (meas : SlackMeas) (replica : Int) :
    evalSlack s meas replica =
      let m := slackMin s meas
      let n := downRun s m
      let vfloor : Int := fld s F.PWR_STAT_VFLOOR
      let vset : Int := fld s F.PWR_STAT_VSET
      let raised := vset + fld s F.PWR_CFG_STEP_MAX
      let f := min 360 (vfloor + 2)
      if replica < 0 then setRail (slackNoted s m n) f (if vset < f then f else raised)
      else if m ≤ 0 then setRail (slackNoted s m n) vfloor raised
      else if 100 * m < ((slackTarget s : Int) - 2) * 1024 then
        setRail (slackNoted s m n) vfloor (vset + fld s F.PWR_CFG_STEP_UP)
      else if max 1 (fld s F.PWR_CFG_DOWN_N) ≤ n then setRail (slackNoted s m 0) vfloor (vset - 1)
      else setRail (slackNoted s m n) vfloor vset := by
  have hany : (List.range 24).any (urgent (setFldInt s F.PWR_SLACK_MIN (slackMin s meas)))
      = (List.range 24).any (urgent s) := by rw [funext (urgent_set_slackMin h _)]
  have hurgent : ((isActive (setFldInt s F.PWR_SLACK_MIN (slackMin s meas)) && (List.range 24).any (urgent s)) = true
      ∨ slackMin s meas ≤ 0) ↔ slackMin s meas ≤ 0 := or_iff_right_of_imp (slackMin_urgent (s := s) meas)
  simp only [evalSlack, hany, hurgent, slackTarget_set_slackMin h, decide_eq_true_eq,
    fld_set_slackMin h (slackMin s meas) (g := F.PWR_STAT_VSET) (by simp),
    fld_set_slackMin h (slackMin s meas) (g := F.PWR_STAT_VFLOOR) (by simp),
    fld_set_slackMin h (slackMin s meas) (g := F.PWR_CFG_STEP_MAX) (by simp),
    fld_set_slackMin h (slackMin s meas) (g := F.PWR_CFG_STEP_UP) (by simp),
    fld_set_slackMin h (slackMin s meas) (g := F.PWR_CFG_DOWN_N) (by simp)]
  rfl

/-- What an evaluation that sets the rail leaves. -/
theorem slackTimer_leaves {s : State} (h : StnOk s) {meas : SlackMeas} {replica m vfloor vset : Int} {k f1 v1 : Nat}
    (heval : evalSlack s meas replica = setRail (slackNoted s m k) vfloor vset)
    (hfloor : max 240 (min 360 vfloor) = (f1 : Int)) (hset : max (f1 : Int) (min 360 vset) = v1) :
    ∃ t, exec (.slackTimer meas replica) s = .next t ∧ fld t F.PWR_STAT_VFLOOR = f1 ∧ fld t F.PWR_STAT_VSET = v1
      ∧ t.pwr.down = k ∧ (fld t F.PWR_SLACK_MIN : Int) = m % 65536 := by
  have hnoted : StnOk (slackNoted s m k) := setFldInt_ok h F.PWR_SLACK_MIN m
  obtain ⟨hf, hv, hmin, hpwr⟩ := setRail_shows hnoted vfloor vset
  have hexec : exec (.slackTimer meas replica) s = .next (setRail (slackNoted s m k) vfloor vset) := by
    rw [← heval]; rfl
  refine ⟨_, hexec, ?_, ?_, ?_, ?_⟩
  · exact_mod_cast hf.trans hfloor
  · rw [hfloor, hset] at hv; exact_mod_cast hv
  · rw [hpwr]; rfl
  · rw [hmin]; exact fld_setFldInt_same h (by simp) m

/-- The claim on the slack loop: each clause is one branch of `evalSlack_eq`. -/
theorem slackLoop : Claims.SlackLoop := by
  unfold Claims.SlackLoop
  intro s slack replica h f v m t0 n leaves hlo hle hhi
  have heval := evalSlack_eq h slack replica
  dsimp only at heval
  rw [show downRun s (slackMin s slack) = n from rfl] at heval
  refine ⟨fun hreplica => ?_, fun hreplica hm => ?_, fun hreplica hm hbelow => ?_, fun hreplica hm habove hrun => ?_,
    fun hreplica hm habove hrun => ?_, ?_⟩
  · rw [if_pos hreplica] at heval
    refine slackTimer_leaves h heval ?_ ?_
    · push_cast; omega
    · split <;> split <;> push_cast <;> omega
  · rw [if_neg (not_lt.mpr hreplica), if_pos hm] at heval
    exact slackTimer_leaves h heval (by omega) (by push_cast; omega)
  · rw [if_neg (not_lt.mpr hreplica), if_neg (not_le.mpr hm), if_pos hbelow] at heval
    exact slackTimer_leaves h heval (by omega) (by push_cast; omega)
  · rw [if_neg (not_lt.mpr hreplica), if_neg (not_le.mpr hm), if_neg (not_lt.mpr habove), if_pos hrun] at heval
    exact slackTimer_leaves h heval (by omega) (by push_cast; omega)
  · rw [if_neg (not_lt.mpr hreplica), if_neg (not_le.mpr hm), if_neg (not_lt.mpr habove),
      if_neg (not_le.mpr hrun)] at heval
    exact slackTimer_leaves h heval (by omega) (by omega)
  · refine ⟨_, rfl, ?_, fld_setFld_bits h _ (by simp) (by simp)⟩
    rw [fld_setFld_same h (by simp)]
    show max 240 (f - 1) % 512 = max 240 (f - 1)
    omega

/-! ## Rail faults (R482) -/

/-- The claim on rail faults: the fields as set, and the alarm's slot open. -/
theorem railFaults : Claims.RailFaults := by
  unfold Claims.RailFaults
  intro s n x h halive
  refine ⟨?_, ?_, ?_⟩
  · have hexec : exec (.phaseOvercurrent n x) s = .next (alarm
        { setFld s F.PWR_RAIL_FAULT_PHASE (fld s F.PWR_RAIL_FAULT_PHASE ||| 2 ^ n.val) with
          pwr := { s.pwr with off := s.pwr.off ||| (1#8 <<< n.val) } } (328 + n.val) [1, BitVec.ofNat 32 x]) := by
      show execPhaseOvercurrent n x s = _
      simp only [execPhaseOvercurrent, halive, if_true, setFld_pwr]
    have hset := Kept.refl (A := fun _ => True) (setFld_ok h F.PWR_RAIL_FAULT_PHASE
      (fld s F.PWR_RAIL_FAULT_PHASE ||| 2 ^ n.val))
    refine ⟨_, hexec, ?_, ?_, slotGet_alarm_open _ _ _⟩
    · rw [alarm_pwr]; simp
    · rw [(alarm_kept hset.frame).fld trivial, fld_setFld_same h (by simp), Nat.testBit_mod_two_pow, Nat.testBit_or,
        Nat.testBit_two_pow_self]
      simp
  · have hexec : exec (.coreUndervoltage x) s
        = .next (alarm (setFld s F.PWR_RAIL_FAULT_UV 1) 328 [2, BitVec.ofNat 32 x]) := by
      show execCoreUndervoltage x s = _
      simp only [execCoreUndervoltage, halive, if_true]
    have hset := Kept.refl (A := fun _ => True) (setFld_ok h F.PWR_RAIL_FAULT_UV 1)
    refine ⟨_, hexec, ?_, slotGet_alarm_open _ _ _, ?_⟩
    · rw [fldB, (alarm_kept hset).fld trivial, fld_setFld_same h (by simp)]
      rfl
    · rw [alarm_pwr]; rfl
  · have hexec : exec (.coreOvervoltage x) s = .next (alarm { warmState s with
        boot := { (warmState s).boot with phase := .inReset, kind := s.boot.kind, ovHold := true } }
        328 [3, BitVec.ofNat 32 x]) := by
      show execCoreOvervoltage x s = _
      simp only [execCoreOvervoltage, halive, if_true]
    refine ⟨_, hexec, ?_, ?_, fun k => ?_, ?_, slotGet_alarm_open _ _ _⟩
    · rw [alarm_boot]
    · rw [alarm_boot]
    · rw [stw_of_replicate (by rw [alarm_stewards]; rfl) k]; rfl
    · rw [alarm_dram]; rfl

end Sys2Proof.Machine
end

section
/-! The thermal models and the housekeeping round (R488 to R490). -/
namespace Sys2Proof.Machine
open Sys2Proof

/-- A thermal step comes to its meaning's state, and the postcard that may follow. -/
theorem thermalModelStep_of_act {s t : State} {vcore icore : Nat} (h : actThermalModelStep vcore icore s = .next t) :
    exec (.thermalModelStep vcore icore) s = .next (told s t) := by
  show tells _ s = _
  simp only [tells, h]

theorem housekeepingRoundEnd_of_act {s t : State} {codes : List (BitVec 12)} {dieT : List Int}
    (h : actHousekeepingRoundEnd codes dieT s = .next t) :
    exec (.housekeepingRoundEnd codes dieT) s = .next (told s t) := by
  show tells _ s = _
  simp only [tells, h]

/-! ## The die's step -/

/-- The rail as measured. -/
def railMeasured (s : State) (vcore icore : Nat) : State :=
  setFld (setFld s F.PWR_MEAS_VCORE vcore) F.PWR_MEAS_ICORE icore

theorem railMeasured_ok {s : State} (h : StnOk s) (vcore icore : Nat) : StnOk (railMeasured s vcore icore) :=
  setFld_ok (setFld_ok h _ _) _ _

theorem railMeasured_vcore {s : State} (h : StnOk s) (vcore icore : Nat) :
    fld (railMeasured s vcore icore) F.PWR_MEAS_VCORE = vcore % 65536 := by
  rw [railMeasured, fld_setFld_bits (setFld_ok h _ _) _ (by simp) (by simp), fld_setFld_same h (by simp)]
  rfl

theorem railMeasured_icore {s : State} (h : StnOk s) (vcore icore : Nat) :
    fld (railMeasured s vcore icore) F.PWR_MEAS_ICORE = icore % 65536 :=
  fld_setFld_same (setFld_ok h _ _) (by simp) _

theorem railMeasured_other {s : State} (h : StnOk s) (vcore icore : Nat) {g : Fld} (ha : g.addr ≠ 0x50000010) :
    fld (railMeasured s vcore icore) g = fld s g := by
  rw [railMeasured, fld_setFld_addr (setFld_ok h _ _) _ ha, fld_setFld_addr h _ ha]

/-- The die's zone under the power of the measured rail. -/
def dieHeated (s : State) (vcore icore : Nat) : Zone :=
  { s.pwr.die with power := vcore * icore / 100 + fld s F.PWR_DIE_POTHER }

/-- A modelled die after the step of its zone. -/
def dieStepped (s : State) (vcore icore : Nat) : State :=
  setDie (railMeasured s vcore icore)
    (zoneStep (dieHeated s vcore icore) (fld s F.PWR_DIE_RTH) (fld s F.PWR_DIE_TAU) s.fresh)

/-- A thermal step moves a modelled die; the levels compared after that leave its temperature and the measured rail. -/
theorem actThermalModelStep_law {s : State} (h : StnOk s) (halive : alive s = true) (hseen : s.pwr.die.seen = true)
    (htau : fld s F.PWR_DIE_TAU ≠ 0) (vcore icore : Nat) :
    ∃ t, actThermalModelStep vcore icore s = .next t ∧ Kept Measured (dieStepped s vcore icore) t := by
  have hread : ∀ {g : Fld}, g.addr ≠ 0x50000010 →
      fld (setFld (setFld s F.PWR_MEAS_VCORE vcore) F.PWR_MEAS_ICORE icore) g = fld s g :=
    fun ha => railMeasured_other h vcore icore ha
  have hdieRead : ∀ (z : Zone) {g : Fld}, g.addr ≠ 0x50000010 →
      fld (setDie (setFld (setFld s F.PWR_MEAS_VCORE vcore) F.PWR_MEAS_ICORE icore) z) g = fld s g := fun _ _ => hread
  have hact : actThermalModelStep vcore icore s = .next
      (if (dieLevels (dieStepped s vcore icore)).boot.phase == .shut then dieLevels (dieStepped s vcore icore)
        else (List.finRange 24).foldl stepPod (dieLevels (dieStepped s vcore icore))) := by
    simp only [actThermalModelStep, halive, if_true, dieStepped, dieHeated, railMeasured, setFld_pwr,
      hread (g := F.PWR_DIE_POTHER) (by simp), hdieRead _ (g := F.PWR_DIE_RTH) (by simp),
      hdieRead _ (g := F.PWR_DIE_TAU) (by simp), hseen, htau, if_false]
    rfl
  have hdie := dieLevels_kept (.refl (s := dieStepped s vcore icore) (railMeasured_ok h vcore icore))
  exact ⟨_, hact, .ite hdie (hdie.foldl (fun _ hu _ _ => stepPod_kept hu))⟩

/-! ## The housekeeping round -/

/-- The first `n` channels written. -/
def channelsWritten (s : State) (codes : List (BitVec 12)) (n : Nat) : State :=
  (List.range n).foldl (fun s c => setFld s (F.PWR_HK_VAL c) (hkCode codes c)) s

theorem channelsWritten_succ (s : State) (codes : List (BitVec 12)) (n : Nat) :
    channelsWritten s codes (n + 1) = setFld (channelsWritten s codes n) (F.PWR_HK_VAL n) (hkCode codes n) := by
  simp only [channelsWritten, List.range_succ, List.foldl_append, List.foldl_cons, List.foldl_nil]

theorem writeHk_eq (s : State) (codes : List (BitVec 12)) : writeHk s codes = channelsWritten s codes 32 := rfl

/-- Each channel written shows its code. -/
theorem channelsWritten_shows {s : State} (h : StnOk s) (codes : List (BitVec 12)) (n : Nat) :
    StnOk (channelsWritten s codes n) ∧ ∀ i < n, fld (channelsWritten s codes n) (F.PWR_HK_VAL i) = hkCode codes i := by
  induction n with
  | zero => exact ⟨h, fun i hi => absurd hi (Nat.not_lt_zero i)⟩
  | succ n ih =>
    obtain ⟨hok, hwritten⟩ := ih
    rw [channelsWritten_succ]
    refine ⟨setFld_ok hok _ _, fun i hi => ?_⟩
    rcases Nat.lt_succ_iff_lt_or_eq.mp hi with hlt | rfl
    · rw [fld_setFld_addr hok _ (by dsimp only; omega), hwritten i hlt]
    · rw [fld_setFld_same hok (by simp)]
      exact Nat.mod_eq_of_lt (codes.getD i 0).isLt

theorem channelsWritten_pwr (s : State) (codes : List (BitVec 12)) (n : Nat) : (channelsWritten s codes n).pwr = s.pwr := by
  induction n with
  | zero => rfl
  | succ n ih => rw [channelsWritten_succ, setFld_pwr, ih]

/-- The state whose housekeeping round is over. -/
def roundOver (s : State) : State := { s with pwr := { s.pwr with hk := false } }

/-- The end of a round writes the channels and the bus voltage, anchors the die, and checks each pod. -/
theorem actHousekeepingRoundEnd_eq {s : State} (halive : alive s = true) (hhk : s.pwr.hk = true)
    (codes : List (BitVec 12)) (dieT : List Int) :
    ∃ u mv, actHousekeepingRoundEnd codes dieT s = .next ((List.finRange 24).foldl (hkPod codes) u)
      ∧ u.stn = (setFld (writeHk (roundOver s) codes) F.MOT_VBUS_MV mv).stn
      ∧ u.pwr.hk = (writeHk (roundOver s) codes).pwr.hk := by
  rw [actHousekeepingRoundEnd, if_pos (by rw [halive, hhk]; rfl)]
  generalize hw : writeHk (roundOver s) codes = w
  have hwritten : writeHk { s with pwr := { s.pwr with hk := false } } codes = w := hw
  simp only [hwritten]
  exact ⟨_, _, rfl, rfl, rfl⟩

/-- After the round every channel shows its code, which the checks of the pods leave. -/
theorem actHousekeepingRoundEnd_law {s : State} (h : StnOk s) (halive : alive s = true) (hhk : s.pwr.hk = true)
    (codes : List (BitVec 12)) (dieT : List Int) :
    ∃ t u, actHousekeepingRoundEnd codes dieT s = .next t ∧ Kept Measured u t ∧ u.pwr.hk = false
      ∧ ∀ i < 32, fld u (F.PWR_HK_VAL i) = hkCode codes i := by
  obtain ⟨u, mv, hact, hstn, hend⟩ := actHousekeepingRoundEnd_eq halive hhk codes dieT
  obtain ⟨hok, hvals⟩ := channelsWritten_shows (s := roundOver s) h codes 32
  rw [writeHk_eq] at hstn hend
  have hu : StnOk u := by rw [StnOk, hstn]; exact setFld_ok hok _ _
  refine ⟨_, u, hact, (Kept.refl hu).foldl (fun _ hv _ _ => hkPod_kept hv), ?_, fun i hi => ?_⟩
  · rw [hend, channelsWritten_pwr]; rfl
  · have hshown : fld u (F.PWR_HK_VAL i)
        = fld (setFld (channelsWritten (roundOver s) codes 32) F.MOT_VBUS_MV mv) (F.PWR_HK_VAL i) :=
      congrArg (fun m => fldOf (F.PWR_HK_VAL i) (spGet stnInit m (F.PWR_HK_VAL i).addr)) hstn
    rw [hshown, fld_setFld_addr hok mv (by dsimp only; omega), hvals i hi]

/-- The claim on the thermal models: what the two laws keep, a postcard keeps too. -/
theorem thermalModel : Claims.ThermalModel := by
  unfold Claims.ThermalModel
  intro s vcore icore codes dieT h halive z power tau
  refine ⟨fun hseen htau => ?_, fun hhk hlen => ?_⟩
  · have htau0 : fld s F.PWR_DIE_TAU ≠ 0 := fun h0 => htau (congrArg Nat.cast h0)
    obtain ⟨t, hact, hkept⟩ := actThermalModelStep_law h halive hseen htau0 vcore icore
    have htold := told_kept (u := s) hkept
    have hstep : (dieStepped s vcore icore).pwr.die.t
        = wrapS32 (z.t + (wrapS32 (wrapS32 (z.amb + heat power (fld s F.PWR_DIE_RTH)) - z.t)).tdiv tau) := by
      simp only [dieStepped, setDie, zoneStep, if_neg htau0]
      rfl
    refine ⟨_, thermalModelStep_of_act hact, htold.dieT.trans hstep, ?_, ?_⟩
    · rw [htold.fld (by decide)]; exact railMeasured_vcore h vcore icore
    · rw [htold.fld (by decide)]; exact railMeasured_icore h vcore icore
  · obtain ⟨t, u, hact, hkept, hended, hvals⟩ := actHousekeepingRoundEnd_law h halive hhk codes dieT
    have htold := told_kept (u := s) hkept
    refine ⟨_, housekeepingRoundEnd_of_act hact, htold.hk.trans hended, fun i hi => ?_⟩
    rw [htold.fld (by constructor <;> dsimp only <;> omega), hvals i (by omega), hkCode, List.getD_eq_getElem _ _ hi]

end Sys2Proof.Machine
end

section
/-! Pod high voltage (R485 to R487). -/
namespace Sys2Proof.Machine
open Sys2Proof

/-! ## Bits of the 24-bit pod fields -/

theorem testBit_setBit24 (v p q : Nat) : (setBit24 v p).testBit q = (v.testBit q || decide (p = q)) := by
  rw [setBit24, podBit, Nat.testBit_or, Nat.testBit_two_pow]

theorem testBit_clearBit24 (v : Nat) (p : Fin 24) : (clearBit24 v p).testBit p = false := by
  have hlt : 2 ^ p.val < 2 ^ 24 := Nat.pow_lt_pow_right (by omega) p.isLt
  have hsub : 2 ^ 24 - 1 - podBit p = 2 ^ 24 - (2 ^ p.val + 1) := by rw [podBit]; omega
  rw [clearBit24, Nat.testBit_and, hsub, Nat.testBit_two_pow_sub_succ hlt, Nat.testBit_two_pow_self]
  simp

/-! ## Raising an enable -/

/-- A pod whose enable waits to be raised and may be. -/
def hvWaits (s : State) (q : Nat) : Prop :=
  s.pwr.hvReq.getLsbD q = true ∧ (fld s F.PODPWR_HV_FAULT).testBit q = false
    ∧ (fld s F.PODPWR_PZ_INHIBIT).testBit q = false

/-- The first waiting pod in pod order. -/
def hvNext (s : State) : Option Nat :=
  (List.range 24).find? (fun p => s.pwr.hvReq.getLsbD p && !(hvBarred s).testBit p)

theorem hvNext_test (s : State) (q : Nat) :
    (s.pwr.hvReq.getLsbD q && !(hvBarred s).testBit q) = true ↔ hvWaits s q := by
  simp [hvWaits, hvBarred, Nat.testBit_or]

theorem hvNext_waits {s : State} {p : Nat} (h : hvNext s = some p) : hvWaits s p := by
  rw [hvNext] at h
  exact (hvNext_test s p).mp (by simpa using List.find?_some h)

theorem hvNext_first {s : State} {p : Nat} (hp : p < 24) (hw : hvWaits s p) (hfirst : ∀ q, q < p → ¬ hvWaits s q) :
    hvNext s = some p := by
  refine List.find?_range_eq_some.mpr ⟨(hvNext_test s p).mpr hw, List.mem_range.mpr hp, fun q hq => ?_⟩
  rw [Bool.not_eq_true', ← Bool.not_eq_true]
  exact mt (hvNext_test s q).mp (hfirst q hq)

/-- The enable of the next waiting pod rises, and no other moves. -/
theorem hvRaise_stat {s : State} (h : StnOk s) (q : Nat) (hq : q < 24) :
    (fld (hvRaise s) F.PODPWR_HV_STAT).testBit q
      = ((fld s F.PODPWR_HV_STAT).testBit q || decide (hvNext s = some q)) := by
  unfold hvRaise
  cases hnext : hvNext s with
  | none =>
    rw [hvNext] at hnext
    simp only [hnext]
    simp
    rfl
  | some p =>
    rw [hvNext] at hnext
    simp only [hnext]
    rw [fld_setFld_same (by exact h) (by simp), Nat.testBit_mod_two_pow, testBit_setBit24]
    simp [hq]
    rfl

/-- The raised enable waits no longer. -/
theorem hvRaise_req {s : State} {p : Nat} (h : hvNext s = some p) : (hvRaise s).pwr.hvReq.getLsbD p = false := by
  rw [hvNext] at h
  simp only [hvRaise, h, setFld_pwr]
  simp

theorem hvRaise_other {s : State} (h : StnOk s) {g : Fld} (ha : g.addr ≠ 0x51000004) : fld (hvRaise s) g = fld s g := by
  unfold hvRaise
  split
  · exact fld_setFld_addr (s := { s with pwr := _ }) h _ ha
  · rfl

/-! ## A write of HV_EN -/

theorem journalStore_fill (s : State) (a : Nat) (v : Word) :
    ∃ f, journalStore s a v = { s with twin := { s.twin with fill := f } } := by
  rw [journalStore]
  split
  · exact journal_fill s _
  · exact ⟨s.twin.fill, rfl⟩

theorem journalPower_fill (s : State) : ∃ f, journalPower s = { s with twin := { s.twin with fill := f } } :=
  journal_fill s _

/-- HV_EN as written, and the enables whose bits are cleared lowered. -/
def hvLowered (s : State) (v : Word) : State :=
  let s := journalPower (setFld s F.PODPWR_HV_EN (v.toNat % 2 ^ 24))
  setFld s F.PODPWR_HV_STAT (fld s F.PODPWR_HV_STAT &&& v.toNat % 2 ^ 24)

/-- The enables a write asks for: those set, neither high nor barred. -/
def hvAsks (s : State) (v : Word) : Nat :=
  v.toNat % 2 ^ 24 &&& (2 ^ 24 - 1 - (fld s F.PODPWR_HV_STAT ||| hvBarred s))

/-- The state after a write of HV_EN on an active, before it raises an enable. -/
def hvAsked (s : State) (v : Word) : State :=
  let s := hvLowered s v
  { s with pwr := { s.pwr with
      hvReq := (s.pwr.hvReq &&& BitVec.ofNat 24 (v.toNat % 2 ^ 24)) ||| BitVec.ofNat 24 (hvAsks s v) } }

theorem hvWrite_drives {s : State} (h : drives s = true) (v : Word) :
    hvWrite s v = if hvGapOver (hvAsked s v) then hvRaise (hvAsked s v) else hvAsked s v := by
  obtain ⟨f, hf⟩ := journalPower_fill (setFld s F.PODPWR_HV_EN (v.toNat % 2 ^ 24))
  have hdrives : drives (journalPower (setFld s F.PODPWR_HV_EN (v.toNat % 2 ^ 24))) = true := by rw [hf]; exact h
  simp only [hvWrite, hdrives, if_true]
  rfl

/-- The lowered state differs from `s` in HV_EN and HV_STAT alone, of what the sequence of the enables reads. -/
theorem hvLowered_law {s : State} (h : StnOk s) (v : Word) :
    StnOk (hvLowered s v) ∧ fld (hvLowered s v) F.PODPWR_HV_EN = v.toNat % 2 ^ 24
      ∧ fld (hvLowered s v) F.PODPWR_HV_STAT = fld s F.PODPWR_HV_STAT &&& v.toNat % 2 ^ 24
      ∧ (∀ g : Fld, g.addr ≠ 0x51000000 → g.addr ≠ 0x51000004 → fld (hvLowered s v) g = fld s g)
      ∧ (hvLowered s v).pwr = s.pwr ∧ (hvLowered s v).clk = s.clk := by
  obtain ⟨f, hf⟩ := journalPower_fill (setFld s F.PODPWR_HV_EN (v.toNat % 2 ^ 24))
  have hok : StnOk (journalPower (setFld s F.PODPWR_HV_EN (v.toNat % 2 ^ 24))) := by rw [hf]; exact setFld_ok h _ _
  have hread : ∀ g, fld (journalPower (setFld s F.PODPWR_HV_EN (v.toNat % 2 ^ 24))) g
      = fld (setFld s F.PODPWR_HV_EN (v.toNat % 2 ^ 24)) g := by intro g; rw [hf]; rfl
  refine ⟨setFld_ok hok _ _, ?_, ?_, fun g hen hstat => ?_, ?_, ?_⟩
  · rw [hvLowered, fld_setFld_addr hok _ (by simp), hread, fld_setFld_same h (by simp)]
    exact Nat.mod_mod _ _
  · rw [hvLowered, fld_setFld_same hok (by simp), hread, fld_setFld_addr h _ (by simp)]
    exact Nat.mod_eq_of_lt (lt_of_le_of_lt Nat.and_le_left (fld_lt s F.PODPWR_HV_STAT))
  · rw [hvLowered, fld_setFld_addr hok _ hstat, hread, fld_setFld_addr h _ hen]
  · rw [hvLowered, setFld_pwr, hf]; rfl
  · rw [hvLowered, setFld_clk, hf]; rfl

theorem hvGapOver_asked {s : State} (h : StnOk s) (v : Word) : hvGapOver (hvAsked s v) = hvGapOver s := by
  obtain ⟨-, -, -, hread, hpwr, hclk⟩ := hvLowered_law h v
  have hgap : fld (hvAsked s v) F.PODPWR_HV_GAP = fld s F.PODPWR_HV_GAP := hread _ (by simp) (by simp)
  have hlast : (hvAsked s v).pwr.hvLast = s.pwr.hvLast := congrArg (·.hvLast) hpwr
  have hnow : (hvAsked s v).clk = s.clk := hclk
  rw [hvGapOver, hgap, hlast, hnow]
  rfl

theorem testBit_hvAsks {s : State} (v : Word) {q : Nat} (hq : q < 24) : (hvAsks s v).testBit q
    = (v.getLsbD q && !((fld s F.PODPWR_HV_STAT).testBit q || (hvBarred s).testBit q)) := by
  have hlt : fld s F.PODPWR_HV_STAT ||| hvBarred s < 2 ^ 24 :=
    Nat.or_lt_two_pow (fld_lt s _) (Nat.or_lt_two_pow (fld_lt s _) (fld_lt s _))
  have hsub : 2 ^ 24 - 1 - (fld s F.PODPWR_HV_STAT ||| hvBarred s)
      = 2 ^ 24 - ((fld s F.PODPWR_HV_STAT ||| hvBarred s) + 1) := by omega
  rw [hvAsks, Nat.testBit_and, Nat.testBit_mod_two_pow, hsub, Nat.testBit_two_pow_sub_succ hlt, Nat.testBit_or]
  simp [hq, BitVec.getLsbD]

/-- A pod waits after the write when it waited or is asked for now, and its bit is set. -/
theorem hvAsked_req {s : State} (h : StnOk s) (v : Word) {q : Nat} (hq : q < 24) :
    (hvAsked s v).pwr.hvReq.getLsbD q = (v.getLsbD q && (s.pwr.hvReq.getLsbD q
      || !((fld s F.PODPWR_HV_STAT).testBit q || (hvBarred s).testBit q))) := by
  obtain ⟨-, -, hstat, hread, hpwr, -⟩ := hvLowered_law h v
  have hbarred : hvBarred (hvLowered s v) = hvBarred s := by
    rw [hvBarred, hread _ (by simp) (by simp), hread _ (by simp) (by simp), hvBarred]
  have hask := testBit_hvAsks (s := hvLowered s v) v hq
  rw [hstat, hbarred, Nat.testBit_and, Nat.testBit_mod_two_pow] at hask
  simp only [hvAsked, hpwr, BitVec.getLsbD_or, BitVec.getLsbD_and, BitVec.getLsbD_ofNat, hask, Nat.testBit_mod_two_pow,
    hq, decide_true, Bool.true_and]
  simp only [BitVec.getLsbD]
  cases v.toNat.testBit q <;> simp

/-- The pods that wait after a write, where none waited before it. -/
theorem hvAsked_waits {s : State} (h : StnOk s) (v : Word) (hnone : s.pwr.hvReq = 0) {q : Nat} (hq : q < 24) :
    hvWaits (hvAsked s v) q ↔ v.getLsbD q = true ∧ (fld s F.PODPWR_HV_STAT).testBit q = false
      ∧ (fld s F.PODPWR_HV_FAULT).testBit q = false ∧ (fld s F.PODPWR_PZ_INHIBIT).testBit q = false := by
  obtain ⟨-, -, -, hread, -, -⟩ := hvLowered_law h v
  have hfault : fld (hvAsked s v) F.PODPWR_HV_FAULT = fld s F.PODPWR_HV_FAULT := hread _ (by simp) (by simp)
  have hinhibit : fld (hvAsked s v) F.PODPWR_PZ_INHIBIT = fld s F.PODPWR_PZ_INHIBIT := hread _ (by simp) (by simp)
  rw [hvWaits, hvAsked_req h v hq, hfault, hinhibit, hnone]
  simp [hvBarred, Nat.testBit_or]

/-- What a write of HV_EN leaves on a device that drives the outputs (R485). -/
theorem hvWrite_law {s : State} (h : StnOk s) (hdrives : drives s = true) (v : Word) :
    fld (hvWrite s v) F.PODPWR_HV_EN = v.toNat % 2 ^ 24
      ∧ (∀ q < 24, v.getLsbD q = false → (fld (hvWrite s v) F.PODPWR_HV_STAT).testBit q = false)
      ∧ (∀ q < 24, v.getLsbD q = true → (fld s F.PODPWR_HV_STAT).testBit q = true →
          (fld (hvWrite s v) F.PODPWR_HV_STAT).testBit q = true)
      ∧ (hvGapOver s = true → ∀ q < 24, hvNext (hvAsked s v) = some q →
          (fld (hvWrite s v) F.PODPWR_HV_STAT).testBit q = true) := by
  obtain ⟨hok, hen, hstat, -⟩ := hvLowered_law h v
  have hasked : StnOk (hvAsked s v) := hok
  have hlow : ∀ q < 24, (fld (hvAsked s v) F.PODPWR_HV_STAT).testBit q
      = ((fld s F.PODPWR_HV_STAT).testBit q && v.getLsbD q) := by
    intro q hq
    show (fld (hvLowered s v) F.PODPWR_HV_STAT).testBit q = _
    rw [hstat, Nat.testBit_and, Nat.testBit_mod_two_pow]
    simp [hq, BitVec.getLsbD]
  rw [hvWrite_drives hdrives, hvGapOver_asked h]
  by_cases hgap : hvGapOver s = true
  · rw [if_pos hgap]
    refine ⟨?_, fun q hq hv => ?_, fun q hq hv hs => ?_, fun _ q hq hnext => ?_⟩
    · rw [hvRaise_other hasked (by simp)]; exact hen
    · have hnot : hvNext (hvAsked s v) ≠ some q := fun hnext => by
        have hreq := (hvNext_waits hnext).1
        rw [hvAsked_req h v hq, hv] at hreq
        exact Bool.false_ne_true hreq
      rw [hvRaise_stat hasked q hq, hlow q hq, hv]
      simp [hnot]
    · rw [hvRaise_stat hasked q hq, hlow q hq, hv, hs]; rfl
    · rw [hvRaise_stat hasked q hq, hnext]; simp
  · rw [if_neg hgap]
    refine ⟨hen, fun q hq hv => ?_, fun q hq hv hs => ?_, fun hover => absurd hover hgap⟩
    · rw [hlow q hq, hv, Bool.and_false]
    · rw [hlow q hq, hv, hs]; rfl

/-- The store to HV_EN is the write, from a state that differs from `s` in its journal and the stores it holds. -/
theorem hvEnWrite_law {s : State} (htakes : takesStores s = true) (v : Word) :
    ∃ t u, exec (.hvEnWrite v) s = .next t ∧ t.stn = (hvWrite u v).stn ∧ u.stn = s.stn ∧ u.pwr = s.pwr
      ∧ u.clk = s.clk ∧ drives u = drives s := by
  have hbank : bankedStation F.PODPWR_HV_EN.addr = false := by
    by_contra hb
    exact absurd (block_of_bankedStation (by simpa using hb)) (by decide)
  have hexec : exec (.hvEnWrite v) s = .next (storeStation s none F.PODPWR_HV_EN.addr v) := by
    show execHvEnWrite v s = _
    simp only [execHvEnWrite, storeCmd, htakes, if_true]
  rw [storeStation, hbank, if_neg Bool.false_ne_true] at hexec
  obtain ⟨f, hf⟩ := journalStore_fill { s with hiw := s.hiw.filter (fun e => e.1 != F.PODPWR_HV_EN.addr) }
    F.PODPWR_HV_EN.addr v
  exact ⟨_, _, hexec, (noteKept_same _ _ _).stn, by rw [hf], by rw [hf], by rw [hf], by rw [hf]; rfl⟩

/-! ## HV fault -/

/-- An abort lowers the pod's enable, and its record marks leave that so. -/
theorem hvAbort_law {s : State} (h : StnOk s) (p : Fin 24) (inhibit : Bool) :
    StnOk (hvAbort s p inhibit) ∧ (fld (hvAbort s p inhibit) F.PODPWR_HV_STAT).testBit p = false := by
  have hpod := (abortPod_kept (.refl (A := fun _ => True) h) (p := p) (inhibit := inhibit)).ok
  have hlow := setFld_ok hpod F.PODPWR_HV_STAT (clearBit24 (fld (abortPod s p inhibit) F.PODPWR_HV_STAT) p)
  have hmarks : Kept (fun a => a / 0x1000000 ≠ 0x4D) (setFld (abortPod s p inhibit) F.PODPWR_HV_STAT
      (clearBit24 (fld (abortPod s p inhibit) F.PODPWR_HV_STAT) p)) (hvAbort s p inhibit) :=
    abortMarks_kept (Kept.refl hlow).frame (fun _ ha => ha)
  refine ⟨hmarks.ok, ?_⟩
  rw [hmarks.fld (by decide), fld_setFld_same hpod (by simp), Nat.testBit_mod_two_pow, testBit_clearBit24, Bool.and_false]

/-- A pod in HV fault has its fault bit set, its enable low and its alarm raised (R486). -/
theorem hvFault_law {s : State} (h : StnOk s) (p : Fin 24) (detail : Nat) :
    (fld (hvFault s p detail) F.PODPWR_HV_FAULT).testBit p = true
      ∧ (fld (hvFault s p detail) F.PODPWR_HV_STAT).testBit p = false
      ∧ (slotGet (hvFault s p detail) (336 + p.val)).isOpen = true := by
  obtain ⟨hok, hlow⟩ := hvAbort_law h p false
  have hnoted : Kept (fun _ => True) (setFld (hvAbort s p false) F.PODPWR_HV_FAULT
      (setBit24 (fld (hvAbort s p false) F.PODPWR_HV_FAULT) p)) (hvFault s p detail) :=
    alarm_kept (journal_kept (.refl (setFld_ok hok _ _)))
  refine ⟨?_, ?_, slotGet_alarm_open _ _ _⟩
  · rw [hnoted.fld trivial, fld_setFld_same hok (by simp), Nat.testBit_mod_two_pow, testBit_setBit24]
    simp
  · rw [hnoted.fld trivial, fld_setFld_addr hok _ (by simp), hlow]

/-- The claim on pod high voltage: the write, the step of the sequence, and the time-out. -/
theorem podHighVoltage : Claims.PodHighVoltage := by
  unfold Claims.PodHighVoltage
  intro s v p h htakes hactive asks waits
  have hready : (s.boot.phase == .ready) = true := htakes
  have hdrives : drives s = true := by rw [drives, hactive, hready]; rfl
  refine ⟨?_, fun hgap => ?_, fun hgap hw hfirst => ?_, fun hon hhv => ?_⟩
  · obtain ⟨t, u, hexec, hwritten, hstn, hpwr, hclk, hdrv⟩ := hvEnWrite_law htakes v
    have hu : StnOk u := by rw [StnOk, hstn]; exact h
    have hread : ∀ g, fld u g = fld s g := fun g =>
      congrArg (fun m => fldOf g (spGet stnInit m g.addr)) hstn
    have hshown : ∀ g, fld t g = fld (hvWrite u v) g := fun g =>
      congrArg (fun m => fldOf g (spGet stnInit m g.addr)) hwritten
    have hgap : hvGapOver u = hvGapOver s := by simp only [hvGapOver, hpwr, hclk, hread]
    obtain ⟨hen, hcleared, hheld, hraised⟩ := hvWrite_law hu (hdrv.trans hdrives) v
    simp only [← hshown, hread, hgap] at hen hcleared hheld hraised
    refine ⟨t, hexec, hen, hcleared, hheld, fun hnone hover hasks hfirst => hraised hover p p.isLt ?_⟩
    have hwaits : ∀ q < 24, hvWaits (hvAsked u v) q ↔ asks q := by
      intro q hq
      rw [hvAsked_waits hu v (by rw [hpwr, hnone]) hq, hread, hread, hread]
    exact hvNext_first p.isLt ((hwaits p p.isLt).mpr hasks)
      (fun q hq => mt (hwaits q (hq.trans p.isLt)).mp (hfirst q hq))
  · show execHvSequenceStep s = _
    simp only [execHvSequenceStep, hgap, Bool.and_false, Bool.false_eq_true, if_false]
  · have hexec : exec .hvSequenceStep s = .next (hvRaise s) := by
      show execHvSequenceStep s = _
      simp only [execHvSequenceStep, hdrives, hgap, Bool.and_self, if_true]
    have hnext := hvNext_first p.isLt hw hfirst
    exact ⟨_, hexec, by rw [hvRaise_stat h p p.isLt, hnext]; simp, hvRaise_req hnext⟩
  · have hexec : exec (.hvOkTimeout p) s = .next (hvFault s p 1) := by
      show execHvOkTimeout p s = _
      have hon' : hvOn s p = true := hon
      simp only [execHvOkTimeout, hdrives, hon', hhv, Bool.not_false, Bool.and_self, if_true]
    exact ⟨_, hexec, hvFault_law h p 1⟩

/-- Settles O53: the four claims. -/
theorem powerManager : Obligations.PowerManager := ⟨slackLoop, railFaults, podHighVoltage, thermalModel⟩

end Sys2Proof.Machine
end

section
/-! G0 and P0 of every steward (R62, R70): every operation leaves them alone, but for those that start a steward or
reset the device, which set them as a reset does. -/
namespace Sys2Proof.Machine
open Sys2Proof
set_option Elab.async false -- many short lemmas: elaborated side by side, their stacks pass the memory limit

/-- The hard-wired registers of a steward: G0 and P0 (R62, R70). -/
def Steward.hardwired (w : Steward) : Word × Pred := (w.g[0], w.p[0])
/-- Those of all stewards. -/
def hardwiredOf (ws : Vector Steward 8) : Vector (Word × Pred) 8 := ws.map Steward.hardwired
def hardwired (s : State) : Vector (Word × Pred) 8 := hardwiredOf s.stewards

@[simp] theorem hardwiredOf_stewards (s : State) : hardwiredOf s.stewards = hardwired s := (rfl)

@[simp] theorem hardwired_mk
    {ws shared dram single poison stn vstn hiw clk round mbx twin tho therm boot jobs pkr scr plc plc2 pods sight hlt
      mot drm dma lanes pwr jtag pins out fresh pending} :
    hardwired
      ⟨ws, shared, dram, single, poison, stn, vstn, hiw, clk, round, mbx, twin, tho, therm, boot, jobs, pkr, scr, plc,
      plc2, pods, sight, hlt, mot, drm, dma, lanes, pwr, jtag, pins, out, fresh, pending⟩ = hardwiredOf ws := (rfl)

@[simp] theorem Steward.hardwired_mk
    {g v p pc run prog fault epc faddr evmask evpend wdog wdogAt latewin dwin instret start imem dmem mbox trace} :
    Steward.hardwired
      ⟨g, v, p, pc, run, prog, fault, epc, faddr, evmask, evpend, wdog, wdogAt, latewin, dwin, instret, start,
      imem, dmem, mbox, trace⟩ = (g[0], p[0]) := (rfl)
@[simp] theorem Steward.hardwired_eta {w : Steward} : (w.g[0], w.p[0]) = w.hardwired := (rfl)

@[simp] theorem hardwired_ite {c : Prop} {_ : Decidable c} {a b : State} :
    hardwired (if c then a else b) = if c then hardwired a else hardwired b := apply_ite ..
@[simp] theorem Steward.hardwired_ite {c : Prop} {_ : Decidable c} {a b : Steward} :
    Steward.hardwired (if c then a else b) = if c then a.hardwired else b.hardwired := apply_ite ..

@[simp] theorem hardwired_foldl {α : Type} {f : State → α → State} {l : List α} {s : State}
    (hf : ∀ s a, hardwired (f s a) = hardwired s) : hardwired (l.foldl f s) = hardwired s :=
  foldl_keeps hardwired f hf l s

theorem hardwired_setStw {s : State} {k w} (hw : w.hardwired = (stw s k).hardwired) :
    hardwired (setStw s k w) = hardwired s := by
  refine Vector.ext fun i hi => ?_
  show ((s.stewards.set k w).map Steward.hardwired)[i] = (s.stewards.map Steward.hardwired)[i]
  rw [Vector.getElem_map, Vector.getElem_map, Vector.getElem_set]
  split
  · rename_i h; subst h; exact hw
  · rfl

@[simp] theorem hardwired_modStw {s : State} {k f} (hf : ∀ w, (f w).hardwired = w.hardwired) :
    hardwired (modStw s k f) = hardwired s := hardwired_setStw (hf _)

@[simp] theorem Steward.hardwired_setG {w : Steward} {r x} : (w.setG r x).hardwired = w.hardwired := by
  by_cases h : r = 0
  · simp [setG, h]
  · have hr : r.val ≠ 0 := fun e => h (Fin.ext e)
    simp only [setG, h, if_false, hardwired, Vector.getElem_set_ne _ _ hr]
@[simp] theorem Steward.hardwired_setP {w : Steward} {r x} : (w.setP r x).hardwired = w.hardwired := by
  by_cases h : r = 0
  · simp [setP, h]
  · have hr : r.val ≠ 0 := fun e => h (Fin.ext e)
    simp only [setP, h, if_false, hardwired, Vector.getElem_set_ne _ _ hr]
@[simp] theorem Steward.hardwired_setV {w : Steward} {r x} : (w.setV r x).hardwired = w.hardwired := (rfl)
@[simp] theorem Steward.hardwired_fin {w : Steward} : w.fin.hardwired = w.hardwired := (rfl)
@[simp] theorem Steward.hardwired_finTo {w : Steward} {t} : (w.finTo t).hardwired = w.hardwired := (rfl)

variable {s : State}

/-! ### Operations that write no field of a steward -/

@[simp] theorem setVec_hardwired {a v} : hardwired (setVec s a v) = hardwired s := (rfl)
@[simp] theorem useFree_hardwired : hardwired (useFree s) = hardwired s := (rfl)
@[simp] theorem dmaLine_hardwired {n} : hardwired (dmaLine s n) = hardwired s := (rfl)
@[simp] theorem emit_hardwired {o} : hardwired (emit s o) = hardwired s := (rfl)
@[simp] theorem setNotElig_hardwired {b v} : hardwired (setNotElig s b v) = hardwired s := (rfl)
@[simp] theorem modChan_hardwired {ch f} : hardwired (modChan s ch f) = hardwired s := (rfl)
@[simp] theorem askDram_hardwired {k write a} : hardwired (askDram s k write a) = hardwired s := (rfl)
@[simp] theorem setAligned_hardwired {g b} : hardwired (setAligned s g b) = hardwired s := (rfl)
@[simp] theorem noteBroadcast_hardwired {e} : hardwired (noteBroadcast s e) = hardwired s := (rfl)
@[simp] theorem noteChanged_hardwired {old new x} : hardwired (noteChanged s old new x) = hardwired s := (rfl)
@[simp] theorem renumberAll_hardwired : hardwired (renumberAll s) = hardwired s := (rfl)
@[simp] theorem reanchor_hardwired {t} : hardwired (reanchor s t) = hardwired s := (rfl)
@[simp] theorem rescale_hardwired : hardwired (rescale s) = hardwired s := (rfl)
@[simp] theorem rephase_hardwired {p wp} : hardwired (rephase s p wp) = hardwired s := (rfl)
@[simp] theorem shiftGrid_hardwired {d} : hardwired (shiftGrid s d) = hardwired s := (rfl)
@[simp] theorem setLink_hardwired {p x} : hardwired (setLink s p x) = hardwired s := (rfl)
@[simp] theorem modLink_hardwired {p f} : hardwired (modLink s p f) = hardwired s := (rfl)
@[simp] theorem goodUpstream_hardwired {p} : hardwired (goodUpstream s p) = hardwired s := (rfl)
@[simp] theorem setLine_hardwired {y} : hardwired (setLine s y) = hardwired s := (rfl)
@[simp] theorem modCam_hardwired {n f} : hardwired (modCam s n f) = hardwired s := (rfl)
@[simp] theorem dropTails_hardwired : hardwired (dropTails s) = hardwired s := (rfl)
@[simp] theorem setAx_hardwired {x a} : hardwired (setAx s x a) = hardwired s := (rfl)
@[simp] theorem modAx_hardwired {x f} : hardwired (modAx s x f) = hardwired s := (rfl)
@[simp] theorem brakeAx_hardwired {x} : hardwired (brakeAx s x) = hardwired s := (rfl)
@[simp] theorem haltAx_hardwired {x p} : hardwired (haltAx s x p) = hardwired s := (rfl)
@[simp] theorem dropWrites_hardwired {x} : hardwired (dropWrites s x) = hardwired s := (rfl)
@[simp] theorem motTargetWrite_hardwired {x v} : hardwired (motTargetWrite s x v) = hardwired s := (rfl)
@[simp] theorem motionHanded_hardwired : hardwired (motionHanded s) = hardwired s := (rfl)
@[simp] theorem anchorGrid_hardwired {t0} : hardwired (anchorGrid s t0) = hardwired s := (rfl)
@[simp] theorem clearJobReasons_hardwired : hardwired (clearJobReasons s) = hardwired s := (rfl)
@[simp] theorem holdW_hardwired {t} : hardwired (holdW s t) = hardwired s := (rfl)
@[simp] theorem noteDecided_hardwired {p r l idle} : hardwired (noteDecided s p r l idle) = hardwired s := (rfl)
@[simp] theorem nextLine_hardwired {p r l} : hardwired (nextLine s p r l) = hardwired s := (rfl)
@[simp] theorem setPodZone_hardwired {p z} : hardwired (setPodZone s p z) = hardwired s := (rfl)
@[simp] theorem setDie_hardwired {z} : hardwired (setDie s z) = hardwired s := (rfl)
@[simp] theorem lanesDark_hardwired : hardwired (lanesDark s) = hardwired s := (rfl)
@[simp] theorem setHeld_hardwired {u b} : hardwired (setHeld s u b) = hardwired s := (rfl)
@[simp] theorem setDmaCur_hardwired {c d} : hardwired (setDmaCur s c d) = hardwired s := (rfl)
@[simp] theorem storeTuning_hardwired {l} : hardwired (storeTuning s l) = hardwired s := (rfl)
@[simp] theorem addStep_hardwired {b v} : hardwired (addStep s b v) = hardwired s := (rfl)
@[simp] theorem freshCheckpoint_hardwired : hardwired (freshCheckpoint s) = hardwired s := (rfl)
@[simp] theorem writeSlot_hardwired {n im} : hardwired (writeSlot s n im) = hardwired s := (rfl)
@[simp] theorem installFw_hardwired {im} : hardwired (installFw s im) = hardwired s := (rfl)
@[simp] theorem enrollKey_hardwired {i digest} : hardwired (enrollKey s i digest) = hardwired s := (rfl)
@[simp] theorem revokeKey_hardwired {i} : hardwired (revokeKey s i) = hardwired s := (rfl)
@[simp] theorem putStream_hardwired {e x} : hardwired (putStream s e x) = hardwired s := (rfl)
@[simp] theorem unbox_hardwired {e pl} : hardwired (unbox s e pl) = hardwired s := (rfl)
@[simp] theorem dropParcel_hardwired {e} : hardwired (dropParcel s e) = hardwired s := (rfl)
@[simp] theorem waitCall_hardwired {e routine args} : hardwired (waitCall s e routine args) = hardwired s := (rfl)
@[simp] theorem shiftAlign_hardwired {e} : hardwired (shiftAlign s e) = hardwired s := (rfl)
@[simp] theorem applyRound_hardwired {src stream isOpen expected o} :
    hardwired (applyRound s src stream isOpen expected o) = hardwired s := (rfl)
@[simp] theorem assertPeerRst_hardwired {why} : hardwired (assertPeerRst s why) = hardwired s := (rfl)
@[simp] theorem resumeRows_hardwired {forced} : hardwired (resumeRows s forced) = hardwired s := (rfl)
@[simp] theorem becomeJoined_hardwired : hardwired (becomeJoined s) = hardwired s := (rfl)
@[simp] theorem noteCoast_hardwired {p x} : hardwired (noteCoast s p x) = hardwired s := (rfl)
@[simp] theorem restoreNumbers_hardwired : hardwired (restoreNumbers s) = hardwired s := (rfl)
@[simp] theorem restoreCtx_hardwired {n} : hardwired (restoreCtx s n) = hardwired s := (rfl)
@[simp] theorem becomeReady_hardwired : hardwired (becomeReady s) = hardwired s := (rfl)
@[simp] theorem setStnWord_hardwired {a v} : hardwired (setStnWord s a v) = hardwired s := (rfl)
@[simp] theorem setSlot_hardwired {n x} : hardwired (setSlot s n x) = hardwired s := (rfl)
@[simp] theorem setFld_hardwired {f v} : hardwired (setFld s f v) = hardwired s := (rfl)
@[simp] theorem setFldB_hardwired {f b} : hardwired (setFldB s f b) = hardwired s := (rfl)
@[simp] theorem setFldInt_hardwired {f i} : hardwired (setFldInt s f i) = hardwired s := (rfl)
@[simp] theorem addFld_hardwired {f n} : hardwired (addFld s f n) = hardwired s := (rfl)
@[simp] theorem incFld_hardwired {f} : hardwired (incFld s f) = hardwired s := (rfl)
@[simp] theorem wrapFld_hardwired {f} : hardwired (wrapFld s f) = hardwired s := (rfl)
@[simp] theorem lateWin_hardwired : hardwired (lateWin s) = hardwired s := (rfl)
@[simp] theorem admitDram_hardwired : hardwired (admitDram s) = hardwired s := (rfl)
@[simp] theorem placeTrace_hardwired {k rtype body} : hardwired (placeTrace s k rtype body) = hardwired s := (rfl)
@[simp] theorem fallBack_hardwired {p} : hardwired (fallBack s p) = hardwired s := (rfl)
@[simp] theorem noteStored_hardwired {p} : hardwired (noteStored s p) = hardwired s := (rfl)
@[simp] theorem expAcked_hardwired {n e} : hardwired (expAcked s n e) = hardwired s := (rfl)
@[simp] theorem takeCtx_hardwired {n} : hardwired (takeCtx s n).2 = hardwired s := (rfl)
@[simp] theorem camUp_hardwired {n} : hardwired (camUp s n) = hardwired s := (rfl)
@[simp] theorem noteIgnored_hardwired {x} : hardwired (noteIgnored s x) = hardwired s := (rfl)
@[simp] theorem axCmpDisarm_hardwired {x} : hardwired (axCmpDisarm s x) = hardwired s := (rfl)
@[simp] theorem pkrStat_hardwired {state result} : hardwired (pkrStat s state result) = hardwired s := (rfl)
@[simp] theorem pkrEnd_hardwired {result} : hardwired (pkrEnd s result) = hardwired s := (rfl)
@[simp] theorem pkrRun_hardwired {j} : hardwired (pkrRun s j) = hardwired s := (rfl)
@[simp] theorem pkrRoleChange_hardwired : hardwired (pkrRoleChange s) = hardwired s := (rfl)
@[simp] theorem discardCrc_hardwired : hardwired (discardCrc s) = hardwired s := (rfl)
@[simp] theorem discardOther_hardwired : hardwired (discardOther s) = hardwired s := (rfl)
@[simp] theorem setRail_hardwired {vfloor vset} : hardwired (setRail s vfloor vset) = hardwired s := (rfl)
@[simp] theorem podZonesAtRole_hardwired : hardwired (podZonesAtRole s) = hardwired s := (rfl)
@[simp] theorem pressOutputsLow_hardwired : hardwired (pressOutputsLow s) = hardwired s := (rfl)
@[simp] theorem pauseCameras_hardwired : hardwired (pauseCameras s) = hardwired s := (rfl)
@[simp] theorem tmcDisarm_hardwired {u} : hardwired (tmcDisarm s u) = hardwired s := (rfl)
@[simp] theorem setDmaState_hardwired {c n} : hardwired (setDmaState s c n) = hardwired s := (rfl)
@[simp] theorem showCur_hardwired {c d} : hardwired (showCur s c d) = hardwired s := (rfl)
@[simp] theorem dmaStop_hardwired {c last} : hardwired (dmaStop s c last) = hardwired s := (rfl)
@[simp] theorem dmaSwreq_hardwired {v} : hardwired (dmaSwreq s v) = hardwired s := (rfl)
@[simp] theorem laneChk_hardwired {l} : hardwired (laneChk s l) = hardwired s := (rfl)
@[simp] theorem checkerStops_hardwired {l} : hardwired (checkerStops s l) = hardwired s := (rfl)
@[simp] theorem useOffset_hardwired {inc} : hardwired (useOffset s inc) = hardwired s := (rfl)
@[simp] theorem clearHidden_hardwired : hardwired (clearHidden s) = hardwired s := (rfl)
@[simp] theorem cyclePeriod_hardwired : hardwired (cyclePeriod s) = hardwired s := (rfl)
@[simp] theorem commitBank_hardwired {bulk} : hardwired (commitBank s bulk) = hardwired s := (rfl)
@[simp] theorem fullCommit_hardwired : hardwired (fullCommit s) = hardwired s := (rfl)
@[simp] theorem beginLong_hardwired {op letter image} : hardwired (beginLong s op letter image) = hardwired s := (rfl)
@[simp] theorem retrainEnd_hardwired {ok} : hardwired (retrainEnd s ok) = hardwired s := (rfl)
@[simp] theorem putMirrored_hardwired {a v} : hardwired (putMirrored s a v) = hardwired s := (rfl)
@[simp] theorem twnLate_hardwired : hardwired (twnLate s) = hardwired s := (rfl)
@[simp] theorem restoreDram_hardwired {trained fastOk part} :
    hardwired (restoreDram s trained fastOk part) = hardwired s := (rfl)

/-! ### Operations, each after those it uses -/

@[simp] theorem spitTurns_hardwired : hardwired (spitTurns s) = hardwired s := by simp [spitTurns]
@[simp] theorem setEvent_hardwired {n k} : hardwired (setEvent n s k) = hardwired s := by simp [setEvent]
@[simp] theorem setEventClaimants_hardwired {n kind idx} :
    hardwired (setEventClaimants s n kind idx) = hardwired s := by simp [setEventClaimants]
@[simp] theorem setEventAll_hardwired {n} : hardwired (setEventAll s n) = hardwired s := by simp [setEventAll]
@[simp] theorem advanceTo_hardwired {t} : hardwired (advanceTo s t) = hardwired s := by simp [advanceTo, tickBases]
@[simp] theorem hardwired_foldl_fst {α β : Type} {f : State × β → α → State × β}
    {l : List α} {x : State × β} (hf : ∀ x a, hardwired (f x a).1 = hardwired x.1) :
    hardwired (l.foldl f x).1 = hardwired x.1 :=
  foldl_keeps (fun x => hardwired x.1) f hf l x
@[simp] theorem queueRecord_hardwired {n first final} : hardwired (queueRecord s n first final) = hardwired s := by
  unfold queueRecord; dsimp only; split <;> simp
@[simp] theorem alarm_hardwired {n d} : hardwired (alarm s n d) = hardwired s :=
  congrArg hardwiredOf (alarm_stewards s n d)
@[simp] theorem closeSlot_hardwired {n} : hardwired (closeSlot s n) = hardwired s := by simp [closeSlot]
@[simp] theorem closeAllSlots_hardwired : hardwired (closeAllSlots s) = hardwired s := by simp [closeAllSlots]
@[simp] theorem journal_hardwired {e} : hardwired (journal s e) = hardwired s := by simp [journal]
@[simp] theorem declineHandover_hardwired : hardwired (declineHandover s) = hardwired s := by simp [declineHandover]
@[simp] theorem startHandover_hardwired : hardwired (startHandover s) = hardwired s :=
  congrArg hardwiredOf (startHandover_keeps s).1
@[simp] theorem faultHandover_hardwired {b} : hardwired (faultHandover s b) = hardwired s :=
  congrArg hardwiredOf (faultHandover_keeps s b).1
@[simp] theorem noteCorrected_hardwired {cw} : hardwired (noteCorrected s cw) = hardwired s := by simp [noteCorrected]
@[simp] theorem noteUncorrectable_hardwired {cw} : hardwired (noteUncorrectable s cw) = hardwired s := by
  simp [noteUncorrectable]
@[simp] theorem readCheck_hardwired {cw} : hardwired (readCheck s cw) = hardwired s := by simp [readCheck]
@[simp] theorem dramReadEffect_hardwired {a n} : hardwired (dramReadEffect s a n) = hardwired s := by
  simp [dramReadEffect]
@[simp] theorem writeCheck_hardwired {a n cw} : hardwired (writeCheck a n s cw) = hardwired s := by simp [writeCheck]
@[simp] theorem dramWrite_hardwired {a bs} : hardwired (dramWrite s a bs) = hardwired s := by simp [dramWrite]
@[simp] theorem dramClear_hardwired {a n} : hardwired (dramClear s a n) = hardwired s := by simp [dramClear]
@[simp] theorem newEccError_hardwired {a ecc} : hardwired (newEccError s a ecc) = hardwired s := by simp [newEccError]
@[simp] theorem journalScratch_hardwired {off} : hardwired (journalScratch s off) = hardwired s := by
  simp [journalScratch]
@[simp] theorem drainDram_hardwired : hardwired (drainDram s) = hardwired s := by simp [drainDram]
@[simp] theorem stewardFault_hardwired {k code kind faddr} :
    hardwired (stewardFault s k code kind faddr) = hardwired s := by simp [stewardFault]
@[simp] theorem stewardFaultFree_hardwired {k code} : hardwired (stewardFaultFree s k code) = hardwired s := by
  simp [stewardFaultFree]
@[simp] theorem faultIllegal_hardwired {k} : hardwired (faultIllegal s k) = hardwired s := by simp [faultIllegal]
@[simp] theorem faultMisaligned_hardwired {k a} : hardwired (faultMisaligned s k a) = hardwired s := by
  simp [faultMisaligned]
@[simp] theorem faultAccess_hardwired {k kind a} : hardwired (faultAccess s k kind a) = hardwired s := by
  simp [faultAccess]
@[simp] theorem faultStation_hardwired {k kind a} : hardwired (faultStation s k kind a) = hardwired s := by
  simp [faultStation]
@[simp] theorem faultParity_hardwired {k a} : hardwired (faultParity s k a) = hardwired s := by simp [faultParity]
@[simp] theorem jumpTo_hardwired {link k t} (hlink : ∀ w, (link w).hardwired = w.hardwired) :
    hardwired (jumpTo s k t link) = hardwired s := by simp [jumpTo, hlink]
@[simp] theorem finG_hardwired {k d x} : hardwired (finG s k d x) = hardwired s := by simp [finG]
@[simp] theorem finV_hardwired {k d x} : hardwired (finV s k d x) = hardwired s := by simp [finV]
@[simp] theorem finP_hardwired {k d x} : hardwired (finP s k d x) = hardwired s := by simp [finP]
@[simp] theorem loadFrom_hardwired {wb k addr n kind parity d lkind} (hwb : ∀ s v, hardwired (wb s v) = hardwired s) :
    hardwired (loadFrom s k addr n kind parity d lkind wb) = hardwired s := by
  unfold loadFrom; split
  · simp
  · split <;> simp [hwb, askDram]
@[simp] theorem storeTo_hardwired {k addr n kind bs} : hardwired (storeTo s k addr n kind bs) = hardwired s := by
  simp only [storeTo]; repeat' split
  all_goals simp
@[simp] theorem setPort_hardwired {l p} : hardwired (setPort s l p) = hardwired s := by
  unfold setPort; split <;> simp
@[simp] theorem pumpPort_hardwired {l} : hardwired (pumpPort s l) = hardwired s := by simp [pumpPort]
@[simp] theorem queueFrame_hardwired {l sp e pl} : hardwired (queueFrame s l sp e pl) = hardwired s := by
  simp [queueFrame]
@[simp] theorem sendEnv_hardwired {west e pl} : hardwired (sendEnv s west e pl) = hardwired s := by simp [sendEnv]
@[simp] theorem resendFrom_hardwired {l sp e} : hardwired (resendFrom s l sp e) = hardwired s := by
  unfold resendFrom; split <;> simp
@[simp] theorem countDiscard_hardwired {l} : hardwired (countDiscard s l) = hardwired s := by
  unfold countDiscard; split <;> simp
@[simp] theorem sendNak_hardwired {l sp} : hardwired (sendNak s l sp) = hardwired s := by simp [sendNak]
@[simp] theorem wrapPort_hardwired {west} : hardwired (wrapPort s west) = hardwired s := by simp [wrapPort]
@[simp] theorem linkGoesDown_hardwired {l} : hardwired (linkGoesDown s l) = hardwired s := by
  unfold linkGoesDown; split <;> simp
@[simp] theorem resendOrDown_hardwired {l sp e} : hardwired (resendOrDown s l sp e) = hardwired s := by
  simp [resendOrDown]
@[simp] theorem trainPort_hardwired {l} : hardwired (trainPort s l) = hardwired s := by simp [trainPort]
@[simp] theorem alarmMismatch_hardwired {was} : hardwired (alarmMismatch was s) = hardwired s := by
  simp [alarmMismatch]
@[simp] theorem forwardEnv_hardwired {e dest pl} : hardwired (forwardEnv s e dest pl) = hardwired s := by
  simp [forwardEnv]
@[simp] theorem takeEnv_hardwired {e pl} : hardwired (takeEnv s e pl) = hardwired s := by simp [takeEnv]
@[simp] theorem deliver_hardwired {e pl} : hardwired (deliver s e pl) = hardwired s := by
  unfold deliver; dsimp only; split <;> simp
@[simp] theorem recordParity_hardwired {e pl} : hardwired (recordParity s e pl) = hardwired s := by
  simp [recordParity]
@[simp] theorem deliverRead_hardwired {e pl parity} : hardwired (deliverRead s e pl parity) = hardwired s := by
  simp [deliverRead]
@[simp] theorem sendReceiptNow_hardwired {e pl} : hardwired (sendReceiptNow s e pl) = hardwired s := by
  simp [sendReceiptNow]
@[simp] theorem holdEnv_hardwired {west e pl bulk} : hardwired (holdEnv s west e pl bulk) = hardwired s := by
  simp [holdEnv]
@[simp] theorem releaseReceipt_hardwired {e pl bulk} : hardwired (releaseReceipt s e pl bulk) = hardwired s := by
  simp [releaseReceipt]
@[simp] theorem nameBulk_hardwired {hm} : hardwired (nameBulk s hm).1 = hardwired s := by
  unfold nameBulk; split <;> simp
@[simp] theorem nameBulks_hardwired : hardwired (nameBulks s) = hardwired s := by simp [nameBulks]
@[simp] theorem releaseHeld_hardwired : hardwired (releaseHeld s) = hardwired s := by simp [releaseHeld]
@[simp] theorem releaseAll_hardwired : hardwired (releaseAll s) = hardwired s := by simp [releaseAll]
@[simp] theorem sendMail_hardwired {stream express mseq bytes} :
    hardwired (sendMail s stream express mseq bytes) = hardwired s := by simp [sendMail]
@[simp] theorem passSlot_hardwired {n} : hardwired (passSlot s n) = hardwired s := by simp [passSlot]
@[simp] theorem quietSlot_hardwired {n} : hardwired (quietSlot s n) = hardwired s := by simp [quietSlot]
@[simp] theorem leaveRecord_hardwired {q} : hardwired (leaveRecord s q) = hardwired s := by
  unfold leaveRecord; split <;> simp
@[simp] theorem sendExpress_hardwired : hardwired (sendExpress s) = hardwired s := by simp [sendExpress]
@[simp] theorem drainMail_hardwired : hardwired (drainMail s) = hardwired s := by simp [drainMail]
@[simp] theorem mbClear_hardwired {v} : hardwired (mbClear s v) = hardwired s := by simp [mbClear]
@[simp] theorem trGo_hardwired {k tag} : hardwired (trGo s k tag) = hardwired s := by simp [trGo]
@[simp] theorem noteOrphans_hardwired {old new} : hardwired (noteOrphans s old new) = hardwired s := by
  simp [noteOrphans]
@[simp] theorem lqApplied_hardwired {es} : hardwired (lqApplied s es) = hardwired s := by simp [lqApplied]
@[simp] theorem putStations_hardwired {sv} : hardwired (putStations s sv) = hardwired s := by simp [putStations]
@[simp] theorem dramPut_hardwired {a bs} : hardwired (dramPut s a bs) = hardwired s := by simp [dramPut]
@[simp] theorem changeLog_hardwired {entry oldSt newSt reason gain camera line d frame} :
    hardwired (changeLog s entry oldSt newSt reason gain camera line d frame) = hardwired s := by simp [changeLog]
@[simp] theorem clearScore_hardwired {e} : hardwired (clearScore s e) = hardwired s := by simp [clearScore]
@[simp] theorem healthNote_hardwired {acc x e} : hardwired (healthNote x acc e).1 = hardwired acc.1 := by
  unfold healthNote; repeat' split
  all_goals simp
@[simp] theorem healthNotes_hardwired {m es x} : hardwired (healthNotes s m es x) = hardwired s := by
  simp [healthNotes]
@[simp] theorem newGen_hardwired {m sv x cols} : hardwired (newGen s m sv x cols) = hardwired s := by simp [newGen]
@[simp] theorem applyNow_hardwired {es} : hardwired (applyNow s es) = hardwired s := by simp [applyNow]
@[simp] theorem flushLq_hardwired : hardwired (flushLq s) = hardwired s := by simp [flushLq]
@[simp] theorem journalLq_hardwired {e} : hardwired (journalLq s e) = hardwired s := by
  unfold journalLq; split <;> simp
@[simp] theorem armLq_hardwired {e} : hardwired (armLq s e) = hardwired s := by simp [armLq]
@[simp] theorem buildVersion_hardwired {es named x} : hardwired (buildVersion s es named x) = hardwired s := by
  simp [buildVersion]
@[simp] theorem activateVersion_hardwired {l} : hardwired (activateVersion s l) = hardwired s := by
  simp [activateVersion]
@[simp] theorem retireVersion_hardwired : hardwired (retireVersion s) = hardwired s := by
  unfold retireVersion; split <;> simp
@[simp] theorem setPodEntries_hardwired : hardwired (setPodEntries s) = hardwired s := by simp [setPodEntries]
@[simp] theorem trackMax_hardwired : hardwired (trackMax s) = hardwired s := by simp [trackMax]
@[simp] theorem noteBelow_hardwired : hardwired (noteBelow s) = hardwired s := by
  unfold noteBelow; split <;> simp
@[simp] theorem followW_hardwired : hardwired (followW s) = hardwired s := by simp [followW]
@[simp] theorem plcTime_hardwired {t} : hardwired (plcTime s t) = hardwired s := by simp [plcTime]
@[simp] theorem slipBy_hardwired {n} : hardwired (slipBy s n) = hardwired s := by simp [slipBy]
@[simp] theorem checkDebt_hardwired : hardwired (checkDebt s) = hardwired s := by simp [checkDebt]
@[simp] theorem countedEdge_hardwired {fwd t} : hardwired (countedEdge s fwd t) = hardwired s := by simp [countedEdge]
@[simp] theorem freeze_hardwired {t} : hardwired (freeze s t) = hardwired s := by
  unfold freeze; split <;> simp
@[simp] theorem encoderFault_hardwired : hardwired (encoderFault s) = hardwired s := by
  simp only [encoderFault]; repeat' split
  all_goals simp
@[simp] theorem illegalEdge_hardwired {t} : hardwired (illegalEdge s t) = hardwired s := by simp [illegalEdge]
@[simp] theorem webLevels_hardwired {a b t} : hardwired (webLevels s a b t) = hardwired s := by simp [webLevels]
@[simp] theorem setPlace_hardwired {n l} : hardwired (setPlace s n l) = hardwired s := by
  unfold setPlace; split <;> simp
@[simp] theorem placeRequest_hardwired {wp} : hardwired (placeRequest s wp) = hardwired s := by
  unfold placeRequest; split <;> simp
@[simp] theorem placeContiguous_hardwired : hardwired (placeContiguous s) = hardwired s := by
  simp only [placeContiguous]; repeat' split
  all_goals simp
@[simp] theorem compareRequest_hardwired {wp} : hardwired (compareRequest s wp) = hardwired s := by
  simp [compareRequest]
@[simp] theorem pagecmpWrite_hardwired {v} : hardwired (pagecmpWrite s v) = hardwired s := by simp [pagecmpWrite]
@[simp] theorem syncLost_hardwired : hardwired (syncLost s) = hardwired s := by simp [syncLost]
@[simp] theorem noteThrottle_hardwired {p} : hardwired (noteThrottle s p) = hardwired s := by simp [noteThrottle]
@[simp] theorem skipClass_hardwired {l c} : hardwired (skipClass l s c) = hardwired s := by
  unfold skipClass; split <;> simp
@[simp] theorem skipDecision_hardwired {l} : hardwired (skipDecision s l) = hardwired s := by simp [skipDecision]
@[simp] theorem readBlock_hardwired {v b} : hardwired (readBlock s v b) = hardwired s := by simp [readBlock]
@[simp] theorem openRecord_hardwired {l} : hardwired (openRecord s l) = hardwired s := by
  unfold openRecord; split <;> simp
@[simp] theorem setMark_hardwired {p r l m} : hardwired (setMark s p r l m) = hardwired s := by simp [setMark]
@[simp] theorem setCode_hardwired {start l x} : hardwired (setCode start l s x) = hardwired s := by simp [setCode]
@[simp] theorem recordCodes_hardwired {p r l codes} : hardwired (recordCodes s p r l codes) = hardwired s := by
  simp [recordCodes]
@[simp] theorem sendPod_hardwired {p type pl} : hardwired (sendPod s p type pl) = hardwired s := by simp [sendPod]
@[simp] theorem writeReg_hardwired {p addr v} : hardwired (writeReg s p addr v) = hardwired s := by simp [writeReg]
@[simp] theorem clearPods_hardwired : hardwired (clearPods s) = hardwired s := by simp [clearPods]
@[simp] theorem abortPod_hardwired {p inhibit} : hardwired (abortPod s p inhibit) = hardwired s := by simp [abortPod]
@[simp] theorem sendIdle_hardwired {p} : hardwired (sendIdle s p) = hardwired s := by simp [sendIdle]
@[simp] theorem sendEcho_hardwired {p t} : hardwired (sendEcho s p t) = hardwired s := by simp [sendEcho]
@[simp] theorem takeDelay_hardwired {p m t0} : hardwired (takeDelay s p m t0) = hardwired s := by simp [takeDelay]
@[simp] theorem bringUp_hardwired {p quick} : hardwired (bringUp s p quick) = hardwired s := by simp [bringUp]
@[simp] theorem askId_hardwired {p k} : hardwired (askId s p k) = hardwired s := by simp [askId]
@[simp] theorem configurePod_hardwired {p} : hardwired (configurePod s p) = hardwired s := by simp [configurePod]
@[simp] theorem afterIds_hardwired {p} : hardwired (afterIds s p) = hardwired s := by simp [afterIds]
@[simp] theorem statusWait_hardwired {p} : hardwired (statusWait s p) = hardwired s := by
  unfold statusWait; split <;> simp
@[simp] theorem portLost_hardwired {p} : hardwired (portLost s p) = hardwired s := by simp [portLost]
@[simp] theorem discardUpstream_hardwired {p} : hardwired (discardUpstream s p) = hardwired s := by
  simp [discardUpstream]
@[simp] theorem sendFire_hardwired {p r l cancel fill tf t} :
    hardwired (sendFire s p r l cancel fill tf t) = hardwired s := by simp [sendFire]
@[simp] theorem issueTrigger_hardwired {p r l tf} : hardwired (issueTrigger s p r l tf).1 = hardwired s := by
  unfold issueTrigger; dsimp only; split <;> simp
@[simp] theorem triggered_hardwired {x tf} : hardwired (triggered s x tf).1 = hardwired s := by
  unfold triggered; split <;> simp
@[simp] theorem startScan_hardwired : hardwired (startScan s) = hardwired s := by simp [startScan]
@[simp] theorem purgeGo_hardwired {v} : hardwired (purgeGo s v) = hardwired s := by
  simp only [purgeGo]; repeat' split
  all_goals simp
@[simp] theorem handBack_hardwired {i} : hardwired (handBack s i) = hardwired s := by
  simp only [handBack]; repeat' split
  all_goals simp
@[simp] theorem sendHead_hardwired {n} : hardwired (sendHead s n) = hardwired s := by
  unfold sendHead; split <;> simp
@[simp] theorem pushOps_hardwired {n ops} : hardwired (pushOps s n ops) = hardwired s := by simp [pushOps]
@[simp] theorem popOp_hardwired {n} : hardwired (popOp s n) = hardwired s := by simp [popOp]
@[simp] theorem readBack_hardwired {n} : hardwired (readBack s n) = hardwired s := by simp [readBack]
@[simp] theorem writeSet_hardwired {n e} : hardwired (writeSet s n e) = hardwired s := by simp [writeSet]
@[simp] theorem openGap_hardwired {n} : hardwired (openGap s n) = hardwired s := by
  simp only [openGap]; repeat' split
  all_goals simp
@[simp] theorem shut_hardwired {n f how} : hardwired (shut s n f how) = hardwired s := by simp [shut]
@[simp] theorem closeFrame_hardwired {n how} : hardwired (closeFrame s n how) = hardwired s := by
  unfold closeFrame; split <;> simp
@[simp] theorem closeOldest_hardwired {n how} : hardwired (closeOldest s n how) = hardwired s := by
  unfold closeOldest; split <;> simp
@[simp] theorem gapEnds_hardwired {n} : hardwired (gapEnds s n) = hardwired s := by simp [gapEnds]
@[simp] theorem startFrame_hardwired {n job jobId recStart byCompare} :
    hardwired (startFrame s n job jobId recStart byCompare) = hardwired s := by simp [startFrame]
@[simp] theorem issueTrig_hardwired {n job jobId recStart l byCompare t} :
    hardwired (issueTrig s n job jobId recStart l byCompare t) = hardwired s := by simp [issueTrig]
@[simp] theorem closeShort_hardwired {n} : hardwired (closeShort s n) = hardwired s := by
  unfold closeShort; split <;> simp
@[simp] theorem camOnJob_hardwired {n no} : hardwired (camOnJob s n no) = hardwired s := by simp [camOnJob]
@[simp] theorem compareTriggers_hardwired {u t} : hardwired (compareTriggers s u t) = hardwired s := by
  simp [compareTriggers]
@[simp] theorem ctxCommit_hardwired {n} : hardwired (ctxCommit s n) = hardwired s := by simp [ctxCommit]
@[simp] theorem expGo_hardwired {n} : hardwired (expGo s n) = hardwired s := by simp [expGo]
@[simp] theorem backDone_hardwired {n} : hardwired (backDone s n) = hardwired s := by
  unfold backDone; dsimp only; split <;> simp
@[simp] theorem camBringUp_hardwired {n} : hardwired (camBringUp s n) = hardwired s := by simp [camBringUp]
@[simp] theorem bringStep_hardwired {n} : hardwired (bringStep s n) = hardwired s := by simp [bringStep]
@[simp] theorem bringFails_hardwired {n} : hardwired (bringFails s n) = hardwired s := by simp [bringFails]
@[simp] theorem bringRefused_hardwired {n entry} : hardwired (bringRefused s n entry) = hardwired s := by
  simp [bringRefused]
@[simp] theorem camLinkDown_hardwired {n} : hardwired (camLinkDown s n) = hardwired s := by simp [camLinkDown]
@[simp] theorem camsAtRole_hardwired : hardwired (camsAtRole s) = hardwired s := by simp [camsAtRole]
@[simp] theorem camAck_hardwired {n ok v} : hardwired (camAck s n ok v) = hardwired s := by
  simp only [camAck]; repeat' split
  all_goals simp
@[simp] theorem joinLine_hardwired {n f ln} : hardwired (joinLine s n f ln).1 = hardwired s := by
  simp only [joinLine]; repeat' split
  all_goals simp
@[simp] theorem takeLine_hardwired {n ln} : hardwired (takeLine s n ln) = hardwired s := by
  unfold takeLine; split <;> simp
@[simp] theorem camsAtJobStart_hardwired {maxRate} : hardwired (camsAtJobStart s maxRate) = hardwired s := by
  simp [camsAtJobStart]
@[simp] theorem axFaultSide_hardwired {x} : hardwired (axFaultSide s x) = hardwired s := by simp [axFaultSide]
@[simp] theorem stallAlarm_hardwired {x kind} : hardwired (stallAlarm s x kind) = hardwired s := by simp [stallAlarm]
@[simp] theorem stallFault_hardwired {x} : hardwired (stallFault s x) = hardwired s := by simp [stallFault]
@[simp] theorem counterFault_hardwired {x} : hardwired (counterFault s x) = hardwired s := by simp [counterFault]
@[simp] theorem encoderAxFault_hardwired {x} : hardwired (encoderAxFault s x) = hardwired s := by
  simp [encoderAxFault]
@[simp] theorem softFault_hardwired {x hi pos} : hardwired (softFault s x hi pos) = hardwired s := by simp [softFault]
@[simp] theorem segGoWrite_hardwired {x} : hardwired (segGoWrite s x) = hardwired s := by simp [segGoWrite]
@[simp] theorem setPosWrite_hardwired {x v} : hardwired (setPosWrite s x v) = hardwired s := by simp [setPosWrite]
@[simp] theorem startRetract_hardwired : hardwired (startRetract s) = hardwired s := by simp [startRetract]
@[simp] theorem motCmd_hardwired {v} : hardwired (motCmd s v) = hardwired s := by simp [motCmd]
@[simp] theorem cmpFire_hardwired {x late} : hardwired (cmpFire s x late) = hardwired s := by simp [cmpFire]
@[simp] theorem axCmpArm_hardwired {x} : hardwired (axCmpArm s x) = hardwired s := by simp [axCmpArm]
@[simp] theorem axCmpCtl_hardwired {x v} : hardwired (axCmpCtl s x v) = hardwired s := by simp [axCmpCtl]
@[simp] theorem axCounted_hardwired {x fwd} : hardwired (axCounted s x fwd) = hardwired s := by simp [axCounted]
@[simp] theorem axIllegal_hardwired {x} : hardwired (axIllegal s x) = hardwired s := by simp [axIllegal]
@[simp] theorem axLevels_hardwired {x a b} : hardwired (axLevels s x a b) = hardwired s := by simp [axLevels]
@[simp] theorem applyMotWrite_hardwired {w} : hardwired (applyMotWrite s w) = hardwired s := by
  unfold applyMotWrite; split <;> simp
@[simp] theorem applyStop_hardwired {stop x} : hardwired (applyStop stop s x) = hardwired s := by simp [applyStop]
@[simp] theorem applyRetract_hardwired {x} : hardwired (applyRetract s x) = hardwired s := by simp [applyRetract]
@[simp] theorem stallCheck_hardwired {x} : hardwired (stallCheck s x) = hardwired s := by simp [stallCheck]
@[simp] theorem generate_hardwired {x dt} : hardwired (generate s x dt) = hardwired s := by simp [generate]
@[simp] theorem rejoin_hardwired : hardwired (rejoin s) = hardwired s := by simp [rejoin]
@[simp] theorem followLift_hardwired : hardwired (followLift s) = hardwired s := by simp [followLift]
@[simp] theorem cmdCounterCheck_hardwired {old x} : hardwired (cmdCounterCheck old s x) = hardwired s := by
  simp [cmdCounterCheck]
@[simp] theorem softCheck_hardwired {x} : hardwired (softCheck s x) = hardwired s := by simp [softCheck]
@[simp] theorem dutyAx_hardwired {x} : hardwired (dutyAx s x) = hardwired s := by simp [dutyAx]
@[simp] theorem driveAx_hardwired {x dt} : hardwired (driveAx s x dt) = hardwired s := by simp [driveAx]
@[simp] theorem motionCycle_hardwired : hardwired (motionCycle s) = hardwired s := by simp [motionCycle]
@[simp] theorem mirrorAx_hardwired {x m} : hardwired (mirrorAx s x m) = hardwired s := by simp [mirrorAx]
@[simp] theorem mirrorMotion_hardwired {axes retract lock} :
    hardwired (mirrorMotion s axes retract lock) = hardwired s :=
  (hardwired_foldl fun _ _ => by split <;> simp).trans (by simp)
@[simp] theorem resumeAx_hardwired {x m} : hardwired (resumeAx s x m) = hardwired s := by simp [resumeAx]
@[simp] theorem motionAtRole_hardwired : hardwired (motionAtRole s) = hardwired s :=
  hardwired_foldl fun _ _ => by split <;> simp
@[simp] theorem writeParts_hardwired {f g parts} : hardwired (writeParts s f g parts).1 = hardwired s := by
  simp [writeParts]
@[simp] theorem readRecords_hardwired {f} : hardwired (readRecords s f) = hardwired s := by simp [readRecords]
@[simp] theorem processFrame_hardwired {n f} : hardwired (processFrame s n f) = hardwired s := by simp [processFrame]
@[simp] theorem putScore_hardwired {e x d} : hardwired (putScore s e x d) = hardwired s := by simp [putScore]
@[simp] theorem toBatch_hardwired {e k dec camera d frame} :
    hardwired (toBatch s e k dec camera d frame) = hardwired s := by simp [toBatch]
@[simp] theorem noteHeld_hardwired {e} : hardwired (noteHeld s e) = hardwired s := by
  unfold noteHeld; dsimp only; split <;> simp
@[simp] theorem takeSample_hardwired {camera frame x} : hardwired (takeSample camera frame s x) = hardwired s := by
  simp only [takeSample]; repeat' split
  all_goals simp
@[simp] theorem findBad_hardwired {a n} : hardwired (findBad s a n) = hardwired s := by simp [findBad]
@[simp] theorem scorePart_hardwired {f part} : hardwired (scorePart f s part) = hardwired s := by
  unfold scorePart; split <;> simp
@[simp] theorem scanEntry_hardwired {acc rtol good e} :
    hardwired (scanEntry rtol good acc e).1 = hardwired acc.1 := by
  simp only [scanEntry]; repeat' split
  all_goals simp
@[simp] theorem scanApply_hardwired {rtol good} : hardwired (scanApply s rtol good).1 = hardwired s := by
  simp only [scanApply, hardwired_ite]; simp
@[simp] theorem hltReset_hardwired {first count st zero} :
    hardwired (hltReset s first count st zero).1 = hardwired s := by simp [hltReset]
@[simp] theorem healthAtJobStart_hardwired : hardwired (healthAtJobStart s) = hardwired s := by
  simp [healthAtJobStart]
@[simp] theorem healthAtRole_hardwired : hardwired (healthAtRole s) = hardwired s := by simp [healthAtRole]
@[simp] theorem capacityAlarms_hardwired {d} : hardwired (capacityAlarms s d) = hardwired s :=
  hardwired_foldl fun _ _ => by split <;> simp
@[simp] theorem jobCounters_hardwired : hardwired (jobCounters s) = hardwired s := by simp [jobCounters]
@[simp] theorem runJob_hardwired {j} : hardwired (runJob s j) = hardwired s := by simp [runJob]
@[simp] theorem startJob_hardwired {j} : hardwired (startJob s j) = hardwired s := by simp [startJob]
@[simp] theorem declareJob_hardwired {d} : hardwired (declareJob s d) = hardwired s := by simp [declareJob]
@[simp] theorem endJob_hardwired {r} : hardwired (endJob s r) = hardwired s := by
  unfold endJob; split <;> simp
@[simp] theorem endAndNext_hardwired {r} : hardwired (endAndNext s r) = hardwired s := by
  unfold endAndNext; dsimp only; split <;> simp
@[simp] theorem pkrGo_hardwired {v} : hardwired (pkrGo s v) = hardwired s := by
  simp only [pkrGo]; repeat' split
  all_goals simp
@[simp] theorem pkrJobWrite_hardwired {v} : hardwired (pkrJobWrite s v) = hardwired s := by simp [pkrJobWrite]
@[simp] theorem pkrAdvance_hardwired {j used out hist} :
    hardwired (pkrAdvance s j used out hist).1 = hardwired s := by simp [pkrAdvance]
@[simp] theorem verifyFault_hardwired : hardwired (verifyFault s) = hardwired s := by simp [verifyFault]
@[simp] theorem pkrRecords_hardwired {bad fuel n} {s : State} {j} :
    hardwired (pkrRecords bad fuel n s j).1 = hardwired s := by
  induction fuel generalizing n s j with
  | zero => rfl
  | succ fuel ih =>
    simp only [pkrRecords]; repeat' split
    all_goals simp [ih]
@[simp] theorem putJob_hardwired {next j} : hardwired (putJob s next j) = hardwired s := by simp [putJob]
@[simp] theorem writePair_hardwired {next j c top bot mismatches} :
    hardwired (writePair s next j c top bot mismatches) = hardwired s := by simp [writePair]
@[simp] theorem takeFeedLine_hardwired {next j p c x mismatches} :
    hardwired (takeFeedLine s next j p c x mismatches) = hardwired s := by
  simp only [takeFeedLine]; repeat' split
  all_goals simp
@[simp] theorem feedLineFrame_hardwired {next j f mismatches} :
    hardwired (feedLineFrame s next j f mismatches) = hardwired s := by
  unfold feedLineFrame; dsimp only; split <;> simp
@[simp] theorem writeRecord_hardwired {j number first count} :
    hardwired (writeRecord s j number first count) = hardwired s := by simp [writeRecord]
@[simp] theorem feedPageFrame_hardwired {next j f slot} :
    hardwired (feedPageFrame s next j f slot) = hardwired s := by simp [feedPageFrame]
@[simp] theorem feedLibFrame_hardwired {j f} : hardwired (feedLibFrame s j f) = hardwired s := by simp [feedLibFrame]
@[simp] theorem feedEndFrame_hardwired {next j f} : hardwired (feedEndFrame s next j f) = hardwired s := by
  simp only [feedEndFrame]; repeat' split
  all_goals simp
@[simp] theorem takeFeed_hardwired {f mismatches} : hardwired (takeFeed f mismatches s) = hardwired s := by
  simp only [takeFeed]; repeat' split
  all_goals simp
@[simp] theorem lateLine_hardwired {j p c l} : hardwired (lateLine s j p c l) = hardwired s := by
  unfold lateLine; dsimp only; split <;> simp
@[simp] theorem beginLine_hardwired {l} : hardwired (beginLine s l) = hardwired s := by simp [beginLine]
@[simp] theorem raiseHorizon_hardwired {l} : hardwired (raiseHorizon s l) = hardwired s := by simp [raiseHorizon]
@[simp] theorem parityFault_hardwired : hardwired (parityFault s) = hardwired s := by simp [parityFault]
@[simp] theorem bufferLine_hardwired {p r l codes} : hardwired (bufferLine s p r l codes) = hardwired s := by
  simp [bufferLine]
@[simp] theorem retireAfter_hardwired {p r l} : hardwired (retireAfter s p r l) = hardwired s := by
  unfold retireAfter; split <;> simp
@[simp] theorem followLine_hardwired {j p r l} : hardwired (followLine s j p r l) = hardwired s := by
  simp [followLine]
@[simp] theorem sendCancel_hardwired {p r l t x} : hardwired (sendCancel s p r l t x) = hardwired s := by
  unfold sendCancel; split <;> simp
@[simp] theorem settle_hardwired {p r l t x y} : hardwired (settle s p r l t x y) = hardwired s := by
  unfold settle; split <;> simp
@[simp] theorem endIfDone_hardwired {j} : hardwired (endIfDone s j) = hardwired s := by
  simp only [endIfDone]; repeat' split
  all_goals simp
@[simp] theorem evalSlack_hardwired {meas replica} : hardwired (evalSlack s meas replica) = hardwired s := by
  simp [evalSlack]
@[simp] theorem journalPower_hardwired : hardwired (journalPower s) = hardwired s := by simp [journalPower]
@[simp] theorem hvRaise_hardwired : hardwired (hvRaise s) = hardwired s := by
  unfold hvRaise; split <;> simp
@[simp] theorem hvWrite_hardwired {v} : hardwired (hvWrite s v) = hardwired s := by simp [hvWrite]
@[simp] theorem abortMarks_hardwired {p} : hardwired (abortMarks s p) = hardwired s := by simp [abortMarks]
@[simp] theorem hvAbort_hardwired {p inhibit} : hardwired (hvAbort s p inhibit) = hardwired s := by simp [hvAbort]
@[simp] theorem hvFault_hardwired {p detail} : hardwired (hvFault s p detail) = hardwired s := by simp [hvFault]
@[simp] theorem podShutdown_hardwired {p} : hardwired (podShutdown s p) = hardwired s := by simp [podShutdown]
@[simp] theorem podLevels_hardwired {p} : hardwired (podLevels s p) = hardwired s := by simp [podLevels]
@[simp] theorem stepPod_hardwired {p} : hardwired (stepPod s p) = hardwired s := by simp [stepPod]
@[simp] theorem podReading_hardwired {p temp} : hardwired (podReading s p temp) = hardwired s := by simp [podReading]
@[simp] theorem coreOff_hardwired : hardwired (coreOff s) = hardwired s := by
  refine Vector.ext fun i hi => ?_
  simp [coreOff, hardwired, hardwiredOf, -hardwiredOf_stewards]
@[simp] theorem dieShutdown_hardwired : hardwired (dieShutdown s) = hardwired s := by simp [dieShutdown]
@[simp] theorem dieLevels_hardwired : hardwired (dieLevels s) = hardwired s := by simp [dieLevels]
@[simp] theorem writeHk_hardwired {codes} : hardwired (writeHk s codes) = hardwired s := by simp [writeHk]
@[simp] theorem hkPod_hardwired {codes p} : hardwired (hkPod codes s p) = hardwired s := by simp [hkPod]
@[simp] theorem throttleAtBoundary_hardwired : hardwired (throttleAtBoundary s) = hardwired s := by
  simp [throttleAtBoundary]
@[simp] theorem auxPulse_hardwired {f t} : hardwired (auxPulse s f t) = hardwired s := by simp [auxPulse]
@[simp] theorem startHk_hardwired : hardwired (startHk s) = hardwired s := by simp [startHk]
@[simp] theorem startMotion_hardwired : hardwired (startMotion s) = hardwired s := by simp [startMotion]
@[simp] theorem tmcAct_hardwired {u t} : hardwired (tmcAct s u t) = hardwired s := by simp [tmcAct]
@[simp] theorem tmcCatchUp_hardwired {u t} : hardwired (tmcCatchUp s u t) = hardwired s := by simp [tmcCatchUp]
@[simp] theorem tmcFire_hardwired {u t} : hardwired (tmcFire s u t) = hardwired s := by simp [tmcFire]
@[simp] theorem tmcArm_hardwired {u} : hardwired (tmcArm s u) = hardwired s := by simp [tmcArm]
@[simp] theorem tmcCtl_hardwired {u v} : hardwired (tmcCtl s u v) = hardwired s := by simp [tmcCtl]
@[simp] theorem descBytes_hardwired {c} : hardwired (descBytes s c).2 = hardwired s := by
  unfold descBytes; split <;> simp
@[simp] theorem dmaTake_hardwired {c} : hardwired (dmaTake s c) = hardwired s := by simp [dmaTake]
@[simp] theorem spaceWrite_hardwired {shm a bs} : hardwired (spaceWrite s shm a bs) = hardwired s := by
  simp [spaceWrite]
@[simp] theorem dmaMove_hardwired {c d n} : hardwired (dmaMove s c d n) = hardwired s := by simp [dmaMove]
@[simp] theorem dmaMoveAll_hardwired {c n} {s : State} : hardwired (dmaMoveAll c n s) = hardwired s := by
  induction n generalizing s with
  | zero => rfl
  | succ n ih => cases h : dmaCur s c <;> simp [dmaMoveAll, h, ih]
@[simp] theorem dmaFinish_hardwired {c d result} : hardwired (dmaFinish s c d result) = hardwired s := by
  simp [dmaFinish]
@[simp] theorem grant_hardwired {c} : hardwired (grant s c) = hardwired s := by simp [grant]
@[simp] theorem pacedBurst_hardwired {c d withdrawn} : hardwired (pacedBurst s c d withdrawn) = hardwired s := by
  simp [pacedBurst]
@[simp] theorem dmaHead_hardwired {c v} : hardwired (dmaHead s c v) = hardwired s := by simp [dmaHead]
@[simp] theorem dmaStart_hardwired {c} : hardwired (dmaStart s c) = hardwired s := by simp [dmaStart]
@[simp] theorem dmaHalt_hardwired {c} : hardwired (dmaHalt s c) = hardwired s := by
  simp only [dmaHalt]; repeat' split
  all_goals simp
@[simp] theorem dmaHold_hardwired {c} : hardwired (dmaHold s c) = hardwired s := by
  unfold dmaHold; dsimp only; split <;> simp
@[simp] theorem dmaGoOn_hardwired {c} : hardwired (dmaGoOn s c) = hardwired s := by
  unfold dmaGoOn; dsimp only; split <;> simp
@[simp] theorem dmaCtl_hardwired {c v} : hardwired (dmaCtl s c v) = hardwired s := by simp [dmaCtl]
@[simp] theorem dmaRingBase_hardwired {c a v} : hardwired (dmaRingBase s c a v) = hardwired s := by simp [dmaRingBase]
@[simp] theorem dmaAtRole_hardwired : hardwired (dmaAtRole s) = hardwired s := by simp [dmaAtRole]
@[simp] theorem dmaAbortAll_hardwired : hardwired (dmaAbortAll s) = hardwired s := by simp [dmaAbortAll]
@[simp] theorem laneConsequence_hardwired {l} : hardwired (laneConsequence s l) = hardwired s := by
  unfold laneConsequence; split <;> simp
@[simp] theorem laneLoses_hardwired {l los} : hardwired (laneLoses s l los) = hardwired s := by simp [laneLoses]
@[simp] theorem enterTest_hardwired {l} : hardwired (enterTest s l) = hardwired s := by
  unfold enterTest; split <;> simp
@[simp] theorem leaveTest_hardwired {l} : hardwired (leaveTest s l) = hardwired s := by
  unfold leaveTest; split <;> simp
@[simp] theorem laneCtl_hardwired {l v} : hardwired (laneCtl s l v) = hardwired s := by simp [laneCtl]
@[simp] theorem retuneLane_hardwired {ok l} : hardwired (retuneLane ok s l) = hardwired s := by simp [retuneLane]
@[simp] theorem retuneEnd_hardwired {ok} : hardwired (retuneEnd s ok) = hardwired s := by simp [retuneEnd]
@[simp] theorem scrubCodeword_hardwired {addr ecc} : hardwired (scrubCodeword s addr ecc) = hardwired s := by
  simp [scrubCodeword]
@[simp] theorem freqGo_hardwired : hardwired (freqGo s) = hardwired s := by simp [freqGo]
@[simp] theorem freqTimings_hardwired : hardwired (freqTimings s) = hardwired s := by simp [freqTimings]
@[simp] theorem tbStep_hardwired {b v} : hardwired (tbStep s b v) = hardwired s := by simp [tbStep]
@[simp] theorem syncStep_hardwired {o} : hardwired (syncStep s o) = hardwired s := by
  unfold syncStep; dsimp only; split <;> simp
@[simp] theorem takeSync_hardwired {o inc} : hardwired (takeSync s o inc) = hardwired s := by
  simp only [takeSync]; repeat' split
  all_goals simp
@[simp] theorem readStation_hardwired {a} : hardwired (readStation s a).2 = hardwired s := by
  unfold readStation; split <;> simp
@[simp] theorem plainStore_hardwired {a v} : hardwired (plainStore s a v) = hardwired s := by
  unfold plainStore; split <;> simp
@[simp] theorem maskedStore_hardwired {a v keep} : hardwired (maskedStore s a v keep) = hardwired s := by
  simp [maskedStore]
@[simp] theorem storeScr_hardwired {a v} : hardwired (storeScr s a v) = hardwired s := by simp [storeScr]
@[simp] theorem storePlc_hardwired {a v} : hardwired (storePlc s a v) = hardwired s := by simp [storePlc]
@[simp] theorem podlCtl_hardwired {p a v} : hardwired (podlCtl s p a v) = hardwired s := by simp [podlCtl]
@[simp] theorem storePodl_hardwired {a v} : hardwired (storePodl s a v) = hardwired s := by
  unfold storePodl; dsimp only; split <;> simp
@[simp] theorem camCtl_hardwired {n a v} : hardwired (camCtl s n a v) = hardwired s := by simp [camCtl]
@[simp] theorem storeSight_hardwired {a v} : hardwired (storeSight s a v) = hardwired s := by simp [storeSight]
@[simp] theorem storeHlt_hardwired {a v} : hardwired (storeHlt s a v) = hardwired s := by simp [storeHlt]
@[simp] theorem storeTwn_hardwired {a v} : hardwired (storeTwn s a v) = hardwired s := by simp [storeTwn]
@[simp] theorem storeMbg_hardwired {a v} : hardwired (storeMbg s a v) = hardwired s := by simp [storeMbg]
@[simp] theorem storeTrace_hardwired {k a v} : hardwired (storeTrace s k a v) = hardwired s := by simp [storeTrace]
@[simp] theorem storeTime_hardwired {a v} : hardwired (storeTime s a v) = hardwired s := by
  unfold storeTime; split <;> simp
@[simp] theorem storeAxis_hardwired {x o a v} : hardwired (storeAxis s x o a v) = hardwired s := by simp [storeAxis]
@[simp] theorem storeMot_hardwired {a v} : hardwired (storeMot s a v) = hardwired s := by simp [storeMot]
@[simp] theorem storeDram_hardwired {a v} : hardwired (storeDram s a v) = hardwired s := by simp [storeDram]
@[simp] theorem storeDma_hardwired {a v} : hardwired (storeDma s a v) = hardwired s := by
  unfold storeDma; split <;> simp
@[simp] theorem storeLane_hardwired {a v} : hardwired (storeLane s a v) = hardwired s := by simp [storeLane]
@[simp] theorem storePwr_hardwired {a v} : hardwired (storePwr s a v) = hardwired s := by simp [storePwr]
@[simp] theorem storePodpwr_hardwired {a v} : hardwired (storePodpwr s a v) = hardwired s := by simp [storePodpwr]
@[simp] theorem storeEffect_hardwired {a v} : hardwired (storeEffect s a v) = hardwired s := by
  unfold storeEffect; split <;> simp
@[simp] theorem noteKept_hardwired {s' a} : hardwired (noteKept s s' a) = hardwired s' := by
  unfold noteKept; split <;> simp
@[simp] theorem journalStore_hardwired {a v} : hardwired (journalStore s a v) = hardwired s := by simp [journalStore]
@[simp] theorem storeStation_hardwired {k a v} : hardwired (storeStation s k a v) = hardwired s := by
  cases k <;> simp [storeStation]
@[simp] theorem storeVec_hardwired {a v} : hardwired (storeVec s a v) = hardwired s := by
  unfold storeVec; split <;> simp
@[simp] theorem sendTwin_hardwired {sp e bytes o} : hardwired (sendTwin s sp e bytes o) = hardwired s := by
  simp [sendTwin]
@[simp] theorem sendPostcard_hardwired {release} : hardwired (sendPostcard s release) = hardwired s := by
  simp [sendPostcard]
@[simp] theorem closeHamper_hardwired {final timed early} :
    hardwired (closeHamper s final timed early) = hardwired s := by simp [closeHamper]
@[simp] theorem sendBulkFrame_hardwired {b n i} : hardwired (sendBulkFrame b n s i) = hardwired s := by
  simp [sendBulkFrame]
@[simp] theorem sendBulk_hardwired {b} : hardwired (sendBulk s b) = hardwired s := by simp [sendBulk]
@[simp] theorem sendDram_hardwired {addr data} : hardwired (sendDram s addr data) = hardwired s := by simp [sendDram]
@[simp] theorem trackRange_hardwired {a n} : hardwired (trackRange s a n) = hardwired s := by simp [trackRange]
@[simp] theorem spareCheck_hardwired : hardwired (spareCheck s) = hardwired s := by simp [spareCheck]
@[simp] theorem wearPages_hardwired {wear swapped} : hardwired (wearPages s wear swapped) = hardwired s := by
  simp [wearPages]
@[simp] theorem appendJournal_hardwired {es} : hardwired (appendJournal s es) = hardwired s := by simp [appendJournal]
@[simp] theorem answerNow_hardwired {e a} : hardwired (answerNow s e a) = hardwired s := by simp [answerNow]
@[simp] theorem bounce_hardwired {e code detail aux} : hardwired (bounce s e code detail aux) = hardwired s := by
  simp [bounce]
@[simp] theorem bounceBusy_hardwired {e b} : hardwired (bounceBusy s e b) = hardwired s := by simp [bounceBusy]
@[simp] theorem deadLetter_hardwired {e pl code detail} :
    hardwired (deadLetter s e pl code detail) = hardwired s := by simp [deadLetter]
@[simp] theorem refuseUnsequenced_hardwired {e pl} : hardwired (refuseUnsequenced s e pl) = hardwired s := by
  simp [refuseUnsequenced]
@[simp] theorem journalStream_hardwired {e x o} : hardwired (journalStream s e x o) = hardwired s := by
  simp [journalStream]
@[simp] theorem recordOutcome_hardwired {e a due} : hardwired (recordOutcome s e a due) = hardwired s := by
  simp [recordOutcome]
@[simp] theorem release_hardwired {e rep a} : hardwired (release s e rep a) = hardwired s := by simp [release]
@[simp] theorem settleLetter_hardwired {e pl a} : hardwired (settleLetter s e pl a) = hardwired s := by
  simp [settleLetter]
@[simp] theorem resendRecord_hardwired {e o} : hardwired (resendRecord s e o) = hardwired s := by simp [resendRecord]
@[simp] theorem openStream_hardwired {e} : hardwired (openStream s e) = hardwired s := by simp [openStream]
@[simp] theorem settleCall_hardwired {c a} : hardwired (settleCall s c a) = hardwired s := by simp [settleCall]
@[simp] theorem endLong_hardwired {b} : hardwired (endLong s b) = hardwired s := by
  unfold endLong; dsimp only; split <;> simp
@[simp] theorem stewardRead_hardwired {k a} : hardwired (stewardRead s k a).2 = hardwired s := by
  unfold stewardRead; split <;> simp
@[simp] theorem stationAccess_hardwired {act k x n kind ok} (hact : hardwired act = hardwired s) :
    hardwired (stationAccess s k x n kind ok act) = hardwired s := by simp [stationAccess, hact]
@[simp] theorem armOrWait_hardwired {k e} : hardwired (armOrWait s k e) = hardwired s := by simp [armOrWait]
@[simp] theorem Steward.hardwired_takeEvent {w : Steward} {d} : (w.takeEvent d).hardwired = w.hardwired := by
  simp [takeEvent]
@[simp] theorem Steward.hardwired_noEvent {w : Steward} {d} : (w.noEvent d).hardwired = w.hardwired := by
  simp [noEvent]
@[simp] theorem waitOn_hardwired {k d timed} : hardwired (waitOn s k d timed) = hardwired s :=
  hardwired_modStw fun w => by split <;> simp
@[simp] theorem pollOn_hardwired {k d} : hardwired (pollOn s k d) = hardwired s :=
  hardwired_modStw fun w => by split <;> simp
@[simp] theorem faultMsend_hardwired {k} : hardwired (faultMsend s k) = hardwired s := by simp [faultMsend]
@[simp] theorem deposit_hardwired {t k v} : hardwired (deposit s t k v) = hardwired s := by simp [deposit]
@[simp] theorem readAll_hardwired {as} {s : State} : hardwired (readAll s as).2 = hardwired s := by
  induction as generalizing s with
  | nil => rfl
  | cons a as ih => simp [readAll, ih]
@[simp] theorem haltStw_hardwired {k} : hardwired (haltStw s k) = hardwired s := by simp [haltStw]
@[simp] theorem unloadStw_hardwired {k} : hardwired (unloadStw s k) = hardwired s := by simp [unloadStw]
@[simp] theorem longEffect_hardwired {b ok} : hardwired (longEffect s b ok) = hardwired s := by
  unfold longEffect; split <;> simp
@[simp] theorem sendPart_hardwired {e all off} : hardwired (sendPart s e all off) = hardwired s := by simp [sendPart]
@[simp] theorem firstEnvelope_hardwired {e pl} : hardwired (firstEnvelope s e pl) = hardwired s := by
  simp only [firstEnvelope]; repeat' split
  all_goals simp
@[simp] theorem installImage_hardwired {im} : hardwired (installImage s im) = hardwired s := by simp [installImage]
@[simp] theorem settlePeer_hardwired {c a} : hardwired (settlePeer s c a) = hardwired s := by simp [settlePeer]
@[simp] theorem settlePeers_hardwired : hardwired (settlePeers s) = hardwired s := by simp [settlePeers]
@[simp] theorem placePages_hardwired {pages} : hardwired (placePages s pages) = hardwired s := by
  unfold placePages; split <;> simp
@[simp] theorem alignTo_hardwired {line tb} : hardwired (alignTo s line tb) = hardwired s := by simp [alignTo]
@[simp] theorem takePlace_hardwired {x} : hardwired (takePlace s x) = hardwired s := by simp [takePlace]
@[simp] theorem applyPlace_hardwired {line tb x measure} :
    hardwired (applyPlace s line tb x measure) = hardwired s := by simp [applyPlace]
@[simp] theorem applyMapAct_hardwired {named x} : hardwired (applyMapAct s named x) = hardwired s := by
  simp [applyMapAct]
@[simp] theorem applyEntry_hardwired {measure x} : hardwired (applyEntry measure s x) = hardwired s := by
  unfold applyEntry; split <;> simp
@[simp] theorem applyHamper_hardwired {hm} : hardwired (applyHamper s hm) = hardwired s := by simp [applyHamper]
@[simp] theorem takeStations_hardwired {words vecs} : hardwired (takeStations s words vecs) = hardwired s := by
  simp [takeStations]
@[simp] theorem takeJobs_hardwired {running next place} :
    hardwired (takeJobs s running next place) = hardwired s := by
  cases running <;> cases place <;> simp [takeJobs]
@[simp] theorem takeSight_hardwired {sets exps} : hardwired (takeSight s sets exps) = hardwired s := by
  simp [takeSight]
@[simp] theorem takeFirmware_hardwired {im} : hardwired (takeFirmware s im) = hardwired s := by simp [takeFirmware]
@[simp] theorem takePeerWrite_hardwired {ws} : hardwired (takePeerWrite s ws) = hardwired s := by simp [takePeerWrite]
@[simp] theorem applyBulk_hardwired {x} : hardwired (applyBulk s x) = hardwired s := by
  simp only [applyBulk]; repeat' split
  all_goals simp
@[simp] theorem sendSnapshot_hardwired : hardwired (sendSnapshot s) = hardwired s := by simp [sendSnapshot]
@[simp] theorem changeRole_hardwired {r} : hardwired (changeRole s r) = hardwired s := by simp [changeRole]
@[simp] theorem sendDue_hardwired : hardwired (sendDue s) = hardwired s := by simp [sendDue]
@[simp] theorem electActive_hardwired {epoch} : hardwired (electActive s epoch) = hardwired s := by simp [electActive]
@[simp] theorem idlePods_hardwired : hardwired (idlePods s) = hardwired s := by simp [idlePods]
@[simp] theorem startResync_hardwired : hardwired (startResync s) = hardwired s := by simp [startResync]
@[simp] theorem applyInOrder_hardwired {hs} {s : State} : hardwired (applyInOrder s hs) = hardwired s := by
  induction hs generalizing s with
  | nil => rfl
  | cons h hs ih => simp [applyInOrder, ih]
@[simp] theorem unjoin_hardwired : hardwired (unjoin s) = hardwired s := by simp [unjoin]
@[simp] theorem acceptHamper_hardwired {hm} : hardwired (acceptHamper s hm) = hardwired s := by simp [acceptHamper]
@[simp] theorem takeAck_hardwired {c} : hardwired (takeAck s c) = hardwired s := by
  unfold takeAck; split <;> simp
@[simp] theorem pairFound_hardwired {c} : hardwired (pairFound s c) = hardwired s := by simp [pairFound]
@[simp] theorem electingPostcard_hardwired {c} : hardwired (electingPostcard s c) = hardwired s := by
  simp [electingPostcard]
@[simp] theorem settleHanded_hardwired : hardwired (settleHanded s) = hardwired s := by simp [settleHanded]
@[simp] theorem stopForHandover_hardwired : hardwired (stopForHandover s) = hardwired s := by simp [stopForHandover]
@[simp] theorem statusStations_hardwired {p x} : hardwired (statusStations s p x) = hardwired s := by
  simp [statusStations]
@[simp] theorem raiseEpoch_hardwired {p x} : hardwired (raiseEpoch s p x) = hardwired s := by simp [raiseEpoch]
@[simp] theorem clearInhibit_hardwired {p x} : hardwired (clearInhibit s p x) = hardwired s := by simp [clearInhibit]
@[simp] theorem lineSyncOut_hardwired {t} : hardwired (lineSyncOut s t) = hardwired s := by simp [lineSyncOut]
@[simp] theorem boundaryHamper_hardwired : hardwired (boundaryHamper s) = hardwired s := by simp [boundaryHamper]
@[simp] theorem bootFrom_hardwired {n pend} : hardwired (bootFrom s n pend) = hardwired s := by simp [bootFrom]
@[simp] theorem bootRom_hardwired : hardwired (bootRom s) = hardwired s := by
  simp only [bootRom]; repeat' split
  all_goals simp
@[simp] theorem restoreWord_hardwired {e} : hardwired (restoreWord s e) = hardwired s := by
  unfold restoreWord; split <;> simp
@[simp] theorem restoreSmall_hardwired : hardwired (restoreSmall s) = hardwired s := by
  unfold restoreSmall; split <;> simp
@[simp] theorem restoreBulk_hardwired : hardwired (restoreBulk s) = hardwired s := by
  unfold restoreBulk; split <;> simp
@[simp] theorem restoreMap_hardwired : hardwired (restoreMap s) = hardwired s := by simp [restoreMap]
@[simp] theorem restoreAll_hardwired {trained fastOk part} :
    hardwired (restoreAll s trained fastOk part) = hardwired s := by simp [restoreAll]
@[simp] theorem confirmImage_hardwired : hardwired (confirmImage s) = hardwired s := by
  unfold confirmImage; split <;> simp
@[simp] theorem residentUnit_hardwired {u act period} : hardwired (residentUnit s u act period) = hardwired s := by
  simp [residentUnit]
@[simp] theorem startResident_hardwired : hardwired (startResident s) = hardwired s := by simp [startResident]
@[simp] theorem numberEarly_hardwired {qs} {s : State} : hardwired (numberEarly s qs) = hardwired s := by
  induction qs generalizing s with
  | nil => rfl
  | cons q qs ih => simp [numberEarly, ih]
@[simp] theorem firstRecord_hardwired : hardwired (firstRecord s) = hardwired s := by simp [firstRecord]
@[simp] theorem loadIr_hardwired {c} : hardwired (loadIr s c) = hardwired s := by simp [loadIr]
@[simp] theorem capture_hardwired {bits} : hardwired (capture s bits) = hardwired s := by simp [capture]
@[simp] theorem boundaryOp_hardwired {c} : hardwired (boundaryOp s c) = hardwired s := by simp [boundaryOp]
@[simp] theorem pinOp_hardwired {c} : hardwired (pinOp s c) = hardwired s := by simp [pinOp]
@[simp] theorem dropBusyBroadcast_hardwired {e pl} : hardwired (dropBusyBroadcast s e pl) = hardwired s := by
  simp [dropBusyBroadcast]
@[simp] theorem told_hardwired {t} : hardwired (told s t) = hardwired t := by simp [told]

/-- The state that a reply holds. -/
def Reply.state : Reply → State
  | .now _ t | .later t | .silent t => t

@[simp] theorem Reply.state_now {a t} : (Reply.now a t).state = t := (rfl)
@[simp] theorem Reply.state_later {t} : (Reply.later t).state = t := (rfl)
@[simp] theorem Reply.state_silent {t} : (Reply.silent t).state = t := (rfl)
@[simp] theorem refuse_state {s code detail} : (refuse s code detail).state = s := (rfl)
@[simp] theorem done_state {s} : (done s).state = s := (rfl)
@[simp] theorem Reply.state_ite {c : Prop} {_ : Decidable c} {a b : Reply} :
    (if c then a else b).state = if c then a.state else b.state := apply_ite ..

/-- The state that an outcome goes on with: `s` where it stops. -/
def stateOr (s : State) : Res → State
  | .next t => t
  | .fault _ | .refused _ => s

@[simp] theorem stateOr_next {s t : State} : stateOr s (.next t) = t := (rfl)
@[simp] theorem stateOr_ite {c : Prop} {_ : Decidable c} {s : State} {a b : Res} :
    stateOr s (if c then a else b) = if c then stateOr s a else stateOr s b := apply_ite ..

/-! ### Letters -/

@[simp] theorem settleReply_hardwired {e pl r} : hardwired (settleReply e pl r) = hardwired r.state := by
  cases r <;> simp [settleReply]

section
variable {s : State} {hw : Vector (Word × Pred) 8} (h : hardwired s = hw)
  {run : State → Env → List Byte → Reply}
  (hrun : ∀ s e pl, hardwired s = hw → hardwired (run s e pl).state = hw)
include h

theorem acceptWith_holds {kind go e pl}
    (hgo : ∀ s e pl, hardwired s = hw → ∀ t ∈ go s e pl, hardwired t = hw) :
    hardwired (acceptWith kind go s e pl) = hw := by
  have getD_holds : ∀ {o : Option State} {s : State}, (∀ t ∈ o, hardwired t = hw) → hardwired s = hw →
      hardwired (o.getD s) = hw := fun {o} _ ho hs => by cases o with
    | none => exact hs
    | some t => exact ho t rfl
  simp only [acceptWith]
  repeat' split
  all_goals first | exact getD_holds (hgo _ _ _ (by simpa using h)) (by simpa using h) | simpa using h

include hrun

theorem runChecked_holds {e pl} : hardwired (runChecked run s e pl).state = hw := by
  unfold runChecked; split
  · exact h
  · exact hrun _ _ _ h

theorem executeRoom_holds {e pl} : ∀ t ∈ executeRoom run s e pl, hardwired t = hw := by
  have hs := runChecked_holds h hrun (e := e) (pl := pl)
  have hc := runChecked_holds (s := closeHamper s false false true) (by simpa using h) hrun (e := e) (pl := pl)
  simp only [executeRoom]
  repeat' split
  all_goals simp [hs, hc]

theorem acceptSequenced_holds {e pl} : ∀ t ∈ acceptSequenced run s e pl, hardwired t = hw := by
  have hs := runChecked_holds h hrun (e := e) (pl := pl)
  simp only [acceptSequenced]
  split; · simp [h]
  split; · simp [h]
  split; · simp [h]
  split
  · split
    · generalize runChecked run s e pl = r at hs
      cases r <;> simpa using hs
    · split <;> simp [h]
  · exact executeRoom_holds h hrun

theorem acceptRing_holds {e pl} : hardwired (acceptRing run s e pl) = hw := by
  have hs := hrun s e pl h
  simp only [acceptRing]
  split
  · generalize run s e pl = r at hs
    cases r <;> simpa using hs
  · simpa using h

theorem acceptTaken_holds {e pl} : ∀ t ∈ acceptTaken run s e pl, hardwired t = hw := by
  unfold acceptTaken
  split
  · simp [h]
  · split
    · simp [h]
    · split
      · simp [acceptRing_holds h hrun]
      · exact acceptSequenced_holds h hrun

theorem accept_holds {kind e pl} : hardwired (accept kind run s e pl) = hw :=
  acceptWith_holds h fun _ _ _ h => acceptTaken_holds (by simpa using h) hrun

theorem goLast_holds {e pl} : ∀ t ∈ goLast run s e pl, hardwired t = hw := by
  unfold goLast
  split
  · split
    · simp [h]
    · exact acceptTaken_holds (by simpa using h) hrun
  · split
    · simp [h]
    · split
      · simp [h]
      · split
        · have hboth : ∀ (c : Prop) [Decidable c] s e pl, hardwired s = hw →
              hardwired ((if c then runTooLong else run) s e pl).state = hw := fun c _ s e pl h => by
            split; exacts [h, hrun s e pl h]
          simpa using executeRoom_holds h (hboth _)
        · simp [h]

theorem acceptParcel_holds {kind e pl} : hardwired (acceptParcel kind run s e pl) = hw := by
  unfold acceptParcel; split
  · exact acceptWith_holds h fun _ _ _ h => goLast_holds h hrun
  · exact h

end

section
variable {s : State} {run : State → Env → List Byte → Reply}
  (hrun : ∀ s e pl, hardwired (run s e pl).state = hardwired s)
include hrun

@[simp] theorem accept_hardwired {kind e pl} : hardwired (accept kind run s e pl) = hardwired s :=
  accept_holds rfl fun _ _ _ h => (hrun ..).trans h
@[simp] theorem acceptParcel_hardwired {kind e pl} : hardwired (acceptParcel kind run s e pl) = hardwired s :=
  acceptParcel_holds rfl fun _ _ _ h => (hrun ..).trans h
end

@[simp] theorem orBad_hardwired {s run bad} (hrun : hardwired run.state = hardwired s) :
    hardwired (orBad s bad run).state = hardwired s := by
  unfold orBad; split
  · rfl
  · exact hrun
@[simp] theorem itemLetter_hardwired {s run e pl size limit addrAt ok} (hrun : hardwired run.state = hardwired s) :
    hardwired (itemLetter e pl size limit addrAt ok s run).state = hardwired s := by
  unfold itemLetter; split
  · rfl
  · exact hrun
@[simp] theorem withArgs_hardwired {s run args n} (hrun : ∀ ws, hardwired (run ws).state = hardwired s) :
    hardwired (withArgs s args n run).state = hardwired s := by simp [withArgs, hrun]
@[simp] theorem stewardLetter_hardwired {s run pl} (hrun : ∀ k, hardwired (run k) = hardwired s) :
    hardwired (stewardLetter s pl run).state = hardwired s := orBad_hardwired (by simp [hrun])

/-! ### Instructions -/

@[simp] theorem onSteward_hardwired {s : State} {k act} (hact : hardwired (act s) = hardwired s) :
    hardwired (stateOr s (onSteward s k act)) = hardwired s := by simp [onSteward, hact]

@[simp] theorem tells_hardwired {s : State} {act} :
    hardwired (stateOr s (tells act s)) = hardwired (stateOr s (act s)) := by
  unfold tells; generalize act s = r; cases r
  case next => exact told_hardwired
  all_goals rfl

@[simp] theorem modStw_fin_hardwired {k} : hardwired (modStw s k Steward.fin) = hardwired s :=
  hardwired_modStw fun _ => rfl
@[simp] theorem execVsst_hardwired {k vd a imm} : hardwired (stateOr s (execVsst k vd a imm s)) = hardwired s := by
  simp [execVsst]
@[simp] theorem execSst_hardwired {k d a imm} : hardwired (stateOr s (execSst k d a imm s)) = hardwired s := by
  simp [execSst]
@[simp] theorem execScr_hardwired {k d n} : hardwired (stateOr s (execScr k d n s)) = hardwired s :=
  onSteward_hardwired (by split <;> simp)
theorem setControlReg_hardwired {w w' : Steward} {n v} (he : setControlReg s w n v = some w') :
    w'.hardwired = w.hardwired := by
  unfold setControlReg at he
  split at he <;> cases he <;> rfl
@[simp] theorem execScw_hardwired {k d n} : hardwired (stateOr s (execScw k d n s)) = hardwired s :=
  onSteward_hardwired (by
    split
    · rename_i he; exact hardwired_setStw (Steward.hardwired_fin.trans (setControlReg_hardwired he))
    · simp)
@[simp] theorem execMrecv_hardwired {k d b} : hardwired (stateOr s (execMrecv k d b s)) = hardwired s :=
  onSteward_hardwired (by split <;> simp)
@[simp] theorem amo_hardwired {k d a b parity new} :
    hardwired (stateOr s (amo s k d a b parity new)) = hardwired s := by
  refine onSteward_hardwired ?_
  dsimp only; split
  · simp
  · split <;> simp
@[simp] theorem opT_hardwired {k d a b f} : hardwired (stateOr s (opT s k d a b f)) = hardwired s := by simp [opT]
@[simp] theorem opI_hardwired {k d a f} : hardwired (stateOr s (opI s k d a f)) = hardwired s := by simp [opI]
@[simp] theorem opB_hardwired {k c off} : hardwired (stateOr s (opB s k c off)) = hardwired s := by simp [opB]
@[simp] theorem execRetryTimeout_hardwired {l sp} :
    hardwired (stateOr s (execRetryTimeout l sp s)) = hardwired s := by
  unfold execRetryTimeout; split <;> simp
@[simp] theorem execRoundFrame_hardwired {l f parity} :
    hardwired (stateOr s (execRoundFrame l f parity s)) = hardwired s := by
  simp only [execRoundFrame]; repeat' split
  all_goals simp
@[simp] theorem execMailbagPass_hardwired : hardwired (stateOr s (execMailbagPass s)) = hardwired s := by
  simp [execMailbagPass]
@[simp] theorem execWebIndexEdge_hardwired {t} : hardwired (stateOr s (execWebIndexEdge t s)) = hardwired s := by
  simp [execWebIndexEdge]
@[simp] theorem execCueMark_hardwired {probe falling t} :
    hardwired (stateOr s (execCueMark probe falling t s)) = hardwired s := by simp [execCueMark]
@[simp] theorem execPageCompareFire_hardwired {t} :
    hardwired (stateOr s (execPageCompareFire t s)) = hardwired s := by
  unfold execPageCompareFire; dsimp only; split <;> simp
@[simp] theorem execLineSyncPulse_hardwired {t} : hardwired (stateOr s (execLineSyncPulse t s)) = hardwired s := by
  simp [execLineSyncPulse]
@[simp] theorem execReadResp_hardwired {p tag addr v bad} :
    hardwired (stateOr s (execReadResp p tag addr v bad s)) = hardwired s := by
  simp only [execReadResp]; repeat' split
  all_goals simp
@[simp] theorem execEchoResp_hardwired {p tag turn t bad} :
    hardwired (stateOr s (execEchoResp p tag turn t bad s)) = hardwired s := by
  simp only [execEchoResp]; repeat' split
  all_goals simp
@[simp] theorem execEchoMeasure_hardwired {p t} : hardwired (stateOr s (execEchoMeasure p t s)) = hardwired s := by
  simp [execEchoMeasure]
@[simp] theorem execLineDataSend_hardwired {p r l n parityBad} :
    hardwired (stateOr s (execLineDataSend p r l n parityBad s)) = hardwired s := by
  unfold execLineDataSend; split <;> simp
@[simp] theorem execFireSend_hardwired {p r l t} : hardwired (stateOr s (execFireSend p r l t s)) = hardwired s := by
  simp only [execFireSend]; repeat' split
  all_goals simp
@[simp] theorem execPodUnderrun_hardwired {p r l t} :
    hardwired (stateOr s (execPodUnderrun p r l t s)) = hardwired s := by
  simp only [execPodUnderrun]; repeat' split
  all_goals simp
@[simp] theorem execRscanData_hardwired {p row seg bytes bad} :
    hardwired (stateOr s (execRscanData p row seg bytes bad s)) = hardwired s := by simp [execRscanData]
@[simp] theorem execScanTimeout_hardwired : hardwired (stateOr s (execScanTimeout s)) = hardwired s := by
  simp [execScanTimeout]
@[simp] theorem execTriggerSlot_hardwired {n l t} :
    hardwired (stateOr s (execTriggerSlot n l t s)) = hardwired s := by
  simp only [execTriggerSlot]; repeat' split
  all_goals simp
@[simp] theorem execFrameTimeout_hardwired {n} : hardwired (stateOr s (execFrameTimeout n s)) = hardwired s := by
  unfold execFrameTimeout; split <;> simp
@[simp] theorem execSpoolFrameStart_hardwired : hardwired (stateOr s (execSpoolFrameStart s)) = hardwired s := by
  simp only [execSpoolFrameStart]; repeat' split
  all_goals simp
@[simp] theorem execProbeEdge_hardwired {n falling} :
    hardwired (stateOr s (execProbeEdge n falling s)) = hardwired s := by simp [execProbeEdge]
@[simp] theorem execFrameProcessed_hardwired {n} : hardwired (stateOr s (execFrameProcessed n s)) = hardwired s := by
  simp only [execFrameProcessed]; repeat' split
  all_goals simp
@[simp] theorem execHealthFrameScore_hardwired {n} :
    hardwired (stateOr s (execHealthFrameScore n s)) = hardwired s := by
  unfold execHealthFrameScore; split <;> simp
@[simp] theorem execHealthBatchIssue_hardwired : hardwired (stateOr s (execHealthBatchIssue s)) = hardwired s := by
  simp [execHealthBatchIssue]
@[simp] theorem execExtrapolationEnd_hardwired {t} :
    hardwired (stateOr s (execExtrapolationEnd t s)) = hardwired s := by simp [execExtrapolationEnd]
@[simp] theorem execPkrJobStop_hardwired {bad} : hardwired (stateOr s (execPkrJobStop bad s)) = hardwired s := by
  unfold execPkrJobStop; split <;> simp
@[simp] theorem actFeedLine_hardwired {f mismatches} :
    hardwired (stateOr s (actFeedLine f mismatches s)) = hardwired s := by simp [actFeedLine]
@[simp] theorem actFeedPage_hardwired {f} : hardwired (stateOr s (actFeedPage f s)) = hardwired s := by
  simp [actFeedPage]
@[simp] theorem actFeedReplay_hardwired {f} : hardwired (stateOr s (actFeedReplay f s)) = hardwired s := by
  simp [actFeedReplay]
@[simp] theorem actFeedLib_hardwired {f} : hardwired (stateOr s (actFeedLib f s)) = hardwired s := by
  simp [actFeedLib]
@[simp] theorem actFeedJobEnd_hardwired {f} : hardwired (stateOr s (actFeedJobEnd f s)) = hardwired s := by
  simp [actFeedJobEnd]
@[simp] theorem actFeedDeadline_hardwired {c tie} :
    hardwired (stateOr s (actFeedDeadline c tie s)) = hardwired s := by
  simp only [actFeedDeadline]; repeat' split
  all_goals simp
@[simp] theorem execRowLineDecision_hardwired {p r l parity thrParity} :
    hardwired (stateOr s (execRowLineDecision p r l parity thrParity s)) = hardwired s := by
  simp only [execRowLineDecision]; repeat' split
  all_goals simp
@[simp] theorem actRowTrigger_hardwired {p r t} : hardwired (stateOr s (actRowTrigger p r t s)) = hardwired s := by
  simp only [actRowTrigger]; repeat' split
  all_goals simp
@[simp] theorem actThermalModelStep_hardwired {vcore icore} :
    hardwired (stateOr s (actThermalModelStep vcore icore s)) = hardwired s := by
  simp only [actThermalModelStep]; repeat' split
  all_goals simp
@[simp] theorem actHousekeepingRoundEnd_hardwired {codes dieT} :
    hardwired (stateOr s (actHousekeepingRoundEnd codes dieT s)) = hardwired s := by simp [actHousekeepingRoundEnd]
@[simp] theorem execCompareUnitFire_hardwired {u t} :
    hardwired (stateOr s (execCompareUnitFire u t s)) = hardwired s := by simp [execCompareUnitFire]
@[simp] theorem execDmaDescriptorEnd_hardwired {c} :
    hardwired (stateOr s (execDmaDescriptorEnd c s)) = hardwired s := by
  simp only [execDmaDescriptorEnd]; repeat' split
  all_goals simp
@[simp] theorem execDmaBurst_hardwired {c withdrawn} :
    hardwired (stateOr s (execDmaBurst c withdrawn s)) = hardwired s := by
  unfold execDmaBurst; split <;> simp
@[simp] theorem execDmaRequestTimeout_hardwired {c} :
    hardwired (stateOr s (execDmaRequestTimeout c s)) = hardwired s := by
  unfold execDmaRequestTimeout; split <;> simp
@[simp] theorem actLaneLos_hardwired {l} : hardwired (stateOr s (actLaneLos l s)) = hardwired s := by
  simp [actLaneLos]
@[simp] theorem actLaneLol_hardwired {l} : hardwired (stateOr s (actLaneLol l s)) = hardwired s := by
  simp [actLaneLol]
@[simp] theorem actLaneLolRelease_hardwired {l} : hardwired (stateOr s (actLaneLolRelease l s)) = hardwired s := by
  simp only [actLaneLolRelease]; repeat' split
  all_goals simp
@[simp] theorem execLaneSettled_hardwired {l} : hardwired (stateOr s (execLaneSettled l s)) = hardwired s := by
  simp [execLaneSettled]
@[simp] theorem actGroupAligned_hardwired {g} : hardwired (stateOr s (actGroupAligned g s)) = hardwired s := by
  simp [actGroupAligned]
@[simp] theorem actGroupAlignmentLost_hardwired {g} :
    hardwired (stateOr s (actGroupAlignmentLost g s)) = hardwired s := (rfl)
@[simp] theorem actDramScrub_hardwired {addr ecc} :
    hardwired (stateOr s (actDramScrub addr ecc s)) = hardwired s := by simp [actDramScrub]
@[simp] theorem execDramFreqDone_hardwired : hardwired (stateOr s (execDramFreqDone s)) = hardwired s := by
  simp [execDramFreqDone]
@[simp] theorem storeCmd_hardwired {a v} : hardwired (stateOr s (storeCmd s a v)) = hardwired s := by simp [storeCmd]
@[simp] theorem actStationStore_hardwired {k addr v} :
    hardwired (stateOr s (actStationStore k addr v s)) = hardwired s := by simp [actStationStore]
@[simp] theorem actClearHidden_hardwired : hardwired (stateOr s (actClearHidden s)) = hardwired s := by
  simp [actClearHidden]
@[simp] theorem execMapJournal_hardwired : hardwired (stateOr s (execMapJournal s)) = hardwired s := by
  unfold execMapJournal; split <;> simp
@[simp] theorem execJournalFold_hardwired : hardwired (stateOr s (execJournalFold s)) = hardwired s := by
  unfold execJournalFold; split <;> simp
@[simp] theorem execIllegal_hardwired {k w parity} :
    hardwired (stateOr s (execIllegal k w parity s)) = hardwired s := by simp [execIllegal]
@[simp] theorem execSld_hardwired {k d a imm} : hardwired (stateOr s (execSld k d a imm s)) = hardwired s := by
  simp [execSld]
@[simp] theorem execSsq_hardwired {k d a b} : hardwired (stateOr s (execSsq k d a b s)) = hardwired s := by
  simp [execSsq]
@[simp] theorem execVsld_hardwired {k vd a imm} : hardwired (stateOr s (execVsld k vd a imm s)) = hardwired s := by
  simp [execVsld]
@[simp] theorem execVssq_hardwired {k vd a c} : hardwired (stateOr s (execVssq k vd a c s)) = hardwired s := by
  simp [execVssq]
@[simp] theorem execLqQueueRoom_hardwired {k} : hardwired (stateOr s (execLqQueueRoom k s)) = hardwired s := by
  unfold execLqQueueRoom; split <;> simp
@[simp] theorem execFence_hardwired {k imm} : hardwired (stateOr s (execFence k imm s)) = hardwired s := by
  simp [execFence]
@[simp] theorem execWaitt_hardwired {k d a} : hardwired (stateOr s (execWaitt k d a s)) = hardwired s := by
  simp [execWaitt]
@[simp] theorem execEvsig_hardwired {k a b} : hardwired (stateOr s (execEvsig k a b s)) = hardwired s := by
  simp [execEvsig]
@[simp] theorem execStewardWake_hardwired {k} : hardwired (stateOr s (execStewardWake k s)) = hardwired s := by
  unfold execStewardWake; split <;> simp
@[simp] theorem execWaittTimeout_hardwired {k} : hardwired (stateOr s (execWaittTimeout k s)) = hardwired s := by
  unfold execWaittTimeout; split <;> simp
@[simp] theorem execMsend_hardwired {k d a b} : hardwired (stateOr s (execMsend k d a b s)) = hardwired s := by
  simp [execMsend]
@[simp] theorem execWatchdogExpiry_hardwired {k} : hardwired (stateOr s (execWatchdogExpiry k s)) = hardwired s := by
  simp [execWatchdogExpiry]
@[simp] theorem runWrite_hardwired {e pl} : hardwired (runWrite s e pl).state = hardwired s := by simp [runWrite]
@[simp] theorem armAll_hardwired {need es} : hardwired (armAll s need es).state = hardwired s := by simp [armAll]
@[simp] theorem runArm_hardwired {e pl} : hardwired (runArm s e pl).state = hardwired s := by simp [runArm]
@[simp] theorem runVwrite_hardwired {e pl} : hardwired (runVwrite s e pl).state = hardwired s := by simp [runVwrite]
@[simp] theorem runVarm_hardwired {e pl} : hardwired (runVarm s e pl).state = hardwired s := by simp [runVarm]
@[simp] theorem runRead_hardwired {e pl} : hardwired (runRead s e pl).state = hardwired s := by simp [runRead]
@[simp] theorem runVread_hardwired {e pl} : hardwired (runVread s e pl).state = hardwired s := by simp [runVread]
@[simp] theorem runInbox_hardwired {e pl} : hardwired (runInbox s e pl).state = hardwired s := by simp [runInbox]
@[simp] theorem runUnload_hardwired {_e pl} : hardwired (runUnload s _e pl).state = hardwired s := by simp [runUnload]
@[simp] theorem runHalt_hardwired {_e pl} : hardwired (runHalt s _e pl).state = hardwired s := by simp [runHalt]
@[simp] theorem runDramRead_hardwired {e pl} : hardwired (runDramRead s e pl).state = hardwired s := by
  simp [runDramRead]
@[simp] theorem runJobLetter_hardwired {_e pl} : hardwired (runJobLetter s _e pl).state = hardwired s := by
  unfold runJobLetter; split <;> simp
@[simp] theorem startLong_hardwired {e op} : hardwired (startLong s e op).state = hardwired s := by simp [startLong]
@[simp] theorem runLong_hardwired {e pl} : hardwired (runLong s e pl).state = hardwired s := by simp [runLong]
@[simp] theorem handoverAtOnce_hardwired {e} : hardwired (handoverAtOnce s e).state = hardwired s := by
  simp [handoverAtOnce]
@[simp] theorem runHandover_hardwired {e pl} : hardwired (runHandover s e pl).state = hardwired s := by
  unfold runHandover; split <;> simp
@[simp] theorem runDeadRead_hardwired {_e pl} : hardwired (runDeadRead s _e pl).state = hardwired s := by
  simp [runDeadRead]
@[simp] theorem runDeadClear_hardwired {_e pl} : hardwired (runDeadClear s _e pl).state = hardwired s := by
  simp [runDeadClear]
@[simp] theorem runStreamOpen_hardwired {_e _pl} : hardwired (runStreamOpen s _e _pl).state = hardwired s := (rfl)
@[simp] theorem runEnumerate_hardwired {e pl} : hardwired (runEnumerate s e pl).state = hardwired s := by
  simp [runEnumerate]
@[simp] theorem runAssign_hardwired {_e pl} : hardwired (runAssign s _e pl).state = hardwired s := by simp [runAssign]
@[simp] theorem runLinkStatus_hardwired {_e pl} : hardwired (runLinkStatus s _e pl).state = hardwired s := by
  simp [runLinkStatus]
@[simp] theorem runStatus_hardwired {_e pl} : hardwired (runStatus s _e pl).state = hardwired s := by simp [runStatus]
@[simp] theorem execStreamOpen_hardwired {e pl} : hardwired (stateOr s (execStreamOpen e pl s)) = hardwired s := by
  simp [execStreamOpen]
@[simp] theorem actAssign_hardwired {e pl} : hardwired (stateOr s (actAssign e pl s)) = hardwired s := by
  simp [actAssign]
@[simp] theorem execLinkStatus_hardwired {e pl} : hardwired (stateOr s (execLinkStatus e pl s)) = hardwired s := by
  simp [execLinkStatus]
@[simp] theorem execLongOperationEnd_hardwired {okMask} :
    hardwired (stateOr s (execLongOperationEnd okMask s)) = hardwired s := by
  unfold execLongOperationEnd; split <;> simp
@[simp] theorem execParcelTimeout_hardwired {dest src stream} :
    hardwired (stateOr s (execParcelTimeout dest src stream s)) = hardwired s := by
  unfold execParcelTimeout; split <;> simp
@[simp] theorem runDramWrite_hardwired {e pl} : hardwired (runDramWrite s e pl).state = hardwired s := by
  simp [runDramWrite]
@[simp] theorem execDramWrite_hardwired {e pl} : hardwired (stateOr s (execDramWrite e pl s)) = hardwired s := by
  simp [execDramWrite]
@[simp] theorem runFirmware_hardwired {e pl} : hardwired (runFirmware s e pl).state = hardwired s := by
  simp [runFirmware]
@[simp] theorem execFirmware_hardwired {e pl} : hardwired (stateOr s (execFirmware e pl s)) = hardwired s := by
  simp [execFirmware]
@[simp] theorem fails_hardwired {detail} : hardwired (fails s detail).state = hardwired s := (rfl)
@[simp] theorem outOfRange_hardwired : hardwired (outOfRange s).state = hardwired s := (rfl)
@[simp] theorem camRoutine_hardwired {e routine args} :
    hardwired (camRoutine s e routine args).state = hardwired s := by simp [camRoutine]
@[simp] theorem execCamControlAck_hardwired {n ok v} :
    hardwired (stateOr s (execCamControlAck n ok v s)) = hardwired s := by
  simp only [execCamControlAck]; repeat' split
  all_goals simp
@[simp] theorem execCamRoutineTimeout_hardwired {n} :
    hardwired (stateOr s (execCamRoutineTimeout n s)) = hardwired s := by
  simp only [execCamRoutineTimeout]; repeat' split
  all_goals simp
@[simp] theorem routineScanApply_hardwired {args} : hardwired (routineScanApply s args).state = hardwired s := by
  simp [routineScanApply]
@[simp] theorem routineHltReset_hardwired {args} : hardwired (routineHltReset s args).state = hardwired s := by
  simp [routineHltReset]
@[simp] theorem routineClaimRead_hardwired {args} : hardwired (routineClaimRead s args).state = hardwired s := by
  simp [routineClaimRead]
@[simp] theorem routineKeyEnroll_hardwired {args} : hardwired (routineKeyEnroll s args).state = hardwired s := by
  simp [routineKeyEnroll]
@[simp] theorem routineKeyRevoke_hardwired {args} : hardwired (routineKeyRevoke s args).state = hardwired s := by
  simp [routineKeyRevoke]
@[simp] theorem routinePairRestart_hardwired {args} : hardwired (routinePairRestart s args).state = hardwired s := by
  simp [routinePairRestart]
@[simp] theorem peerWriteChecked_hardwired {e args} : hardwired (peerWriteChecked s e args).state = hardwired s := by
  simp only [peerWriteChecked]; repeat' split
  all_goals simp
@[simp] theorem routinePeerWrite_hardwired {e args} : hardwired (routinePeerWrite s e args).state = hardwired s := by
  simp [routinePeerWrite]
@[simp] theorem execPeerWriteTimeout_hardwired : hardwired (stateOr s (execPeerWriteTimeout s)) = hardwired s := by
  unfold execPeerWriteTimeout; split <;> simp
@[simp] theorem routine_hardwired {e n args} : hardwired (routine s e n args).state = hardwired s := by
  unfold routine; split <;> simp
@[simp] theorem runCall_hardwired {e pl} : hardwired (runCall s e pl).state = hardwired s := by simp [runCall]
@[simp] theorem runUnknown_hardwired {_e _pl} : hardwired (runUnknown s _e _pl).state = hardwired s := (rfl)
@[simp] theorem execUnknownLetterKind_hardwired {e pl} :
    hardwired (stateOr s (execUnknownLetterKind e pl s)) = hardwired s := by simp [execUnknownLetterKind]
@[simp] theorem actTwinBulkReceive_hardwired {b i n} :
    hardwired (stateOr s (actTwinBulkReceive b i n s)) = hardwired s := by simp [actTwinBulkReceive]
@[simp] theorem execResyncEnd_hardwired : hardwired (stateOr s (execResyncEnd s)) = hardwired s := by
  unfold execResyncEnd; split <;> simp
@[simp] theorem execResyncTimeout_hardwired : hardwired (stateOr s (execResyncTimeout s)) = hardwired s := by
  unfold execResyncTimeout; split <;> simp
@[simp] theorem execHamperReceive_hardwired {hm whole} :
    hardwired (stateOr s (execHamperReceive hm whole s)) = hardwired s := by simp [execHamperReceive]
@[simp] theorem execHamperTimeout_hardwired {arrived} :
    hardwired (stateOr s (execHamperTimeout arrived s)) = hardwired s := by simp [execHamperTimeout]
@[simp] theorem execTwinSilence_hardwired {arrived} :
    hardwired (stateOr s (execTwinSilence arrived s)) = hardwired s := by simp [execTwinSilence]
@[simp] theorem execTwinPathSilent_hardwired {pin arrived} :
    hardwired (stateOr s (execTwinPathSilent pin arrived s)) = hardwired s := by simp [execTwinPathSilent]
@[simp] theorem execHamperTimedClose_hardwired : hardwired (stateOr s (execHamperTimedClose s)) = hardwired s := by
  simp [execHamperTimedClose]
@[simp] theorem execPodBringupTimeout_hardwired {p} :
    hardwired (stateOr s (execPodBringupTimeout p s)) = hardwired s := by
  simp only [execPodBringupTimeout]; repeat' split
  all_goals simp
@[simp] theorem execFireLineBoundary_hardwired {t m replica} :
    hardwired (stateOr s (execFireLineBoundary t m replica s)) = hardwired s := by simp [execFireLineBoundary]
@[simp] theorem execReadiness_hardwired {trained fastOk part} :
    hardwired (stateOr s (execReadiness trained fastOk part s)) = hardwired s := by simp [execReadiness]
@[simp] theorem execImageLoad_hardwired : hardwired (stateOr s (execImageLoad s)) = hardwired s := by
  simp [execImageLoad]
@[simp] theorem execImageCommit_hardwired : hardwired (stateOr s (execImageCommit s)) = hardwired s := by
  simp [execImageCommit]
@[simp] theorem scalarLoad_hardwired {k d a imm n lkind parity} :
    hardwired (stateOr s (scalarLoad s k d a imm n lkind parity)) = hardwired s := by simp [scalarLoad]
@[simp] theorem scalarStore_hardwired {k d a imm n} :
    hardwired (stateOr s (scalarStore s k d a imm n)) = hardwired s := by simp [scalarStore]
@[simp] theorem execLoadDataReturn_hardwired {k ecc} :
    hardwired (stateOr s (execLoadDataReturn k ecc s)) = hardwired s := by
  unfold execLoadDataReturn; split <;> simp
@[simp] theorem execJal_hardwired {k off} : hardwired (stateOr s (execJal k off s)) = hardwired s := by simp [execJal]
@[simp] theorem execJalr_hardwired {k d a} : hardwired (stateOr s (execJalr k d a s)) = hardwired s := by
  simp [execJalr]
@[simp] theorem execHalt_hardwired {k} : hardwired (stateOr s (execHalt k s)) = hardwired s := by simp [execHalt]
@[simp] theorem runSync_hardwired {t inc e pl} : hardwired (runSync t inc s e pl).state = hardwired s := by
  simp [runSync]
@[simp] theorem execSync_hardwired {e pl t inc} : hardwired (stateOr s (execSync e pl t inc s)) = hardwired s := by
  simp [execSync]
@[simp] theorem runDelayReq_hardwired {t2 t3 e pl} : hardwired (runDelayReq t2 t3 s e pl).state = hardwired s := by
  simp [runDelayReq]
@[simp] theorem execDelayReq_hardwired {e pl t2 t3} :
    hardwired (stateOr s (execDelayReq e pl t2 t3 s)) = hardwired s := by simp [execDelayReq]
@[simp] theorem execDelayReqSend_hardwired {t1East t1West} :
    hardwired (stateOr s (execDelayReqSend t1East t1West s)) = hardwired s := by simp [execDelayReqSend]
@[simp] theorem runDelayResp_hardwired {t4 e pl} : hardwired (runDelayResp t4 s e pl).state = hardwired s := by
  unfold runDelayResp; split <;> simp
@[simp] theorem execDelayResp_hardwired {e pl t4} :
    hardwired (stateOr s (execDelayResp e pl t4 s)) = hardwired s := by simp [execDelayResp]
@[simp] theorem opMerge_hardwired {k vd va vb pg f} :
    hardwired (stateOr s (opMerge s k vd va vb pg f)) = hardwired s := by simp [opMerge]
@[simp] theorem opZero_hardwired {k pd pg f} : hardwired (stateOr s (opZero s k pd pg f)) = hardwired s := by
  simp [opZero]
@[simp] theorem opPred_hardwired {k pd pa pb f} : hardwired (stateOr s (opPred s k pd pa pb f)) = hardwired s := by
  simp [opPred]
@[simp] theorem execVld_hardwired {k vd a imm parity} :
    hardwired (stateOr s (execVld k vd a imm parity s)) = hardwired s := by simp [execVld]

/-! ### PARCEL envelopes -/

theorem middleEnvelope_holds {hw e pl} (h : hardwired s = hw) : ∀ t ∈ middleEnvelope s e pl, hardwired t = hw := by
  unfold middleEnvelope
  split
  · simp [h]
  · split
    · split
      · exact executeRoom_holds (by simpa using h) (run := runTooLong) fun _ _ _ h => h
      · simp [h]
    · simp [h]
theorem goEnvelope_holds {hw e pl} (h : hardwired s = hw) : ∀ t ∈ goEnvelope s e pl, hardwired t = hw := by
  unfold goEnvelope
  split
  · simp [h]
  · split
    · simp [h]
    · exact middleEnvelope_holds h
@[simp] theorem execParcelEnvelope_hardwired {e pl} :
    hardwired (stateOr s (execParcelEnvelope e pl s)) = hardwired s := by
  simp [execParcelEnvelope, acceptWith_holds rfl fun _ _ _ => goEnvelope_holds]

/-! ### Resets and starts -/

/-- The cells that a reset leaves: every G0 is 0, every P0 all ones (R62, R70). -/
def resetCells : Vector (Word × Pred) 8 := hardwired State.reset

@[simp] theorem hardwired_reset : hardwired State.reset = resetCells := (rfl)
@[simp] theorem initialState_hardwired : hardwired (initialState s) = resetCells := (rfl)
@[simp] theorem resetKind0_hardwired {strap} : hardwired (resetKind0 s strap) = resetCells := (rfl)
@[simp] theorem warmState_hardwired : hardwired (warmState s) = resetCells := (rfl)
@[simp] theorem resetWarm_hardwired {kind p} : hardwired (resetWarm s kind p) = resetCells := (rfl)

theorem hardwired_get {k : Fin 8} : (hardwired s)[k] = (stw s k).hardwired := Vector.getElem_map ..

theorem resetCells_get {k : Fin 8} : resetCells[k] = (0, BitVec.allOnes 64) := by
  have hk : stw State.reset k = Steward.init := Vector.getElem_replicate ..
  rw [resetCells, hardwired_get, hk]
  rfl

theorem regsOk_iff : RegsOk s ↔ hardwired s = resetCells := by
  have hcell : ∀ k :
    Fin 8, (hardwired s)[k] = resetCells[k] ↔ (stw s k).g[0] = 0 ∧ (stw s k).p[0] = BitVec.allOnes 64 := by
    intro k
    rw [hardwired_get, resetCells_get]
    exact Prod.ext_iff
  constructor
  · exact fun h => Vector.ext fun i hi => (hcell ⟨i, hi⟩).mpr (h ⟨i, hi⟩)
  · exact fun h k => (hcell k).mp (by rw [h])

theorem hardwired_modStw_init {k f} (h : hardwired s = resetCells) (hf :
    ∀ w, (f w).hardwired = Steward.init.hardwired) :
    hardwired (modStw s k f) = resetCells := by
  refine Vector.ext fun i hi => ?_
  show ((s.stewards.set k (f (stw s k))).map Steward.hardwired)[i] = _
  rw [Vector.getElem_map, Vector.getElem_set]
  split
  · rw [hf]; exact (resetCells_get (k := ⟨i, hi⟩)).symm
  · rw [← h]; exact (Vector.getElem_map ..).symm

section
variable (h : hardwired s = resetCells)
include h

theorem startSteward_hardwired {k reason} : hardwired (startSteward s k reason) = resetCells := by
  unfold startSteward; split
  · exact hardwired_modStw_init h fun _ => rfl
  · exact h
theorem startStewards_hardwired {ks : List (Fin 8)} {reason} :
    hardwired (ks.foldl (fun s k => startSteward s k reason) s) = resetCells :=
  foldl_inv (hardwired · = resetCells) _ (fun _ _ h => startSteward_hardwired h) ks h
theorem forgetCustomers_hardwired : hardwired (forgetCustomers s) = resetCells :=
  foldl_inv (hardwired · = resetCells) (fun s k => modStw s k Steward.forget)
    (fun _ _ h => hardwired_modStw_init h fun _ => rfl) customers h
theorem dropTwin_hardwired : hardwired (dropTwin s) = resetCells := by
  simp [dropTwin, startStewards_hardwired, h]
theorem resetTwin_hardwired : hardwired (resetTwin s) = resetCells := by
  simp [resetTwin, dropTwin_hardwired, h]
theorem loseBar_hardwired : hardwired (loseBar s) = resetCells := by
  simp [loseBar, forgetCustomers_hardwired, h]
theorem giveBar_hardwired : hardwired (giveBar s) = resetCells := by
  simp [giveBar, loseBar_hardwired, h]
theorem startCustomers_hardwired {ks : List (Fin 8)} {reason} :
    hardwired (ks.foldl (fun s k => startSteward s k reason) (forgetCustomers s)) = resetCells :=
  startStewards_hardwired (forgetCustomers_hardwired h)
theorem takeBar_hardwired {epoch forced} : hardwired (takeBar s epoch forced) = resetCells := by
  simp [takeBar, startCustomers_hardwired, h]
theorem standDown_hardwired : hardwired (standDown s) = resetCells := by
  simp [standDown, loseBar_hardwired, h]
theorem takeHandover_hardwired : hardwired (takeHandover s) = resetCells := by
  simp [takeHandover, takeBar_hardwired, h]
theorem standbyPostcard_hardwired {c} : hardwired (standbyPostcard s c) = resetCells := by
  simp only [standbyPostcard, hardwired_ite]
  simp [giveBar_hardwired, dropTwin_hardwired, h]
theorem activePostcard_hardwired {c} : hardwired (activePostcard s c) = resetCells := by
  simp only [activePostcard, hardwired_ite]
  simp [takeHandover_hardwired, h]
theorem actPostcardReceive_hardwired {c} : hardwired (stateOr s (actPostcardReceive c s)) = resetCells := by
  unfold actPostcardReceive
  simp only [stateOr, hardwired_ite]
  split
  · exact h
  · split <;> simp [standbyPostcard_hardwired, activePostcard_hardwired, standDown_hardwired, h]
theorem activeStatus_hardwired {p x} : hardwired (activeStatus s p x) = resetCells := by
  simp [activeStatus, standDown_hardwired, h]
theorem execPodStatus_hardwired {p x bad} : hardwired (stateOr s (execPodStatus p x bad s)) = resetCells := by
  simp [execPodStatus, activeStatus_hardwired, h]
theorem execActiveTwinSilence_hardwired {arrived} :
    hardwired (stateOr s (execActiveTwinSilence arrived s)) = resetCells := by
  simp [execActiveTwinSilence, resetTwin_hardwired, h]
theorem execHamperAckTimeout_hardwired {arrived} :
    hardwired (stateOr s (execHamperAckTimeout arrived s)) = resetCells := by
  simp [execHamperAckTimeout, resetTwin_hardwired, h]
theorem execPeerResetWaitEnd_hardwired : hardwired (stateOr s (execPeerResetWaitEnd s)) = resetCells := by
  simp [execPeerResetWaitEnd, takeBar_hardwired, h]
theorem execCoreOvervoltage_hardwired {mv} : hardwired (stateOr s (execCoreOvervoltage mv s)) = resetCells := by
  simp [execCoreOvervoltage, h]
theorem execFallbackReset_hardwired : hardwired (stateOr s (execFallbackReset s)) = resetCells := by
  simp [execFallbackReset, h]
theorem execPinResetAssert_hardwired : hardwired (stateOr s (execPinResetAssert s)) = resetCells := by
  simp [execPinResetAssert, h]
theorem execPowerLoss_hardwired : hardwired (stateOr s (execPowerLoss s)) = resetCells := by
  simp [execPowerLoss, h]
omit h in
theorem execPowerOnReset_hardwired {strap} : hardwired (stateOr s (execPowerOnReset strap s)) = resetCells := by
  simp [execPowerOnReset]
theorem execRestartReset_hardwired : hardwired (stateOr s (execRestartReset s)) = resetCells := by
  unfold execRestartReset
  split <;> simp [h]
theorem runRestart_hardwired {e pl} : hardwired (runRestart s e pl).state = resetCells := by
  unfold runRestart stewardLetter orBad
  split
  · exact h
  · simp [startSteward_hardwired, h]
theorem runLoad_hardwired {e pl} : hardwired (runLoad s e pl).state = resetCells := by
  unfold runLoad
  split; · exact h
  dsimp only
  split; · exact h
  split; · exact h
  split; · exact h
  simp [startSteward_hardwired, h]
end

/-! ### The step -/

/-- Every command leaves the hard-wired registers as a reset does.  Commands with one proof stand in one case. -/
theorem exec_hardwired (h : hardwired s = resetCells) (c : Instr) :
    hardwired (stateOr s (exec c s)) = resetCells := by
  cases c <;> dsimp only [exec]
  case add | sub | and | or | xor | sll | srl | sra | slt | sltu | min | max | minu | maxu | mul | mulh
      | mulhu | addss | subss =>
    exact opT_hardwired.trans h
  case slli | srli | srai | clz | popc | addi | andi | ori | xori | slti | sltiu => exact opI_hardwired.trans h
  case lui | vext | prdlo | prdhi | pcnt | pfirst | vsum => exact (onSteward_hardwired finG_hardwired).trans h
  case lw | lh | lhu | lb | lbu => exact scalarLoad_hardwired.trans h
  case sw | sh | sb => exact scalarStore_hardwired.trans h
  case loadDataReturn => exact execLoadDataReturn_hardwired.trans h
  case amoswap | amoadd | amoand | amoor | amocas => exact amo_hardwired.trans h
  case beq | bne | blt | bge | bltu | bgeu | bpany | bpnone => exact opB_hardwired.trans h
  case jal => exact execJal_hardwired.trans h
  case jalr => exact execJalr_hardwired.trans h
  case halt => exact execHalt_hardwired.trans h
  case brk => exact (onSteward_hardwired stewardFault_hardwired).trans h
  case illegal => exact execIllegal_hardwired.trans h
  case vadd | vadds | vsubs | vand | vor | vxor | vmin | vmax | vlut | vsplat | vslu | vsldLanes =>
    exact opMerge_hardwired.trans h
  case vsel | vins => exact (onSteward_hardwired finV_hardwired).trans h
  case vceq | vclt | vceqi | vclti => exact opZero_hardwired.trans h
  case pand | por | pxor | pandn => exact opPred_hardwired.trans h
  case pwrlo | pwrhi => exact (onSteward_hardwired finP_hardwired).trans h
  case vld => exact execVld_hardwired.trans h
  case vst => exact (onSteward_hardwired storeTo_hardwired).trans h
  case sld => exact execSld_hardwired.trans h
  case sst => exact execSst_hardwired.trans h
  case ssq => exact execSsq_hardwired.trans h
  case vsld => exact execVsld_hardwired.trans h
  case vsst => exact execVsst_hardwired.trans h
  case vssq => exact execVssq_hardwired.trans h
  case lqQueueRoom => exact execLqQueueRoom_hardwired.trans h
  case scr => exact execScr_hardwired.trans h
  case scw => exact execScw_hardwired.trans h
  case fence => exact execFence_hardwired.trans h
  case wait => exact (onSteward_hardwired waitOn_hardwired).trans h
  case waitt => exact execWaitt_hardwired.trans h
  case evpoll => exact (onSteward_hardwired pollOn_hardwired).trans h
  case evsig => exact execEvsig_hardwired.trans h
  case msend => exact execMsend_hardwired.trans h
  case mrecv => exact execMrecv_hardwired.trans h
  case stewardWake => exact execStewardWake_hardwired.trans h
  case waittTimeout => exact execWaittTimeout_hardwired.trans h
  case watchdogExpiry => exact execWatchdogExpiry_hardwired.trans h
  case roundFrame => exact execRoundFrame_hardwired.trans h
  case nak => exact resendOrDown_hardwired.trans h
  case retryTimeout => exact execRetryTimeout_hardwired.trans h
  case linkDown => exact linkGoesDown_hardwired.trans h
  case parcelEnvelope => exact execParcelEnvelope_hardwired.trans h
  case parcelTimeout => exact execParcelTimeout_hardwired.trans h
  case write => exact (accept_hardwired fun _ _ _ => runWrite_hardwired).trans h
  case arm => exact (accept_hardwired fun _ _ _ => runArm_hardwired).trans h
  case vwrite => exact (accept_hardwired fun _ _ _ => runVwrite_hardwired).trans h
  case varm => exact (accept_hardwired fun _ _ _ => runVarm_hardwired).trans h
  case read => exact (accept_hardwired fun _ _ _ => runRead_hardwired).trans h
  case vread => exact (accept_hardwired fun _ _ _ => runVread_hardwired).trans h
  case inbox => exact (accept_hardwired fun _ _ _ => runInbox_hardwired).trans h
  case load => exact acceptParcel_holds h fun _ _ _ h => runLoad_hardwired h
  case unload => exact (accept_hardwired fun _ _ _ => runUnload_hardwired).trans h
  case restart => exact accept_holds h fun _ _ _ h => runRestart_hardwired h
  case haltSteward => exact (accept_hardwired fun _ _ _ => runHalt_hardwired).trans h
  case dramWrite => exact execDramWrite_hardwired.trans h
  case dramRead => exact (accept_hardwired fun _ _ _ => runDramRead_hardwired).trans h
  case job => exact (accept_hardwired fun _ _ _ => runJobLetter_hardwired).trans h
  case longDramRetrain | longPodScan | longThermosCommit | longLaneRetune | long =>
    exact (accept_hardwired fun _ _ _ => runLong_hardwired).trans h
  case longOperationEnd => exact execLongOperationEnd_hardwired.trans h
  case firmware => exact execFirmware_hardwired.trans h
  case handoverNow | handoverArm | handoverCancel | handover =>
    exact (accept_hardwired fun _ _ _ => runHandover_hardwired).trans h
  case deadRead => exact (accept_hardwired fun _ _ _ => runDeadRead_hardwired).trans h
  case deadClear => exact (accept_hardwired fun _ _ _ => runDeadClear_hardwired).trans h
  case streamOpen => exact execStreamOpen_hardwired.trans h
  case enumerate => exact (accept_hardwired fun _ _ _ => runEnumerate_hardwired).trans h
  case assign => exact (tells_hardwired.trans actAssign_hardwired).trans h
  case linkStatus => exact execLinkStatus_hardwired.trans h
  case status => exact (accept_hardwired fun _ _ _ => runStatus_hardwired).trans h
  case sync => exact execSync_hardwired.trans h
  case delayReq => exact execDelayReq_hardwired.trans h
  case delayResp => exact execDelayResp_hardwired.trans h
  case delayReqSend => exact execDelayReqSend_hardwired.trans h
  case camRead | camWrite | hltScanApply | hltReset | claimRead | keyEnroll | keyRevoke | pairRestart
      | peerWrite | call =>
    exact (accept_hardwired fun _ _ _ => runCall_hardwired).trans h
  case camRoutineTimeout => exact execCamRoutineTimeout_hardwired.trans h
  case peerWriteTimeout => exact execPeerWriteTimeout_hardwired.trans h
  case feedLine => exact (tells_hardwired.trans actFeedLine_hardwired).trans h
  case feedPage => exact (tells_hardwired.trans actFeedPage_hardwired).trans h
  case feedReplay => exact (tells_hardwired.trans actFeedReplay_hardwired).trans h
  case feedLib => exact (tells_hardwired.trans actFeedLib_hardwired).trans h
  case feedJobEnd => exact (tells_hardwired.trans actFeedJobEnd_hardwired).trans h
  case feedDeadline => exact (tells_hardwired.trans actFeedDeadline_hardwired).trans h
  case pkrCompress | pkrDecompress => exact pkrGo_hardwired.trans h
  case pkrJobStop => exact execPkrJobStop_hardwired.trans h
  case rowLineDecision => exact execRowLineDecision_hardwired.trans h
  case extrapolationEnd => exact execExtrapolationEnd_hardwired.trans h
  case webIndexEdge => exact execWebIndexEdge_hardwired.trans h
  case fireLineBoundary => exact execFireLineBoundary_hardwired.trans h
  case rowTrigger => exact (tells_hardwired.trans actRowTrigger_hardwired).trans h
  case cueMark => exact execCueMark_hardwired.trans h
  case pagecmpArm | podlEnable | podlPurgeGo | camEnable | ctxCommit | expGo | tmcArm | tmcDisarm | motTarget
      | segGo | motStop | motRetract | retractRelease | setPos | liftLockWrite | axisCmpArm | axisCmpDisarm
      | dramFreqGo | dmaHeadWrite | dmaRun | dmaAbort | dmaPause | dmaResume | dmaSwreq | laneTest | laneChk
      | hvEnWrite =>
    exact storeCmd_hardwired.trans h
  case pageCompareFire => exact execPageCompareFire_hardwired.trans h
  case lineSyncPulse => exact execLineSyncPulse_hardwired.trans h
  case lineDataSend => exact execLineDataSend_hardwired.trans h
  case fireSend => exact execFireSend_hardwired.trans h
  case podUnderrun => exact execPodUnderrun_hardwired.trans h
  case podBringupTimeout => exact execPodBringupTimeout_hardwired.trans h
  case podStatus => exact execPodStatus_hardwired h
  case readResp => exact execReadResp_hardwired.trans h
  case echoResp => exact execEchoResp_hardwired.trans h
  case echoMeasure => exact execEchoMeasure_hardwired.trans h
  case rscanData => exact execRscanData_hardwired.trans h
  case scanTimeout => exact execScanTimeout_hardwired.trans h
  case podLinkLost | podStatusSilence => exact portLost_hardwired.trans h
  case camControlAck => exact execCamControlAck_hardwired.trans h
  case triggerSlot => exact execTriggerSlot_hardwired.trans h
  case frameTimeout => exact execFrameTimeout_hardwired.trans h
  case spoolFrameStart => exact execSpoolFrameStart_hardwired.trans h
  case frameProcessed => exact execFrameProcessed_hardwired.trans h
  case healthFrameScore => exact execHealthFrameScore_hardwired.trans h
  case healthBatchIssue => exact execHealthBatchIssue_hardwired.trans h
  case mapJournal => exact execMapJournal_hardwired.trans h
  case journalFold => exact execJournalFold_hardwired.trans h
  case peerResetWaitEnd => exact execPeerResetWaitEnd_hardwired h
  case postcardSend => exact sendPostcard_hardwired.trans h
  case postcardReceive => exact tells_hardwired.trans (actPostcardReceive_hardwired h)
  case hamperTimedClose => exact execHamperTimedClose_hardwired.trans h
  case hamperReceive => exact execHamperReceive_hardwired.trans h
  case twinBulkReceive => exact (tells_hardwired.trans actTwinBulkReceive_hardwired).trans h
  case resyncEnd => exact execResyncEnd_hardwired.trans h
  case resyncTimeout => exact execResyncTimeout_hardwired.trans h
  case twinSilence => exact execTwinSilence_hardwired.trans h
  case twinPathSilent => exact execTwinPathSilent_hardwired.trans h
  case activeTwinSilence => exact execActiveTwinSilence_hardwired h
  case hamperAckTimeout => exact execHamperAckTimeout_hardwired h
  case hamperTimeout => exact execHamperTimeout_hardwired.trans h
  case clearHidden => exact (tells_hardwired.trans actClearHidden_hardwired).trans h
  case mailbagPass => exact execMailbagPass_hardwired.trans h
  case mbClearSlot | mbClearAll => exact mbClear_hardwired.trans h
  case trGo => exact trGo_hardwired.trans h
  case compareUnitFire => exact execCompareUnitFire_hardwired.trans h
  case housekeepingRoundEnd => exact (tells_hardwired.trans actHousekeepingRoundEnd_hardwired).trans h
  case probeEdge => exact execProbeEdge_hardwired.trans h
  case dramScrub => exact (tells_hardwired.trans actDramScrub_hardwired).trans h
  case dramFreqDone => exact execDramFreqDone_hardwired.trans h
  case dmaBurst => exact execDmaBurst_hardwired.trans h
  case dmaRequestTimeout => exact execDmaRequestTimeout_hardwired.trans h
  case dmaDescriptorEnd => exact execDmaDescriptorEnd_hardwired.trans h
  case laneLos => exact (tells_hardwired.trans actLaneLos_hardwired).trans h
  case laneLol => exact (tells_hardwired.trans actLaneLol_hardwired).trans h
  case laneSettled => exact execLaneSettled_hardwired.trans h
  case slackTimer => exact evalSlack_hardwired.trans h
  case vfloorFall => exact setFld_hardwired.trans h
  case coreOvervoltage => exact execCoreOvervoltage_hardwired h
  case thermalModelStep => exact (tells_hardwired.trans actThermalModelStep_hardwired).trans h
  case powerOnReset => exact execPowerOnReset_hardwired
  case pinResetAssert => exact execPinResetAssert_hardwired h
  case restartReset => exact execRestartReset_hardwired h
  case fallbackReset => exact execFallbackReset_hardwired h
  case powerLoss => exact execPowerLoss_hardwired h
  case readiness => exact execReadiness_hardwired.trans h
  case tapReset => exact loadIr_hardwired.trans h
  case extest | extestPulse | extestTrain => exact boundaryOp_hardwired.trans h
  case clamp | highz | bypass => exact pinOp_hardwired.trans h
  case imageLoad => exact execImageLoad_hardwired.trans h
  case imageCommit => exact execImageCommit_hardwired.trans h
  case stationStore => exact (tells_hardwired.trans actStationStore_hardwired).trans h
  case unknownLetterKind => exact execUnknownLetterKind_hardwired.trans h
  case laneLolRelease => exact (tells_hardwired.trans actLaneLolRelease_hardwired).trans h
  case groupAligned => exact (tells_hardwired.trans actGroupAligned_hardwired).trans h
  case groupAlignmentLost => exact (tells_hardwired.trans actGroupAlignmentLost_hardwired).trans h
  case j => simp [execJ, h]
  case acknowledgement => simp [execAcknowledgement, h]
  case nakRepeat => simp [execNakRepeat, h]
  case peerRstRelease => simp [execPeerRstRelease, h]
  case holdDelayExpiry => simp [execHoldDelayExpiry, h]
  case dramDriftTrack => simp [execDramDriftTrack, h]
  case thermosCounterWrite => simp [execThermosCounterWrite, h]
  case hbInEdge => simp [execHbInEdge, h]
  case podRateSwitch => simp [execPodRateSwitch, h]
  case linkTrained => simp [execLinkTrained, h]
  case unwrap => simp [execUnwrap, h]
  case webEdge => simp [execWebEdge, h]
  case illegalTransition => simp [execIllegalTransition, h]
  case webStop => simp [execWebStop, h]
  case syncPulseMissing => simp [execSyncPulseMissing, h]
  case podBringupRetry => simp [execPodBringupRetry, h]
  case rscanDone => simp [execRscanDone, h]
  case camBringupRetry => simp [execCamBringupRetry, h]
  case cameraLine => simp [execCameraLine, h]
  case electWaitExpiry => simp [execElectWaitExpiry, h]
  case resyncRetry => simp [execResyncRetry, h]
  case handoverLaneIdle => simp [execHandoverLaneIdle, h]
  case tbStep => simp [execTbStep, h]
  case tbAnchorUpdate => simp [execTbAnchorUpdate, h]
  case syncHoldover => simp [execSyncHoldover, h]
  case holdoverAlarm => simp [execHoldoverAlarm, h]
  case spliceEdge => simp [execSpliceEdge, h]
  case axisEncoderEdge => simp [execAxisEncoderEdge, h]
  case axisIndexEdge => simp [execAxisIndexEdge, h]
  case dramRefresh => simp [execDramRefresh, h]
  case dramMr4Poll => simp [execDramMr4Poll, h]
  case laneLosRelease => simp [execLaneLosRelease, h]
  case phaseOvercurrent => simp [execPhaseOvercurrent, h]
  case coreUndervoltage => simp [execCoreUndervoltage, h]
  case hvSequenceStep => simp [execHvSequenceStep, h]
  case hvOkTimeout => simp [execHvOkTimeout, h]
  case pinResetRelease => simp [execPinResetRelease, h]
  case thermosSettingsCommit => simp [execThermosSettingsCommit, h]
  case i2cStatusRead => simp [execI2cStatusRead, h]
  case idcode => simp [execIdcode, h]
  case imageStatus => simp [execImageStatus, h]
  case samplePreload => simp [execSamplePreload, h]
  case imageLoadUpdate => simp [execImageLoadUpdate, h]
  case dmaPauseDrained => simp [execDmaPauseDrained, h]

end Sys2Proof.Machine
end

section
namespace Sys2Proof.Machine
open Sys2Proof

/-- Settles O4: the hard-wired registers hold what a reset leaves in them, and every command leaves that so. -/
theorem stepKeepsHardwiredRegisters : Obligations.StepKeepsHardwiredRegisters := by
  unfold Obligations.StepKeepsHardwiredRegisters
  intro s t h hst
  cases hp : s.pending with
  | nil => rw [step_idle hp] at hst; cases hst; exact h
  | cons c rest =>
    have hexec := exec_hardwired (s := { s with pending := rest }) (regsOk_iff.mp h) c
    rw [step_front hp] at hst
    rw [hst] at hexec
    exact regsOk_iff.mpr hexec

end Sys2Proof.Machine
end

section
/-! The words of the statements about instructions, in the model's own terms. -/
namespace Sys2Proof.Machine
open Sys2Proof Sys2Proof.Claims

/-! ### Registers and completion -/

theorem Steward.setG_eq {w : Steward} {d x} : w.setG d x = putG w d x := by
  unfold Steward.setG putG; split <;> rfl
theorem Steward.setP_eq {w : Steward} {d x} : w.setP d x = putP w d x := by
  unfold Steward.setP putP; split <;> rfl

section
variable {s : State} {k : Fin 8}

theorem finG_eq {d x} : finG s k d x = regDone s k d x := congrArg (fun w : Steward => setStw s k w.fin) Steward.setG_eq
theorem finV_eq {d x} : finV s k d x = vecDone s k d x := rfl
theorem finP_eq {d x} : finP s k d x = predDone s k d x :=
  congrArg (fun w : Steward => setStw s k w.fin) Steward.setP_eq
theorem fin_eq : modStw s k Steward.fin = plainDone s k := rfl

@[simp] theorem stw_withStw_same {w} : stw (withStw s k w) k = w := stw_setStw_same s k w
@[simp] theorem withStw_withStw {v w} : withStw (withStw s k v) k w = withStw s k w :=
  congrArg (fun ws => { s with stewards := ws }) (Vector.set_set _ k.isLt)
theorem stw_withStw_other {w} {j : Fin 8} (h : j ≠ k) : stw (withStw s k w) j = stw s j := stw_setStw_other s w h

/-! ### Register instructions -/

variable (h : Runs s k)
include h

theorem onSteward_next (act) : onSteward s k act = .next (act s) := onSteward_runs h.1 h.2 act

theorem onSteward_done {act t} (ht : act s = t) : onSteward s k act = .next t :=
  (onSteward_next h act).trans (by rw [ht])

theorem opT_done {d a b f x} (hx : f (G s k a) (G s k b) = x := by rfl) : opT s k d a b f = .next (regDone s k d x) :=
  onSteward_done h (finG_eq.trans (by rw [← hx]; rfl))
theorem opI_done {d a f x} (hx : f (G s k a) = x := by rfl) : opI s k d a f = .next (regDone s k d x) :=
  onSteward_done h (finG_eq.trans (by rw [← hx]; rfl))
end

/-! ### The computed results (R67) -/

theorem boolWord_slt {x y : Word} : boolWord (x.slt y) = if x.toInt < y.toInt then 1 else 0 := by
  simp [boolWord, BitVec.slt_iff_toInt_lt]
theorem boolWord_ult {x y : Word} : boolWord (x.ult y) = if x.toNat < y.toNat then 1 else 0 := by
  simp [boolWord, BitVec.ult]
theorem minS_eq {x y : Word} : minS x y = BitVec.ofInt 32 (min x.toInt y.toInt) := by
  by_cases h : x.toInt < y.toInt
  · simp [minS, BitVec.slt_iff_toInt_lt, h, min_eq_left h.le]
  · simp [minS, BitVec.slt_iff_toInt_lt, h, min_eq_right (not_lt.mp h)]
theorem maxS_eq {x y : Word} : maxS x y = BitVec.ofInt 32 (max x.toInt y.toInt) := by
  by_cases h : x.toInt < y.toInt
  · simp [maxS, BitVec.slt_iff_toInt_lt, h, max_eq_right h.le]
  · simp [maxS, BitVec.slt_iff_toInt_lt, h, max_eq_left (not_lt.mp h)]
theorem minU_eq {x y : Word} : minU x y = BitVec.ofNat 32 (min x.toNat y.toNat) := by
  by_cases h : x.toNat < y.toNat
  · simp [minU, BitVec.ult, h, min_eq_left h.le]
  · simp [minU, BitVec.ult, h, min_eq_right (not_lt.mp h)]
theorem maxU_eq {x y : Word} : maxU x y = BitVec.ofNat 32 (max x.toNat y.toNat) := by
  by_cases h : x.toNat < y.toNat
  · simp [maxU, BitVec.ult, h, max_eq_right h.le]
  · simp [maxU, BitVec.ult, h, max_eq_left (not_lt.mp h)]

theorem satSigned_eq {i : Int} : satSigned i = saturated i := by
  unfold satSigned saturated
  split
  · rw [min_eq_left (by omega), max_eq_right (by omega)]; rfl
  · split
    · rw [min_eq_right (by omega), max_eq_left (by omega)]; rfl
    · rw [min_eq_right (by omega), max_eq_right (by omega)]

/-- The bits above the highest set one are 0, and as many as CLZ counts. -/
theorem clzNat_spec (x : Word) : clzNat x ≤ 32 ∧ (∀ i, 32 - clzNat x ≤ i → i < 32 → x.getLsbD i = false)
    ∧ (clzNat x < 32 → x.getLsbD (31 - clzNat x) = true) := by
  by_cases hx : x = 0
  · subst hx; simp [clzNat]
  · have h0 : x.toNat ≠ 0 := fun e => hx (BitVec.eq_of_toNat_eq e)
    have hlog : x.toNat.log2 < 32 := (Nat.log2_lt h0).mpr x.isLt
    have hclz : clzNat x = 31 - x.toNat.log2 := if_neg hx
    refine ⟨by omega, fun i hi _ => ?_, fun _ => ?_⟩
    · have : x.toNat < 2 ^ i := (Nat.log2_lt h0).mp (by omega)
      exact Nat.testBit_lt_two_pow this
    · rw [hclz, show 31 - (31 - x.toNat.log2) = x.toNat.log2 by omega]
      exact Nat.testBit_log2 h0

theorem popNat_eq {w : Nat} (x : BitVec w) (n : Nat) :
    popNat x n = ((List.range n).filter (fun i => x.getLsbD i)).length := by
  induction n with
  | zero => rfl
  | succ n ih =>
    rw [popNat, ih, List.range_succ, List.filter_append, List.length_append, Nat.add_comm]
    cases hb : x.getLsbD n <;> simp [hb]

/-- Settles O6: each instruction is its operand form with its result. -/
theorem registerResults : Obligations.RegisterResults := by
  intro s k d a b n imm big h
  dsimp only [exec, execAdd, execSub, execAnd, execOr, execXor, execSll, execSrl, execSra, execSlt, execSltu, execMin,
    execMax, execMinu, execMaxu, execMul, execMulh, execMulhu, execSlli, execSrli, execSrai, execClz, execPopc,
    execAddss, execSubss, execAddi, execAndi, execOri, execXori, execSlti, execSltiu, execLui]
  have clz := clzNat_spec (G s k a)
  exact ⟨opT_done h, opT_done h, opT_done h, opT_done h, opT_done h, opT_done h,
    opT_done h, opT_done h, opT_done h boolWord_slt, opT_done h boolWord_ult, opT_done h minS_eq,
    opT_done h maxS_eq, opT_done h minU_eq, opT_done h maxU_eq, opT_done h, opT_done h, opT_done h,
    opI_done h, opI_done h, opI_done h, ⟨_, opI_done h, clz⟩,
    opI_done h (congrArg _ (popNat_eq ..)), opT_done h satSigned_eq, opT_done h satSigned_eq, opI_done h,
    opI_done h, opI_done h, opI_done h, opI_done h boolWord_slt, opI_done h boolWord_ult,
    onSteward_done h finG_eq⟩

end Sys2Proof.Machine
end

section
/-! Branches and jumps (R67, R68). -/
namespace Sys2Proof.Machine
open Sys2Proof Sys2Proof.Claims

/-- Where an instruction that jumps to `t` leaves its steward `w`. -/
def wentTo (w : Steward) (t : Word) : Steward := { w with pc := t, instret := w.instret + 1 }

section
variable {s : State} {k : Fin 8}

theorem jumpTo_inside {t link} (ht : t.toNat < 0x10000) :
    jumpTo s k t link = withStw s k (wentTo (link (stw s k)) t) := by
  simp only [jumpTo, inImem, ht, decide_true, if_true]; rfl

variable (h : Runs s k)
include h

/-- A branch whose condition is `C`. -/
theorem opB_done {c : Steward → Bool} {off : BitVec 16} {C : Prop} (hc : c (stw s k) = true ↔ C)
    (ht : ((stw s k).pc + off.signExtend 32 * 4).toNat < 0x10000) :
    ∃ t, opB s k c off = .next t
      ∧ (C → t = withStw s k (wentTo (stw s k) ((stw s k).pc + off.signExtend 32 * 4)))
      ∧ (¬ C → t = plainDone s k) := by
  refine ⟨_, onSteward_next h _, fun hC => ?_, fun hC => ?_⟩
  · exact (if_pos (hc.mpr hC)).trans (jumpTo_inside ht)
  · exact if_neg fun e => hC (hc.mp e)
end

theorem not_slt_iff {x y : Word} : (!x.slt y) = true ↔ y.toInt ≤ x.toInt := by simp [BitVec.slt]
theorem not_ult_iff {x y : Word} : (!x.ult y) = true ↔ y.toNat ≤ x.toNat := by simp [BitVec.ult]

/-- Settles O9: a branch tests its condition, and its target and those of the jumps lie in instruction memory. -/
theorem branchesAndJumps : Obligations.BranchesAndJumps := by
  intro s k d a b p off far h w x y go near jump branch
  dsimp only [exec, execBeq, execBne, execBlt, execBge, execBltu, execBgeu, execBpany, execBpnone, execJ, execJal,
    execJalr]
  refine ⟨fun hn => ?_, fun hj => ⟨?_, ?_⟩, fun ht => ?_⟩
  · exact ⟨opB_done h beq_iff_eq hn, opB_done h bne_iff_ne hn, opB_done h BitVec.slt_iff_toInt_lt hn,
      opB_done h not_slt_iff hn, opB_done h BitVec.ult_iff_toNat_lt hn, opB_done h not_ult_iff hn,
      opB_done h bne_iff_ne hn, opB_done h beq_iff_eq hn⟩
  · exact onSteward_done h (jumpTo_inside hj)
  · exact onSteward_done h ((jumpTo_inside hj).trans (by rw [Steward.setG_eq]; rfl))
  · exact onSteward_done h ((jumpTo_inside ht).trans (by rw [Steward.setG_eq]; rfl))

end Sys2Proof.Machine
end

section
/-! The nibble lanes and the predicate bits (R70, R71). -/
namespace Sys2Proof.Machine
open Sys2Proof Sys2Proof.Claims

/-! ### Lanes and bits -/

theorem foldl_lanes_getLsbD (f : Nat → BitVec 4) (n j : Nat) (hn : n ≤ 64) :
    ((List.range n).foldl (fun acc i => acc ||| ((f i).setWidth 256 <<< (4 * i))) (0 : Vec)).getLsbD j
      = (decide (j < 4 * n) && (f (j / 4)).getLsbD (j % 4)) := by
  induction n with
  | zero => simp
  | succ n ih =>
    rw [List.range_succ, List.foldl_append, List.foldl_cons, List.foldl_nil, BitVec.getLsbD_or, ih (by omega),
      BitVec.getLsbD_shiftLeft, BitVec.getLsbD_setWidth]
    by_cases hlow : j < 4 * n
    · have hj : j < 4 * (n + 1) := by omega
      simp [hlow, hj]
    · by_cases hj : j < 4 * (n + 1)
      · have hd : j / 4 = n := by omega
        have hm : j - 4 * n = j % 4 := by omega
        have h1 : j < 256 := by omega
        have h2 : j % 4 < 256 := by omega
        simp [hlow, hj, hd, hm, h1, h2]
      · have h4 : 4 ≤ j - 4 * n := by omega
        simp [hlow, hj, BitVec.getLsbD_of_ge _ _ h4]

@[simp] theorem lane_ofLanes {f : Nat → BitVec 4} {i : Nat} (hi : i < 64) : lane (ofLanes f) i = f i := by
  refine BitVec.eq_of_getLsbD_eq fun j hj => ?_
  rw [lane, BitVec.getLsbD_extractLsb', ofLanes, foldl_lanes_getLsbD f 64 _ le_rfl]
  have hlt : 4 * i + j < 4 * 64 := by omega
  rw [show (4 * i + j) / 4 = i by omega, show (4 * i + j) % 4 = j by omega]
  simp [hj, hlt]

theorem foldl_bits_getLsbD (f : Nat → Bool) (n j : Nat) (hn : n ≤ 64) :
    ((List.range n).foldl (fun acc i => acc ||| (if f i then (1 : Pred) <<< i else 0)) (0 : Pred)).getLsbD j
      = (decide (j < n) && f j) := by
  induction n with
  | zero => simp
  | succ n ih =>
    rw [List.range_succ, List.foldl_append, List.foldl_cons, List.foldl_nil, BitVec.getLsbD_or, ih (by omega)]
    have hbit : (if f n then (1 : Pred) <<< n else 0).getLsbD j = (decide (j = n) && f j) := by
      by_cases hj : j = n
      · subst hj
        cases hf : f j
        · simp
        · have : j < 64 := by omega
          simp [this]
      · cases f n
        · simp [hj]
        · simp [hj]; omega
    rw [hbit]
    by_cases h1 : j < n
    · have : j < n + 1 := by omega
      simp [h1, this]
    · by_cases h2 : j = n
      · subst h2; simp
      · have : ¬ j < n + 1 := by omega
        simp [h1, h2, this]

@[simp] theorem ofBits_getLsbD {f : Nat → Bool} {i : Nat} (hi : i < 64) : (ofBits f).getLsbD i = f i := by
  rw [ofBits, foldl_bits_getLsbD f 64 i le_rfl]; simp [hi]

/-! ### Lane results -/

theorem addSat4_eq {x y : BitVec 4} : addSat4 x y = BitVec.ofNat 4 (min 15 (x.toNat + y.toNat)) := by
  unfold addSat4; split
  · rw [min_eq_left (by omega)]; rfl
  · rw [min_eq_right (by omega), BitVec.ofNat_add, BitVec.ofNat_toNat, BitVec.ofNat_toNat]; simp
theorem subSat4_eq {x y : BitVec 4} : subSat4 x y = BitVec.ofNat 4 (x.toNat - y.toNat) := by
  unfold subSat4; split
  · rw [Nat.sub_eq_zero_of_le (by omega)]; rfl
  · bv_omega
theorem min4_eq {x y : BitVec 4} : min4 x y = BitVec.ofNat 4 (min x.toNat y.toNat) := by
  by_cases h : x.toNat < y.toNat
  · simp [min4, BitVec.ult, h, min_eq_left h.le]
  · simp [min4, BitVec.ult, h, min_eq_right (not_lt.mp h)]
theorem max4_eq {x y : BitVec 4} : max4 x y = BitVec.ofNat 4 (max x.toNat y.toNat) := by
  by_cases h : x.toNat < y.toNat
  · simp [max4, BitVec.ult, h, max_eq_right h.le]
  · simp [max4, BitVec.ult, h, max_eq_left (not_lt.mp h)]

section
variable {s : State} {k : Fin 8} (h : Runs s k)
include h

/-- A merging instruction whose lane result is `g`. -/
theorem opMerge_done {vd va vb pg f} {g : Nat → BitVec 4} (hf : ∀ i, f (V s k va) (V s k vb) i = g i := by intro; rfl) :
    ∃ r : Vec, opMerge s k vd va vb pg f = .next (vecDone s k vd r)
      ∧ ∀ i : Nat, i < 64 → lane r i = if (P s k pg).getLsbD i then g i else lane (V s k vd) i :=
  ⟨_, onSteward_next h _, fun i hi => (lane_ofLanes hi).trans (by rw [← hf]; rfl)⟩

/-- A zeroing comparison whose bit is `g`. -/
theorem opZero_done {pd pg f} {g : Nat → Bool} (hf : ∀ i, f (stw s k) i = g i := by intro; rfl) :
    ∃ r : Pred, opZero s k pd pg f = .next (predDone s k pd r)
      ∧ ∀ i : Nat, i < 64 → r.getLsbD i = ((P s k pg).getLsbD i && g i) :=
  ⟨_, onSteward_done h finP_eq, fun i hi => (ofBits_getLsbD hi).trans (by rw [← hf]; rfl)⟩

theorem opPred_done {pd pa pb f} : opPred s k pd pa pb f = .next (predDone s k pd (f (P s k pa) (P s k pb))) :=
  onSteward_done h finP_eq
end

/-- Settles O10: the merged lanes, one by one. -/
theorem vectorResults : Obligations.VectorResults := by
  intro s k vd va vb pg imm n h x y merged
  dsimp only [merged, exec, execVadd, execVadds, execVsubs, execVand, execVor, execVxor, execVmin, execVmax, execVlut,
    execVsplat, execVslu, execVsldLanes, execVsel]
  exact ⟨opMerge_done h, opMerge_done h fun _ => addSat4_eq, opMerge_done h fun _ => subSat4_eq, opMerge_done h,
    opMerge_done h, opMerge_done h, opMerge_done h fun _ => min4_eq, opMerge_done h fun _ => max4_eq, opMerge_done h,
    opMerge_done h, opMerge_done h, opMerge_done h, ⟨_, onSteward_next h _, fun i hi => lane_ofLanes hi⟩⟩

/-! ### Predicates, and moves between the register files -/

theorem predicateResults : PredicateResults := by
  intro s k pd pa pb pg va vb imm h x y zeroed
  dsimp only [zeroed, exec, execVceq, execVclt, execVceqi, execVclti, execPand, execPor, execPxor, execPandn]
  exact ⟨opZero_done h, opZero_done h, opZero_done h, opZero_done h, opPred_done h, opPred_done h, opPred_done h,
    opPred_done h⟩

theorem extract_low_toNat {p : Pred} : (p.extractLsb' 0 32).toNat = p.toNat % 2 ^ 32 := by
  simp [BitVec.extractLsb'_toNat]
theorem extract_high_toNat {p : Pred} : (p.extractLsb' 32 32).toNat = p.toNat / 2 ^ 32 := by
  have := p.isLt
  rw [BitVec.extractLsb'_toNat, Nat.shiftRight_eq_div_pow, Nat.mod_eq_of_lt (by omega)]

theorem append_words {x y : Word} : (x ++ y : Pred) = BitVec.ofNat 64 (x.toNat * 2 ^ 32 + y.toNat) := by
  apply BitVec.eq_of_toNat_eq
  have hx := x.isLt
  have hy := y.isLt
  rw [BitVec.toNat_append, ← Nat.shiftLeft_add_eq_or_of_lt hy, Nat.shiftLeft_eq, BitVec.toNat_ofNat]
  omega

theorem sumLanes_eq {v : Vec} {p : Pred} : sumLanes v p
    = ((List.range 64).map (fun i => if p.getLsbD i then (lane v i).toNat else 0)).sum := by
  rw [sumLanes, List.sum_eq_foldl, List.foldl_map]

theorem crossRegisterResults : CrossRegisterResults := by
  intro s k g v p l h pr
  have hlow : pr.extractLsb' 0 32 = BitVec.ofNat 32 pr.toNat :=
    BitVec.eq_of_toNat_eq (extract_low_toNat.trans (BitVec.toNat_ofNat ..).symm)
  have hhigh : pr.extractLsb' 32 32 = BitVec.ofNat 32 (pr.toNat / 2 ^ 32) := by
    rw [← extract_high_toNat, BitVec.ofNat_toNat, BitVec.setWidth_eq]
  dsimp only [exec, execVext, execVins, execPrdlo, execPrdhi, execPwrlo, execPwrhi, execPcnt, execPfirst, execVsum]
  refine ⟨onSteward_done h finG_eq, ⟨_, onSteward_next h _, fun i hi => lane_ofLanes hi⟩, ?_, ?_, ?_, ?_, ?_,
    onSteward_done h finG_eq, ?_⟩
  · exact onSteward_done h (finG_eq.trans (congrArg _ hlow))
  · exact onSteward_done h (finG_eq.trans (congrArg _ hhigh))
  · exact onSteward_done h (finP_eq.trans (congrArg _ (append_words.trans (by rw [extract_high_toNat]; rfl))))
  · exact onSteward_done h (finP_eq.trans (congrArg _ (append_words.trans (by rw [extract_low_toNat]; rfl))))
  · exact onSteward_done h (finG_eq.trans (congrArg _ (congrArg _ (popNat_eq ..))))
  · exact onSteward_done h (finG_eq.trans (congrArg _ (congrArg _ sumLanes_eq)))

/-- Settles O37: the two claims. -/
theorem predicateAndCrossResults : Obligations.PredicateAndCrossResults := ⟨predicateResults, crossRegisterResults⟩

end Sys2Proof.Machine
end

section
/-! Loads, stores and atomic operations by region (R63, R67 to R69, R72). -/
namespace Sys2Proof.Machine
open Sys2Proof Sys2Proof.Claims

section
variable {s : State} {k : Fin 8} {x : Word} {n : Nat}

/-! ### Regions -/

theorem region_dmem (h : inDmem x.toNat 1) : region s k x = .dmem (x.toNat - 0x10000000) := by
  unfold region regionOf
  rw [if_neg (by omega), if_pos (by omega)]

theorem region_shared (h : inShared x.toNat 1) : region s k x = .shared (x.toNat - 0x20000000) := by
  unfold region regionOf
  rw [if_neg (by omega), if_neg (by omega), if_pos (by omega)]

theorem region_window (h : inWindow s k x.toNat 1) : region s k x = .dram (windowAddr s k x.toNat) := by
  obtain ⟨hlow, htop, hfit⟩ := h
  unfold region regionOf
  rw [if_neg (by omega), if_neg (by omega), if_neg (by omega), if_neg (by omega), if_neg (by omega),
    if_pos (by omega)]
  exact if_pos (Nat.lt_of_succ_le hfit)

/-- Where an aligned word is neither local data nor shared memory, its region is neither. -/
theorem region_elsewhere (hal : x.toNat % 4 = 0) (hd : ¬ inDmem x.toNat 4) (hs : ¬ inShared x.toNat 4) (o : Nat) :
    region s k x ≠ .dmem o ∧ region s k x ≠ .shared o := by
  unfold region regionOf
  rw [if_neg (c := 0x10000000 ≤ x.toNat ∧ x.toNat < 0x10020000) (by omega),
    if_neg (c := 0x20000000 ≤ x.toNat ∧ x.toNat < 0x201FFA00) (by omega)]
  dsimp only
  split_ifs <;> exact ⟨nofun, nofun⟩

/-- What holds for `n` bytes at an address holds for the first of them. -/
theorem inWindow_one {a : Nat} (hn : 0 < n) (h : inWindow s k a n) : inWindow s k a 1 := by
  obtain ⟨hlow, htop, hfit⟩ := h
  refine ⟨hlow, ?_, ?_⟩
  · exact (Nat.add_le_add_left hn a).trans htop
  · exact (Nat.add_le_add_left hn _).trans hfit

/-! ### Loads -/

/-- The memory `m` that holds local or shared data at address `x`, and the offset `o` there; local data pass
their parity check. -/
abbrev localData (s : State) (k : Fin 8) (x : Nat) (parity : Bool) (m : List Host.Cell) (o : Nat) : Prop :=
  (inDmem x 1 ∧ parity = false ∧ m = (stw s k).dmem ∧ o = x - 0x10000000)
    ∨ (inShared x 1 ∧ m = s.shared ∧ o = x - 0x20000000)

theorem loadFrom_local {kd parity d lk wb m o} (hal : x.toNat % n = 0) (hm : localData s k x.toNat parity m o) :
    loadFrom s k x n kd parity d lk wb = wb s (memNat m o n) := by
  simp only [loadFrom, hal, ne_eq, not_true_eq_false, if_false]
  obtain ⟨hd, rfl, rfl, ho⟩ | ⟨hs, rfl, ho⟩ := hm
  · simp only [region_dmem hd, Bool.false_eq_true, if_false, ho]
  · simp only [region_shared hs, ho]

theorem loadFrom_window {kd parity d lk wb} (hal : x.toNat % n = 0) (hw : inWindow s k x.toNat 1) :
    loadFrom s k x n kd parity d lk wb = modStw (askDram s k false (windowAddr s k x.toNat)) k
      (fun w => { w with run := .loading (n == 32) d lk (windowAddr s k x.toNat) }) := by
  simp only [loadFrom, hal, ne_eq, not_true_eq_false, if_false, region_window hw]

theorem scalarLoad_local {d a imm lk parity m o} (h : Runs s k) (hal : (address s k a imm).toNat % n = 0)
    (hm : localData s k (address s k a imm).toNat parity m o) :
    scalarLoad s k d a imm n lk parity = .next (regDone s k d (loadExtend lk (memNat m o n))) :=
  onSteward_done h ((loadFrom_local hal hm).trans finG_eq)

end

theorem localLoads : LocalLoads := by
  intro s k d a vd imm par h x m o hm
  dsimp only [exec, execLw, execLh, execLhu, execLb, execLbu, execVld]
  exact ⟨fun hal => scalarLoad_local h hal hm, fun hal => scalarLoad_local h hal hm,
    fun hal => scalarLoad_local h hal hm, scalarLoad_local h (Nat.mod_one _) hm,
    scalarLoad_local h (Nat.mod_one _) hm, fun hal => onSteward_done h (loadFrom_local hal hm)⟩

/-! ### The return of a window load (R64) -/

section
variable {s : State}

theorem dramReadEffect_clean (hp : s.poison = []) (hs : s.single = []) (a n : Nat) : dramReadEffect s a n = s :=
  foldl_inv (· = s) readCheck (fun t cw e => by subst e; simp [readCheck, hp, hs]) _ rfl

theorem dramBad_clean (hp : s.poison = []) (a n : Nat) : dramBad s a n = false := by simp [dramBad, hp]

/-- Without an error and a rate change, the data of a waiting scalar load go into its register. -/
theorem execLoadDataReturn_clean {k : Fin 8} {d lk addr n} (hrun : (stw s k).run = .loading false d lk addr)
    (hn : n = if lk = 0 then 4 else if lk ≤ 2 then 2 else 1) (hbusy : fldB s F.DRAM_STAT_FREQ_BUSY = false)
    (hp : s.poison = []) (hs : s.single = []) :
    execLoadDataReturn k 0 s = .next (finG (modStw (modChan s (chanIx addr) (fun c => c.serveRead k)) k
      (fun w => { w with run := .running })) k d (loadExtend lk (memNat s.dram addr n))) := by
  have he : ∀ t : State, newEccError t addr 0 = t := fun _ => rfl
  unfold execLoadDataReturn
  rw [hrun]
  simp only [hbusy, Bool.false_and, Bool.false_eq_true, if_false, he, ← hn]
  rw [dramBad_clean (by exact hp), dramReadEffect_clean (by exact hp) (by exact hs)]
  rfl

end

/-- A steward that waits for the data of a load at `addr`, its request in its channel's queue. -/
def waiting (s : State) (k : Fin 8) (d : Fin 32) (lk addr : Nat) : State :=
  modStw (askDram s k false addr) k (fun w => { w with run := .loading false d lk addr })

/-- The channels when those data have arrived. -/
def servedChans (s : State) (k : Fin 8) (addr : Nat) : Vector DramChan 4 :=
  (modChan (askDram s k false addr) (chanIx addr) (fun c => c.serveRead k)).drm.chans

/-- The return of a window load gives the register its value, and beside it only the channels have changed. -/
theorem finG_served {s : State} {k : Fin 8} {d lk addr x} (hrun : (stw s k).run = .running) :
    finG (modStw (modChan (waiting s k d lk addr) (chanIx addr) (fun c => c.serveRead k)) k
      (fun w => { w with run := .running })) k d x
    = { regDone s k d x with drm := { s.drm with chans := servedChans s k addr } } := by
  have hback : { stw s k with run := .running } = stw s k := by rw [← hrun]
  have hstw : stw (modStw (modChan (waiting s k d lk addr) (chanIx addr) (fun c => c.serveRead k)) k
      (fun w => { w with run := .running })) k = stw s k := by
    rw [stw_modStw_same]
    show { stw (waiting s k d lk addr) k with run := .running } = _
    rw [waiting, stw_modStw_same]
    exact hback
  rw [finG_eq, regDone, hstw]
  exact (withStw_withStw (s := withStw { s with drm := { s.drm with chans := servedChans s k addr } } k _)).trans
    withStw_withStw

theorem windowLoads : WindowLoads := by
  intro s k d a imm par h x u hw hal hp hs hbusy
  dsimp only [exec, execLw]
  refine ⟨waiting s k d 0 u, servedChans s k u,
    onSteward_done h (loadFrom_window hal (inWindow_one (by decide) hw)), ?_, ?_, ?_⟩
  · simp [waiting]
  · simp [waiting]; rfl
  · have hret : execLoadDataReturn k 0 (waiting s k d 0 u) = _ :=
      execLoadDataReturn_clean (by rw [waiting, stw_modStw_same]) rfl hbusy hp hs
    exact hret.trans (congrArg _ (finG_served h.1))

/-- Settles O38: the two claims. -/
theorem loads : Obligations.Loads := ⟨localLoads, windowLoads⟩

end Sys2Proof.Machine
end

section
/-! Stores and atomic operations (R63, R67 to R69, R72). -/
namespace Sys2Proof.Machine
open Sys2Proof Sys2Proof.Claims

/-! ### Stores -/

/-- `m'` holds the bytes `bs` at `a`, and else what `m` holds. -/
abbrev overwritten (m m' : List Host.Cell) (a : Nat) (bs : List Byte) : Prop :=
  (∀ i (h : i < bs.length), memGet m' (a + i) = bs[i])
    ∧ ∀ y, (y < a ∨ a + bs.length ≤ y) → memGet m' y = memGet m y

theorem overwritten_memStore {m : List Host.Cell} (hm : Memory.wf m = true) (a : Nat) (bs : List Byte) :
    overwritten m (memStore m a bs) a bs :=
  ⟨fun _ hi => memGet_store_inside hm hi, fun _ hy => memGet_store_outside hm hy⟩

section
variable {s : State} {k : Fin 8}

/-- What a completed store leaves of its steward, but for local data. -/
abbrev completed (w v : Steward) : Prop :=
  v.g = w.g ∧ v.v = w.v ∧ v.p = w.p ∧ v.imem = w.imem ∧ v.pc = w.pc + 4 ∧ v.instret = w.instret + 1

/-- A field that steward `k` keeps stays on every steward. -/
theorem withStw_keeps {α : Type} {f : Steward → α} {w : Steward} (hw : f w = f (stw s k)) (j : Fin 8) :
    f (stw (withStw s k w) j) = f (stw s j) := by
  by_cases hj : j = k
  · subst hj; rw [stw_withStw_same, hw]
  · rw [stw_withStw_other hj]

/-- A store that writes one of the three memories. -/
theorem storedTo_of {t : State} {w : Steward} {x : Nat} {bs : List Byte}
    (hst : t.stewards = (withStw s k w).stewards) (hw : completed (stw s k) w)
    (hd : inDmem x bs.length → t.shared = s.shared ∧ t.dram = s.dram
      ∧ overwritten (stw s k).dmem w.dmem (x - 0x10000000) bs)
    (hs : inShared x bs.length → t.dram = s.dram ∧ w.dmem = (stw s k).dmem
      ∧ overwritten s.shared t.shared (x - 0x20000000) bs)
    (hx : inWindow s k x bs.length → t.shared = s.shared ∧ w.dmem = (stw s k).dmem
      ∧ overwritten s.dram t.dram (windowAddr s k x) bs) : storedTo s t k x bs := by
  obtain ⟨hg, hv, hp, himem, hpc, hret⟩ := hw
  have hstw : ∀ j, stw t j = stw (withStw s k w) j := fun j => by simp only [stw, hst]
  have hk : stw t k = w := (hstw k).trans stw_withStw_same
  have keeps : ∀ {α : Type} {f : Steward → α}, f w = f (stw s k) → ∀ j, f (stw t j) = f (stw s j) :=
    fun hf j => (congrArg _ (hstw j)).trans (withStw_keeps hf j)
  refine ⟨fun j => ⟨keeps hg j, keeps hv j, keeps hp j, keeps himem j⟩, by rw [hk, hpc], by rw [hk, hret],
    fun h => ?_, fun h => ?_, fun h => ?_⟩
  · obtain ⟨hshared, hdram, hover⟩ := hd h
    exact ⟨hshared, hdram, fun j hj => by rw [hstw, stw_withStw_other hj], by rw [hk]; exact hover⟩
  · obtain ⟨hdram, hdmem, hover⟩ := hs h
    exact ⟨hdram, keeps hdmem, hover⟩
  · obtain ⟨hshared, hdmem, hover⟩ := hx h
    exact ⟨hshared, keeps hdmem, hover⟩

theorem storeTo_stored {x : Word} {n kd : Nat} {bs : List Byte} (hm : MemOk s) (hn : 0 < n) (hlen : bs.length = n)
    (hal : x.toNat % n = 0)
    (hr : inDmem x.toNat n ∨ inShared x.toNat n ∨ inWindow s k x.toNat n) :
    storedTo s (storeTo s k x n kd bs) k x.toNat bs := by
  obtain ⟨hdram, hshared, hstw⟩ := hm
  subst hlen
  simp only [storeTo, hal, ne_eq, not_true_eq_false, if_false]
  obtain hd | hs | hw := hr
  · rw [region_dmem ⟨hd.1, by omega⟩]
    refine storedTo_of (w := { stw s k with dmem := memStore (stw s k).dmem _ bs }.fin) rfl
      ⟨rfl, rfl, rfl, rfl, rfl, rfl⟩
      (fun _ => ⟨rfl, rfl, overwritten_memStore (hstw k).2 ..⟩) (fun h => ?_) (fun h => ?_)
    · omega
    · have := h.1; omega
  · rw [region_shared ⟨hs.1, by omega⟩]
    refine storedTo_of (w := (stw s k).fin) rfl ⟨rfl, rfl, rfl, rfl, rfl, rfl⟩ (fun h => ?_)
      (fun _ => ⟨rfl, rfl, overwritten_memStore hshared ..⟩) (fun h => ?_)
    · omega
    · have := h.1; omega
  · simp only [region_window (inWindow_one hn hw)]
    obtain ⟨t, ht, hwrite⟩ := dramWrite_law s (windowAddr s k x.toNat) bs
    refine storedTo_of (w := (stw s k).fin) ?_ ⟨rfl, rfl, rfl, rfl, rfl, rfl⟩ (fun h => ?_) (fun h => ?_)
      (fun _ => ⟨?_, rfl, ?_⟩)
    · rw [hwrite]; simp [askDram, modChan, modStw, setStw, stw, withStw, ht.stewards]
    · have := hw.1; omega
    · have := hw.1; omega
    · rw [hwrite]; exact ht.shared
    · rw [hwrite]; exact overwritten_memStore hdram ..

end

theorem scalarStore_stored {s : State} {k : Fin 8} (h : Runs s k) (hm : MemOk s) {d a imm n} (hn : 0 < n)
    (hx : (address s k a imm).toNat % n = 0 ∧ (inDmem (address s k a imm).toNat n
      ∨ inShared (address s k a imm).toNat n ∨ inWindow s k (address s k a imm).toNat n)) :
    ∃ t, scalarStore s k d a imm n = .next t
      ∧ storedTo s t k (address s k a imm).toNat (leBytes n (G s k d).toNat) :=
  ⟨_, onSteward_next h _, storeTo_stored hm hn (leBytes_length ..) hx.1 hx.2⟩

/-- Settles O7: every store is the one operation, at its width. -/
theorem stores : Obligations.Stores := by
  intro s k d a vd imm h hm x there
  dsimp only [exec, execSw, execSh, execSb]
  exact ⟨scalarStore_stored h hm (by decide), scalarStore_stored h hm (by decide), scalarStore_stored h hm (by decide),
    fun hx => ⟨_, onSteward_next h _, storeTo_stored hm (by decide) (leBytes_length ..) hx.1 hx.2⟩⟩

/-! ### Atomic operations (R69) -/

/-- SC_FAULT.CODE after a fault, whatever its KIND. -/
theorem faulted_code {w : Steward} {code kind : Nat} {a : Word} :
    (faulted w code kind a).fault.setWidth 8 = BitVec.ofNat 8 code := by
  refine BitVec.eq_of_toNat_eq ?_
  simp only [faulted, BitVec.toNat_setWidth, BitVec.toNat_ofNat]
  omega

section
variable {s : State} {k : Fin 8} (h : Runs s k) {d a b : Fin 32} (hal : (G s k a).toNat % 4 = 0)
include h hal

theorem amo_dmem {parity new} (hd : inDmem (G s k a).toNat 4) (hp : parity = false) :
    let o := (G s k a).toNat - 0x10000000
    let old := BitVec.ofNat 32 (memNat (stw s k).dmem o 4)
    amo s k d a b parity new = .next (withStw s k (stepped (putG
      { stw s k with dmem := memStore (stw s k).dmem o (leBytes 4 (new old (G s k b) (G s k d)).toNat) } d old))) := by
  refine onSteward_done h ?_
  have hr : region s k ((stw s k).gr a) = _ := region_dmem ⟨hd.1, by have := hd.2; show (G s k a).toNat + 1 ≤ _; omega⟩
  simp only [show ((stw s k).gr a).toNat % 4 = 0 from hal, hr, hp, ne_eq, not_true_eq_false, Bool.false_eq_true,
    if_false]
  rw [modStw, Steward.setG_eq]; rfl

theorem amo_shared {parity new} (hs : inShared (G s k a).toNat 4) :
    let o := (G s k a).toNat - 0x20000000
    let old := BitVec.ofNat 32 (memNat s.shared o 4)
    amo s k d a b parity new = .next { regDone s k d old with
      shared := memStore s.shared o (leBytes 4 (new old (G s k b) (G s k d)).toNat) } := by
  refine onSteward_done h ?_
  have hr : region s k ((stw s k).gr a) = _ := region_shared
    ⟨hs.1, by have := hs.2; show (G s k a).toNat + 1 ≤ _; omega⟩
  simp only [show ((stw s k).gr a).toNat % 4 = 0 from hal, hr, ne_eq, not_true_eq_false, if_false]
  rw [finG_eq]; rfl

theorem amo_elsewhere {parity new} (hd : ¬ inDmem (G s k a).toNat 4) (hs : ¬ inShared (G s k a).toNat 4) :
    amo s k d a b parity new = .next (faultAccess s k kAmo (G s k a)) := by
  refine onSteward_done h ?_
  simp only [show ((stw s k).gr a).toNat % 4 = 0 from hal, ne_eq, not_true_eq_false, if_false]
  have hr := region_elsewhere (s := s) (k := k) hal hd hs
  split
  · rename_i o he; exact absurd he (hr o).1
  · rename_i o he; exact absurd he (hr o).2
  · rfl

end

/-- Settles O8: the one read and write of each memory, with what the five operations store. -/
theorem atomics : Obligations.Atomics := by
  intro s k d a b par h x y hal
  dsimp only [exec, execAmoswap, execAmoadd, execAmoand, execAmoor, execAmocas]
  refine ⟨fun hd hp => ?_, fun hs => ?_, fun hd hs c hc => ?_⟩
  · exact ⟨amo_dmem h hal hd hp, amo_dmem h hal hd hp, amo_dmem h hal hd hp, amo_dmem h hal hd hp,
      amo_dmem h hal hd hp⟩
  · exact ⟨amo_shared h hal hs, amo_shared h hal hs, amo_shared h hal hs, amo_shared h hal hs, amo_shared h hal hs⟩
  · refine ⟨faultAccess s k kAmo (G s k a), ?_, ?_⟩
    · obtain rfl | rfl | rfl | rfl | rfl := hc <;> exact amo_elsewhere h hal hd hs
    · obtain ⟨hk, -, hdram, hshared, -⟩ := stewardFault_law s k 0x03 kAmo (G s k a)
      rw [faultAccess, hk]
      exact ⟨rfl, faulted_code, rfl, rfl, rfl, hshared, hdram⟩

end Sys2Proof.Machine
end

section
/-! What halts a steward: HALT, BRK, words outside the table, precise faults and the watchdog (R66, R67, R87 to R90). -/
namespace Sys2Proof.Machine
open Sys2Proof Sys2Proof.Claims

/-! ### A fault and its frame -/

/-- The fault `code` of steward `k` leads from `s` to `t`: its registers are written, its slot is open, and no register
and no memory of any steward has changed. -/
structure Faults (s t : State) (k : Fin 8) (code : Word) : Prop where
  run : (stw t k).run = .halted
  fault : (stw t k).fault = code
  epc : (stw t k).epc = (stw s k).pc
  pc : (stw t k).pc = (stw s k).pc
  wdog : (stw t k).wdog = (stw s k).wdog
  slot : (slotGet t (3 + k.val)).isOpen = true
  dram : t.dram = s.dram
  shared : t.shared = s.shared
  kept : ∀ j : Fin 8, (stw t j).g = (stw s j).g ∧ (stw t j).v = (stw s j).v ∧ (stw t j).p = (stw s j).p
    ∧ (stw t j).dmem = (stw s j).dmem

section
variable {s : State} {k : Fin 8}

theorem stewardFault_faults {code kind : Nat} {a : Word} :
    Faults s (stewardFault s k code kind a) k (BitVec.ofNat 32 (code + 256 * kind)) := by
  obtain ⟨hk, hj, hdram, hshared, -, -, hslot⟩ := stewardFault_law s k code kind a
  refine ⟨by rw [hk]; rfl, by rw [hk]; rfl, by rw [hk]; rfl, by rw [hk]; rfl, by rw [hk]; rfl, hslot, hdram, hshared,
    fun j => ?_⟩
  by_cases e : j = k
  · subst e; rw [hk]; exact ⟨rfl, rfl, rfl, rfl⟩
  · rw [hj j e]; exact ⟨rfl, rfl, rfl, rfl⟩

theorem stewardFault_faddr {code kind : Nat} {a : Word} : (stw (stewardFault s k code kind a) k).faddr = a := by
  rw [(stewardFault_law s k code kind a).1]; rfl

theorem stewardFaultFree_faults {code : Nat} : Faults s (stewardFaultFree s k code) k (BitVec.ofNat 32 code) :=
  { stewardFault_faults (s := useFree s) (kind := 0) with }

end

/-! ### HALT, BRK and a word outside the table -/

theorem haltBreakIllegal : HaltBreakIllegal := by
  intro s k imm w h
  dsimp only [exec, execHalt, execBrk, execIllegal]
  refine ⟨onSteward_next h _, ⟨_, onSteward_next h _, ?_⟩, fun hw => ⟨stewardFaultFree s k 0x01, ?_, ?_⟩⟩
  · have hf : Faults s (stewardFault s k 0x07 0 (imm.setWidth 32)) k 0x07 := stewardFault_faults
    exact ⟨hf.run, hf.fault, hf.epc, stewardFault_faddr, (hf.kept k).1, hf.slot⟩
  · rw [if_neg Bool.false_ne_true, hw, if_neg Bool.false_ne_true, onSteward_next h]; rfl
  · have hf : Faults s (stewardFaultFree s k 0x01) k 0x01 := stewardFaultFree_faults
    exact ⟨hf.run, hf.fault, hf.epc, hf.slot⟩

/-! ### Alignment -/

section
variable {s : State} {k : Fin 8} (h : Runs s k)
include h

theorem scalarLoad_misaligned {d a imm n lk parity} (hx : (address s k a imm).toNat % n ≠ 0) :
    scalarLoad s k d a imm n lk parity = .next (faultMisaligned s k (address s k a imm)) :=
  onSteward_done h (if_pos hx)

theorem scalarStore_misaligned {d a imm n} (hx : (address s k a imm).toNat % n ≠ 0) :
    scalarStore s k d a imm n = .next (faultMisaligned s k (address s k a imm)) := onSteward_done h (if_pos hx)

end

theorem misalignedFaults : MisalignedFaults := by
  intro s k d a vd imm par c h x hc
  have hexec : exec c s = .next (faultMisaligned s k x) := by
    obtain ⟨rfl | rfl, hx⟩ | ⟨rfl | rfl | rfl, hx⟩ | ⟨rfl | rfl | rfl | rfl, hx⟩ | ⟨rfl | rfl, hx⟩ := hc
    · exact scalarLoad_misaligned h hx
    · exact scalarStore_misaligned h hx
    · exact scalarLoad_misaligned h hx
    · exact scalarLoad_misaligned h hx
    · exact scalarStore_misaligned h hx
    all_goals
      dsimp only [exec, execVld, execVst, execVsld, execVsst, execSld, execSst]
      exact onSteward_done h (by exact if_pos hx)
  have hf : Faults s (faultMisaligned s k x) k 0x02 := stewardFault_faults
  exact ⟨_, hexec, hf.run, hf.fault, hf.epc, stewardFault_faddr, hf.pc, hf.dram, hf.shared, hf.kept⟩

/-! ### Parity -/

section
variable {s : State} {k : Fin 8}

theorem loadFrom_badParity {x : Word} {n kd d lk wb} (hal : x.toNat % n = 0) (hd : inDmem x.toNat 1) :
    loadFrom s k x n kd true d lk wb = faultParity s k x := by
  simp only [loadFrom, hal, ne_eq, not_true_eq_false, if_false, region_dmem hd, if_true]

variable (h : Runs s k)
include h

theorem scalarLoad_badParity {d a imm n lk} (hal : (address s k a imm).toNat % n = 0)
    (hd : inDmem (address s k a imm).toNat 1) :
    scalarLoad s k d a imm n lk true = .next (faultParity s k (address s k a imm)) :=
  onSteward_done h (loadFrom_badParity hal hd)

theorem execVld_badParity {vd a imm} (hal : (address s k a imm).toNat % 32 = 0)
    (hd : inDmem (address s k a imm).toNat 1) :
    execVld k vd a imm true s = .next (faultParity s k (address s k a imm)) :=
  onSteward_done h (loadFrom_badParity hal hd)

theorem amo_badParity {d a b new} (hal : (G s k a).toNat % 4 = 0) (hd : inDmem (G s k a).toNat 4) :
    amo s k d a b true new = .next (faultParity s k (G s k a)) := by
  refine onSteward_done h ?_
  have hr : region s k ((stw s k).gr a) = _ := region_dmem ⟨hd.1, by have := hd.2; show (G s k a).toNat + 1 ≤ _; omega⟩
  simp only [show ((stw s k).gr a).toNat % 4 = 0 from hal, hr, ne_eq, not_true_eq_false, if_false, if_true]
  rfl

end

theorem parityFaults : ParityFaults := by
  intro s k d a b vd imm w c h x hc
  have hexec : ∃ t, exec c s = .next t ∧ Faults s t k 0x08 := by
    have data : ∀ y, exec c s = .next (faultParity s k y) → ∃ t, exec c s = .next t ∧ Faults s t k 0x08 :=
      fun y e => ⟨_, e, stewardFault_faults⟩
    obtain ⟨hd, hc⟩ | ⟨hd, hal, hc⟩ | rfl := hc
    · obtain ⟨rfl, hal⟩ | ⟨rfl | rfl, hal⟩ | rfl | rfl | ⟨rfl, hal⟩ := hc
      · exact data x (scalarLoad_badParity h hal hd)
      · exact data x (scalarLoad_badParity h hal hd)
      · exact data x (scalarLoad_badParity h hal hd)
      · exact data x (scalarLoad_badParity h (Nat.mod_one _) hd)
      · exact data x (scalarLoad_badParity h (Nat.mod_one _) hd)
      · exact data x (execVld_badParity h hal hd)
    · obtain rfl | rfl | rfl | rfl | rfl := hc
      all_goals
        refine data (G s k a) ?_
        dsimp only [exec, execAmoswap, execAmoadd, execAmoand, execAmoor, execAmocas]
        exact amo_badParity h hal hd
    · refine ⟨stewardFaultFree s k 0x08, ?_, stewardFaultFree_faults⟩
      dsimp only [exec, execIllegal]
      exact (if_pos rfl).trans (onSteward_next h _)
  obtain ⟨t, he, hf⟩ := hexec
  exact ⟨t, he, hf.run, hf.fault, hf.epc, hf.pc, hf.slot, hf.dram, hf.shared, hf.kept⟩

/-! ### The watchdog -/

theorem watchdogExpiry : WatchdogExpiry := by
  intro s k
  dsimp only [exec, execWatchdogExpiry]
  refine ⟨fun hr hw => ⟨stewardFaultFree (modStw s k (fun w => { w with wdog := 0 })) k 0x06, ?_, ?_⟩, fun hw => ?_⟩
  · rw [if_neg (not_or.mpr ⟨hr, hw⟩)]
  · have hf : Faults (modStw s k (fun w => { w with wdog := 0 })) (stewardFaultFree _ k 0x06) k 0x06 :=
      stewardFaultFree_faults
    have hk := stw_modStw_same s k (fun w => { w with wdog := 0 })
    exact ⟨hf.run, hf.fault, by rw [hf.epc, hk], by rw [(hf.kept k).1, hk], by rw [hf.wdog, hk], hf.slot⟩
  · exact congrArg _ (if_pos (Or.inr hw))

/-- Settles O39: the four claims. -/
theorem stewardFaults : Obligations.StewardFaults :=
  ⟨haltBreakIllegal, misalignedFaults, parityFaults, watchdogExpiry⟩

end Sys2Proof.Machine
end

section
/-! Station instructions and line-qualified stores (R63, R73 to R75). -/
namespace Sys2Proof.Machine
open Sys2Proof Sys2Proof.Claims

/-! ### The checks of a station access -/

section
variable {s : State} {k : Fin 8} {x : Word} {n kind : Nat} {ok : Bool} {act : State}

theorem inStations_iff : inStations x = true ↔ stationWindow x.toNat := by simp [inStations]

theorem stationAccess_ok (hal : x.toNat % n = 0) (hw : stationWindow x.toNat) (hok : ok = true) :
    stationAccess s k x n kind ok act = act := by
  simp [stationAccess, hal, inStations_iff.mpr hw, hok]

theorem stationAccess_refused (hal : x.toNat % n = 0) (hw : stationWindow x.toNat) (hok : ok = false) :
    stationAccess s k x n kind ok act = faultStation s k kind x := by
  simp [stationAccess, hal, inStations_iff.mpr hw, hok]

theorem stationAccess_outside (hal : x.toNat % n = 0) (hw : ¬ stationWindow x.toNat) :
    stationAccess s k x n kind ok act = faultAccess s k kind x := by
  simp [stationAccess, hal, Bool.eq_false_iff.mpr fun e => hw (inStations_iff.mp e)]
end

/-- What a fault of a station instruction leaves: the steward halted, no register, vector station or (of a customer)
station changed. -/
theorem stewardFault_station {s : State} {k : Fin 8} {code kind : Nat} {x : Word} {c : Instr}
    (hc : exec c s = .next (stewardFault s k code kind x)) : ∃ t, exec c s = .next t ∧ (stw t k).run = .halted
      ∧ (stw t k).fault = BitVec.ofNat 32 (code + 256 * kind) ∧ (stw t k).epc = (stw s k).pc ∧ (stw t k).faddr = x
      ∧ (stw t k).g = (stw s k).g ∧ (stw t k).v = (stw s k).v ∧ t.vstn = s.vstn ∧ (k.val < 6 → t.stn = s.stn) := by
  obtain ⟨hk, -, -, -, hvstn, hstn, -⟩ := stewardFault_law s k code kind x
  exact ⟨_, hc, by rw [hk]; rfl, by rw [hk]; rfl, by rw [hk]; rfl, by rw [hk]; rfl, by rw [hk]; rfl, by rw [hk]; rfl,
    hvstn, hstn⟩

section
variable {s : State} {k : Fin 8} (h : Runs s k) {d a : Fin 32} {vd : Fin 16} {imm : BitVec 16}
include h

/-! ### The four instructions -/

theorem exec_sld : exec (.sld k d a imm) s = .next (stationAccess s k (address s k a imm) 4 kLoad
    (scalarExists (address s k a imm).toNat) (finG (stewardRead s k (address s k a imm).toNat).2 k d
      (stewardRead s k (address s k a imm).toNat).1)) := by
  dsimp only [exec, execSld]; exact onSteward_next h _

theorem exec_sst : exec (.sst k d a imm) s = .next (stationAccess s k (address s k a imm) 4 kStore
    (immediateOk (address s k a imm).toNat && claimed s k (address s k a imm).toNat)
    (told s (plainDone (storeStation s (some k) (address s k a imm).toNat (G s k d)) k))) := by
  dsimp only [exec, execSst]; exact onSteward_next h _

theorem exec_vsld : exec (.vsld k vd a imm) s = .next (stationAccess s k (address s k a imm) 32 kVLoad
    (vView (address s k a imm).toNat).isSome (vecDone s k vd (readVec s (address s k a imm).toNat))) := by
  dsimp only [exec, execVsld]; exact onSteward_next h _

theorem exec_vsst : exec (.vsst k vd a imm) s = .next (stationAccess s k (address s k a imm) 32 kVStore
    (vecImmediateOk (address s k a imm).toNat && claimed s k (address s k a imm).toNat)
    (plainDone (storeVec s (address s k a imm).toNat (V s k vd)) k)) := by
  dsimp only [exec, execVsst]; exact onSteward_next h _
end

/-- Settles O11: the checks of the access decide which of completion and fault it is. -/
theorem stationInstructions : Obligations.StationInstructions := by
  intro s k d a vd imm h x faults
  refine ⟨fun hal hw => ⟨fun hok => ?_, fun hok => ?_, fun hok => ?_, fun hok => ?_⟩,
    fun hal hw => ⟨fun hok => ?_, fun hok => ?_, fun hok => ?_, fun hok => ?_⟩,
    fun hw => ⟨fun hal => ⟨?_, ?_⟩, fun hal => ⟨?_, ?_⟩⟩⟩
  · rw [exec_sld h, stationAccess_ok hal hw hok, finG_eq]
  · exact stewardFault_station ((exec_sld h).trans (congrArg _ (stationAccess_refused hal hw hok)))
  · rw [exec_sst h, stationAccess_ok hal hw hok]
  · exact stewardFault_station ((exec_sst h).trans (congrArg _ (stationAccess_refused hal hw hok)))
  · rw [exec_vsld h, stationAccess_ok hal hw hok]
  · exact stewardFault_station ((exec_vsld h).trans (congrArg _ (stationAccess_refused hal hw hok)))
  · rw [exec_vsst h, stationAccess_ok hal hw hok]
  · exact stewardFault_station ((exec_vsst h).trans (congrArg _ (stationAccess_refused hal hw hok)))
  · exact stewardFault_station ((exec_sld h).trans (congrArg _ (stationAccess_outside hal hw)))
  · exact stewardFault_station ((exec_sst h).trans (congrArg _ (stationAccess_outside hal hw)))
  · exact stewardFault_station ((exec_vsld h).trans (congrArg _ (stationAccess_outside hal hw)))
  · exact stewardFault_station ((exec_vsst h).trans (congrArg _ (stationAccess_outside hal hw)))

/-! ### Line-qualified stores (R75) -/

theorem lineQualifiedOk_window {x : Nat} (h : lineQualifiedOk x = true) : stationWindow x := by
  by_contra hx
  have : stnRow x = none := if_pos (by omega)
  simp [lineQualifiedOk, this] at h

theorem vecLineQualifiedOk_window {x : Nat} (h : vecLineQualifiedOk x = true) : stationWindow x := by
  by_contra hx
  have : vView x = none := by
    unfold vView
    split
    · rfl
    · rw [if_neg (by omega), if_neg (by omega), if_neg (by omega)]
  simp [vecLineQualifiedOk, this] at h

theorem execLqQueueRoom_full {s : State} {k : Fin 8} {e : LqEntry} (hr : (stw s k).run = .queueing e)
    (hfull : lqFree s < lqSize e) : execLqQueueRoom k s = .next s := by
  simp only [execLqQueueRoom, hr]
  rw [if_neg (by omega)]

theorem execLqQueueRoom_room {s : State} {k : Fin 8} {e : LqEntry} (hr : (stw s k).run = .queueing e)
    (hroom : lqSize e ≤ lqFree s) :
    execLqQueueRoom k s = .next (withStw (armLq s e) k { stepped (stw (armLq s e) k) with run := .running }) := by
  simp only [execLqQueueRoom, hr]
  rw [if_pos hroom]; rfl

/-- Without room a write of steward `k` waits: nothing but its steward's state has changed. -/
def queueing (s : State) (k : Fin 8) (e : LqEntry) : State := withStw s k { stw s k with run := .queueing e }

theorem queueing_stays {s : State} {k : Fin 8} {e : LqEntry} (hfull : lqFree s < lqSize e) :
    exec (.lqQueueRoom k) (queueing s k e) = .next (queueing s k e) :=
  execLqQueueRoom_full (by rw [queueing, stw_withStw_same]) hfull

section
variable {s : State} {k : Fin 8} (h : Runs s k) {d a b : Fin 32} {vd : Fin 16}
include h

theorem exec_ssq (hal : (G s k a).toNat % 4 = 0)
    (hok : (lineQualifiedOk (G s k a).toNat && claimed s k (G s k a).toNat) = true) :
    exec (.ssq k d a b) s
      = .next (armOrWait s k ⟨(G s k d).toNat, .scalar (G s k a).toNat (G s k b), some k⟩) := by
  have hw := lineQualifiedOk_window (Bool.and_eq_true_iff.mp hok).1
  dsimp only [exec, execSsq]
  exact onSteward_done h (stationAccess_ok hal hw hok)

theorem exec_vssq (hal : (G s k a).toNat % 32 = 0)
    (hok : (vecLineQualifiedOk (G s k a).toNat && claimed s k (G s k a).toNat) = true) :
    exec (.vssq k vd a b) s
      = .next (armOrWait s k ⟨(G s k b).toNat, .vector (G s k a).toNat (V s k vd), some k⟩) := by
  have hw := vecLineQualifiedOk_window (Bool.and_eq_true_iff.mp hok).1
  dsimp only [exec, execVssq]
  exact onSteward_done h (stationAccess_ok hal hw hok)
end

/-- An instruction that queues `e` completes with room; without it waits, and goes on waiting. -/
theorem armOrWait_goes {s : State} {k : Fin 8} {c : Instr} {e : LqEntry}
    (hc : exec c s = .next (armOrWait s k e)) :
    (lqSize e ≤ lqFree s → exec c s = .next (plainDone (armLq s e) k))
      ∧ (lqFree s < lqSize e → exec c s = .next (queueing s k e)
        ∧ exec (.lqQueueRoom k) (queueing s k e) = .next (queueing s k e)) := by
  rw [hc, armOrWait]
  exact ⟨fun hroom => congrArg _ (if_pos hroom),
    fun hfull => ⟨congrArg _ (if_neg (by omega)), queueing_stays hfull⟩⟩

theorem lineQualifiedInstructions : LineQualifiedInstructions := fun _ _ _ _ _ _ h =>
  ⟨fun hal hok => armOrWait_goes (exec_ssq h hal hok), fun hal hok => armOrWait_goes (exec_vssq h hal hok)⟩

theorem queueRoom : QueueRoom := fun _ _ _ hr hroom => execLqQueueRoom_room hr hroom

/-- Settles O40: the two claims. -/
theorem lineQualifiedStores : Obligations.LineQualifiedStores := ⟨lineQualifiedInstructions, queueRoom⟩

end Sys2Proof.Machine
end

section
/-! Control registers, events and mailboxes (R78 to R82, R85, R90). -/
namespace Sys2Proof.Machine
open Sys2Proof Sys2Proof.Claims

/-! ### Control registers -/

theorem exec_illegal {s : State} {k : Fin 8} {c : Instr} (hc : exec c s = .next (faultIllegal s k)) :
    ∃ t, exec c s = .next t ∧ (stw t k).run = .halted ∧ (stw t k).fault = 0x01 ∧ (stw t k).epc = (stw s k).pc
      ∧ (stw t k).g = (stw s k).g := by
  have hf : Faults s (faultIllegal s k) k 0x01 := stewardFaultFree_faults
  exact ⟨_, hc, hf.run, hf.fault, hf.epc, (hf.kept k).1⟩

section
variable {s : State} {k : Fin 8} (h : Runs s k) {d : Fin 32} {n : BitVec 16}
include h

theorem exec_scr_listed {v : Word} (hv : controlReg s k n.toNat = some v) :
    exec (.scr k d n) s = .next (regDone s k d v) := by
  dsimp only [exec, execScr]
  rw [onSteward_next h, hv, ← finG_eq]

theorem exec_scr_unlisted (hv : controlReg s k n.toNat = none) : exec (.scr k d n) s = .next (faultIllegal s k) := by
  dsimp only [exec, execScr]
  rw [onSteward_next h, hv]

theorem exec_scw_writable {w : Steward} (hw : setControlReg s (stw s k) n.toNat (G s k d) = some w) :
    exec (.scw k d n) s = .next (withStw s k (stepped w)) := by
  dsimp only [exec, execScw]
  rw [onSteward_next h, show setControlReg s (stw s k) n.toNat ((stw s k).gr d) = some w from hw]; rfl

theorem exec_scw_other (hw : setControlReg s (stw s k) n.toNat (G s k d) = none) :
    exec (.scw k d n) s = .next (faultIllegal s k) := by
  dsimp only [exec, execScw]
  rw [onSteward_next h, show setControlReg s (stw s k) n.toNat ((stw s k).gr d) = none from hw]
end

theorem controlReg_none {s : State} {k : Fin 8} {n : Nat}
    (hn : (0x00C ≤ n ∧ n < 0x010) ∨ (0x014 ≤ n ∧ n < 0x020) ∨ 0x021 ≤ n) : controlReg s k n = none := by
  unfold controlReg
  dsimp only
  split
  case h_18 => rfl
  all_goals omega

theorem setControlReg_none {s : State} {w : Steward} {n : BitVec 16} {v : Word} (h5 : n ≠ 0x005) (h7 : n ≠ 0x007)
    (h9 : n ≠ 0x009) : setControlReg s w n.toNat v = none := by
  unfold setControlReg
  split
  case h_1 e => exact absurd (BitVec.eq_of_toNat_eq e) h5
  case h_2 e => exact absurd (BitVec.eq_of_toNat_eq e) h7
  case h_3 e => exact absurd (BitVec.eq_of_toNat_eq e) h9
  case h_4 => rfl

/-- SC_ID: the resident's stewards count from 14. -/
theorem scId_eq {k : Fin 8} : wNat (k.val + wBit (isResident k) 3) =
    BitVec.ofNat 32 (if 6 ≤ k.val then k.val + 8 else k.val) := by
  by_cases hk : 6 ≤ k.val <;> simp [wNat, wBit, isResident, hk]

/-- Settles O13: the two lists of numbers, and FENCE's operand. -/
theorem controlRegisters : Obligations.ControlRegisters := by
  intro s k d n imm h w illegal reads
  have listed : ∀ m v, controlReg s k m.toNat = some v → reads m v := fun m v hv e =>
    exec_scr_listed h (by rw [e]; exact hv)
  refine ⟨listed _ _ (congrArg some scId_eq), listed _ _ rfl, listed _ _ rfl, listed _ _ rfl, listed _ _ rfl,
    listed _ _ rfl, listed _ _ rfl, listed _ _ rfl, listed _ _ rfl, listed _ _ rfl, listed _ _ rfl, listed _ _ rfl,
    listed _ _ rfl, listed _ _ rfl, listed _ _ rfl, listed _ _ rfl, listed _ _ rfl,
    fun hn => exec_illegal (exec_scr_unlisted h (controlReg_none hn)), ?_, ?_, ?_,
    fun h5 h7 h9 => exec_illegal (exec_scw_other h (setControlReg_none h5 h7 h9)), ?_, ?_⟩
  · exact fun e => exec_scw_writable h (by subst e; rfl)
  · exact fun e => exec_scw_writable h (by subst e; rfl)
  · exact fun e => exec_scw_writable h (by subst e; rfl)
  · intro h1 h7
    have : ¬ (imm = 0 ∨ 7 < imm.toNat) := by
      rintro (rfl | h)
      · exact absurd h1 (by decide)
      · omega
    dsimp only [exec, execFence]
    exact onSteward_done h (if_neg this)
  · intro hbad
    refine exec_illegal ?_
    dsimp only [exec, execFence]
    exact onSteward_done h (if_pos hbad)

/-! ### Waiting for events (R79 to R81) -/

theorem lowestBit_eq {w : Steward} {n : Nat} (hn : lowestEvent w n) : lowestBit w.enabled = n := by
  obtain ⟨hlt, hset, hlow⟩ := hn
  have hfind : (List.range 32).find? (fun i => w.enabled.getLsbD i) = some n :=
    List.find?_range_eq_some.mpr ⟨hset, List.mem_range.mpr hlt, fun j hj => by rw [Steward.enabled, hlow j hj]; rfl⟩
  rw [lowestBit, hfind]; rfl

theorem enabled_ne_zero {w : Steward} {n : Nat} (hn : lowestEvent w n) : w.enabled ≠ 0 := fun e => by
  have hset : w.enabled.getLsbD n = true := hn.2.1
  rw [e] at hset; simp at hset

theorem takeEvent_eq {w : Steward} {d : Fin 32} {n : Nat} (hn : lowestEvent w n) : w.takeEvent d = took w d n := by
  rw [Steward.takeEvent, lowestBit_eq hn, Steward.setG_eq]; rfl

theorem noEvent_eq {w : Steward} {d : Fin 32} : w.noEvent d = stepped (putG { w with run := .running } d 32) := by
  rw [Steward.noEvent, Steward.setG_eq]; rfl

section
variable {s : State} {k : Fin 8} {d : Fin 32} {n : Nat} {timed : Bool}

theorem waitOn_takes (hn : lowestEvent (stw s k) n) : waitOn s k d timed = withStw s k (took (stw s k) d n) :=
  congrArg (setStw s k) ((if_neg (enabled_ne_zero hn)).trans (takeEvent_eq hn))

theorem pollOn_takes (hn : lowestEvent (stw s k) n) : pollOn s k d = withStw s k (took (stw s k) d n) :=
  congrArg (setStw s k) ((if_neg (enabled_ne_zero hn)).trans (takeEvent_eq hn))

theorem waitOn_sleeps (hz : (stw s k).enabled = 0) :
    waitOn s k d timed = withStw s k { stw s k with run := .sleeping d timed } := congrArg (setStw s k) (if_pos hz)

theorem pollOn_answers32 (hz : (stw s k).enabled = 0) :
    pollOn s k d = withStw s k (stepped (putG { stw s k with run := .running } d 32)) :=
  congrArg (setStw s k) ((if_pos hz).trans noEvent_eq)

theorem execStewardWake_takes (hr : (stw s k).run = .sleeping d timed) (hn : lowestEvent (stw s k) n) :
    execStewardWake k s = .next (withStw s k (took (stw s k) d n)) := by
  simp only [execStewardWake, hr]
  rw [if_neg (enabled_ne_zero hn), modStw, takeEvent_eq hn]; rfl

theorem execWaittTimeout_takes (hr : (stw s k).run = .sleeping d true) (hn : lowestEvent (stw s k) n) :
    execWaittTimeout k s
      = .next (withStw s k (took { stw s k with latewin := satInc (stw s k).latewin } d n)) := by
  have hlate : lowestEvent { stw s k with latewin := satInc (stw s k).latewin } n := hn
  simp only [execWaittTimeout, hr]
  rw [modStw, if_neg (enabled_ne_zero hn), takeEvent_eq hlate]; rfl

theorem execWaittTimeout_answers32 (hr : (stw s k).run = .sleeping d true) (hz : (stw s k).enabled = 0) :
    execWaittTimeout k s = .next (withStw s k (stepped (putG { stw s k with run := .running } d 32))) := by
  simp only [execWaittTimeout, hr]
  rw [modStw, if_pos hz, noEvent_eq]; rfl

end

/-- Settles O14: with and without an enabled event that is pending. -/
theorem eventWaits : Obligations.EventWaits := by
  intro s k d a n timed w none32
  dsimp only [exec, execWait, execWaitt, execEvpoll]
  refine ⟨fun h hn => ⟨onSteward_done h (waitOn_takes hn), onSteward_done h ?_, onSteward_done h (pollOn_takes hn)⟩,
    fun h hz => ⟨onSteward_done h (waitOn_sleeps hz), fun ha => onSteward_done h ?_, fun ha => onSteward_done h ?_,
      onSteward_done h (pollOn_answers32 hz)⟩,
    fun hr hn => ⟨execStewardWake_takes hr hn, fun e => execWaittTimeout_takes (e ▸ hr) hn⟩,
    fun hr hz => execWaittTimeout_answers32 hr hz⟩
  · split
    · exact pollOn_takes hn
    · exact waitOn_takes hn
  · exact (if_neg ha).trans (waitOn_sleeps hz)
  · exact (if_pos ha).trans (pollOn_answers32 hz)

/-! ### Software events and mailboxes (R80, R82) -/

section
variable {s : State} {k : Fin 8}

/-- A field that `f` keeps stays on every steward. -/
theorem modStw_keeps {α : Type} {φ : Steward → α} {f : Steward → Steward} (hf : ∀ w, φ (f w) = φ w) (j : Fin 8) :
    φ (stw (modStw s k f) j) = φ (stw s j) := withStw_keeps (hf _) j

theorem modStw_other {f : Steward → Steward} {j : Fin 8} (hj : j ≠ k) : stw (modStw s k f) j = stw s j :=
  stw_setStw_other s _ hj

theorem setEvent_keeps {α : Type} {φ : Steward → α} {n : Nat} (he : ∀ w e, φ { w with evpend := e } = φ w) (j : Fin 8) :
    φ (stw (setEvent n s k) j) = φ (stw s j) := modStw_keeps (fun w => he w _) j

theorem setEvent_evpend {n : Nat} :
    (stw (setEvent n s k) k).evpend = (stw s k).evpend ||| ((1 : Word) <<< n) := by
  have hcast : ((1 <<< n : Nat) : Word) = (1 : Word) <<< n := by
    refine BitVec.eq_of_toNat_eq ?_
    simp [BitVec.toNat_shiftLeft]
  rw [setEvent, stw_modStw_same, ← hcast]

/-- A field that the completion of an instruction keeps stays on every steward. -/
theorem plainDone_keeps {α : Type} {φ : Steward → α} (hφ : ∀ w, φ (stepped w) = φ w) (j : Fin 8) :
    φ (stw (plainDone s k) j) = φ (stw s j) := withStw_keeps (hφ _) j

/-- The entries of a mailbox after a deposit. -/
theorem deposit_mbox {t : Fin 8} {v : Word} : (stw (deposit s t k v) t).mbox = (stw s t).mbox ++ [(v, k)] := by
  have hset : ∀ u : State, (stw (setEvent 10 u t) t).mbox = (stw u t).mbox := fun u =>
    setEvent_keeps (φ := Steward.mbox) (fun _ _ => rfl) t
  have hput : (stw (modStw s t (fun w => { w with mbox := w.mbox ++ [(v, k)] })) t).mbox
      = (stw s t).mbox ++ [(v, k)] := by rw [stw_modStw_same]
  unfold deposit
  dsimp only
  split
  · exact (hset _).trans hput
  · exact hput

/-- A field beside the mailbox and the pending events stays on every steward. -/
theorem deposit_keeps {α : Type} {φ : Steward → α} {t : Fin 8} {v : Word} (hm : ∀ w m, φ { w with mbox := m } = φ w)
    (he : ∀ w e, φ { w with evpend := e } = φ w) (j : Fin 8) : φ (stw (deposit s t k v) j) = φ (stw s j) := by
  have hput : φ (stw (modStw s t (fun w => { w with mbox := w.mbox ++ [(v, k)] })) j) = φ (stw s j) :=
    modStw_keeps (fun w => hm w _) j
  unfold deposit
  dsimp only
  split
  · exact (modStw_keeps (fun w => he w _) j).trans hput
  · exact hput

theorem deposit_other {t : Fin 8} {v : Word} {j : Fin 8} (hj : j ≠ t) : stw (deposit s t k v) j = stw s j := by
  unfold deposit
  dsimp only
  split
  · exact (modStw_other hj).trans (modStw_other hj)
  · exact modStw_other hj

/-- A mailbox that was empty sets event MBOX. -/
theorem deposit_event {t : Fin 8} {v : Word} (he : (stw s t).mbox = []) :
    (stw (deposit s t k v) t).evpend.getLsbD 10 = true := by
  unfold deposit
  dsimp only
  rw [if_pos (by rw [he]; rfl), setEvent, stw_modStw_same, BitVec.getLsbD_or, Bool.or_eq_true_iff]
  exact Or.inr rfl

variable (h : Runs s k) {d a b : Fin 32}
include h

theorem exec_evsig (h24 : 24 ≤ (G s k b).toNat) (h31 : (G s k b).toNat ≤ 31) :
    exec (.evsig k a b) s = .next (plainDone (setEvent (G s k b).toNat s (stewardNamed (G s k a))) k) := by
  dsimp only [exec, execEvsig]
  exact onSteward_done h (if_pos ⟨h24, h31⟩)

theorem exec_evsig_illegal (hn : (G s k b).toNat < 24 ∨ 31 < (G s k b).toNat) :
    exec (.evsig k a b) s = .next (faultIllegal s k) := by
  dsimp only [exec, execEvsig]
  exact onSteward_done h (if_neg (by rintro ⟨h24, h31⟩; exact hn.elim h24.not_gt h31.not_gt))

theorem exec_msend (hto : 6 ≤ k.val ∨ (stewardNamed (G s k a)).val < 6) :
    exec (.msend k d a b) s = .next
      (if (stw s (stewardNamed (G s k a))).mbox.length < 16 then
        regDone (deposit s (stewardNamed (G s k a)) k (G s k b)) k d 1 else regDone s k d 0) := by
  have hres : (!isResident k && isResident (stewardNamed ((stw s k).gr a))) = false := by
    obtain hk | ht := hto
    · simp [isResident, hk]
    · have : isResident (stewardNamed ((stw s k).gr a)) = false := decide_eq_false (not_le.mpr ht)
      rw [this, Bool.and_false]
  dsimp only [exec, execMsend]
  refine onSteward_done h ?_
  rw [hres, if_neg Bool.false_ne_true, finG_eq, finG_eq]; rfl

theorem exec_msend_resident (hk : k.val < 6) (ht : 6 ≤ (stewardNamed (G s k a)).val) :
    exec (.msend k d a b) s = .next (faultMsend s k) := by
  have hres : (!isResident k && isResident (stewardNamed ((stw s k).gr a))) = true := by
    rw [Bool.and_eq_true_iff]
    exact ⟨by simp [isResident, hk], decide_eq_true ht⟩
  dsimp only [exec, execMsend]
  exact onSteward_done h (if_pos hres)

theorem exec_mrecv {v : Word} {f : Fin 8} {rest : List (Word × Fin 8)} (hm : (stw s k).mbox = (v, f) :: rest) :
    exec (.mrecv k d b) s = .next (withStw s k (stepped
      (putG (putG { stw s k with mbox := rest } d v) b (BitVec.ofNat 32 (2 ^ 31 + f.val))))) := by
  dsimp only [exec, execMrecv]
  rw [onSteward_next h, hm]
  dsimp only
  rw [modStw, Steward.setG_eq, Steward.setG_eq]; rfl

theorem exec_mrecv_empty (hm : (stw s k).mbox = []) :
    exec (.mrecv k d b) s = .next (withStw s k (stepped (putG (putG (stw s k) d 0) b 0))) := by
  dsimp only [exec, execMrecv]
  rw [onSteward_next h, hm]
  dsimp only
  rw [modStw, Steward.setG_eq, Steward.setG_eq]; rfl

end

/-- A field that the completion of a register instruction keeps stays on every steward. -/
theorem regDone_keeps {α : Type} {φ : Steward → α} {s : State} {k : Fin 8} {d : Fin 32} {x : Word}
    (hφ : ∀ w, φ (stepped (putG w d x)) = φ w) (j : Fin 8) : φ (stw (regDone s k d x) j) = φ (stw s j) :=
  withStw_keeps (hφ _) j

/-- Settles O15: the software event, the three answers of MSEND, and the two of MRECV. -/
theorem eventsAndMailboxes : Obligations.EventsAndMailboxes := by
  intro s k d a b v f rest h w dst n
  refine ⟨fun h24 h31 => ⟨_, exec_evsig h h24 h31, ?_, ?_, ?_⟩, fun hn => ?_,
    fun hto hroom => ⟨regDone (deposit s dst k (G s k b)) k d 1, ?_, ?_, ?_, ?_, ?_, ?_⟩, fun hto hfull => ?_,
    fun hk ht => ⟨faultMsend s k, exec_msend_resident h hk ht, ?_, ?_, ?_⟩, exec_mrecv h, exec_mrecv_empty h⟩
  · exact (plainDone_keeps (φ := Steward.evpend) (fun _ => rfl) dst).trans setEvent_evpend
  · have hset : (stw (setEvent n s dst) k).pc = (stw s k).pc :=
      setEvent_keeps (φ := Steward.pc) (fun _ _ => rfl) k
    exact (congrArg Steward.pc stw_withStw_same).trans (congrArg (· + 4) hset)
  · exact fun j hk ht => (stw_withStw_other hk).trans (modStw_other ht)
  · obtain ⟨t, he, hrun, hfault, -⟩ := exec_illegal (exec_evsig_illegal h hn)
    exact ⟨t, he, hrun, hfault⟩
  · exact (exec_msend h hto).trans (congrArg _ (if_pos hroom))
  · exact (regDone_keeps (fun _ => rfl) dst).trans deposit_mbox
  · intro hd
    rw [regDone, stw_withStw_same]
    simp [stepped, putG, hd]
  · have hput : (stw (deposit s dst k (G s k b)) k).pc = (stw s k).pc :=
      deposit_keeps (φ := Steward.pc) (fun _ _ => rfl) (fun _ _ => rfl) k
    exact (congrArg Steward.pc stw_withStw_same).trans (congrArg (· + 4) hput)
  · intro he
    have hdone := regDone_keeps (s := deposit s dst k (G s k b)) (k := k) (d := d) (x := 1) (φ := Steward.evpend)
      (fun _ => rfl) dst
    rw [hdone]
    exact deposit_event he
  · exact fun j hk ht => (stw_withStw_other hk).trans (deposit_other ht)
  · exact (exec_msend h hto).trans (congrArg _ (if_neg (not_lt.mpr hfull)))
  all_goals
    obtain ⟨hsame, hother, -⟩ := stewardFault_law (useFree (useFree s)) k 0x03 ((Config.freeWord s.fresh).toNat % 8)
      (Config.freeWord (s.fresh + 1))
  · rw [faultMsend, hsame]; rfl
  · rw [faultMsend, hsame]; exact faulted_code
  · exact congrArg Steward.mbox (hother dst fun e => by rw [e] at ht; omega)

end Sys2Proof.Machine
end

section
/-! Program letters: LOAD, UNLOAD, RESTART, HALT (R91 to R95, R116). -/
namespace Sys2Proof.Machine
open Sys2Proof Sys2Proof.Claims

/-! ### A letter whose turn has come -/

section
variable {kind : Byte} {s : State} {e : Env} {pl : List Byte} {run : State → Env → List Byte → Reply}
  (h : LetterReady kind s e pl)
include h

/-- A letter in one envelope goes to its execution, once it has left the inbox. -/
theorem accept_ready : accept kind run s e pl = (executeRoom run (taken s e pl) e pl).getD s := by
  obtain ⟨hphase, hbusy, hstop, rfl, hin, hturn, hcls, hstream, -, hopen, hop, hseq⟩ := h
  rw [accept, acceptWith_boxed hphase hin hstop (Or.inr hturn)]
  exact congrArg (Option.getD · s) (acceptTaken_next pl hbusy hcls hstream hopen hop hseq)

/-- So does a parcel of one envelope. -/
theorem acceptParcel_ready (hfirst : e.first = true) (hlast : e.last = true) (haux : e.aux = 0) :
    acceptParcel kind run s e pl = (executeRoom run (taken s e pl) e pl).getD s := by
  obtain ⟨hphase, hbusy, hstop, rfl, hin, hturn, hcls, hstream, -, hopen, hop, hseq⟩ := h
  have hoff : badOffset (unbox s e pl) e = false := by simp [badOffset, haux]
  rw [acceptParcel, if_pos hlast, acceptWith_boxed hphase hin hstop (Or.inr hturn), goLast, if_pos hfirst, hoff]
  exact congrArg (Option.getD · s) (acceptTaken_next pl hbusy hcls hstream hopen hop hseq)

/-- A command that brings such a letter to an execution with outcome `a` from `s'` answers it so (R339). -/
theorem answers_of_executed {c : Instr} {s' : State} {a : Ans}
    (hc : exec c s = .next ((executeRoom run (taken s e pl) e pl).getD s))
    (hrun : run (taken s e pl) e pl = .now a s') : Answers c s e pl s' a := by
  obtain ⟨-, -, -, -, -, -, -, -, hheader, -⟩ := h
  have hreply : settleReply e pl (runChecked run (taken s e pl) e pl) = settleLetter s' e pl a := by
    have hh : headerRefusal (taken s e pl) e = none := hheader
    rw [runChecked, hh, hrun]; rfl
  have hm : mirrors (taken s e pl) = mirrors s := rfl
  rw [executeRoom, hreply, hm] at hc
  refine ⟨fun hno => ?_, fun hyes hcls hroom => ?_, fun hyes hcls hroom => ?_⟩
  · rw [hc]; simp [hno]
  · rw [hc]; simp only [hyes, hcls, hroom, Bool.not_true, Bool.false_eq_true, if_false, if_true]; rfl
  · have hfits : (taken s e pl).twin.fillX + addedBytes (taken s e pl) (settleLetter s' e pl a) ≤ 1024 := hroom
    rw [hc]; simp only [hyes, hcls, hfits, Bool.not_true, Bool.false_eq_true, if_false, if_true]; rfl

end

/-! ### Letters that name a steward -/

section
variable {s : State} {run : Fin 8 → State} {k : Fin 8}

theorem byteFieldBad_named : byteFieldBad [BitVec.ofNat 8 k.val, 0, 0, 0] = none := rfl

theorem leField_named : leField [BitVec.ofNat 8 k.val, 0, 0, 0] 0 1 = k.val := by
  have := k.isLt
  simp [leField, leNat]; omega

theorem stewardLetter_named : stewardLetter s [BitVec.ofNat 8 k.val, 0, 0, 0] run
    = if isResident k || (stw s k).prog.isNone then refuse s 0x19 0 else done (run k) := by
  have hk : ¬ 7 < k.val := by have := k.isLt; omega
  have hof : Fin.ofNat 8 k.val = k := Fin.ofNat_val_eq_self k
  rw [stewardLetter, byteFieldBad_named, orBad, leField_named, if_neg hk, hof]

theorem stewardLetter_done (hk : k.val < 6) (hprog : (stw s k).prog ≠ none) :
    stewardLetter s [BitVec.ofNat 8 k.val, 0, 0, 0] run = .now Ans.done (run k) := by
  have hno : (isResident k || (stw s k).prog.isNone) = false := by
    simp [isResident, hk, Option.ne_none_iff_isSome.mp hprog]
  rw [stewardLetter_named, hno]; rfl

theorem stewardLetter_refused (hno : 6 ≤ k.val ∨ (stw s k).prog = none) :
    stewardLetter s [BitVec.ofNat 8 k.val, 0, 0, 0] run = .now (Ans.refuse 0x19 0) s := by
  have hyes : (isResident k || (stw s k).prog.isNone) = true := by
    simpa [isResident] using hno
  rw [stewardLetter_named, if_pos hyes]; rfl

end

/-! ### What starts and halts a steward -/

theorem journal_stewards {s : State} {x : JEntry} : (journal s x).stewards = s.stewards := by
  obtain ⟨f, hf⟩ := journal_fill s x; rw [hf]

theorem setPort_stewards {s : State} {l : Link} {p : Port} : (setPort s l p).stewards = s.stewards := by
  cases l <;> rfl

theorem pumpPort_stewards {s : State} {l : Link} : (pumpPort s l).stewards = s.stewards := by
  unfold pumpPort
  dsimp only
  split
  · exact setPort_stewards
  · rfl

theorem sendBulkFrame_stewards {s : State} {b : Bulk} {n i : Nat} : (sendBulkFrame b n s i).stewards = s.stewards :=
  pumpPort_stewards.trans setPort_stewards

theorem sendBulk_stewards {s : State} {b : Bulk} : (sendBulk s b).stewards = s.stewards :=
  foldl_keeps State.stewards _ (fun _ _ => sendBulkFrame_stewards) _ s

theorem stw_of_stewards {s t : State} (h : t.stewards = s.stewards) (k : Fin 8) : stw t k = stw s k := by
  simp only [stw, h]

/-- The steward that a start leaves (R62). -/
def started (w : Steward) (im : Image) (reason : Nat) : Steward :=
  { w with
    g := (Vector.replicate 32 0).set 1 (BitVec.ofNat 32 reason), v := Vector.replicate 16 0,
    p := (Vector.replicate 8 0).set 0 (BitVec.allOnes 64), pc := BitVec.ofNat 32 im.entry, run := .running,
    evmask := 0, instret := 0, start := BitVec.ofNat 32 reason, fault := 0 }

theorem startSteward_loaded {s : State} {k : Fin 8} {im : Image} {reason : Nat} (h : (stw s k).prog = some im) :
    startSteward s k reason = withStw s k (started (stw s k) im reason) := by
  unfold startSteward; rw [h]; rfl

/-- The steward that an image installs, not yet started (R94). -/
def installed (w : Steward) (im : Image) : Steward :=
  { w with
    prog := some im, run := .halted, imem := memStore w.imem 0 im.code,
    dmem := memClear (memStore w.dmem 0 im.data) im.data.length im.zeroed }

/-! ### LOAD -/

/-- The state before a loaded steward starts: the image's bulk frames are sent where a twin follows, and it is
journaled. -/
def announced (s : State) (im : Image) : State :=
  journal (if mirrors s then sendBulk s (.image im) else s) (.load im)

theorem announced_stewards {s : State} {im : Image} : (announced s im).stewards = s.stewards := by
  unfold announced
  rw [journal_stewards]
  split
  · exact sendBulk_stewards
  · rfl

theorem runLoad_done {s : State} {e : Env} {pl : List Byte} (hok : imageOk pl = true)
    (hclaims : ∀ i, i < (imageOf pl).claims.length → claimMalformed pl i = false)
    (hfree : (stw s (imageSteward (imageOf pl))).prog = none) (hclash : conflictAt s (imageOf pl).claims = none) :
    runLoad s e pl = .now Ans.done (startSteward (installImage (announced s (imageOf pl)) (imageOf pl))
      (imageSteward (imageOf pl)) 0) := by
  have hfind : (List.range (imageOf pl).claims.length).find? (claimMalformed pl) = none :=
    List.find?_eq_none.mpr fun i hi => by simp [hclaims i (List.mem_range.mp hi)]
  simp only [runLoad, hok, hfind, hfree, hclash]
  rfl

theorem loaded_stewards {s : State} {im : Image} : (startSteward (installImage (announced s im) im) (imageSteward im) 0)
    = withStw (announced s im) (imageSteward im) (started (installed (stw s (imageSteward im)) im) im 0) := by
  have hinst : installImage (announced s im) im
      = withStw (announced s im) (imageSteward im) (installed (stw s (imageSteward im)) im) := by
    rw [← stw_of_stewards announced_stewards]; rfl
  have hprog : (stw (installImage (announced s im) im) (imageSteward im)).prog = some im := by
    rw [hinst, stw_withStw_same]; rfl
  rw [startSteward_loaded hprog, hinst, stw_withStw_same, withStw_withStw]

/-- Settles O19: the letter's turn has come, and the effect of each on its steward. -/
theorem programLetters : Obligations.ProgramLetters := by
  intro s e pl k
  refine ⟨fun h hfirst hlast haux hok hmem hclaims hfree hclash => ?_, fun hpl hk hprog => ?_, fun hpl hno => ?_⟩
  · have hexec := acceptParcel_ready (run := runLoad) h hfirst hlast haux
    have hrun := runLoad_done (s := taken s e pl) (e := e) hok hclaims hfree hclash
    have hstw : ∀ j, stw (announced (taken s e pl) (imageOf pl)) j = stw s j := stw_of_stewards announced_stewards
    rw [loaded_stewards] at hrun
    refine ⟨_, answers_of_executed h (congrArg _ hexec) hrun, ?_, ?_, ?_, ?_, ?_, ?_⟩
    · rw [stw_withStw_same]; rfl
    · rw [stw_withStw_same]; rfl
    · rw [stw_withStw_same]; rfl
    · rw [stw_withStw_same]; rfl
    · intro i hi
      rw [stw_withStw_same]
      have := memGet_store_inside (hmem.2.2 (imageSteward (imageOf pl))).1 (a := 0) hi
      rwa [Nat.zero_add] at this
    · exact fun j hj => (stw_withStw_other hj).trans (hstw j)
  · have hstw : ∀ x j, stw (journal (taken s e pl) x) j = stw s j := fun x => stw_of_stewards journal_stewards
    subst hpl
    refine ⟨fun h => ⟨_, answers_of_executed h (congrArg _ (accept_ready h)) (stewardLetter_done hk hprog), ?_, ?_⟩,
      fun h => ⟨_, answers_of_executed h (congrArg _ (accept_ready h)) (stewardLetter_done hk hprog), ?_⟩,
      fun h => ⟨_, answers_of_executed h (congrArg _ (accept_ready h)) (stewardLetter_done hk hprog), ?_, ?_⟩⟩
    · rw [unloadStw, stw_modStw_same, hstw]
    · exact fun j hj => (modStw_other hj).trans (hstw _ j)
    · obtain ⟨im, him⟩ := Option.ne_none_iff_exists'.mp hprog
      rw [startSteward_loaded ((congrArg Steward.prog (hstw _ k)).trans him), stw_withStw_same, hstw]
      exact ⟨rfl, rfl, rfl, rfl, rfl, rfl, rfl, fun j hj => (stw_withStw_other hj).trans (hstw _ j)⟩
    · rw [haltStw, stw_modStw_same, hstw]
    · exact fun j hj => (modStw_other hj).trans (hstw _ j)
  · subst hpl
    exact ⟨fun h => answers_of_executed h (congrArg _ (accept_ready h)) (stewardLetter_refused hno),
      fun h => answers_of_executed h (congrArg _ (accept_ready h)) (stewardLetter_refused hno),
      fun h => answers_of_executed h (congrArg _ (accept_ready h)) (stewardLetter_refused hno)⟩

end Sys2Proof.Machine
end

section
/-! The fire line boundary (R220, R237, R338, R353). -/
namespace Sys2Proof.Machine
open Sys2Proof Sys2Proof.Claims

/-! ### Events of several stewards -/

section
variable {s : State} {n : Nat} {j k : Fin 8}

theorem setEvent_raises (hn : n < 32) : (stw (setEvent n s k) k).evpend.getLsbD n = true := by
  rw [setEvent_evpend, BitVec.getLsbD_or, Bool.or_eq_true_iff]
  exact Or.inr (by simp [hn])

/-- No event is taken away. -/
theorem setEvent_keeps_raised {m : Nat} (h : (stw s k).evpend.getLsbD m = true) :
    (stw (setEvent n s j) k).evpend.getLsbD m = true := by
  by_cases e : k = j
  · subst e; rw [setEvent_evpend, BitVec.getLsbD_or, h, Bool.true_or]
  · rw [setEvent, modStw_other e]; exact h

theorem setEvents_raise (hn : n < 32) {ks : List (Fin 8)} (hk : k ∈ ks) :
    (stw (ks.foldl (setEvent n) s) k).evpend.getLsbD n = true := by
  induction ks generalizing s with
  | nil => exact absurd hk List.not_mem_nil
  | cons j js ih =>
    rw [List.foldl_cons]
    obtain rfl | hk := List.mem_cons.mp hk
    · exact foldl_inv (fun t => (stw t k).evpend.getLsbD n = true) (setEvent n)
        (fun _ _ h => setEvent_keeps_raised h) js (setEvent_raises hn)
    · exact ih hk
end

/-! ### What the operations at a boundary leave alone -/

/-- From `s` to `t` the placement engine stays as it is, and nothing that has left the block comes back. -/
structure Onward (s t : State) : Prop where
  plc : t.plc = s.plc
  out : ∀ o ∈ s.out, o ∈ t.out

/-- So it is, and the stewards, the DMA's request lines and the hand-over's state stay too. -/
structure Quiet (s t : State) : Prop extends Onward s t where
  stewards : t.stewards = s.stewards
  dma : t.dma = s.dma
  tho : t.tho = s.tho

section
variable {s t u : State}

theorem Onward.refl : Onward s s := ⟨rfl, fun _ h => h⟩
theorem Onward.trans (h : Onward s t) (g : Onward t u) : Onward s u :=
  ⟨g.plc.trans h.plc, fun o ho => g.out o (h.out o ho)⟩
theorem Onward.foldl {α : Type} {f : State → α → State} (hf : ∀ t a, Onward t (f t a)) (l : List α) :
    Onward s (l.foldl f s) := foldl_inv (Onward s) f (fun t a h => h.trans (hf t a)) l .refl

theorem Quiet.refl : Quiet s s := ⟨.refl, rfl, rfl, rfl⟩
theorem Quiet.trans (h : Quiet s t) (g : Quiet t u) : Quiet s u :=
  ⟨h.toOnward.trans g.toOnward, g.stewards.trans h.stewards, g.dma.trans h.dma, g.tho.trans h.tho⟩
theorem Quiet.foldl {α : Type} {f : State → α → State} (hf : ∀ t a, Quiet t (f t a)) (l : List α) :
    Quiet s (l.foldl f s) := foldl_inv (Quiet s) f (fun t a h => h.trans (hf t a)) l .refl
theorem Quiet.ite {c : Prop} [Decidable c] (ht : Quiet s t) (hu : Quiet s u) : Quiet s (if c then t else u) := by
  split; exacts [ht, hu]

theorem setFld_quiet {f v} : Quiet s (setFld s f v) := ⟨⟨rfl, fun _ h => h⟩, rfl, rfl, rfl⟩
theorem setFldInt_quiet {f v} : Quiet s (setFldInt s f v) := ⟨⟨rfl, fun _ h => h⟩, rfl, rfl, rfl⟩
theorem emit_quiet {o} : Quiet s (emit s o) := ⟨⟨rfl, fun _ h => List.mem_append_left _ h⟩, rfl, rfl, rfl⟩
theorem setTwin_quiet {x : Twin} : Quiet s { s with twin := x } := ⟨⟨rfl, fun _ h => h⟩, rfl, rfl, rfl⟩
theorem setPwr_quiet {x} : Quiet s { s with pwr := x } := ⟨⟨rfl, fun _ h => h⟩, rfl, rfl, rfl⟩
theorem setRound_quiet {x} : Quiet s { s with round := x } := ⟨⟨rfl, fun _ h => h⟩, rfl, rfl, rfl⟩

theorem auxPulse_quiet {f n} : Quiet s (auxPulse s f n) := .ite emit_quiet .refl
theorem lineSyncOut_quiet {n} : Quiet s (lineSyncOut s n) := .ite emit_quiet .refl

theorem setPort_quiet {l p} : Quiet s (setPort s l p) := by
  cases l
  · exact setRound_quiet
  · exact setRound_quiet
  · exact setTwin_quiet
theorem pumpPort_quiet {l} : Quiet s (pumpPort s l) := .ite setPort_quiet .refl
theorem sendTwin_quiet {sp e bs o} : Quiet s (sendTwin s sp e bs o) :=
  (setPort_quiet.trans pumpPort_quiet).trans emit_quiet
theorem closeHamper_quiet {final timed early} : Quiet s (closeHamper s final timed early) :=
  .ite ((((setTwin_quiet.trans setFld_quiet).trans setFld_quiet).trans sendTwin_quiet).trans auxPulse_quiet)
    setTwin_quiet

theorem setRail_quiet {f v} : Quiet s (setRail s f v) := setFldInt_quiet.trans setFldInt_quiet
theorem evalSlack_quiet {m r} : Quiet s (evalSlack s m r) := by
  refine setFldInt_quiet.trans (u := _) ?_ (t := setFldInt s F.PWR_SLACK_MIN (slackMin s m))
  have hrail : ∀ {t : State} {k f v}, Quiet t (setRail { t with pwr := { t.pwr with down := k } } f v) :=
    setPwr_quiet.trans setRail_quiet
  exact .ite hrail (.ite hrail (.ite hrail (.ite hrail hrail)))
theorem throttleAtBoundary_quiet : Quiet s (throttleAtBoundary s) :=
  .foldl (fun _ _ => .ite .refl (setFld_quiet.trans (.ite setPwr_quiet .refl))) _

theorem setTho_onward {x} : Onward s { s with tho := x } := ⟨rfl, fun _ h => h⟩
theorem haltStw_onward {k} : Onward s (haltStw s k) := ⟨rfl, fun _ h => h⟩
theorem setEvent_onward {n k} : Onward s (setEvent n s k) := ⟨rfl, fun _ h => h⟩
theorem dmaLine_onward {n} : Onward s (dmaLine s n) := ⟨rfl, fun _ h => h⟩
theorem dmaHalt_onward {c} : Onward s (dmaHalt s c) := by
  unfold dmaHalt
  split
  · dsimp only
    split <;> exact ⟨rfl, fun _ h => h⟩
  · exact .refl
theorem recordOutcome_onward {e a due} : Onward s (recordOutcome s e a due) := by
  obtain ⟨f, hf⟩ := recordOutcome_law s e a due
  rw [hf]; exact ⟨rfl, fun _ h => h⟩

/-- A stop for a hand-over leaves the placement engine as it is (R353). -/
theorem stopForHandover_onward : Onward s (stopForHandover s) := by
  unfold stopForHandover
  split
  · exact (((((setTho_onward.trans (.foldl (fun _ _ => dmaHalt_onward) _)).trans
      (.foldl (fun _ _ => haltStw_onward) _)).trans (.foldl (fun _ _ => recordOutcome_onward) _)).trans
      setTho_onward).trans closeHamper_quiet.toOnward).trans setTho_onward
  · exact .refl

theorem boundaryHamper_onward : Onward s (boundaryHamper s) := by
  unfold boundaryHamper
  repeat' split
  · exact stopForHandover_onward
  · exact .refl
  · exact closeHamper_quiet.toOnward
  · exact .refl

/-- Without a hand-over that is due the boundary's hamper closes and nothing else happens. -/
theorem boundaryHamper_quiet (h : s.tho.ho ≠ .due) : Quiet s (boundaryHamper s) := by
  have hdue : (s.tho.ho == .due) = false := beq_eq_false_iff_ne.mpr h
  unfold boundaryHamper
  rw [hdue, if_neg Bool.false_ne_true]
  exact .ite .refl (.ite closeHamper_quiet .refl)

theorem advanceTo_law (s : State) (t : Nat) : ∃ clk, advanceTo s t = { s with clk := clk } := by
  unfold advanceTo
  split
  · exact ⟨s.clk, rfl⟩
  · exact ⟨_, rfl⟩

/-- Time that passes for the placement engine changes the clock, Wmax and the armed compare's note alone. -/
theorem plcTime_law (s : State) (t : Nat) : ∃ clk wmax below, plcTime s t
    = { s with clk := clk, plc := { s.plc with wmax := wmax }, plc2 := { s.plc2 with cmpBelow := below } } := by
  obtain ⟨clk, hadv⟩ := advanceTo_law s t
  rw [plcTime, hadv]
  unfold followW noteBelow trackMax
  dsimp only
  repeat' split
  all_goals exact ⟨_, _, _, rfl⟩

end

/-! ### The boundary -/

/-- The boundary `l` passes: it moves on, every steward's event 0 is set. -/
def passed (s : State) (l : Nat) : State :=
  setEventAll (spitTurns { s with plc := { s.plc with boundary := l + 1, scLine := some l } }) 0

/-- A component that raising an event keeps is as it was before the boundary. -/
theorem passed_keeps {α : Type} {φ : State → α} (hφ : ∀ t k, φ (setEvent 0 t k) = φ t) {s : State} {l : Nat} :
    φ (passed s l) = φ (spitTurns { s with plc := { s.plc with boundary := l + 1, scLine := some l } }) :=
  foldl_keeps φ _ hφ _ _

theorem passed_raises {s : State} {l : Nat} (k : Fin 8) : (stw (passed s l) k).evpend.getLsbD 0 = true :=
  setEvents_raise (by decide) (List.mem_finRange k)

/-- What follows at a boundary: pulses, DMA request line 8, the slack loop, the throttles. -/
def passedOn (s : State) (t : Nat) (m : SlackMeas) (replica : Int) : State :=
  throttleAtBoundary (evalSlack (dmaLine (auxPulse (lineSyncOut s t) 8 t) 8) m replica)

theorem passedOn_onward {s : State} {t m replica} : Onward (lineSyncOut s t) (passedOn s t m replica) :=
  ((auxPulse_quiet.toOnward.trans dmaLine_onward).trans evalSlack_quiet.toOnward).trans
    throttleAtBoundary_quiet.toOnward

theorem passedOn_quiet {s : State} {t m replica} :
    Quiet (dmaLine (auxPulse (lineSyncOut s t) 8 t) 8) (passedOn s t m replica) :=
  evalSlack_quiet.trans throttleAtBoundary_quiet

/-- Settles O23: the boundary's own effects, and what follows leaves them. -/
theorem fireLineBoundary : Obligations.FireLineBoundary := by
  intro s now slack replica s1 hrun hreach
  obtain ⟨clk, wmax, below, hs1⟩ := plcTime_law s now
  have hplc : s1.plc.boundary = s.plc.boundary := by simp only [s1, hs1]
  have hcond : (jobRuns s1 && decide (target s1 s1.plc.boundary ≤ wAt s1 now)) = true := by
    rw [hplc, Bool.and_eq_true_iff]
    exact ⟨by simp only [s1, hs1]; exact hrun, decide_eq_true hreach⟩
  have hexec : exec (.fireLineBoundary now slack replica) s
      = .next (boundaryHamper (passedOn (passed s1 s1.plc.boundary) now slack replica)) := by
    dsimp only [exec, execFireLineBoundary]
    exact congrArg _ (if_pos hcond)
  generalize hp : passed s1 s1.plc.boundary = p at hexec
  have hpplc : p.plc = { s1.plc with boundary := s1.plc.boundary + 1, scLine := some s1.plc.boundary } := by
    rw [← hp]; exact passed_keeps (φ := State.plc) fun _ _ => rfl
  have hptho : p.tho = s.tho := by
    rw [← hp, passed_keeps (φ := State.tho) fun _ _ => rfl]; simp only [s1, hs1, spitTurns]
  have hptwin : p.twin = s.twin := by
    rw [← hp, passed_keeps (φ := State.twin) fun _ _ => rfl]; simp only [s1, hs1, spitTurns]
  have hpstn : p.stn = s.stn := by
    rw [← hp, passed_keeps (φ := State.stn) fun _ _ => rfl]; simp only [s1, hs1, spitTurns]
  have hon : Onward (lineSyncOut p now) (boundaryHamper (passedOn p now slack replica)) :=
    passedOn_onward.trans boundaryHamper_onward
  have htplc := hon.plc.trans (lineSyncOut_quiet.plc.trans hpplc)
  refine ⟨_, hexec, ?_, ?_, fun hho => ?_, fun hact hmode => hon.out _ ?_⟩
  · rw [htplc, hplc]
  · rw [htplc, hplc]
  · have hpulse : Quiet p (auxPulse (lineSyncOut p now) 8 now) := lineSyncOut_quiet.trans auxPulse_quiet
    have hq : Quiet (dmaLine (auxPulse (lineSyncOut p now) 8 now) 8)
        (boundaryHamper (passedOn p now slack replica)) := by
      refine passedOn_quiet.trans (boundaryHamper_quiet ?_)
      rw [passedOn_quiet.tho]
      exact (congrArg _ (hpulse.tho.trans hptho)).trans_ne hho
    refine ⟨fun k => ?_, ?_⟩
    · rw [stw_of_stewards (hq.stewards.trans hpulse.stewards), ← hp]
      exact passed_raises k
    · rw [hq.dma]
      simp [dmaLine]
  · have hsync : (isActive p && fld p F.PLC_CTL_SYNC_MODE == 1) = true := by
      have hfld : fld p F.PLC_CTL_SYNC_MODE = fld s F.PLC_CTL_SYNC_MODE := by simp only [fld, stnWord, hpstn]
      rw [isActive, hptwin, hfld, hmode, Bool.and_eq_true_iff]
      exact ⟨hact, rfl⟩
    rw [lineSyncOut, if_pos hsync]
    exact List.mem_append_right _ (List.mem_singleton_self _)

end Sys2Proof.Machine
end

section
/-! Compare units, steps, the anchor and HOLDOVER (R384 to R402).  What a firing starts, a housekeeping round, a motion
cycle and the cameras' triggers, stays beside the compare units: `Beside` says what of the state it keeps, and each
operation that a firing goes through has one lemma, `f_beside`. -/
namespace Sys2Proof.Machine
open Sys2Proof

/-- A word of a compare unit (R402). -/
abbrev UnitWord (a : Nat) : Prop := 0x4B000100 ≤ a ∧ a < 0x4B000200

/-- `t` follows `s`: its station store is canonical, the compare units, the time bases and the role are as they were, no
pending event is lost, a housekeeping round goes on, and so does a motion cycle that has begun at this instant. -/
structure Beside (s t : State) : Prop where
  ok : StnOk t
  units : ∀ a, UnitWord a → stnWord t a = stnWord s a
  clk : t.clk = s.clk
  role : t.twin.role = s.twin.role
  raised : ∀ (k : Fin 8) (n : Nat), (stw s k).evpend.getLsbD n = true → (stw t k).evpend.getLsbD n = true
  hk : s.pwr.hk = true → t.pwr.hk = true
  cycle : s.mot.last = some (tbVal s 3) → t.mot.last = some (tbVal t 3)

section
variable {s t : State}

theorem Beside.refl (h : StnOk s) : Beside s s := ⟨h, fun _ _ => rfl, rfl, rfl, fun _ _ h => h, fun h => h, fun h => h⟩

theorem Beside.trans {u : State} (h : Beside s t) (g : Beside t u) : Beside s u where
  ok := g.ok
  units a ha := (g.units a ha).trans (h.units a ha)
  clk := g.clk.trans h.clk
  role := g.role.trans h.role
  raised k n hn := g.raised k n (h.raised k n hn)
  hk hs := g.hk (h.hk hs)
  cycle hs := g.cycle (h.cycle hs)

theorem Beside.fld (h : Beside s t) {f : Fld} (hf : UnitWord f.addr) : Machine.fld t f = Machine.fld s f :=
  congrArg (fldOf f) (h.units f.addr hf)

theorem Beside.tbVal (h : Beside s t) (b : Fin 4) : Machine.tbVal t b = Machine.tbVal s b := by
  rw [Machine.tbVal, h.clk]; rfl

/-- A change of anything else. -/
theorem Beside.within (h : Beside s t) {u : State}
    (raised : ∀ (k : Fin 8) (n : Nat), (stw t k).evpend.getLsbD n = true → (stw u k).evpend.getLsbD n = true)
    (stn : u.stn = t.stn := by rfl) (clk : u.clk = t.clk := by rfl) (role : u.twin.role = t.twin.role := by rfl)
    (hk : u.pwr.hk = t.pwr.hk := by rfl) (last : u.mot.last = t.mot.last := by rfl) : Beside s u where
  ok := by rw [StnOk, stn]; exact h.ok
  units a ha := by rw [stnWord, stn]; exact h.units a ha
  clk := clk.trans h.clk
  role := role.trans h.role
  raised k n hn := raised k n (h.raised k n hn)
  hk hs := hk.trans (h.hk hs)
  cycle hs := by rw [last, h.cycle hs, Machine.tbVal, Machine.tbVal, clk]

/-- A change of anything else, outside the stewards. -/
theorem Beside.frame (h : Beside s t) {u : State} (stn : u.stn = t.stn := by rfl) (clk : u.clk = t.clk := by rfl)
    (role : u.twin.role = t.twin.role := by rfl) (stewards : u.stewards = t.stewards := by rfl)
    (hk : u.pwr.hk = t.pwr.hk := by rfl) (last : u.mot.last = t.mot.last := by rfl) : Beside s u :=
  h.within (fun k n hn => by rw [stw, stewards]; exact hn) stn clk role hk last

theorem Beside.ite {c : Prop} {_ : Decidable c} {u : State} (ht : Beside s t) (hu : Beside s u) :
    Beside s (if c then t else u) := by split; exacts [ht, hu]

theorem Beside.foldl {α : Type} {f : State → α → State} {l : List α} (hf : ∀ u a, Beside s u → Beside s (f u a))
    (h : Beside s t) : Beside s (l.foldl f t) := foldl_inv (Beside s) f hf l h

variable (h : Beside s t)
include h

/-! ### Fields, events, alarms -/

theorem setFld_beside {f : Fld} {v : Nat} (hf : ¬ UnitWord f.addr) : Beside s (setFld t f v) where
  ok := setFld_ok h.ok f v
  units a ha := by rw [stnWord_setFld_other h.ok v (by rintro rfl; exact hf ha), h.units a ha]
  clk := h.clk
  role := h.role
  raised := h.raised
  hk := h.hk
  cycle := h.cycle

theorem setFldB_beside {f : Fld} {b : Bool} (hf : ¬ UnitWord f.addr) : Beside s (setFldB t f b) := setFld_beside h hf
theorem incFld_beside {f : Fld} (hf : ¬ UnitWord f.addr) : Beside s (incFld t f) := setFld_beside h hf

theorem setEvent_beside {n k} : Beside s (setEvent n t k) := h.within (fun _ _ hn => setEvent_keeps_raised hn)

theorem setEventAll_beside {n} : Beside s (setEventAll t n) := .foldl (fun _ _ h => setEvent_beside h) h

theorem alarm_beside {n d} : Beside s (alarm t n d) :=
  h.frame (alarm_stn t n d) (alarm_clk t n d) (by rw [alarm_twin]) (alarm_stewards t n d) (by rw [alarm_pwr])
    (by rw [alarm_mot])

/-! ### Faults of an axis, and the motion cycle -/

theorem modAx_beside {x f} : Beside s (modAx t x f) := h.frame
theorem brakeAx_beside {x} : Beside s (brakeAx t x) := modAx_beside h
theorem haltAx_beside {x p} : Beside s (haltAx t x p) := modAx_beside h

theorem startHandover_beside : Beside s (startHandover t) :=
  .ite (.ite h (.ite h.frame (alarm_beside (incFld_beside h (by decide))))) h

theorem handBack_beside {i} : Beside s (handBack t i) := by
  unfold handBack
  split
  · have hhidden {x} : Beside s (setNotElig { t with tho := x } 13 true) := h.frame
    exact .ite (.ite h.frame (startHandover_beside hhidden).frame) h
  · exact h

theorem axFaultSide_beside {x} : Beside s (axFaultSide t x) := by
  have hside : Beside s (handBack (setEventAll (dropWrites t x) 15) (24 + x.val)) :=
    handBack_beside (setEventAll_beside h.frame)
  exact .ite hside.frame hside

theorem stallFault_beside {x} : Beside s (stallFault t x) :=
  axFaultSide_beside (modAx_beside (haltAx_beside (alarm_beside
    (incFld_beside (setFldB_beside h (by dsimp only; omega)) (by dsimp only; omega)))))
theorem counterFault_beside {x} : Beside s (counterFault t x) :=
  axFaultSide_beside (haltAx_beside (alarm_beside (setFldB_beside h (by dsimp only; omega))))
theorem softFault_beside {x hi pos} : Beside s (softFault t x hi pos) :=
  axFaultSide_beside (haltAx_beside (alarm_beside (setFldB_beside h (by dsimp only; omega))))

theorem applyMotWrite_beside {w} : Beside s (applyMotWrite t w) := by
  unfold applyMotWrite
  split
  · exact modAx_beside (.ite h (alarm_beside (setFldB_beside h (by dsimp only; omega))))
  · exact h.frame
theorem applyStop_beside {stop x} : Beside s (applyStop stop t x) := .ite h.frame h
theorem applyRetract_beside {x} : Beside s (applyRetract t x) := .ite h.frame h
theorem stallCheck_beside {x} : Beside s (stallCheck t x) := .ite (.ite (stallFault_beside h.frame) h.frame) h.frame
theorem generate_beside {x dt} : Beside s (generate t x dt) :=
  .ite h.frame (.ite (.ite (setEventAll_beside h.frame) h.frame) (.ite (.ite (setEventAll_beside h.frame) h.frame) h))
theorem followLift_beside : Beside s (followLift t) := .ite h.frame (.ite h.frame h)
theorem cmdCounterCheck_beside {old x} : Beside s (cmdCounterCheck old t x) := .ite (counterFault_beside h) h
theorem softCheck_beside {x} : Beside s (softCheck t x) :=
  .ite (softFault_beside h) (.ite (softFault_beside h) (.ite (softFault_beside h) (.ite (softFault_beside h) h)))
theorem driveAx_beside {x dt} : Beside s (driveAx t x dt) := .ite h.frame h.frame

omit h in
/-- A motion cycle has begun: the staged writes are taken, and this is its instant (R405). -/
def cycleBegun (t : State) : State :=
  { t with mot := { t.mot with writes := [], stop := 0, retract := false, last := some (tbVal t 3) } }

omit h in
theorem motionCycle_follows (h : Beside s (cycleBegun t)) (hactive : isActive t = true) :
    Beside s (motionCycle t) := by
  have hstaged {stop u} (hu : Beside s u) : Beside s ((List.finRange 4).foldl (applyStop stop) u) :=
    .foldl (fun _ _ h => applyStop_beside h) hu
  have hwrites : Beside s (t.mot.writes.foldl applyMotWrite (cycleBegun t)) :=
    .foldl (fun _ _ h => applyMotWrite_beside h) h
  rw [motionCycle, if_pos hactive]
  refine .foldl (fun _ _ h => driveAx_beside h) (.foldl (fun _ _ h => softCheck_beside h) ?_)
  refine .foldl (fun _ _ h => cmdCounterCheck_beside h) (followLift_beside (.foldl (fun _ _ h => generate_beside h) ?_))
  exact .foldl (fun _ _ h => stallCheck_beside h)
    (.ite (.foldl (fun _ _ h => applyRetract_beside h) (hstaged hwrites)) (hstaged hwrites))

theorem cycleBegun_beside : Beside s (cycleBegun t) where
  ok := h.ok
  units := h.units
  clk := h.clk
  role := h.role
  raised := h.raised
  hk := h.hk
  cycle _ := rfl

theorem motionCycle_beside : Beside s (motionCycle t) := by
  by_cases hactive : isActive t = true
  · exact motionCycle_follows (cycleBegun_beside h) hactive
  · rw [motionCycle, if_neg hactive]; exact h

theorem startMotion_beside : Beside s (startMotion t) := .ite (incFld_beside h (by decide)) (motionCycle_beside h)

/-- On the active a motion cycle has begun at this instant, now or before. -/
theorem startMotion_begins (hactive : isActive t = true) :
    (startMotion t).mot.last = some (tbVal (startMotion t) 3) := by
  unfold startMotion
  split
  next hlast => exact hlast
  next => exact (motionCycle_follows (.refl (cycleBegun_beside h).ok) hactive).cycle rfl

/-! ### The housekeeping round, pulses, the cameras -/

theorem startHk_beside : Beside s (startHk t) := .ite (incFld_beside h (by decide)) {
  ok := h.ok
  units := h.units
  clk := h.clk
  role := h.role
  raised := h.raised
  hk := fun _ => rfl
  cycle := h.cycle }

omit h in
theorem startHk_runs_round : (startHk t).pwr.hk = true := by
  unfold startHk
  split
  next hrun => exact hrun
  next => rfl

theorem emit_beside {o} : Beside s (emit t o) := h.frame
theorem auxPulse_beside {f at'} : Beside s (auxPulse t f at') := .ite h.frame h

theorem modCam_beside {n f} : Beside s (modCam t n f) := h.frame
theorem readBack_beside {n} : Beside s (readBack t n) := by
  refine .ite ?_ h.frame
  unfold sendHead
  split <;> exact h.frame
theorem gapEnds_beside {n} : Beside s (gapEnds t n) := .ite (readBack_beside h.frame) h.frame
theorem startFrame_beside {n job jobId recStart byCompare} :
    Beside s (startFrame t n job jobId recStart byCompare) := by
  have hgap : Beside s (gapEnds (modCam t n (fun c => { c with cur := none, late := c.late ++ c.cur.toList })) n) :=
    gapEnds_beside (modCam_beside h)
  have hframe {v f} : Beside s (modCam (setFld _ (F.SIGHT_EXP_TAG_IN_FORCE n) v) n f) :=
    modCam_beside (setFld_beside hgap (by dsimp only; omega))
  exact .ite (alarm_beside (incFld_beside hframe (by dsimp only; omega))) hframe
theorem issueTrig_beside {n job jobId recStart l byCompare at'} :
    Beside s (issueTrig t n job jobId recStart l byCompare at') := by
  unfold issueTrig
  exact modCam_beside (emit_beside (.ite (startFrame_beside h) h))
theorem compareTriggers_beside {u at'} : Beside s (compareTriggers t u at') :=
  .foldl (fun _ _ h => .ite (issueTrig_beside h) h) h

end
end Sys2Proof.Machine
end

section
/-! A compare unit fires (R398 to R401). -/
namespace Sys2Proof.Machine
open Sys2Proof Sys2Proof.Claims

/-- What the action of unit `u` at its target leaves of `s`: the firing is counted at the value of its base, its
claimants' event is set, the round and the cycle that it starts have begun, and no other word of a unit has changed. -/
structure Acted (s : State) (u : Fin 8) (t : State) : Prop where
  ok : StnOk t
  clk : t.clk = s.clk
  units : ∀ a, UnitWord a → a ≠ (F.TIME_FIRED u).addr → a ≠ (F.TIME_TMC_LAST u).addr → stnWord t a = stnWord s a
  fired : fld t (F.TIME_FIRED u) = (fld s (F.TIME_FIRED u) + 1) % 2 ^ 32
  last : fld t (F.TIME_TMC_LAST u) = (tbVal s (tmcBase s u)).toNat
  raised : ∀ k ∈ claimants s 3 u, (stw t k).evpend.getLsbD (2 + u.val) = true
  hk : fldB s (F.TIME_TMC_CTL_HK u) = true → t.pwr.hk = true
  cycle : fldB s (F.TIME_TMC_CTL_MOTION u) = true → isActive s = true → t.mot.last = some (tbVal s 3)

theorem Acted.fld {s t : State} {u : Fin 8} (h : Acted s u t) {f : Fld} (hf : UnitWord f.addr)
    (hfired : f.addr ≠ (F.TIME_FIRED u).addr) (hlast : f.addr ≠ (F.TIME_TMC_LAST u).addr) :
    Machine.fld t f = Machine.fld s f := congrArg (fldOf f) (h.units f.addr hf hfired hlast)

/-- The firing counted, and its instant noted. -/
def firingNoted (s : State) (u : Fin 8) : State :=
  wrapFld (setFld s (F.TIME_TMC_LAST u) (tbVal s (tmcBase s u)).toNat) (F.TIME_FIRED u)

section
variable {s : State} (h : StnOk s) (u : Fin 8)
include h

theorem firingNoted_ok : StnOk (firingNoted s u) := setFld_ok (setFld_ok h _ _) _ _

theorem stnWord_firingNoted {a : Nat} (hfired : a ≠ (F.TIME_FIRED u).addr) (hlast : a ≠ (F.TIME_TMC_LAST u).addr) :
    stnWord (firingNoted s u) a = stnWord s a := by
  rw [firingNoted, wrapFld, stnWord_setFld_other (setFld_ok h _ _) _ hfired, stnWord_setFld_other h _ hlast]

theorem fired_firingNoted : fld (firingNoted s u) (F.TIME_FIRED u) = (fld s (F.TIME_FIRED u) + 1) % 2 ^ 32 := by
  rw [firingNoted, wrapFld, fld_setFld_same (setFld_ok h _ _) (by simp), fld_setFld_addr h _ (by simp)]

theorem last_firingNoted : fld (firingNoted s u) (F.TIME_TMC_LAST u) = (tbVal s (tmcBase s u)).toNat := by
  rw [firingNoted, wrapFld, fld_setFld_addr (setFld_ok h _ _) _ (by simp), fld_setFld_same h (by simp)]
  exact Nat.mod_eq_of_lt (tbVal s (tmcBase s u)).isLt

theorem tmcAct_acted (at0 : Nat) : Acted s u (tmcAct s u at0) := by
  have hu := u.isLt
  -- the stages of `tmcAct` in their order, each beside the compare units once the firing is noted
  let b := firingNoted s u
  let c := setEventClaimants b (2 + u.val) 3 u
  let d := auxPulse (dmaLine c u) u at0
  let e := if fldB d (F.TIME_TMC_CTL_HK u) then startHk d else d
  let f := if fldB e (F.TIME_TMC_CTL_MOTION u) then startMotion e else e
  have hb : Beside b b := .refl (firingNoted_ok h u)
  have hc : Beside b c := .foldl (fun _ _ h => setEvent_beside h) hb
  have hd : Beside c d := auxPulse_beside (Beside.refl hc.ok).frame
  have he : Beside d e := .ite (startHk_beside (.refl hd.ok)) (.refl hd.ok)
  have hf : Beside e f := .ite (startMotion_beside (.refl he.ok)) (.refl he.ok)
  have ht : Beside f (tmcAct s u at0) := compareTriggers_beside (.refl hf.ok)
  have hce := hd.trans he
  have hbt := hc.trans (hce.trans (hf.trans ht))
  have hctl {g : Fld} (hg : g.addr = 0x4B000100 + u * 0x20) : fld b g = fld s g :=
    congrArg (fldOf g) (stnWord_firingNoted h u (by rw [hg]; simp) (by rw [hg]; simp))
  refine ⟨ht.ok, hbt.clk, fun a ha hfired hlast => ?_, ?_, ?_, fun k hk => ?_, fun hhk => ?_,
    fun hmotion hactive => ?_⟩
  · rw [hbt.units a ha, stnWord_firingNoted h u hfired hlast]
  · rw [hbt.fld (by dsimp only; omega), fired_firingNoted h u]
  · rw [hbt.fld (by dsimp only; omega), last_firingNoted h u]
  · exact (hce.trans (hf.trans ht)).raised k _ (setEvents_raise (by omega) hk)
  · have hset : fldB d (F.TIME_TMC_CTL_HK u) = true := by
      rw [fldB, (hc.trans hd).fld (by dsimp only; omega), hctl rfl]; exact hhk
    refine (hf.trans ht).hk ?_
    rw [show e = startHk d from if_pos hset]
    exact startHk_runs_round
  · have hset : fldB e (F.TIME_TMC_CTL_MOTION u) = true := by
      rw [fldB, (hc.trans hce).fld (by dsimp only; omega), hctl rfl]; exact hmotion
    have heactive : isActive e = true := by rw [isActive, (hc.trans hce).role]; exact hactive
    have hbegun : f.mot.last = some (tbVal f 3) := by
      rw [show f = startMotion e from if_pos hset]
      exact startMotion_begins (.refl he.ok) heactive
    rw [ht.cycle hbegun, hbt.tbVal]; rfl

end

/-! ### One-shot and periodic (R401) -/

section
variable {s : State} (h : StnOk s) {u : Fin 8}
include h

/-- A one-shot unit disarms. -/
theorem tmcFire_oneShot {at0 : Nat} (hperiod : fld s (F.TIME_PERIOD u) = 0) :
    tmcFire s u at0 = setFldB (setHeld (tmcAct s u at0) u false) (F.TIME_TMC_STAT_ARMED u) false := by
  have hu := u.isLt
  have hper : tmcPeriod (setHeld (tmcAct s u at0) u false) u = 0 := by
    rw [tmcPeriod, fld_setHeld, (tmcAct_acted h u at0).fld (by dsimp only; omega) (by simp) (by simp), hperiod]; rfl
  exact if_pos hper

omit h in
/-- A target that lies no more than `d` behind its base lies ahead once `period`, more than `d`, is added. -/
theorem target_moved_ahead {now : Word} {target period : Nat} (hmax : period < 2 ^ 31)
    (hdue : 0 ≤ (now - BitVec.ofNat 32 target).toInt) (hahead : (now - BitVec.ofNat 32 target).toInt < period) :
    0 < (BitVec.ofNat 32 ((target + period) % 2 ^ 32) - now).toInt := by
  generalize hd : now - BitVec.ofNat 32 target = d at hdue hahead
  have hnow : now = d + BitVec.ofNat 32 target := by rw [← hd, BitVec.sub_add_cancel]
  have hsmall : d.toNat < 2 ^ 31 := by rw [BitVec.toInt_eq_toNat_cond] at hdue; split at hdue <;> omega
  have hlt : d.toNat < period := by rw [BitVec.toInt_eq_toNat_of_lt (by omega)] at hahead; omega
  have hnat : (BitVec.ofNat 32 ((target + period) % 2 ^ 32) - now).toNat = period - d.toNat := by
    rw [hnow]
    simp only [BitVec.toNat_sub, BitVec.toNat_add, BitVec.toNat_ofNat]
    omega
  rw [BitVec.toInt_eq_toNat_of_lt (by omega), hnat]
  omega

omit h in
theorem setHeld_ok {t : State} {x : Bool} (ht : StnOk t) : StnOk (setHeld t u x) := ht

omit h in
theorem tmcCatchUp_ahead {t : State} {at0 : Nat} (hahead : tmcBehind t u = false) : tmcCatchUp t u at0 = t := by
  rw [tmcCatchUp, hahead]; rfl

omit h in
/-- A unit that is due, less than a period late, is not behind its next target. -/
theorem next_target_ahead {t : State} (ht : StnOk t) (hmax : fld s (F.TIME_PERIOD u) < 2 ^ 31)
    (hdue : 0 ≤ tmcDiff s u) (hahead : tmcDiff s u < fld s (F.TIME_PERIOD u)) (hval : ∀ b, tbVal t b = tbVal s b)
    (hbase : fld t (F.TIME_TMC_CTL_BASE u) = fld s (F.TIME_TMC_CTL_BASE u)) :
    tmcBehind (setFld t (F.TIME_TARGET u) (fld s (F.TIME_TARGET u) + fld s (F.TIME_PERIOD u))) u = false := by
  have hb {n : Nat} : tmcBase (setFld t (F.TIME_TARGET u) n) u = tmcBase s u := by
    rw [tmcBase, fld_setFld_addr ht _ (by simp), hbase]; rfl
  rw [tmcBehind, hb, fld_setFld_same ht (by simp), tbVal_setFld, hval]
  exact decide_eq_false (Int.not_le.mpr (target_moved_ahead hmax hdue hahead))

/-- A periodic unit whose next target lies ahead waits for it. -/
theorem tmcFire_periodic {at0 : Nat} (hmin : 1000 ≤ fld s (F.TIME_PERIOD u)) (hmax : fld s (F.TIME_PERIOD u) < 2 ^ 31)
    (hdue : 0 ≤ tmcDiff s u) (hahead : tmcDiff s u < fld s (F.TIME_PERIOD u)) :
    tmcFire s u at0 = setFld (setHeld (tmcAct s u at0) u false) (F.TIME_TARGET u)
      (fld s (F.TIME_TARGET u) + fld s (F.TIME_PERIOD u)) := by
  have hu := u.isLt
  have hacted := tmcAct_acted h u at0
  have hne : fld s (F.TIME_PERIOD u) ≠ 0 := by omega
  have hper : tmcPeriod (setHeld (tmcAct s u at0) u false) u = fld s (F.TIME_PERIOD u) := by
    rw [tmcPeriod, fld_setHeld, hacted.fld (by dsimp only; omega) (by simp) (by simp)]
    simp only [hne, if_false, atLeast, Nat.not_lt.mpr hmin]
  have htarget : fld (setHeld (tmcAct s u at0) u false) (F.TIME_TARGET u) = fld s (F.TIME_TARGET u) := by
    rw [fld_setHeld, hacted.fld (by dsimp only; omega) (by simp) (by simp)]
  have hok : StnOk (setHeld (tmcAct s u at0) u false) := setHeld_ok hacted.ok
  have hbehind := next_target_ahead hok hmax hdue hahead (fun b => by rw [tbVal_setHeld, tbVal, hacted.clk]; rfl)
    (by rw [fld_setHeld, hacted.fld (by dsimp only; omega) (by simp) (by simp)])
  simp only [tmcFire, hper, hne, if_false, htarget, tmcCatchUp_ahead hbehind]

end
end Sys2Proof.Machine
end

section
/-! The stores of TIME, the anchor, and HOLDOVER (R386, R389, R394, R395, R400, R402). -/
namespace Sys2Proof.Machine
open Sys2Proof Sys2Proof.Claims

/-- A store to a station of TIME does what TIME does with it; beside that the waiting line-qualified store of the station
is gone, the store is journaled, and a changed kept value is noted. -/
theorem storeStation_time (s : State) (k : Option (Fin 8)) {a : Nat} (ha : a / 0x1000000 = 0x4B) (v : Word) :
    ∃ hiw fill therm, storeStation s k a v
      = { storeTime { s with hiw := hiw, twin := { s.twin with fill := fill } } a v with therm := therm } := by
  have hbanked : bankedStation a = false := by
    by_contra h
    have := block_of_bankedStation (by simpa using h)
    omega
  have hblock : (a - 0x40000000) / 0x1000000 = 11 := by omega
  obtain ⟨fill, hfill⟩ := journalStore_fill { s with hiw := s.hiw.filter (fun e => e.1 != a) } a v
  have hnoted (t t' : State) : ∃ therm, noteKept t t' a = { t' with therm := therm } := by
    unfold noteKept
    repeat' split
    all_goals exact ⟨_, rfl⟩
  simp only [storeStation, hbanked, Bool.false_eq_true, if_false, hfill, storeEffect, hblock]
  obtain ⟨therm, hnote⟩ := hnoted _ _
  exact ⟨_, _, therm, hnote⟩

theorem storeCmd_time {s : State} (hready : takesStores s = true) {a : Nat} (ha : a / 0x1000000 = 0x4B) (v : Word) :
    ∃ hiw fill therm, storeCmd s a v
      = .next { storeTime { s with hiw := hiw, twin := { s.twin with fill := fill } } a v with therm := therm } := by
  obtain ⟨hiw, fill, therm, h⟩ := storeStation_time s none ha v
  exact ⟨hiw, fill, therm, by rw [storeCmd, if_pos hready, h]⟩

/-! ### ARM and DISARM -/

/-- A store to TMC_CTL stores its fields, then arms or disarms the unit. -/
theorem storeTime_ctl (s : State) (u : Fin 8) (v : Word) :
    storeTime s (F.TIME_TMC_CTL_ARM u).addr v = tmcCtl (plainStore s (F.TIME_TMC_CTL_ARM u).addr v) u v := by
  have hu := u.isLt
  have hunit : tmcUnit (F.TIME_TMC_CTL_ARM u).addr = some u := by
    have : Fin.ofNat 8 (((0x4B000100 + u * 0x20 : Nat) - 0x4B000100) / 0x20) = u := by
      apply Fin.ext; simp only [Fin.ofNat]; omega
    rw [tmcUnit, if_pos (by dsimp only; omega), this]
  simp only [storeTime, hunit, if_true]

theorem stnRow_tmcCtl (u : Fin 8) : ∃ r, stnRow (F.TIME_TMC_CTL_ARM u).addr = some r
    ∧ r.rw.testBit 0 = true ∧ r.rw.testBit 1 = true ∧ r.w1c = 0 := by
  revert u; decide

/-- A store to TMC_CTL stores BASE. -/
theorem base_plainStore {s : State} (h : StnOk s) (u : Fin 8) (v : Word) :
    fld (plainStore s (F.TIME_TMC_CTL_ARM u).addr v) (F.TIME_TMC_CTL_BASE u) = fldOf (F.TIME_TMC_CTL_BASE u) v := by
  obtain ⟨r, hr, hbit0, hbit1, hw1c⟩ := stnRow_tmcCtl u
  apply Nat.eq_of_testBit_eq
  intro i
  rw [fld, fldOf_testBit, fldOf_testBit]
  by_cases hi : i < 2
  · have hrw : r.rw.testBit i = true := by
      obtain rfl | rfl : i = 0 ∨ i = 1 := by omega
      · exact hbit0
      · exact hbit1
    rw [plainStore_getLsbD h hr v (by dsimp only; omega)]
    simp [hrw, hw1c]
  · simp [hi]

theorem held_setHeld_false (s : State) (u : Fin 8) : (setHeld s u false).clk.held.getLsbD u = false := by
  have hu := u.isLt
  simp [setHeld, hu]

/-- Armed with its target ahead of the base that is stored with it, a unit waits. -/
theorem tmcArm_waits {s : State} (h : StnOk s) {u : Fin 8}
    (hahead : 0 < (BitVec.ofNat 32 (fld s (F.TIME_TARGET u)) - tbVal s (tmcBase s u)).toInt) :
    tmcArm s u = setHeld (setFldB s (F.TIME_TMC_STAT_ARMED u) true) u false := by
  have hbase : tmcBase (setFldB s (F.TIME_TMC_STAT_ARMED u) true) u = tmcBase s u := by
    rw [tmcBase, fld_setFldB_addr h _ (by simp)]; rfl
  have hwaits : tmcBehind (setHeld (setFldB s (F.TIME_TMC_STAT_ARMED u) true) u false) u = false := by
    have heq : tmcBase (setHeld (setFldB s (F.TIME_TMC_STAT_ARMED u) true) u false) u = tmcBase s u := hbase
    rw [tmcBehind, heq, fld_setHeld, fld_setFldB_addr h _ (by simp), tbVal_setHeld, setFldB, tbVal_setFld]
    exact decide_eq_false (Int.not_le.mpr hahead)
  rw [tmcArm, hwaits]; rfl

theorem plainStore_clk (s : State) (a : Nat) (v : Word) : (plainStore s a v).clk = s.clk := by
  unfold plainStore; split <;> rfl

theorem tmcArm_law {s : State} (h : StnOk s) (hready : takesStores s = true) (u : Fin 8) (v : Word)
    (hahead : 0 < (BitVec.ofNat 32 (fld s (F.TIME_TARGET u))
      - tbVal s (Fin.ofNat 4 (fldOf (F.TIME_TMC_CTL_BASE u) v))).toInt) :
    ∃ t, exec (.tmcArm u v) s = .next t ∧ fldB t (F.TIME_TMC_STAT_ARMED u) = true ∧ t.clk.held.getLsbD u = false
      ∧ fld t (F.TIME_FIRED u) = fld s (F.TIME_FIRED u) := by
  have hu := u.isLt
  obtain ⟨hiw, fill, therm, hexec⟩ := storeCmd_time hready (a := (F.TIME_TMC_CTL_ARM u).addr) (by dsimp only; omega)
    (v ||| 8)
  let s0 := { s with hiw := hiw, twin := { s.twin with fill := fill } }
  have h0 : StnOk s0 := h
  let p := plainStore s0 (F.TIME_TMC_CTL_ARM u).addr (v ||| 8)
  have hp : StnOk p := plainStore_ok h0 _ _
  have hother {f : Fld} (hf : f.addr ≠ (F.TIME_TMC_CTL_ARM u).addr) : fld p f = fld s f :=
    congrArg (fldOf f) (plainStore_other h0 _ hf)
  have hfield : fldOf (F.TIME_TMC_CTL_BASE u) (v ||| 8) = fldOf (F.TIME_TMC_CTL_BASE u) v := by
    apply Nat.eq_of_testBit_eq
    intro i
    simp only [fldOf_testBit, BitVec.getLsbD_or, Bool.and_or_distrib_left]
    by_cases hi : i < 2
    · obtain rfl | rfl : i = 0 ∨ i = 1 := by omega
      all_goals simp
    · simp [hi]
  have hbase : tmcBase p u = Fin.ofNat 4 (fldOf (F.TIME_TMC_CTL_BASE u) v) := by
    rw [tmcBase, base_plainStore h0, hfield]
  have hval (b : Fin 4) : tbVal p b = tbVal s b := by rw [tbVal, plainStore_clk]; rfl
  have hstored : storeTime s0 (F.TIME_TMC_CTL_ARM u).addr (v ||| 8)
      = setHeld (setFldB p (F.TIME_TMC_STAT_ARMED u) true) u false := by
    have hset : (v ||| 8).getLsbD 3 = true := by simp
    rw [storeTime_ctl, tmcCtl, if_pos hset]
    exact tmcArm_waits hp (by rw [hbase, hval, hother (by simp)]; exact hahead)
  rw [hstored] at hexec
  exact ⟨_, hexec, fldB_setFldB_same hp (by simp) (by simp) true, held_setHeld_false _ u,
    (fld_setFldB_addr hp _ (by simp)).trans (hother (by simp))⟩

theorem tmcDisarm_law {s : State} (h : StnOk s) (hready : takesStores s = true) (u : Fin 8) :
    ∃ t, exec (.tmcDisarm u) s = .next t ∧ fldB t (F.TIME_TMC_STAT_ARMED u) = false := by
  have hu := u.isLt
  let v := (stnWord s (F.TIME_TMC_CTL_ARM u).addr ||| 0x40) &&& ~~~ 8
  obtain ⟨hiw, fill, therm, hexec⟩ := storeCmd_time hready (a := (F.TIME_TMC_CTL_ARM u).addr) (by dsimp only; omega) v
  let p := plainStore { s with hiw := hiw, twin := { s.twin with fill := fill } } (F.TIME_TMC_CTL_ARM u).addr v
  have hp : StnOk p := plainStore_ok (s := { s with hiw := hiw, twin := { s.twin with fill := fill } }) h _ _
  have harm : ¬ v.getLsbD 3 = true := by simp [v]
  have hdisarm : v.getLsbD 6 = true := by simp [v]
  rw [storeTime_ctl, tmcCtl, if_neg harm, if_pos hdisarm, tmcDisarm] at hexec
  exact ⟨_, hexec, fldB_setFldB_same hp (by simp) (by simp) false⟩

/-! ### A step -/

theorem tbStep_law {s : State} (hready : takesStores s = true) {b : Fin 4} (hb : b ≠ 0) (v : Word) :
    ∃ t, exec (.tbStep b v) s = .next t ∧ t.clk.step[b] = s.clk.step[b] + v
      ∧ ∀ c : Fin 4, c ≠ b → t.clk.step[c] = s.clk.step[c] := by
  have hpos : 0 < b.val := Nat.pos_of_ne_zero (fun h => hb (Fin.ext h))
  have hlt := b.isLt
  obtain ⟨hiw, fill, therm, hexec⟩ := storeCmd_time hready (a := (F.TIME_TB_STEP b).addr) (by dsimp only; omega) v
  have hbase : Fin.ofNat 4 (((F.TIME_TB_STEP b).addr - 0x4B000030) / 4) = b := by
    apply Fin.ext; simp only [Fin.ofNat]; omega
  have hunit : tmcUnit (F.TIME_TB_STEP b).addr = none := if_neg (by dsimp only; omega)
  have hinc : ¬ (0x4B000014 ≤ (F.TIME_TB_STEP b).addr ∧ (F.TIME_TB_STEP b).addr < 0x4B000020) := by dsimp only; omega
  have hstep : 0x4B000034 ≤ (F.TIME_TB_STEP b).addr ∧ (F.TIME_TB_STEP b).addr < 0x4B000040 := by dsimp only; omega
  have hstored (t : State) : storeTime t (F.TIME_TB_STEP b).addr v = addStep t b v := by
    simp only [storeTime, hunit, hinc, hstep, and_self, if_false, if_true, hbase, tbStep, hb]
  rw [hstored] at hexec
  refine ⟨_, (if_neg hb).trans hexec, ?_, fun c hc => ?_⟩
  · simp [addStep]
  · have hne : b.val ≠ c.val := fun e => hc (Fin.ext e.symm)
    simp [addStep, Vector.getElem_set_ne, hne]

/-! ### The anchor, and HOLDOVER -/

theorem tbAnchorUpdate_law {s : State} (h : StnOk s) : ∃ t, exec .tbAnchorUpdate s = .next t
    ∧ fld t F.TIME_TB_ANCHOR_LO = s.clk.ext.toNat % 2 ^ 32 ∧ fld t F.TIME_TB_ANCHOR_HI = s.clk.ext.toNat / 2 ^ 32 := by
  have hlt := s.clk.ext.isLt
  have hlo := setFld_ok h F.TIME_TB_ANCHOR_LO (s.clk.ext.toNat % 2 ^ 32)
  refine ⟨_, rfl, ?_, ?_⟩
  · rw [fld_setFld_addr hlo _ (by decide), fld_setFld_same h (by decide)]
    exact Nat.mod_mod _ _
  · rw [fld_setFld_same hlo (by decide)]
    exact Nat.mod_eq_of_lt (by dsimp only; omega)

theorem syncHoldover_law {s : State} (h : StnOk s)
    (hsync : fld s F.TIME_TB_SYNC_STAT_STATE = 1 ∨ fld s F.TIME_TB_SYNC_STAT_STATE = 2) :
    ∃ t, exec .syncHoldover s = .next t ∧ fld t F.TIME_TB_SYNC_STAT_STATE = 3 ∧ t.clk = s.clk := by
  have hexec : exec .syncHoldover s = .next (setFld s F.TIME_TB_SYNC_STAT_STATE syncHold) :=
    congrArg Host.Outcome.next (if_pos hsync.symm)
  exact ⟨_, hexec, fld_setFld_same h (by decide) _, rfl⟩

/-- The first occurrence of an alarm that is no express alarm records its DETAIL. -/
theorem slotGet_alarm_detail {s : State} {n : Nat} (hexpress : slotExpress n = false)
    (hclosed : (slotGet s n).isOpen = false) (d : List Word) : (slotGet (alarm s n d) n).detail = d := by
  have hfree : (slotGet (useFree s) n).isOpen = false := hclosed
  simp only [alarm, hexpress, hfree, Bool.false_eq_true, if_false, slotGet_queueRecord]
  rw [openSlot, slotGet_setSlot_same rfl]

theorem holdoverAlarm_law {s : State} (hhold : fld s F.TIME_TB_SYNC_STAT_STATE = 3) :
    ∃ t, exec .holdoverAlarm s = .next t ∧ (slotGet t 369).isOpen = true
      ∧ ((slotGet s 369).isOpen = false → (slotGet t 369).detail
          = [0, BitVec.ofNat 32 ((s.clk.now - s.clk.lastSync) / 3200000)]) := by
  have hexec : exec .holdoverAlarm s
      = .next (alarm s 369 [0, BitVec.ofNat 32 ((s.clk.now - s.clk.lastSync) / 3200000)]) :=
    congrArg Host.Outcome.next (if_pos hhold)
  exact ⟨_, hexec, slotGet_alarm_open _ _ _, fun hclosed => slotGet_alarm_detail rfl hclosed _⟩

/-! ### A unit that is due -/

/-- A unit that is armed, at its target and not held fires. -/
theorem compareUnitFire_fires {s r : State} {u : Fin 8} {at0 : Nat} (hr : advanceTo s at0 = r)
    (harmed : fldB r (F.TIME_TMC_STAT_ARMED u) = true) (hdue : 0 ≤ tmcDiff r u) (hheld : r.clk.held.getLsbD u = false) :
    exec (.compareUnitFire u at0) s = .next (tmcFire r u at0) := by
  have hnot : ¬ tmcDiff r u < 0 := Int.not_lt.mpr hdue
  show execCompareUnitFire u at0 s = _
  simp only [execCompareUnitFire, hr, harmed, hnot, hheld, Bool.not_true, Bool.false_eq_true, if_false]

theorem compareUnitFire_oneShot {r : State} (h : StnOk r) {u : Fin 8} {at0 : Nat}
    (hperiod : fld r (F.TIME_PERIOD u) = 0) :
    fldB (tmcFire r u at0) (F.TIME_TMC_STAT_ARMED u) = false
      ∧ (∀ k ∈ claimants r 3 u, (stw (tmcFire r u at0) k).evpend.getLsbD (2 + u.val) = true)
      ∧ (fldB r (F.TIME_TMC_CTL_HK u) = true → (tmcFire r u at0).pwr.hk = true)
      ∧ (fldB r (F.TIME_TMC_CTL_MOTION u) = true → isActive r = true → (tmcFire r u at0).mot.last = some (tbVal r 3))
      ∧ fld (tmcFire r u at0) (F.TIME_FIRED u) = (fld r (F.TIME_FIRED u) + 1) % 2 ^ 32
      ∧ fld (tmcFire r u at0) (F.TIME_TMC_LAST u) = (tbVal r (tmcBase r u)).toNat := by
  have hacted := tmcAct_acted h u at0
  rw [tmcFire_oneShot h hperiod]
  generalize tmcAct r u at0 = t at hacted
  have hok := setHeld_ok (u := u) (x := false) hacted.ok
  refine ⟨fldB_setFldB_same hok (by simp) (by simp) false, hacted.raised, hacted.hk, hacted.cycle, ?_, ?_⟩
  · rw [fld_setFldB_addr hok _ (by simp), fld_setHeld, hacted.fired]
  · rw [fld_setFldB_addr hok _ (by simp), fld_setHeld, hacted.last]

theorem compareUnitFire_periodic {r : State} (h : StnOk r) {u : Fin 8} {at0 : Nat}
    (harmed : fldB r (F.TIME_TMC_STAT_ARMED u) = true) (hmin : 1000 ≤ fld r (F.TIME_PERIOD u))
    (hmax : fld r (F.TIME_PERIOD u) < 2 ^ 31) (hdue : 0 ≤ tmcDiff r u)
    (hahead : tmcDiff r u < fld r (F.TIME_PERIOD u)) :
    fldB (tmcFire r u at0) (F.TIME_TMC_STAT_ARMED u) = true
      ∧ fld (tmcFire r u at0) (F.TIME_TARGET u) = (fld r (F.TIME_TARGET u) + fld r (F.TIME_PERIOD u)) % 2 ^ 32
      ∧ fld (tmcFire r u at0) (F.TIME_FIRED u) = (fld r (F.TIME_FIRED u) + 1) % 2 ^ 32 := by
  have hu := u.isLt
  have hacted := tmcAct_acted h u at0
  rw [tmcFire_periodic h hmin hmax hdue hahead]
  generalize tmcAct r u at0 = t at hacted
  have hok := setHeld_ok (u := u) (x := false) hacted.ok
  refine ⟨?_, fld_setFld_same hok (by simp) _, ?_⟩
  · rw [fldB, fld_setFld_addr hok _ (by simp), fld_setHeld, hacted.fld (by dsimp only; omega) (by simp) (by simp)]
    exact harmed
  · rw [fld_setFld_addr hok _ (by simp), fld_setHeld, hacted.fired]

/-- Settles O32: a firing by what its action leaves (`tmcAct_acted`), the stores of TIME by `storeCmd_time`. -/
theorem timeAndCompare : Obligations.TimeAndCompare := by
  unfold Obligations.TimeAndCompare
  intro s u at0 v b h r
  obtain ⟨clk, hclk⟩ := advanceTo_law s at0
  have hr : r = { s with clk := clk } := hclk
  have hok : StnOk r := by rw [hr]; exact h
  have hfld (f : Fld) : fld r f = fld s f := by rw [hr]; rfl
  have hfldB (f : Fld) : fldB r f = fldB s f := by rw [hr]; rfl
  have hclaim : claimants r 3 u = claimants s 3 u := by rw [hr]; rfl
  have hbase : tmcBase r u = tmcBase s u := by rw [hr]; rfl
  have hrole : isActive r = isActive s := by rw [hr]; rfl
  refine ⟨fun harmed hdue hheld => ?_, fun hready => ?_, tbAnchorUpdate_law h, syncHoldover_law h, holdoverAlarm_law⟩
  · have hexec := compareUnitFire_fires rfl ((hfldB _).trans harmed) hdue hheld
    refine ⟨fun hperiod => ?_, fun hmin hmax hahead _ _ => ?_⟩
    · obtain ⟨hoff, hraised, hhk, hcycle, hfired, hlast⟩ :=
        compareUnitFire_oneShot (at0 := at0) hok ((hfld (F.TIME_PERIOD u)).trans hperiod)
      rw [hclaim] at hraised
      rw [hfldB] at hhk
      rw [hfldB, hrole] at hcycle
      rw [hfld] at hfired
      rw [hbase] at hlast
      exact ⟨_, hexec, hoff, hraised, hhk, hcycle, fun _ _ => ⟨hfired, hlast⟩⟩
    · have hfires := compareUnitFire_periodic (at0 := at0) hok ((hfldB _).trans harmed) (u := u)
      rw [hfld, hfld, hfld] at hfires
      exact ⟨_, hexec, hfires hmin hmax hdue hahead⟩
  · exact ⟨tmcArm_law h hready u v, tmcDisarm_law h hready u, fun hb => tbStep_law hready hb v⟩

end Sys2Proof.Machine
end

section
/-! What a letter in the inbox leads to, by its class, its stream and the device's state (R113, R119, R123, R128,
R339). -/
namespace Sys2Proof.Machine
open Sys2Proof Sys2Proof.Claims

/-! ### A letter whose turn has come -/

/-- A letter in one envelope whose execution gives an outcome. -/
theorem answers_of_run {kind : Byte} {s s' : State} {e : Env} {pl : List Byte} {run : State → Env → List Byte → Reply}
    {c : Instr} {a : Ans} (h : LetterReady kind s e pl) (hc : exec c s = .next (accept kind run s e pl))
    (hrun : run (taken s e pl) e pl = .now a s') : Answers c s e pl s' a :=
  answers_of_executed h (hc.trans (congrArg _ (accept_ready h))) hrun

/-- Where no hampers are made the outcome of an execution, or of the header checks before it, takes effect at once. -/
theorem answers_alone {s s' : State} {e : Env} {pl : List Byte} {run : State → Env → List Byte → Reply} {c : Instr}
    {a : Ans} (hm : mirrors s = false) (hc : exec c s = .next ((executeRoom run (taken s e pl) e pl).getD s))
    (hreply : settleReply e pl (runChecked run (taken s e pl) e pl) = settleLetter s' e pl a) :
    Answers c s e pl s' a := by
  have halone : mirrors (taken s e pl) = false := hm
  have hno (hyes : mirrors s = true) : False := Bool.false_ne_true (hm.symm.trans hyes)
  rw [executeRoom, hreply, halone] at hc
  exact ⟨fun _ => hc, fun hyes => (hno hyes).elim, fun hyes => (hno hyes).elim⟩

/-- Its class is one that its kind allows (R113). -/
theorem classFits_of_ready {kind : Byte} {s : State} {e : Env} {pl : List Byte} (h : LetterReady kind s e pl) :
    classFits kind e.cls = true := by
  obtain ⟨-, -, -, rfl, -, -, -, -, hheader, -⟩ := h
  by_contra hno
  rw [Bool.not_eq_true] at hno
  simp only [headerRefusal, hno] at hheader
  split at hheader <;> cases hheader

/-! ### How an envelope of the inbox is taken -/

section
variable {s : State} {e : Env} {pl : List Byte} {run : State → Env → List Byte → Reply}
  (hphase : s.boot.phase = .ready) (hstop : s.tho.stopped = false) (hin : (e, pl) ∈ s.round.inbox)
include hphase hstop hin

/-- During a long operation a letter is answered BUSY, whatever its turn (R128). -/
theorem accept_busy {b : Busy} (hbusy : s.round.busy = some b) :
    accept e.kind run s e pl = bounceBusy (taken s e pl) e b := by
  have hb : (dropParcel (unbox s e pl) e).round.busy = some b := hbusy
  rw [accept, acceptWith_boxed hphase hin hstop (Or.inl (by rw [hbusy]; rfl))]
  simp only [acceptTaken, hb]
  rfl

variable (hturn : letterTurn s e pl = true)
include hturn

/-- A letter whose turn has come is taken. -/
theorem accept_taken : accept e.kind run s e pl = (acceptTaken run (taken s e pl) e pl).getD s :=
  acceptWith_boxed hphase hin hstop (Or.inr hturn)

variable (hbusy : s.round.busy = none)
include hbusy

/-- A class and a stream that do not belong together (R113). -/
theorem accept_unsequenced (hmisfit : ((e.cls == 3) != (e.stream == 15)) = true) :
    accept e.kind run s e pl = refuseUnsequenced (taken s e pl) e pl := by
  have hb : (taken s e pl).round.busy = none := hbusy
  rw [accept_taken hphase hstop hin hturn]
  simp only [acceptTaken, hb, hmisfit, if_true, Option.getD_some]

variable (hcls : e.cls ≠ 3) (hstream : e.stream ≠ 15)
include hcls hstream

/-- The next letter of its open stream executes, after its header checks. -/
theorem accept_sequenced (hkind : e.kind ≠ 0x2A) (hopen : (streamOf s e).isOpen = true)
    (hseq : (streamOf s e).expected = e.seq) :
    accept e.kind run s e pl = (executeRoom run (taken s e pl) e pl).getD s := by
  rw [accept_taken hphase hstop hin hturn]
  exact congrArg (Option.getD · s) (acceptTaken_next pl hbusy hcls hstream hkind hopen hseq)

/-- STREAM_OPEN on a closed stream opens it, whatever its SEQ (R119). -/
theorem accept_streamOpen (hkind : e.kind = 0x2A) (hclosed : (streamOf s e).isOpen = false) :
    accept e.kind run s e pl = openStream (taken s e pl) e := by
  have hb : (taken s e pl).round.busy = none := hbusy
  have hx : (streamOf (taken s e pl) e).isOpen = false := hclosed
  have hfits : ((e.cls == 3) != (e.stream == 15)) = false := by
    rw [beq_eq_false_iff_ne.mpr hcls, beq_eq_false_iff_ne.mpr hstream]; rfl
  rw [accept_taken hphase hstop hin hturn]
  simp only [acceptTaken, hb, hfits, Bool.false_eq_true, if_false, if_neg hcls, acceptSequenced, hx, false_and,
    not_false_eq_true, and_true, if_pos hkind, Option.getD_some]

end

/-- A ring management letter is in no sequence (R123). -/
theorem accept_ring {kind : Byte} {s : State} {e : Env} {pl : List Byte} {run : State → Env → List Byte → Reply}
    (h : RingReady kind s e pl) : accept kind run s e pl = acceptRing run (taken s e pl) e pl := by
  obtain ⟨hphase, hbusy, hstop, rfl, hin, hturn, hcls, hstream⟩ := h
  rw [accept, acceptWith_boxed hphase hin hstop (Or.inr hturn)]
  have hb : (dropParcel (unbox s e pl) e).round.busy = none := hbusy
  simp only [acceptTaken, hb, hcls, hstream]
  rfl

theorem lengthBad_exact {pl : List Byte} {n : Nat} (h : pl.length = n) : lengthBad pl n = none := by
  simp [lengthBad, h]

theorem answerNow_slot (s : State) (e : Env) (a : Ans) (n : Nat) : slotGet (answerNow s e a) n = slotGet s n := by
  obtain ⟨p, q, hsent⟩ := sendEnv_round s e.west (receiptEnv s e 0x80 (receiptClass e.cls) 0)
    (answerBytes s e false a (scLine s))
  rw [answerNow, sendReceiptNow, hsent]; rfl

end Sys2Proof.Machine
end

section
/-! Letters of station items: WRITE, ARM, VWRITE, VARM, READ, VREAD (R74, R75, R116, R125). -/
namespace Sys2Proof.Machine
open Sys2Proof Sys2Proof.Claims

/-! ### Fields of a payload -/

theorem leNat_leBytes_toNat {n w : Nat} (v : BitVec w) (h : 256 ^ n = 2 ^ w) : leNat (leBytes n v.toNat) = v.toNat := by
  rw [leNat_leBytes, h, Nat.mod_eq_of_lt v.isLt]

theorem vecOfBytes_bytesOfVec (v : Vec) : vecOfBytes (bytesOfVec v) = v := by
  rw [vecOfBytes, bytesOfVec, leNat_leBytes_toNat v (by norm_num), BitVec.ofNat_toNat, BitVec.setWidth_eq]

@[simp] theorem bytesOfVec_length (v : Vec) : (bytesOfVec v).length = 32 := leBytes_length 32 _

/-- A field within the bytes `bs`. -/
theorem leField_within {bs : List Byte} {o n : Nat} (pl : List Byte) (h : o + n ≤ bs.length) :
    leField (bs ++ pl) o n = leField bs o n := by
  rw [leField, List.drop_append_of_le_length (by omega), List.take_append_of_le_length (by simp; omega), leField]

/-- A word at the front of a payload. -/
theorem leField_word (w : Word) (pl : List Byte) : leField (leBytes 4 w.toNat ++ pl) 0 4 = w.toNat :=
  leField_front pl w.isLt

/-- A word behind the bytes `bs`. -/
theorem leField_word_after {bs : List Byte} {o : Nat} (w : Word) (pl : List Byte) (h : bs.length = o) :
    leField (bs ++ (leBytes 4 w.toNat ++ pl)) o 4 = w.toNat := by
  rw [leField_beyond _ _ h.le, h, Nat.sub_self, leField_word]

theorem word32_word_after {bs : List Byte} {o : Nat} (w : Word) (pl : List Byte) (h : bs.length = o) :
    word32 (bs ++ (leBytes 4 w.toNat ++ pl)) o = w := by
  rw [word32, leField_word_after w pl h, BitVec.ofNat_toNat, BitVec.setWidth_eq]

theorem vec32_after {bs : List Byte} {o : Nat} (v : Vec) (h : bs.length = o) : vec32 (bs ++ bytesOfVec v) o = v := by
  rw [vec32, ← h, List.drop_left, List.take_of_length_le (bytesOfVec_length v).le, vecOfBytes_bytesOfVec]

/-! ### Items of one size -/

section
variable {α : Type} {f : α → List Byte} {size : Nat} (hf : ∀ x, (f x).length = size)
include hf

theorem length_flatMap_items (l : List α) : (l.flatMap f).length = size * l.length := by
  simp [List.length_flatMap, hf, Nat.mul_comm]

theorem drop_flatMap_items (l : List α) (i : Nat) : (l.flatMap f).drop (size * i) = (l.drop i).flatMap f := by
  induction l generalizing i with
  | nil => simp
  | cons x xs ih =>
    cases i with
    | zero => rfl
    | succ i =>
      have hstep : size * (i + 1) = (f x).length + size * i := by rw [hf, Nat.mul_succ, Nat.add_comm]
      rw [List.flatMap_cons, List.drop_succ_cons, hstep, ← List.drop_drop, List.drop_left, ih]

/-- From item `i` on. -/
theorem drop_flatMap_item {l : List α} {i : Nat} (hi : i < l.length) :
    (l.flatMap f).drop (size * i) = f l[i] ++ (l.drop (i + 1)).flatMap f := by
  rw [drop_flatMap_items hf, List.drop_eq_getElem_cons hi, List.flatMap_cons]

variable (hsize : 0 < size)
include hsize

theorem itemCount (l : List α) : (l.flatMap f).length / size = l.length := by
  rw [length_flatMap_items hf, Nat.mul_div_cancel_left _ hsize]

theorem itemsOf_flatMap (l : List α) : itemsOf (l.flatMap f) size = l.map f := by
  rw [itemsOf, itemCount hf hsize]
  refine List.ext_getElem (by simp) fun i hi _ => ?_
  have hil : i < l.length := by simpa using hi
  rw [List.getElem_map, List.getElem_range, drop_flatMap_item hf hil, List.getElem_map, ← hf l[i], List.take_left]

omit hsize in
/-- A field of item `i`. -/
theorem leField_item {l : List α} {i o n : Nat} (hi : i < l.length) (ho : o + n ≤ size) :
    leField (l.flatMap f) (size * i + o) n = leField (f l[i]) o n := by
  rw [leField, ← List.drop_drop, drop_flatMap_item hf hi]
  exact leField_within _ (by rw [hf]; exact ho)

theorem itemsBad_flatMap {l : List α} {limit : Nat} (hne : l ≠ []) (hlen : l.length ≤ limit) :
    itemsBad (l.flatMap f) size limit = none := by
  have hpos : 0 < size * l.length := Nat.mul_pos hsize (List.length_pos_iff.mpr hne)
  have hle : size * l.length ≤ limit * size := by rw [Nat.mul_comm limit]; exact Nat.mul_le_mul_left _ hlen
  rw [itemsBad, length_flatMap_items hf, if_neg (by omega), Nat.mul_mod_right, if_neg (by omega)]

omit hsize in
/-- No item fails a check that all of them pass. -/
theorem find?_items_none {l : List α} {o : Nat} (ho : o + 4 ≤ size) {bad : Nat → Bool}
    (hbad : ∀ x ∈ l, bad (leField (f x) o 4) = false) :
    (List.range l.length).find? (fun i => bad (leField (l.flatMap f) (size * i + o) 4)) = none := by
  refine List.find?_eq_none.mpr fun i hi => ?_
  have hil := List.mem_range.mp hi
  rw [leField_item hf hil ho, hbad _ (List.getElem_mem hil)]
  exact Bool.false_ne_true

/-- A letter of items that pass all checks runs. -/
theorem itemLetter_runs {l : List α} {e : Env} {limit o : Nat} {ok : Nat → Bool} {s : State} {run : Reply}
    (ho : o + 4 ≤ size) (hne : l ≠ []) (hlen : l.length ≤ if e.cls = 0 then 16 else limit)
    (hok : ∀ x ∈ l, ok (leField (f x) o 4) = true)
    (hexpress : e.cls = 0 → ∀ x ∈ l, expressCapable (leField (f x) o 4) = true) :
    itemLetter e (l.flatMap f) size limit o ok s run = run := by
  have hmany : ¬ (e.cls = 0 ∧ 16 < l.length) := fun ⟨hcls, hn⟩ => by rw [if_pos hcls] at hlen; omega
  have hcap := find?_items_none hf (l := l) ho (bad := fun a => e.cls == 0 && !expressCapable a) fun x hx => by
    simpa using fun hcls => hexpress hcls x hx
  have hall := find?_items_none hf (l := l) ho (bad := fun a => !ok a) fun x hx => by simp [hok x hx]
  simp only [itemLetter, itemRefusal, itemCount hf hsize, if_neg hmany, itemsBad_flatMap hf hsize hne hlen, hcap, hall,
    Option.map_none]

end

/-! ### The items of each letter -/

/-- VWRITE, VARM, READ and VREAD are normal letters (R116). -/
theorem not_express_of_ready {kind : Byte} {s : State} {e : Env} {pl : List Byte} (h : LetterReady kind s e pl)
    (hkind : kind = 3 ∨ kind = 4 ∨ kind = 5 ∨ kind = 6) : e.cls ≠ 0 := by
  intro hcls
  have hfits := classFits_of_ready h
  rw [hcls] at hfits
  obtain rfl | rfl | rfl | rfl := hkind <;> exact absurd hfits (by decide)

def writeItem (i : Word × Word) : List Byte := leBytes 4 i.1.toNat ++ leBytes 4 i.2.toNat
def armItem (i : Word × Word × Word) : List Byte :=
  leBytes 4 i.1.toNat ++ leBytes 4 i.2.1.toNat ++ leBytes 4 i.2.2.toNat
def vwriteItem (i : Word × Vec) : List Byte := leBytes 4 i.1.toNat ++ bytesOfVec i.2
def varmItem (i : Word × Word × Vec) : List Byte :=
  leBytes 4 i.1.toNat ++ leBytes 4 i.2.1.toNat ++ bytesOfVec i.2.2
def readItem (a : Word) : List Byte := leBytes 4 a.toNat

theorem writeItem_length (i) : (writeItem i).length = 8 := by simp [writeItem]
theorem armItem_length (i) : (armItem i).length = 12 := by simp [armItem]
theorem vwriteItem_length (i) : (vwriteItem i).length = 36 := by simp [vwriteItem]
theorem varmItem_length (i) : (varmItem i).length = 40 := by simp [varmItem]
theorem readItem_length (a) : (readItem a).length = 4 := leBytes_length 4 _

@[simp] theorem writeItem_addr (i) : leField (writeItem i) 0 4 = i.1.toNat := leField_word _ _
@[simp] theorem vwriteItem_addr (i) : leField (vwriteItem i) 0 4 = i.1.toNat := leField_word _ _
@[simp] theorem readItem_addr (a) : leField (readItem a) 0 4 = a.toNat := by simpa [readItem] using leField_word a []
@[simp] theorem armItem_line (i) : leField (armItem i) 0 4 = i.1.toNat := by
  rw [armItem, List.append_assoc]; exact leField_word _ _
@[simp] theorem armItem_addr (i) : leField (armItem i) 4 4 = i.2.1.toNat := by
  rw [armItem, List.append_assoc]; exact leField_word_after _ _ (leBytes_length 4 _)
@[simp] theorem varmItem_line (i) : leField (varmItem i) 0 4 = i.1.toNat := by
  rw [varmItem, List.append_assoc]; exact leField_word _ _
@[simp] theorem varmItem_addr (i) : leField (varmItem i) 4 4 = i.2.1.toNat := by
  rw [varmItem, List.append_assoc]; exact leField_word_after _ _ (leBytes_length 4 _)

@[simp] theorem writeItem_value (i) : word32 (writeItem i) 4 = i.2 := by
  simpa [writeItem] using word32_word_after i.2 [] (leBytes_length 4 i.1.toNat)
@[simp] theorem armItem_value (i) : word32 (armItem i) 8 = i.2.2 := by
  simpa [armItem] using word32_word_after (bs := leBytes 4 i.1.toNat ++ leBytes 4 i.2.1.toNat) i.2.2 [] (by simp)
@[simp] theorem vwriteItem_value (i) : vec32 (vwriteItem i) 4 = i.2 := vec32_after _ (leBytes_length 4 _)
@[simp] theorem varmItem_value (i) : vec32 (varmItem i) 8 = i.2.2 := vec32_after _ (by simp)

/-! ### What each letter does -/

section
variable {s : State} {e : Env}

theorem runWrite_done {ws : List (Word × Word)} (hne : ws ≠ []) (hlen : ws.length ≤ if e.cls = 0 then 16 else 256)
    (hok : ∀ i ∈ ws, immediateOk i.1.toNat = true ∧ bankedStation i.1.toNat = false)
    (hexpress : e.cls = 0 → ∀ a ∈ ws.map (·.1), expressCapable a.toNat = true) :
    runWrite s e (ws.flatMap writeItem)
      = .now Ans.done (ws.foldl (fun s i => storeStation s none i.1.toNat i.2) s) := by
  rw [runWrite, itemLetter_runs writeItem_length (by decide) (by decide) hne hlen,
    itemsOf_flatMap writeItem_length (by decide), List.foldl_map]
  · simp only [writeItem_addr, writeItem_value]; rfl
  · intro i hi; simp [hok i hi]
  · intro hcls i hi; rw [writeItem_addr]; exact hexpress hcls _ (List.mem_map_of_mem hi)

theorem runArm_checked {qs : List (Word × Word × Word)} (hne : qs ≠ [])
    (hlen : qs.length ≤ if e.cls = 0 then 16 else 256)
    (hok : ∀ i ∈ qs, lineQualifiedOk i.2.1.toNat = true ∧ bankedStation i.2.1.toNat = false)
    (hexpress : e.cls = 0 → ∀ a ∈ qs.map (·.2.1), expressCapable a.toNat = true) :
    runArm s e (qs.flatMap armItem)
      = armAll s qs.length (qs.map fun i => ⟨i.1.toNat, .scalar i.2.1.toNat i.2.2, none⟩) := by
  rw [runArm, itemLetter_runs armItem_length (by decide) (by decide) hne hlen,
    itemsOf_flatMap armItem_length (by decide), itemCount armItem_length (by decide), List.map_map]
  · simp only [Function.comp_def, armItem_line, armItem_addr, armItem_value]
  · intro i hi; simp [hok i hi]
  · intro hcls i hi; rw [armItem_addr]; exact hexpress hcls _ (List.mem_map_of_mem hi)

theorem runVwrite_done {vs : List (Word × Vec)} (hcls : e.cls ≠ 0) (hne : vs ≠ []) (hlen : vs.length ≤ 64)
    (hok : ∀ i ∈ vs, i.1.toNat % 32 = 0 ∧ vecImmediateOk i.1.toNat = true) :
    runVwrite s e (vs.flatMap vwriteItem) = .now Ans.done (vs.foldl (fun s i => storeVec s i.1.toNat i.2) s) := by
  rw [runVwrite, itemLetter_runs vwriteItem_length (by decide) (by decide) hne (by rwa [if_neg hcls]),
    itemsOf_flatMap vwriteItem_length (by decide), List.foldl_map]
  · simp only [vwriteItem_addr, vwriteItem_value]; rfl
  · intro i hi; simp [hok i hi]
  · exact fun h => absurd h hcls

theorem runVarm_checked {ls : List (Word × Word × Vec)} (hcls : e.cls ≠ 0) (hne : ls ≠ []) (hlen : ls.length ≤ 64)
    (hok : ∀ i ∈ ls, i.2.1.toNat % 32 = 0 ∧ vecLineQualifiedOk i.2.1.toNat = true) :
    runVarm s e (ls.flatMap varmItem)
      = armAll s (8 * ls.length) (ls.map fun i => ⟨i.1.toNat, .vector i.2.1.toNat i.2.2, none⟩) := by
  rw [runVarm, itemLetter_runs varmItem_length (by decide) (by decide) hne (by rwa [if_neg hcls]),
    itemsOf_flatMap varmItem_length (by decide), itemCount varmItem_length (by decide), List.map_map]
  · simp only [Function.comp_def, varmItem_line, varmItem_addr, varmItem_value]
  · intro i hi; simp [hok i hi]
  · exact fun h => absurd h hcls

theorem runRead_done {as : List Word} (hcls : e.cls ≠ 0) (hne : as ≠ []) (hlen : as.length ≤ 60)
    (hok : ∀ a ∈ as, scalarExists a.toNat = true ∧ bankedStation a.toNat = false) :
    runRead s e (as.flatMap readItem)
      = .now (Ans.result (readAll s (as.map (·.toNat))).1) (readAll s (as.map (·.toNat))).2 := by
  rw [runRead, itemLetter_runs readItem_length (by decide) (by decide) hne (by rwa [if_neg hcls]),
    itemsOf_flatMap readItem_length (by decide), List.map_map]
  · simp only [Function.comp_def, readItem_addr]
  · intro i hi; simp [hok i hi]
  · exact fun h => absurd h hcls

theorem runVread_done {as : List Word} (hcls : e.cls ≠ 0) (hne : as ≠ []) (hlen : as.length ≤ 7)
    (hok : ∀ a ∈ as, a.toNat % 32 = 0 ∧ (vView a.toNat).isSome = true) :
    runVread s e (as.flatMap readItem)
      = .now (Ans.result (as.flatMap (fun a => bytesOfVec (readVec s a.toNat)))) s := by
  rw [runVread, itemLetter_runs readItem_length (by decide) (by decide) hne (by rwa [if_neg hcls]),
    itemsOf_flatMap readItem_length (by decide), List.flatMap_map]
  · simp only [readItem_addr]
  · intro i hi; simp [hok i hi]
  · exact fun h => absurd h hcls

/-- Writes that fit are armed in order. -/
theorem armAll_room {α : Type} {need : Nat} {l : List α} {f : α → LqEntry} (h : need ≤ lqFree s) :
    armAll s need (l.map f) = .now Ans.done (l.foldl (fun s x => armLq s (f x)) s) := by
  rw [armAll, if_neg (by omega), List.foldl_map]; rfl

theorem armAll_full {need : Nat} {es : List LqEntry} (h : lqFree s < need) :
    armAll s need es = .now (Ans.refuse 0x14 (lqFree s)) s := by rw [armAll, if_pos h]; rfl

/-! ### Refused -/

theorem itemLetter_refused {pl : List Byte} {size limit o : Nat} {ok : Nat → Bool} {run : Reply} {x : Nat × Nat}
    (h : itemRefusal e pl size limit o ok = some x) : itemLetter e pl size limit o ok s run = refuse s x.1 x.2 := by
  rw [itemLetter, h]

/-- One item in class normal, whose station takes no such store. -/
theorem runWrite_noStation {a v : Word} (hcls : e.cls = 1) (hno : immediateOk a.toNat = false) :
    runWrite s e (writeItem (a, v)) = .now (Ans.refuse 0x13 0) s := by
  refine itemLetter_refused (x := (0x13, 0)) ?_
  simp [itemRefusal, itemsBad, writeItem_length, hcls, hno]

theorem runWrite_tooMany {pl : List Byte} (hcls : e.cls = 0) (hlen : 136 ≤ pl.length) :
    runWrite s e pl = .now (Ans.refuse 0x11 16) s := by
  have hmany : 16 < pl.length / 8 := by omega
  exact itemLetter_refused (x := (0x11, 16)) (if_pos ⟨hcls, hmany⟩)

theorem runWrite_empty : runWrite s e [] = .now (Ans.refuse 0x10 0) s := by
  refine itemLetter_refused (x := (0x10, 0)) ?_
  simp [itemRefusal, itemsBad, badLetter]

end

/-- Settles O41: what the execution of each letter gives, by `answers_of_run`. -/
theorem stationLetterOutcomes : Obligations.StationLetterOutcomes := by
  refine ⟨?_, ?_⟩
  · intro s e ws qs vs ls as
    refine ⟨?_, ?_, ?_, ?_, ?_, ?_⟩
    · rintro pl rfl h hne hlen hok hexpress
      exact answers_of_run h rfl (runWrite_done hne hlen hok hexpress)
    · rintro pl rfl h hne hlen hok hexpress
      have hrun := runArm_checked (s := taken s e (qs.flatMap armItem)) hne hlen hok hexpress
      exact ⟨fun hroom => answers_of_run h rfl (hrun.trans (armAll_room hroom)),
        fun hfull => answers_of_run h rfl (hrun.trans (armAll_full hfull))⟩
    · rintro pl rfl h hne hlen hok
      exact answers_of_run h rfl (runVwrite_done (not_express_of_ready h (by decide)) hne hlen hok)
    · rintro pl rfl h hne hlen hok hroom
      exact answers_of_run h rfl
        ((runVarm_checked (not_express_of_ready h (by decide)) hne hlen hok).trans (armAll_room hroom))
    · rintro pl rfl h hne hlen hok
      exact answers_of_run h rfl (runRead_done (not_express_of_ready h (by decide)) hne hlen hok)
    · rintro pl rfl h hne hlen hok
      exact answers_of_run h rfl (runVread_done (not_express_of_ready h (by decide)) hne hlen hok)
  · intro s e pl a v h
    refine ⟨?_, fun hcls hlen => answers_of_run h rfl (runWrite_tooMany hcls hlen), ?_⟩
    · rintro rfl hno hcls
      exact answers_of_run h rfl (runWrite_noStation hcls hno)
    · rintro rfl
      exact answers_of_run h rfl runWrite_empty

end Sys2Proof.Machine
end

section
/-! INBOX, DRAM_WRITE and DRAM_READ (R342): a DRAM_WRITE at a device of epoch 0 whose twin has joined. -/
namespace Sys2Proof.Machine
open Sys2Proof Sys2Proof.Claims

/-- A DRAM_WRITE to the pair address, one byte for address 0. -/
def pairWrite : Env :=
  { west := false, dest := 0x40, src := 0xFE, cls := 2, stream := 5, kind := 0x14, seq := 5, hops := 130, retx := false,
    wrapped := false, first := true, last := true, bad := false, aux := 0 }
def pairWriteBytes : List Byte := leBytes 8 0 ++ [1]

/-- A ready active whose twin has joined and whose epoch is 0, so that `mirrors` and `solo` both hold; the letter waits
as the next one of its open stream. -/
def joinedAtEpochZero : State :=
  { State.reset with
    boot := { State.reset.boot with phase := .ready }
    twin := { State.reset.twin with role := .active, joined := true }
    round := { State.reset.round with
      inbox := [(pairWrite, pairWriteBytes)], streams := [⟨true, 0xFE, 5, true, 5, []⟩] } }

theorem joinedAtEpochZero_ready : LetterReady 0x14 joinedAtEpochZero pairWrite pairWriteBytes := by decide +kernel

theorem joinedAtEpochZero_mirrors : mirrors joinedAtEpochZero = true := by decide +kernel

/-- The state that the plain write of DRAM leaves, and the one with the data sent to the twin as well. -/
def plainlyWritten : State := dramWrite (taken joinedAtEpochZero pairWrite pairWriteBytes) 0 [1]
def writtenAndSent : State := sendDram plainlyWritten 0 [1]

theorem pairWrite_run : runDramWrite (taken joinedAtEpochZero pairWrite pairWriteBytes) pairWrite pairWriteBytes
    = .now Ans.done writtenAndSent := rfl

/-- The bytes that a stream's change takes in the filling hamper (R339, log entry 21). -/
theorem fillBytes_round (src : Byte) (stream : BitVec 4) (isOpen : Bool) (next : Word) (o : Option Outcome) :
    fillBytes [.round src stream isOpen next o] ≤ 63 := by
  have hsections : sectionsOf [.round src stream isOpen next o]
      = [sectionOf 9 ([JEntry.round src stream isOpen next o].flatMap entryBytes)] := rfl
  have hentry : (entryBytes (.round src stream isOpen next o)).length ≤ 56 := by
    have := Nat.mod_lt (Config.entryLen (sectionKind (.round src stream isOpen next o))) (y := 57) (by decide)
    simp only [entryBytes, statedBytes, Option.getD_none, layoutBytes, List.length_map, List.length_range]
    omega
  simp only [fillBytes, hsections, sectionOf, List.flatMap_cons, List.flatMap_nil, List.append_nil, List.flatten_cons,
    List.flatten_nil, List.length_append, List.length_replicate, leBytes_length, List.length_cons, List.length_nil]
  omega

/-- The change of a letter's stream, as a hamper carries it (R122). -/
def streamEntry (s : State) (e : Env) (a : Ans) : JEntry :=
  .round e.src e.stream (streamOf s e).isOpen (e.seq + 1)
    (if (outcomeOf s e a false).repeatable then none else some (outcomeOf s e a false))

/-- A letter to the pair address that is done journals the change of its stream, where hampers are made. -/
theorem settleLetter_pair_fill {s : State} {e : Env} (hpair : toPair e = true) (hm : mirrors s = true)
    (pl : List Byte) :
    (settleLetter s e pl Ans.done).twin.fill = s.twin.fill ++ [streamEntry s e Ans.done] := by
  obtain ⟨p, q, hs, hreleased, -⟩ := release_round (recordOutcome s e Ans.done false) e false Ans.done
  have hput (x : Stream) : mirrors (putStream s e x) = true := hm
  refine (congrArg (fun t : State => t.twin.fill) hreleased).trans ?_
  simp only [withRound, recordOutcome, journalStream, hpair, if_true, journal, hput]
  rfl

theorem settled_fillRoom {s : State} {e : Env} (hpair : toPair e = true) (hm : mirrors s = true)
    (hempty : s.twin.fill = []) (pl : List Byte) : fillRoom (settleLetter s e pl Ans.done) = true := by
  have hbytes : fillBytes [streamEntry s e Ans.done] ≤ 63 := fillBytes_round _ _ _ _ _
  rw [fillRoom, settleLetter_pair_fill hpair hm, hempty, List.nil_append]
  exact decide_eq_true (by omega)

/-- Refutes O18: at a device that is solo by its epoch 0 and still has a joined twin, a DRAM_WRITE to the pair address
sends its data to the twin, where the statement asks for the write of DRAM alone: its clause tells the two cases apart
by `solo`, the model by `mirrors`. -/
theorem not_memoryLetters : ¬ Obligations.MemoryLetters := by
  unfold Obligations.MemoryLetters
  intro h
  obtain ⟨-, hwrite, -⟩ := h joinedAtEpochZero pairWrite pairWriteBytes [1] 0 0 0
  obtain ⟨halone, -, -⟩ := hwrite joinedAtEpochZero_ready rfl rfl rfl rfl (by decide)
  obtain ⟨-, hclaimed, -⟩ := halone (by decide +kernel) (by decide +kernel)
  have hexec : exec (.dramWrite pairWrite pairWriteBytes) joinedAtEpochZero = .next _ :=
    congrArg Host.Outcome.next (acceptParcel_ready (run := runDramWrite) joinedAtEpochZero_ready rfl rfl rfl)
  obtain ⟨-, hmodel, -⟩ := answers_of_executed joinedAtEpochZero_ready hexec pairWrite_run
  have hplain := hclaimed joinedAtEpochZero_mirrors (by decide) (settled_fillRoom rfl rfl rfl _)
  have hsent := hmodel joinedAtEpochZero_mirrors (by decide) (settled_fillRoom rfl rfl rfl _)
  have hseq := congrArg (fun t : State => t.twin.bseqOut) (Host.Outcome.next.inj (hplain.symm.trans hsent))
  exact absurd hseq (by decide +kernel)

end Sys2Proof.Machine
end

section
/-! Letters outside the table, and the records that letters read and clear (R113, R119, R125 to R128, R137 to R140). -/
namespace Sys2Proof.Machine
open Sys2Proof Sys2Proof.Claims

/-! ### Kinds outside the table (R125) -/

section
variable {s : State} {e : Env} {pl : List Byte} (hunknown : knownKind e.kind = false)
include hunknown

theorem exec_unknownLetterKind : exec (.unknownLetterKind e pl) s = .next (accept e.kind runUnknown s e pl) := by
  show execUnknownLetterKind e pl s = _
  rw [execUnknownLetterKind, hunknown]; rfl

theorem unknown_ne {kind : Byte} (h : knownKind kind = true) : e.kind ≠ kind := by
  rintro rfl
  exact Bool.false_ne_true (hunknown.symm.trans h)

/-- No device that is not active executes it. -/
theorem standbyKind_unknown : standbyKind e.kind = false := by
  have hne (kind : Byte) (h : knownKind kind = true) : e.kind ≠ kind := unknown_ne hunknown h
  simp only [standbyKind, repeatable, Bool.or_eq_false_iff, beq_eq_false_iff_ne]
  exact ⟨⟨⟨⟨hne 5 rfl, hne 6 rfl⟩, hne 0x15 rfl⟩, hne 0x28 rfl⟩, hne 0x2A rfl⟩

end

/-- In the class and stream of ring management it is a dead letter in any case (R113). -/
theorem acceptRing_unknown (s : State) (e : Env) (pl : List Byte) :
    acceptRing runUnknown s e pl = refuseUnsequenced s e pl
      ∨ (ringKind e.kind = true ∧ (slotGet (acceptRing runUnknown s e pl) 15).isOpen = true) := by
  rw [acceptRing]
  by_cases hring : ringKind e.kind = true
  · have hopen : (slotGet (deadLetter s e pl 0x10 0) 15).isOpen = true := by
      obtain ⟨-, -, -, -, -, -, -, -, hslot, -⟩ := deadLetter_law s e pl 0x10 0
      exact hslot
    have hanswered := answerNow_slot (deadLetter s e pl 0x10 0) e (Ans.refuse 0x10 0) 15
    rw [if_pos hring]
    exact Or.inr ⟨hring, (congrArg Slot.isOpen hanswered).trans hopen⟩
  · exact Or.inl (if_neg hring)

/-- Settles O22: the three ways a letter is taken, with what an unknown kind's execution gives. -/
theorem refusedLetters : Obligations.RefusedLetters := by
  intro s e pl b hphase hstop hin hturn hunknown
  have hexec := exec_unknownLetterKind (s := s) (pl := pl) hunknown
  refine ⟨fun hbusy hcls hstream => ?_, fun hbusy => ?_, fun hbusy hcls hstream hopen hseq => ?_⟩
  · have hready : RingReady e.kind s e pl := ⟨hphase, hbusy, hstop, rfl, hin, hturn hbusy, hcls, hstream⟩
    rw [hexec, accept_ring hready]
    exact (acceptRing_unknown (taken s e pl) e pl).imp (congrArg _) fun ⟨hring, hslot⟩ => ⟨hring, _, rfl, hslot⟩
  · rw [hexec, accept_busy hphase hstop hin hbusy]
  · refine ⟨fun hheader => ?_, fun hstandby hpair => ?_⟩
    · have hready : LetterReady e.kind s e pl := ⟨hphase, hbusy, hstop, rfl, hin, hturn hbusy, hcls, hstream, hheader,
        unknown_ne hunknown rfl, hopen, hseq⟩
      exact answers_of_run hready hexec rfl
    · have hheader : headerRefusal (taken s e pl) e = some (0x12, 0) := by
        have hinactive : isActive (taken s e pl) = false := hstandby
        have htwin : solo (taken s e pl) = false := hpair
        rw [headerRefusal, hinactive, htwin, standbyKind_unknown hunknown]; rfl
      have htaken := hexec.trans (congrArg _ (accept_sequenced hphase hstop hin (hturn hbusy) hbusy hcls hstream
        (unknown_ne hunknown rfl) hopen hseq))
      exact answers_alone (by simp [mirrors, hstandby]) htaken (by rw [runChecked, hheader]; rfl)

/-! ### JOB, DEAD_READ, DEAD_CLEAR and STREAM_OPEN -/

/-- The stream that STREAM_OPEN opens, before its outcome is recorded (R119). -/
def openedStream (e : Env) : Stream := ⟨toPair e, e.src, e.stream, true, e.seq, []⟩

/-- The device once the stream is open. -/
def opening (s : State) (e : Env) : State :=
  putStream (if toPair e then journal s (.round e.src e.stream false 0 none) else s) e (openedStream e)

theorem streamOf_opening (s : State) (e : Env) : streamOf (opening s e) e = openedStream e :=
  streamOf_put _ (by simp [openedStream, isStreamOf, toPair])

theorem opening_inbox (s : State) (e : Env) : (opening s e).round.inbox = s.round.inbox := by
  unfold opening
  split
  · obtain ⟨f, hf⟩ := journal_fill s (.round e.src e.stream false 0 none)
    rw [hf]; rfl
  · rfl

/-- STREAM_OPEN's outcome is settled like any other. -/
theorem openStream_settled (s : State) (e : Env) : openStream s e = settleLetter (opening s e) e [] Ans.done := rfl

/-- The opened stream moves on with the outcome of STREAM_OPEN, and the inbox is as before. -/
theorem openStream_law (s : State) (e : Env) :
    streamOf (openStream s e) e = movedOn (opening s e) e Ans.done false
      ∧ (openStream s e).round.inbox = s.round.inbox := by
  obtain ⟨hstream, -⟩ := settleLetter_leaves (opening s e) e [] Ans.done
  obtain ⟨f, p, q, hs, hsettled, -⟩ := settleLetter_law (opening s e) e [] Ans.done
  refine ⟨?_, ?_⟩
  · rw [openStream_settled, hstream, buried_done _ e [] rfl]
  · rw [openStream_settled, hsettled]; exact opening_inbox s e

section
variable {s : State} {e : Env} {pl : List Byte}

theorem runJobLetter_done (h : pl.length = 48) (hjob : jobRefusal s (declOf pl) = none) :
    runJobLetter s e pl = .now Ans.done (declareJob s (declOf pl)) := by
  rw [runJobLetter, lengthBad_exact h, orBad, hjob]; rfl

theorem runJobLetter_refused {c d : Nat} (h : pl.length = 48) (hjob : jobRefusal s (declOf pl) = some (c, d)) :
    runJobLetter s e pl = .now (Ans.refuse c d) s := by
  rw [runJobLetter, lengthBad_exact h, orBad, hjob]; rfl

/-- DEAD_READ of `n` entries from `i` on. -/
theorem runDeadRead_done {i n : Fin 64} (hn : n ≠ 0) :
    runDeadRead s e [BitVec.ofNat 8 i.val, BitVec.ofNat 8 n.val, 0, 0] = .now (Ans.result
      (((((List.range s.round.dead.length).zip s.round.dead).drop i.val).take n.val).flatMap
        (fun x => deadBytes s x.1 x.2))) s := by
  have hi := i.isLt
  have hlt := n.isLt
  have hpos : n.val ≠ 0 := fun h => hn (Fin.ext h)
  have hfirst : leField [BitVec.ofNat 8 i.val, BitVec.ofNat 8 n.val, 0, 0] 0 1 = i.val := by
    simp [leField, leNat]; omega
  have hcount : leField [BitVec.ofNat 8 i.val, BitVec.ofNat 8 n.val, 0, 0] 1 1 = n.val := by
    simp [leField, leNat]; omega
  have hzero : leField [BitVec.ofNat 8 i.val, BitVec.ofNat 8 n.val, 0, 0] 2 2 = 0 := by simp [leField, leNat]
  rw [runDeadRead, lengthBad_exact (n := 4) rfl, orBad, hfirst, hcount, hzero, if_neg (by omega), if_neg (by decide)]

/-- DEAD_CLEAR leaves the queue empty, and counts the overwritten entries from 0. -/
def deadCleared (s : State) : State :=
  setFld { s with round := { s.round with dead := [] } } F.ROUND_RND_DEAD_OVERWRITES 0

end

/-- Settles O20: what the execution of JOB, DEAD_READ and DEAD_CLEAR gives, and the stream of `openStream_law`. -/
theorem jobAndRecordLetters : Obligations.JobAndRecordLetters := by
  intro s e pl i n
  refine ⟨fun h hlen => ⟨fun hjob => ?_, fun c d hjob => ?_⟩, ?_, ?_, ?_⟩
  · exact answers_of_run h rfl (runJobLetter_done hlen hjob)
  · exact answers_of_run h rfl (runJobLetter_refused hlen hjob)
  · rintro h hn rfl
    exact answers_of_run h rfl (runDeadRead_done hn)
  · rintro h rfl
    refine ⟨deadCleared (taken s e []), answers_of_run h rfl rfl, rfl, fun hok => ?_, rfl⟩
    exact fld_setFld_same (s := { taken s e [] with round := { (taken s e []).round with dead := [] } }) hok
      (by decide) 0
  · intro hphase hbusy hstop hkind hin hturn hcls hstream hclosed
    have hexec : exec (.streamOpen e pl) s = .next (openStream (taken s e pl) e) := by
      rw [← accept_streamOpen (run := runStreamOpen) hphase hstop hin hturn hbusy hcls hstream hkind hclosed, hkind]
      rfl
    obtain ⟨hmoved, hinbox⟩ := openStream_law (taken s e pl) e
    have hopened := streamOf_opening (taken s e pl) e
    have hrepeat : repeatable e.kind = false := by rw [hkind]; rfl
    refine ⟨_, hexec, ?_, ?_, ?_, hinbox⟩
    · rw [hmoved, movedOn, hopened]; rfl
    · rw [hmoved]; rfl
    · have hrecord (u : State) : (movedOn u e Ans.done false).record
          = record16 (streamOf u e).record (outcomeOf u e Ans.done false) := if_neg (by simp [outcomeOf, hrepeat])
      rw [hmoved, hrecord, hopened]; rfl

end Sys2Proof.Machine
end

section
/-! Parcels (R118): the next envelope of an open parcel, and the time-out. -/
namespace Sys2Proof.Machine
open Sys2Proof Sys2Proof.Claims

/-! ### What leaves by the twin link -/

/-- `t` is `s` but for what its twin link holds and what the device sends. -/
def OnlyTwinLink (s t : State) : Prop := ∃ twin out, t = { s with twin := twin, out := out }

theorem OnlyTwinLink.refl (s : State) : OnlyTwinLink s s := ⟨s.twin, s.out, rfl⟩

theorem OnlyTwinLink.trans {s t u : State} (h : OnlyTwinLink s t) (g : OnlyTwinLink t u) : OnlyTwinLink s u := by
  obtain ⟨_, _, rfl⟩ := h
  obtain ⟨twin, out, rfl⟩ := g
  exact ⟨twin, out, rfl⟩

theorem OnlyTwinLink.foldl {α : Type} {f : State → α → State} (hf : ∀ s a, OnlyTwinLink s (f s a)) (l : List α)
    (s : State) : OnlyTwinLink s (l.foldl f s) :=
  foldl_inv (OnlyTwinLink s) f (fun t a h => h.trans (hf t a)) l (.refl s)

theorem pumpPort_onlyTwinLink (s : State) : OnlyTwinLink s (pumpPort s .twin) := by
  unfold pumpPort
  dsimp only
  split
  · exact ⟨_, s.out, rfl⟩
  · exact .refl s

theorem sendTwin_onlyTwinLink (s : State) (sp : Space) (e : Env) (bytes : List Byte) (o : Out) :
    OnlyTwinLink s (sendTwin s sp e bytes o) := by
  have hqueued : OnlyTwinLink s (queueFrame s .twin sp e bytes) := .trans ⟨_, s.out, rfl⟩ (pumpPort_onlyTwinLink _)
  exact hqueued.trans ⟨_, _, rfl⟩

theorem sendPostcard_onlyTwinLink (s : State) (release : Bool) : OnlyTwinLink s (sendPostcard s release) := by
  unfold sendPostcard
  split
  · exact .trans ⟨_, s.out, rfl⟩ (sendTwin_onlyTwinLink _ _ _ _ _)
  · exact .refl s

theorem sendBulk_onlyTwinLink (s : State) (b : Bulk) : OnlyTwinLink s (sendBulk s b) :=
  .foldl (fun s _ => .trans ⟨_, s.out, rfl⟩ (sendTwin_onlyTwinLink _ _ _ _ _)) _ s

/-- The part of a parcel's data that is for the twin goes by its link (R342). -/
theorem sendPart_onlyTwinLink (s : State) (e : Env) (all : List Byte) (off : Nat) :
    OnlyTwinLink s (sendPart s e all off) := by
  unfold sendPart
  dsimp only
  split
  · exact .foldl sendBulk_onlyTwinLink _ s
  · exact .refl s

/-! ### The next envelope -/

/-- An envelope that is alone in the inbox is the next to be handled, while its stream awaits no outcome. -/
theorem letterTurn_alone {s : State} {e : Env} {pl : List Byte} (hin : s.round.inbox = [(e, pl)])
    (hwaits : streamWaits s e = false) : letterTurn s e pl = true := by
  simp [letterTurn, hwaits, olderWaits, arrivedBefore, outranked, hin]

/-- The parcel once its next envelope has come (R118). -/
def grown (s : State) (e : Env) (pl : List Byte) (p : Parcel) : Parcel :=
  { p with aux := p.aux + pl.length, data := p.data ++ pl, sent := p.sent && mirrorsData s e }

theorem middleEnvelope_next {s : State} {e : Env} {pl : List Byte} {p : Parcel}
    (hfind : s.round.parcels.find? (parcelIn e) = some p) (hnext : nextOf e p = true)
    (hlen : p.aux + pl.length ≤ 2 ^ 28) :
    ∃ u, OnlyTwinLink s u ∧ middleEnvelope s e pl = some { u with round := { u.round with
      parcels := u.round.parcels.map (fun x => if parcelIn e x then grown s e pl p else x) } } := by
  have hmax : ¬ parcelMax < p.aux + pl.length := Nat.not_lt.mpr hlen
  have hsent : OnlyTwinLink s (if (grown s e pl p).sent then sendPart s e (grown s e pl p).data p.aux else s) := by
    split
    · exact sendPart_onlyTwinLink _ _ _ _
    · exact .refl s
  refine ⟨_, hsent, ?_⟩
  simp only [middleEnvelope, hfind, hnext, if_true, if_neg hmax]
  rfl

/-- Settles O16: the envelope's turn has come and it is the parcel's next one; the time-out finds the parcel first. -/
theorem parcels : Obligations.Parcels := by
  intro s e pl p older newer hparcels
  refine ⟨fun hphase hstop hbusy hwaits hkind hfirst hlast hin hmine hothers hnext hlen => ?_, fun hin hothers => ?_⟩
  · have hfind : (unbox s e pl).round.parcels.find? (parcelIn e) = some p := by
      have hnone : older.find? (parcelIn e) = none := List.find?_eq_none.mpr fun q hq => by simp [hothers q hq]
      show s.round.parcels.find? (parcelIn e) = some p
      rw [hparcels, List.find?_append, hnone, List.find?_cons_of_pos hmine]; rfl
    obtain ⟨u, ⟨twin, out, rfl⟩, hmiddle⟩ := middleEnvelope_next hfind hnext hlen
    have hgo : goEnvelope (unbox s e pl) e pl = middleEnvelope (unbox s e pl) e pl := by
      have hb : (unbox s e pl).round.busy = none := hbusy
      simp only [goEnvelope, hb, hfirst, Bool.false_eq_true, if_false]
    have hexec : exec (.parcelEnvelope e pl) s = .next ((goEnvelope (unbox s e pl) e pl).getD s) := by
      show execParcelEnvelope e pl s = _
      rw [execParcelEnvelope, hkind, hlast, Bool.not_false, Bool.and_self, if_pos rfl,
        acceptWith_boxed hphase (by simp [hin]) hstop (Or.inr (letterTurn_alone hin hwaits))]
    rw [hgo, hmiddle] at hexec
    refine ⟨_, hexec, ?_, ⟨grown (unbox s e pl) e pl p, ?_, rfl, rfl, rfl, rfl⟩, rfl, rfl⟩
    · show s.round.inbox.erase (e, pl) = []
      simp [hin]
    · refine List.mem_map.mpr ⟨p, ?_, if_pos hmine⟩
      show p ∈ s.round.parcels
      simp [hparcels]
  · have hfind : s.round.parcels.find? (fun q => q.dest == p.dest && q.src == p.src && q.stream == p.stream)
        = some p := by
      rw [hparcels, List.find?_append, List.find?_eq_none.mpr fun q hq => by simpa [and_assoc] using hothers q hq,
        List.find?_cons_of_pos (by simp)]
      rfl
    have hnot : p ∉ older := fun hp => hothers p hp ⟨rfl, rfl, rfl⟩
    have hexec : exec (.parcelTimeout p.dest p.src p.stream) s
        = .next { s with round := { s.round with parcels := s.round.parcels.erase p } } := by
      show execParcelTimeout p.dest p.src p.stream s = _
      simp only [execParcelTimeout, hfind, hin, List.any_nil, Bool.false_eq_true, if_false]
    refine ⟨_, hexec, ?_, rfl⟩
    show s.round.parcels.erase p = older ++ newer
    rw [hparcels, List.erase_append_right _ hnot, List.erase_cons_head]

end Sys2Proof.Machine
end

section
/-! Ring management and time letters (R112, R113, R123, R130, R131, R393, R394). -/
namespace Sys2Proof.Machine
open Sys2Proof Sys2Proof.Claims

/-! ### How a ring management letter is answered (R123) -/

section
variable {kind : Byte} {s : State} {e : Env} {pl : List Byte} {run : State → Env → List Byte → Reply}
  (h : RingReady kind s e pl) (hring : ringKind kind = true)
include h hring

theorem accept_ring_answered {a : Ans} {s' : State} (hrun : run (taken s e pl) e pl = .now a s') (hdone : a.code = 0) :
    accept kind run s e pl = answerNow s' e a := by
  obtain ⟨-, -, -, hkind, -⟩ := id h
  rw [accept_ring h, acceptRing, hkind, hring, if_pos rfl, hrun]
  simp only [hdone, if_true]

theorem accept_ring_silent {s' : State} (hrun : run (taken s e pl) e pl = .silent s') :
    accept kind run s e pl = s' := by
  obtain ⟨-, -, -, hkind, -⟩ := id h
  rw [accept_ring h, acceptRing, hkind, hring, if_pos rfl, hrun]

end

/-! ### ASSIGN (R112) -/

section
variable {s : State} {e : Env}

/-- The device with the addresses that ASSIGN gives it. -/
def assigned (s : State) (d p : Byte) : State :=
  alarmMismatch (pairMismatch s) { s with therm := { s.therm with devAddr := some d, pair := some p } }

theorem runAssign_own {d p : Byte} (hd : d.toNat ≤ 0x3F) (hp : p.toNat ≤ 31) :
    runAssign s e ([d, p, 0, 0] ++ leBytes 8 s.therm.dieId.toNat) = .now Ans.done (assigned s d p) := by
  have haddr : leField ([d, p, 0, 0] ++ leBytes 8 s.therm.dieId.toNat) 0 1 = d.toNat := rfl
  have hpair : leField ([d, p, 0, 0] ++ leBytes 8 s.therm.dieId.toNat) 1 1 = p.toNat := rfl
  have hdie : leField ([d, p, 0, 0] ++ leBytes 8 s.therm.dieId.toNat) 4 8 = s.therm.dieId.toNat := by
    rw [leField_beyond _ _ (by simp)]
    simpa using leField_front (n := 8) [] s.therm.dieId.isLt
  have hzeros : zerosBad ([d, p, 0, 0] ++ leBytes 8 s.therm.dieId.toNat) 2 2 = none := rfl
  rw [runAssign, lengthBad_exact (n := 12) (by simp), orBad, hdie, haddr, hpair, hzeros, if_neg (by simp),
    if_neg (by omega), if_neg (by omega)]
  simp [orBad, assigned, done]

theorem runAssign_other {pl : List Byte} (hlen : pl.length = 12) (hdie : leField pl 4 8 ≠ s.therm.dieId.toNat) :
    runAssign s e pl = .silent s := by
  rw [runAssign, lengthBad_exact hlen, orBad, if_pos hdie]

/-! ### The postcard of a standby (R332) -/

theorem exec_assign (s : State) (e : Env) (pl : List Byte) :
    exec (.assign e pl) s = .next (told s (accept 0x41 runAssign s e pl)) := rfl

theorem told_not_standby {s : State} (h : s.twin.role ≠ .standby) (t : State) : told s t = t :=
  if_neg fun ⟨hrole, _⟩ => h hrole

theorem told_eligible {s t : State} (h : selfEligible s = selfEligible t) : told s t = t :=
  if_neg fun ⟨_, _, hne⟩ => hne h

theorem told_therm (s t : State) : (told s t).therm = t.therm := by
  unfold told
  split
  · obtain ⟨twin, out, hsent⟩ := sendPostcard_onlyTwinLink t false
    rw [hsent]
  · rfl

end

theorem ringLetters : Claims.RingLetters := by
  intro s e pl d p
  refine ⟨?_, ?_, ?_, ?_, ?_⟩
  · rintro h rfl
    have hexec : exec (.enumerate e []) s = .next _ :=
      congrArg Host.Outcome.next (accept_ring_answered (run := runEnumerate) h rfl rfl rfl)
    exact ⟨_, _, hexec, rfl, rfl, rfl, rfl, rfl⟩
  · rintro h rfl hd hp u
    have hexec := exec_assign s e ([d, p, 0, 0] ++ leBytes 8 s.therm.dieId.toNat)
    rw [accept_ring_answered h rfl (runAssign_own (s := taken s e _) hd hp) rfl] at hexec
    refine ⟨fun hrole => ?_, fun _ => ⟨_, hexec, told_therm s _, fun hsame => told_eligible hsame⟩⟩
    rw [hexec, told_not_standby hrole]; rfl
  · intro h hlen hdie
    have hexec := exec_assign s e pl
    rw [accept_ring_silent h rfl (runAssign_other (s := taken s e pl) hlen hdie)] at hexec
    exact ⟨fun hrole => by rw [hexec, told_not_standby hrole], fun _ => ⟨_, hexec, told_therm s _⟩⟩
  · rintro h rfl
    exact congrArg Host.Outcome.next (accept_ring_answered (run := runLinkStatus) h rfl rfl rfl)
  · rintro h rfl
    exact congrArg Host.Outcome.next (accept_ring_answered (run := runStatus) h rfl rfl rfl)

/-! ### A SYNC taken (R393, R394) -/

/-- `t` has the Round interface of `s`, and the time and interval of its last SYNC. -/
def SameSync (s t : State) : Prop :=
  t.round = s.round ∧ t.clk.lastSync = s.clk.lastSync ∧ t.clk.period = s.clk.period

theorem syncStep_sameSync (s : State) (o : Int) : SameSync s (syncStep s o) := by
  unfold syncStep
  dsimp only
  split
  · exact ⟨by rw [alarm_round]; rfl, by rw [alarm_clk]; rfl, by rw [alarm_clk]; rfl⟩
  · exact ⟨rfl, rfl, rfl⟩

theorem SameSync.ite {c : Prop} [Decidable c] {s t u : State} (ht : SameSync s t) (hu : SameSync s u) :
    SameSync s (if c then t else u) := iteInduction (fun _ => ht) (fun _ => hu)

theorem takeSync_sameSync (s : State) (o : Int) (inc : Word) : SameSync s (takeSync s o inc) :=
  have hstep := syncStep_sameSync (setFldInt s F.TIME_TB_OFFSET (sat32 (o / 4096))) o
  have hnote : SameSync s s := ⟨rfl, rfl, rfl⟩
  .ite hstep (.ite (.ite hnote hstep) (.ite (.ite (.ite hstep hnote) hnote) (.ite (.ite hnote hnote) hnote)))

/-- ACQUIRE is entered with a step of TB-PRESS by the rounded offset. -/
theorem syncStep_law {s : State} (h : StnOk s) (o : Int) :
    fld (syncStep s o) F.TIME_TB_SYNC_STAT_STATE = 1
      ∧ (syncStep s o).clk.step[(0 : Fin 4)] = s.clk.step[(0 : Fin 4)] + BitVec.ofInt 32 (roundNs o)
      ∧ (syncStep s o).clk.acquired = true := by
  have hacquire : StnOk (addStep (setFld s F.TIME_TB_SYNC_STAT_STATE syncAcquire) 0 (BitVec.ofInt 32 (roundNs o))) :=
    setFld_ok h F.TIME_TB_SYNC_STAT_STATE syncAcquire
  have hstate : fld (incFld (addStep (setFld s F.TIME_TB_SYNC_STAT_STATE syncAcquire) 0 (BitVec.ofInt 32 (roundNs o)))
      F.TIME_TB_SYNC_STAT_STEPS) F.TIME_TB_SYNC_STAT_STATE = 1 := by
    rw [incFld, addFld, fld_setFld_bits hacquire _ (by decide) (by decide)]
    exact fld_setFld_same h (by decide) _
  have hstep : (s.clk.step.set (0 : Fin 4) (s.clk.step[(0 : Fin 4)] + BitVec.ofInt 32 (roundNs o)))[(0 : Fin 4)]
      = s.clk.step[(0 : Fin 4)] + BitVec.ofInt 32 (roundNs o) := Vector.getElem_set_self ..
  unfold syncStep
  dsimp only
  split
  · rename_i hacquired
    refine ⟨?_, ?_, ?_⟩
    · rw [fld, stnWord, alarm_stn]; exact hstate
    · exact (congrArg (fun c : Clk => c.step[(0 : Fin 4)]) (alarm_clk _ _ _)).trans hstep
    · rw [alarm_clk]; exact hacquired
  · exact ⟨hstate, hstep, rfl⟩

/-- The device once it has noted a SYNC: its time and its interval (R393). -/
def syncNoted (s : State) (pl : List Byte) : State :=
  { s with clk := { s.clk with lastSync := s.clk.now, period := word32 pl 16 } }

theorem runSync_taken {s : State} {e : Env} {pl : List Byte} (hlen : pl.length = 20) (t : Nat) (inc : Word) :
    runSync t inc s e pl = .silent (takeSync (syncNoted s pl) (syncOffset s e.west pl (pressLatch s t)) inc) := by
  rw [runSync, lengthBad_exact hlen]; rfl

theorem dropBusyBroadcast_idle {s : State} (hbusy : s.round.busy = none) (e : Env) (pl : List Byte) :
    dropBusyBroadcast s e pl = s := by simp [dropBusyBroadcast, hbusy]

/-- The first SYNC enters ACQUIRE (R394). -/
theorem takeSync_first {s : State} (hfree : fld s F.TIME_TB_SYNC_STAT_STATE = 0) (h : StnOk s) (o : Int) (inc : Word) :
    takeSync s o inc = syncStep (setFldInt s F.TIME_TB_OFFSET (sat32 (o / 4096))) o := by
  have hfld : fld (setFldInt s F.TIME_TB_OFFSET (sat32 (o / 4096))) F.TIME_TB_SYNC_STAT_STATE = syncFree := by
    rw [setFldInt, fld_setFld_addr h _ (by decide), hfree]; rfl
  exact if_pos hfld

theorem sync_law {s : State} {e : Env} {pl : List Byte} (h : RingReady 0x48 s e pl) (hlen : pl.length = 20)
    (hok : StnOk s) (t : Nat) (inc : Word) :
    ∃ u, accept 0x48 (runSync t inc) s e pl = u ∧ u.clk.lastSync = s.clk.now
      ∧ u.clk.period = BitVec.ofNat 32 (leNat ((pl.drop 16).take 4)) ∧ u.round.inbox = s.round.inbox.erase (e, pl)
      ∧ (fld s F.TIME_TB_SYNC_STAT_STATE = 0 → fld u F.TIME_TB_SYNC_STAT_STATE = 1
          ∧ u.clk.step[(0 : Fin 4)]
              = s.clk.step[(0 : Fin 4)] + BitVec.ofInt 32 (roundNs (syncOffset s e.west pl (pressLatch s t)))
          ∧ u.clk.acquired = true) := by
  obtain ⟨hround, hlast, hperiod⟩ := takeSync_sameSync (syncNoted (taken s e pl) pl)
    (syncOffset s e.west pl (pressLatch s t)) inc
  refine ⟨_, accept_ring_silent h rfl (runSync_taken (s := taken s e pl) hlen t inc), hlast, hperiod,
    congrArg (fun r : Round => r.inbox) hround, fun hfree => ?_⟩
  have hnoted : StnOk (syncNoted (taken s e pl) pl) := hok
  rw [takeSync_first (s := syncNoted (taken s e pl) pl) hfree hnoted]
  exact syncStep_law (setFld_ok hnoted _ _) _

/-! ### Link delays (R130, R131) -/

/-- A letter taken changes no address, no time base and no latch. -/
theorem timeEnv_taken (s : State) (e : Env) (pl : List Byte) (west : Bool) (kind : Byte) :
    timeEnv (taken s e pl) west kind = timeEnv s west kind := rfl
theorem pressLatch_taken (s : State) (e : Env) (pl : List Byte) (t : Nat) :
    pressLatch (taken s e pl) t = pressLatch s t := rfl
theorem residence_taken (s : State) (e : Env) (pl : List Byte) (t2 t3 : Nat) :
    residence (taken s e pl) t2 t3 = residence s t2 t3 := rfl
theorem clk_taken (s : State) (e : Env) (pl : List Byte) : (taken s e pl).clk = s.clk := rfl

theorem runDelayReq_answers (t2 t3 : Nat) (s : State) (e : Env) : runDelayReq t2 t3 s e (leBytes 8 0)
    = .silent (sendEnv s e.west (timeEnv s e.west 0x4A) (leBytes 8 (residence s t2 t3))) := rfl

theorem delayReq_law {s : State} {e : Env} (h : RingReady 0x49 s e (leBytes 8 0)) (t2 t3 : Nat) :
    accept 0x49 (runDelayReq t2 t3) s e (leBytes 8 0) = sendEnv (taken s e (leBytes 8 0)) e.west
      (timeEnv s e.west 0x4A) (leBytes 8 (residence s t2 t3)) := by
  rw [accept_ring_silent h rfl (runDelayReq_answers t2 t3 _ e), timeEnv_taken, residence_taken]

theorem leField_whole {pl : List Byte} {n : Nat} (h : pl.length = n) : leField pl 0 n = leNat pl := by
  rw [leField, List.drop_zero, List.take_of_length_le h.le]

/-- The delay of a link whose DELAY_REQ left at `t1` (R131). -/
def linkDelay (s : State) (t4 : Nat) (t1 : Int) (pl : List Byte) : Int := (pressLatch s t4 - t1 - leNat pl) / 2

section
variable {s : State} {e : Env} {pl : List Byte} {t1 : Int} (h : RingReady 0x4A s e pl) (hlen : pl.length = 8) (t4 : Nat)
include h hlen

theorem delayResp_east (hwest : e.west = false) (hreq : s.clk.reqEast = some t1) :
    accept 0x4A (runDelayResp t4) s e pl = { taken s e pl with
      clk := { s.clk with delayEast := linkDelay s t4 t1 pl, reqEast := none } } := by
  refine accept_ring_silent h rfl ?_
  simp only [runDelayResp, lengthBad_exact hlen, orBad, hwest, clk_taken, hreq, leField_whole hlen, pressLatch_taken]
  rfl

theorem delayResp_west (hwest : e.west = true) (hreq : s.clk.reqWest = some t1) :
    accept 0x4A (runDelayResp t4) s e pl = { taken s e pl with
      clk := { s.clk with delayWest := linkDelay s t4 t1 pl, reqWest := none } } := by
  refine accept_ring_silent h rfl ?_
  simp only [runDelayResp, lengthBad_exact hlen, orBad, hwest, clk_taken, hreq, leField_whole hlen, pressLatch_taken]
  rfl

end

theorem delayReqSend_law {s : State} (hphase : s.boot.phase = .ready) (t t' : Nat) :
    ∃ u, exec (.delayReqSend t t') s = .next u ∧ u.clk.reqEast = some (pressLatch (advanceTo s (max t t')) t)
      ∧ u.clk.reqWest = some (pressLatch (advanceTo s (max t t')) t') := by
  have hready : ¬ (s.boot.phase != .ready) = true := by rw [hphase]; decide
  exact ⟨_, if_neg hready, rfl, rfl⟩

theorem timeLetters : Claims.TimeLetters := by
  intro s e pl inc t t' t1 at1 at2
  refine ⟨fun h hlen hok => ?_, ?_, fun hphase => delayReqSend_law hphase t t', fun h hlen hwest hreq => ?_,
    fun h hlen hwest hreq => ?_, fun hphase hbusy hstop hkind hin hturn hcls hstream => ?_⟩
  · obtain ⟨hphase, hbusy, -⟩ := id h
    obtain ⟨u, hu, hlaws⟩ := sync_law h hlen hok t inc
    refine ⟨u, ?_, hlaws⟩
    show Host.Outcome.next (accept 0x48 (runSync t inc) (dropBusyBroadcast at1 _ pl) e pl) = _
    rw [dropBusyBroadcast_idle hbusy, hu]
  · rintro h rfl
    exact congrArg Host.Outcome.next (delayReq_law h t' t)
  · exact ⟨_, congrArg Host.Outcome.next (delayResp_east h hlen t hwest hreq), rfl, rfl, rfl⟩
  · exact ⟨_, congrArg Host.Outcome.next (delayResp_west h hlen t hwest hreq), rfl, rfl, rfl⟩
  · have hmisfit : ((e.cls == 3) != (e.stream == 15)) = true := by
      rw [beq_eq_false_iff_ne.mpr hcls, hstream]; rfl
    show Host.Outcome.next (accept 0x48 (runSync t inc) (dropBusyBroadcast at1 _ pl) e pl) = _
    rw [dropBusyBroadcast_idle hbusy, ← hkind, accept_unsequenced hphase hstop hin hturn hbusy hmisfit]

/-- Settles O55: the two claims. -/
theorem ringAndTimeLetters : Obligations.RingAndTimeLetters := ⟨ringLetters, timeLetters⟩

end Sys2Proof.Machine
end

section
/-! The feed: its frames (R133 to R149, R224) and its deadlines (R146, R147). -/
namespace Sys2Proof.Machine
open Sys2Proof Sys2Proof.Claims

/-! ### What a postcard leaves alone -/

theorem told_onlyTwinLink (s t : State) : OnlyTwinLink t (told s t) := by
  unfold told
  split
  · exact sendPostcard_onlyTwinLink t false
  · exact .refl t

@[simp] theorem told_jobs (s t : State) : (told s t).jobs = t.jobs := by
  obtain ⟨_, _, hsent⟩ := told_onlyTwinLink s t
  rw [hsent]

@[simp] theorem jobOf_told (s t : State) (next : Bool) : jobOf (told s t) next = jobOf t next := by
  rw [jobOf, told_jobs]; rfl

@[simp] theorem slotGet_told (s t : State) (n : Nat) : slotGet (told s t) n = slotGet t n := by
  obtain ⟨_, _, hsent⟩ := told_onlyTwinLink s t
  rw [hsent]; rfl

@[simp] theorem fld_told (s t : State) (f : Fld) : fld (told s t) f = fld t f :=
  congrArg (fldOf f) ((told_same s t).word f.addr)

/-! ### The job of a frame -/

@[simp] theorem jobOf_putJob (s : State) (next : Bool) (j : JobRun) : jobOf (putJob s next j) next = some j := by
  cases next <;> rfl

@[simp] theorem putJob_dram (s : State) (next : Bool) (j : JobRun) : (putJob s next j).dram = s.dram := by
  cases next <;> rfl

/-- An operation that leaves the jobs alone leaves the frame's job alone. -/
theorem jobOf_congr {s t : State} (h : t.jobs = s.jobs) (next : Bool) : jobOf t next = jobOf s next := by
  rw [jobOf, h]; rfl

/-- A frame that passes the checks has the effect of its type (R136). -/
theorem takeFeed_good {s : State} {f : FeedFrame} {next : Bool} {j : JobRun} {t : Byte} (h : GoodFrame s f next j t)
    (m : Nat) : takeFeed f m s
      = if t = 1 then feedLineFrame s next j f m else if t = 2 then feedPageFrame s next j f none
        else if t = 3 then feedPageFrame s next j f (some f.slot.toNat) else if t = 4 then feedLibFrame s j f
        else feedEndFrame s next j f := by
  obtain ⟨hblocks, hroom, hcrc, hlen, hheader, hjob, hfits, hhalt, rfl⟩ := h
  simp [takeFeed, hblocks, hroom, hcrc, hlen, hheader, hjob, hfits, hhalt]

/-! ### LINE (R136, R142, R145) -/

/-- The rows of the press follow from the pods' configuration words. -/
theorem allRows_congr {s t : State} (h : ∀ p, stnWord t (0x43000100 + p * 0x40) = stnWord s (0x43000100 + p * 0x40)) :
    allRows t = allRows s := by
  have hfitted : fitted t = fitted s := by funext p; rw [fitted, fitted, fldB, fldB, fld, fld, h]
  have hdepth : ∀ p, depthOf t p = depthOf s p := fun p => by rw [depthOf, depthOf, fld, fld, h]
  have hinterleave : ∀ p, ilOf t p = ilOf s p := fun p => by rw [ilOf, ilOf, fldB, fldB, fld, fld, h]
  have hrows : rowsOf t = rowsOf s := by funext p; rw [rowsOf, rowsOf, hdepth, hinterleave]
  rw [allRows, allRows, pods, pods, hfitted, hrows]

/-- Whether a ring entry is busy turns on the rows and on what they have fired. -/
theorem entryBusy_congr {s t : State} (hrows : allRows t = allRows s) (hfired : t.plc2 = s.plc2) (next : Bool)
    (j : JobRun) (pair : Nat) : entryBusy t next j pair = entryBusy s next j pair := by
  have hall : firedAll t = firedAll s := by funext l; rw [firedAll, firedAll, hrows, hfired]
  rw [entryBusy, entryBusy, hall]

/-- The blocks of a pair of contone lines. -/
def pairBlocks (d : Decl) (top bot : List Nat) : List (List Nat) := (List.range (bprOf d)).map (blockOf d top bot)

/-- The coding of a pair is counted (R152, R171). -/
def countPair (s : State) (next : Bool) (d : Decl) (top bot : List Nat) (m : Nat) : State :=
  let s := if m = 1 then incFld s F.PKR_VERIFY_RETRY else s
  if next then s
  else addFld s F.PKR_COARSE
    ((pairBlocks d top bot).filter (fun x => decide (designStep d.ratio < blockStep d.depth d.ratio x))).length

theorem countPair_dram (s : State) (next : Bool) (d : Decl) (top bot : List Nat) (m : Nat) :
    (countPair s next d top bot m).dram = s.dram := by
  unfold countPair
  dsimp only
  repeat' split
  all_goals rfl

/-- A counter of the Packer is no word of the pods' configuration. -/
theorem entryBusy_addFld {s : State} (h : StnOk s) {f : Fld} (hf : f.addr < 0x43000100) (n : Nat) (next : Bool)
    (j : JobRun) (pair : Nat) : entryBusy (addFld s f n) next j pair = entryBusy s next j pair :=
  entryBusy_congr (allRows_congr fun _ => stnWord_setFld_other h _ (by omega)) rfl next j pair

theorem entryBusy_countPair {s : State} (h : StnOk s) (next : Bool) (j : JobRun) (d : Decl) (top bot : List Nat)
    (m pair : Nat) : entryBusy (countPair s next d top bot m) next j pair = entryBusy s next j pair := by
  have hretry : ∀ t, t = (if m = 1 then incFld s F.PKR_VERIFY_RETRY else s) →
      StnOk t ∧ entryBusy t next j pair = entryBusy s next j pair := by
    rintro t rfl
    split
    · exact ⟨setFld_ok h _ _, entryBusy_addFld h (by decide) 1 next j pair⟩
    · exact ⟨h, rfl⟩
  obtain ⟨hok, hsame⟩ := hretry _ rfl
  unfold countPair
  dsimp only
  split
  · exact hsame
  · rw [entryBusy_addFld hok (by decide), hsame]

/-- The lines of the pair from `c` that are not late yet (R146). -/
def newlyLate (j : JobRun) (c : Nat) : List Nat := [c, c + 1].filter (fun x => !j.late.contains x)

/-- A pair that is coded goes to its place in the store, or is late where its place is still busy (R145). -/
theorem writePair_eq {m : Nat} (hm : m ≠ 2) (s : State) (next : Bool) (j : JobRun) (c : Nat) (top bot : List Nat) :
    writePair s next j c top bot m
      = if entryBusy (countPair s next j.decl top bot m) next j (c / 2) then
          alarm (addFld (putJob (countPair s next j.decl top bot m) next
            { j with late := j.late ++ newlyLate j c }) F.FEED_LATE (newlyLate j c).length) 31 []
        else putJob (dramWrite (countPair s next j.decl top bot m) (storeAddr j.decl (c / 2) 0)
            ((pairBlocks j.decl top bot).flatMap (encodeBlock j.decl.depth j.decl.ratio))) next { j with
          ring := spPut (fun _ => 2 ^ 40) j.ring (c / 2 % j.decl.storeRows) (c / 2)
          firstPair := j.firstPair <|> some (c / 2) } := if_neg hm

/-- Of its job a pair changes the ring, the first pair written and the late lines. -/
theorem writePair_job {m : Nat} (hm : m ≠ 2) (s : State) (next : Bool) (j : JobRun) (c : Nat) (top bot : List Nat) :
    ∃ ring first late, jobOf (writePair s next j c top bot m) next
      = some { j with ring := ring, firstPair := first, late := late } := by
  rw [writePair_eq hm]
  split
  · refine ⟨j.ring, j.firstPair, j.late ++ newlyLate j c, ?_⟩
    rw [jobOf_congr ((alarm_jobs _ _ _).trans (addFld_jobs _ _ _)), jobOf_putJob]
  · exact ⟨_, _, j.late, jobOf_putJob _ next _⟩

theorem writePair_dram {s : State} {next : Bool} {j : JobRun} {c : Nat} (hok : StnOk s)
    (hfree : entryBusy s next j (c / 2) = false) (top bot : List Nat) :
    (writePair s next j c top bot 0).dram = (dramWrite s (storeAddr j.decl (c / 2) 0)
      ((pairBlocks j.decl top bot).flatMap (encodeBlock j.decl.depth j.decl.ratio))).dram := by
  rw [writePair_eq (by decide), entryBusy_countPair hok, hfree, if_neg Bool.false_ne_true, putJob_dram,
    dramWrite_dram, dramWrite_dram, countPair_dram]

/-- A line taken joins the lines taken, and no page changes. -/
theorem takeFeedLine_job {m : Nat} (hm : m ≠ 2) (s : State) (next : Bool) (j : JobRun) (p : Page) (c : Nat)
    (x : List Nat) : ∃ j', jobOf (takeFeedLine s next j p c x m) next = some j' ∧ j'.taken = j.taken ++ [c]
      ∧ j'.pages = j.pages := by
  have hpair : ∀ (k : JobRun) (e : Nat) (top bot : List Nat), k.taken = j.taken ++ [c] → k.pages = j.pages →
      ∃ j', jobOf (writePair s next k e top bot m) next = some j' ∧ j'.taken = j.taken ++ [c]
        ∧ j'.pages = j.pages := by
    intro k e top bot htaken hpages
    obtain ⟨ring, first, late, hjob⟩ := writePair_job hm s next k e top bot
    exact ⟨_, hjob, htaken, hpages⟩
  unfold takeFeedLine
  dsimp only
  split
  · exact hpair _ _ _ _ rfl rfl
  · split
    · split
      · exact hpair _ _ _ _ rfl rfl
      · exact hpair _ _ _ _ rfl rfl
    · exact ⟨_, jobOf_putJob _ _ _, rfl, rfl⟩

/-- The lines still held once line `c` has come: an even one that `c` passes over is lost (R142). -/
def stillHeld (j : JobRun) (c : Nat) : List (Nat × List Nat) :=
  j.held.filter (fun h => h.1 % 2 == 1 || decide (c ≤ h.1 + 1))

theorem stillHeld_find {j : JobRun} {c : Nat} {y : List Nat}
    (hheld : j.held.find? (fun h => h.1 == c - 1) = some (c - 1, y)) :
    (stillHeld j c).find? (fun h => h.1 == c - 1) = some (c - 1, y) := by
  rw [stillHeld, List.find?_filter, ← hheld]
  congr 1
  funext h
  by_cases hmate : h.1 = c - 1
  · simp [hmate]; omega
  · simp [hmate]

/-- An odd line whose partner is held completes its pair (R142). -/
theorem takeFeedLine_pair {s : State} {next : Bool} {j : JobRun} {c : Nat} {y : List Nat} (hodd : c % 2 = 1)
    (hheld : j.held.find? (fun h => h.1 == c - 1) = some (c - 1, y)) (p : Page) (x : List Nat) (m : Nat) :
    ∃ held, takeFeedLine s next j p c x m
      = writePair s next { j with taken := j.taken ++ [c], held := held } (c - 1) y x m := by
  have heven : ¬ c % 2 = 0 := by omega
  refine ⟨(stillHeld j c).filter (fun h => h.1 != c - 1), ?_⟩
  unfold takeFeedLine
  dsimp only
  rw [if_neg (fun h => heven h.1), if_neg heven, ← stillHeld, stillHeld_find hheld]
  dsimp only
  rw [if_neg heven]

theorem feedLineFrame_takes {s : State} {next : Bool} {j : JobRun} {f : FeedFrame} {p : Page}
    (hpage : j.pages.find? (fun p => p.recorded && p.slot.isNone && decide (p.first ≤ f.number.toNat)
      && decide (f.number.toNat < p.first + p.count)) = some p)
    (hnew : j.taken.contains f.number.toNat = false) (m : Nat) :
    feedLineFrame s next j f m = takeFeedLine s next j p f.number.toNat (lineSamples j.decl f.payload) m := by
  unfold feedLineFrame
  dsimp only
  rw [hpage]
  dsimp only
  rw [hnew, if_neg Bool.false_ne_true]

/-! ### PAGE and REPLAY (R143, R149, R225) -/

/-- A page without its place. -/
def unplaced (p : Page) : Page := { p with p := none }

/-- One page after another takes its place (R225). -/
def placeOne (yres : Nat) (acc : List Page × Nat) (p : Page) : List Page × Nat :=
  (acc.1 ++ [{ p with p := some (p.p.getD acc.2) }], p.p.getD acc.2 + (3 - yres) * p.count)

theorem placeOne_unplaced (yres : Nat) (ps : List Page) (acc : List Page × Nat) :
    (ps.foldl (placeOne yres) acc).1.map unplaced = (acc.1 ++ ps).map unplaced := by
  induction ps generalizing acc with
  | nil => simp
  | cons p ps ih => rw [List.foldl_cons, ih]; simp [placeOne, unplaced]

/-- Contiguous placing gives the running job's pages places and changes nothing else of it. -/
theorem placeContiguous_job {s : State} {j : JobRun} (h : jobOf s false = some j) :
    ∃ ps, jobOf (placeContiguous s) false = some { j with pages := ps }
      ∧ ps.map unplaced = j.pages.map unplaced := by
  have hrun : s.jobs.running = some j := h
  unfold placeContiguous
  split
  · exact ⟨j.pages, h, rfl⟩
  · rw [hrun]
    exact ⟨_, rfl, placeOne_unplaced j.decl.yres j.pages ([], 0)⟩

/-- The page that a PAGE or REPLAY frame announces. -/
def framePage (f : FeedFrame) (slot : Option Nat) (free : Bool) : Page :=
  ⟨f.number.toNat, leField f.payload 0 4, leField f.payload 4 4, slot, free, none⟩

/-- The job with that page announced. -/
def announcing (j : JobRun) (f : FeedFrame) (slot : Option Nat) (free : Bool) : JobRun :=
  { j with
    pages := j.pages ++ [framePage f slot free]
    nextFirst := leField f.payload 0 4 + (leField f.payload 4 4 + 1) / 2 * 2
    lastPage := some f.number.toNat
    records := Nat.min 1024 (if free then j.records + 1 else j.records) }

section
variable {s : State} {next : Bool} {j : JobRun} {f : FeedFrame} {slot : Option Nat}
  (hnumber : ∀ n, j.lastPage = some n → n < f.number.toNat) (hfirst : leField f.payload 0 4 = j.nextFirst)
  (hcount : leField f.payload 4 4 ≠ 0)
include hnumber hfirst hcount

/-- A page that follows is announced; in the running job it may be placed at once. -/
theorem feedPageFrame_follows : ∃ u, feedPageFrame s next j f slot
    = if next then putJob u next (announcing j f slot (recordFree s next j))
      else placeContiguous (putJob u next (announcing j f slot (recordFree s next j))) := by
  have hafter : (match j.lastPage with | some n => decide (n < f.number.toNat) | none => true) = true := by
    cases hlast : j.lastPage with
    | none => rfl
    | some n => exact decide_eq_true (hnumber n hlast)
  have hfollows : ¬ (!(match j.lastPage with | some n => decide (n < f.number.toNat) | none => true)
      || leField f.payload 0 4 != j.nextFirst || leField f.payload 4 4 == 0) = true := by
    rw [hafter, hfirst]; simp [hcount]
  exact ⟨_, if_neg hfollows⟩

theorem feedPageFrame_announces : ∃ j' q, jobOf (feedPageFrame s next j f slot) next = some j'
    ∧ j'.pages.getLast? = some q ∧ j'.pages.length = j.pages.length + 1 ∧ q.number = f.number.toNat
    ∧ q.first = leField f.payload 0 4 ∧ q.count = leField f.payload 4 4 ∧ q.slot = slot
    ∧ j'.nextFirst = leField f.payload 0 4 + (leField f.payload 4 4 + 1) / 2 * 2
    ∧ j'.lastPage = some f.number.toNat := by
  generalize hfree : recordFree s next j = free
  have hjob : ∃ ps, jobOf (feedPageFrame s next j f slot) next = some { announcing j f slot free with pages := ps }
      ∧ ps.map unplaced = (j.pages ++ [framePage f slot free]).map unplaced := by
    obtain ⟨u, hframe⟩ := feedPageFrame_follows (s := s) (next := next) (slot := slot) hnumber hfirst hcount
    rw [hframe, hfree]
    cases next with
    | true => exact ⟨_, jobOf_putJob _ true _, rfl⟩
    | false => exact placeContiguous_job (jobOf_putJob u false _)
  obtain ⟨ps, hps, hsame⟩ := hjob
  have hlen : ps.length = j.pages.length + 1 := by simpa using congrArg List.length hsame
  have hlast : ps.getLast?.map unplaced = some (unplaced (framePage f slot free)) := by
    rw [← List.getLast?_map, hsame]; simp
  obtain ⟨q, hq, hunplaced⟩ := Option.map_eq_some_iff.mp hlast
  obtain ⟨hnumber, hfirst, hcount, hslot, -⟩ := Page.mk.inj hunplaced
  exact ⟨_, q, hps, hq, hlen, hnumber, hfirst, hcount, hslot, rfl, rfl⟩

end

/-! ### LIB (R148) -/

theorem feedLibFrame_writes {s : State} {j : JobRun} {f : FeedFrame} (hslot : f.slot.toNat < j.decl.libSlots)
    (hrow : f.number.toNat < j.decl.libSlotRows) (hidle : slotReplayed s f.slot.toNat = false)
    (hvalid : (libBlocks j.decl f.payload).all (blockValid j.decl.depth j.decl.ratio) = true) :
    (feedLibFrame s j f).dram = (dramWrite s (libAddr j.decl f.slot.toNat f.number.toNat 0)
        (f.payload.take (bprOf j.decl * blkOf j.decl))).dram
      ∧ (libMatches s j.decl = true → (f.slot.toNat, f.number.toNat) ∈ (feedLibFrame s j f).jobs.libRows) := by
  have hin : ¬ (j.decl.libSlots ≤ f.slot.toNat ∨ j.decl.libSlotRows ≤ f.number.toNat) := by omega
  unfold feedLibFrame
  dsimp only
  rw [if_neg hin, hidle, if_neg Bool.false_ne_true, hvalid, Bool.not_true, if_neg Bool.false_ne_true]
  split
  · refine ⟨rfl, fun _ => ?_⟩
    dsimp only
    split
    · next hknown => exact List.contains_iff_mem.mp hknown
    · exact List.mem_append_right _ (List.mem_singleton_self _)
  · next hother => exact ⟨rfl, fun hmine => absurd hmine hother⟩

/-! ### JOB_END (R224) -/

/-- JOB_END fixes the number of lines; where the last print line is not known yet, nothing else happens. -/
theorem feedEndFrame_fixes {s : State} {next : Bool} {j : JobRun} {f : FeedFrame} (hopen : j.jobEnd = none)
    (hannounced : announcedLines j ≤ leField f.payload 0 4) (hlines : next = false → leField f.payload 0 4 ≠ 0)
    (hlast : lastOf { j with jobEnd := some (leField f.payload 0 4) } = none) :
    feedEndFrame s next j f = putJob s next { j with jobEnd := some (leField f.payload 0 4) } := by
  have hgood : ¬ (j.jobEnd.isSome || decide (leField f.payload 0 4 < announcedLines j)) = true := by
    simpa [hopen] using hannounced
  have hsome : ¬ (leField f.payload 0 4 = 0 ∧ (!next) = true) := fun ⟨hzero, hrun⟩ =>
    hlines (by simpa using hrun) hzero
  unfold feedEndFrame
  dsimp only
  rw [if_neg hgood, if_neg hsome, hlast]
  cases next <;> rfl

/-! ### The frames -/

theorem feedFrames : Claims.FeedFrames := by
  intro s f next j p y m
  refine ⟨fun hgood hnew hm hpage => ?_, fun hgood ⟨hnumber, hfirst, hcount⟩ => ?_,
    fun hgood ⟨hnumber, hfirst, hcount⟩ => ?_, fun hgood hslot hrow hidle hvalid => ?_,
    fun hgood hopen hannounced hlines hlast => ?_, fun hblocks hfull => ?_, fun hbad => ?_⟩
  · have hframe := (takeFeed_good hgood m.val).trans ((if_pos rfl).trans (feedLineFrame_takes hpage hnew m.val))
    obtain ⟨j', hjob, htaken, hpages⟩ := takeFeedLine_job (m := m.val) (fun h => hm (Fin.ext h)) s next j p
      f.number.toNat (lineSamples j.decl f.payload)
    refine ⟨told s (takeFeed f m.val s), j', rfl, ?_, htaken, hpages, ?_⟩
    · rw [jobOf_told, hframe, hjob]
    · rintro rfl hodd hheld hfree hok
      obtain ⟨held, hpair⟩ := takeFeedLine_pair (s := s) (next := next) hodd hheld p (lineSamples j.decl f.payload) 0
      have hhalf : (f.number.toNat - 1) / 2 = f.number.toNat / 2 := by omega
      rw [(told_same _ _).dram, hframe]
      refine (congrArg State.dram hpair).trans ((writePair_dram hok ?_ y _).trans ?_)
      · rw [hhalf]; exact hfree
      · rw [hhalf]; rfl
  · obtain ⟨j', q, hjob, hpage⟩ := feedPageFrame_announces (s := s) (next := next) (slot := none) hnumber hfirst hcount
    refine ⟨told s (takeFeed f 0 s), rfl, j', q, ?_, hpage⟩
    rw [jobOf_told, takeFeed_good hgood, if_neg (by decide), if_pos rfl, hjob]
  · obtain ⟨j', q, hjob, hpage⟩ := feedPageFrame_announces (s := s) (next := next) (slot := some f.slot.toNat)
      hnumber hfirst hcount
    refine ⟨told s (takeFeed f 0 s), rfl, j', q, ?_, hpage⟩
    rw [jobOf_told, takeFeed_good hgood, if_neg (by decide), if_neg (by decide), if_pos rfl, hjob]
  · have hframe : takeFeed f 0 s = feedLibFrame s j f := by
      rw [takeFeed_good hgood, if_neg (by decide), if_neg (by decide), if_neg (by decide), if_pos rfl]
    obtain ⟨hdram, hrows⟩ := feedLibFrame_writes (s := s) hslot hrow hidle hvalid
    refine ⟨told s (takeFeed f 0 s), rfl, ?_, ?_⟩
    · rw [(told_same _ _).dram, hframe, hdram]
    · rw [told_jobs, hframe]; exact hrows
  · refine ⟨told s (takeFeed f 0 s), _, rfl, ?_, rfl⟩
    rw [jobOf_told, takeFeed_good hgood, if_neg (by decide), if_neg (by decide), if_neg (by decide),
      if_neg (by decide), feedEndFrame_fixes hopen hannounced hlines hlast, jobOf_putJob]
  · have hframe : takeFeed f m.val s = discardOther s := by simp [takeFeed, hblocks, hfull]
    show Host.Outcome.next (told s (takeFeed f m.val s)) = _
    rw [hframe]
  · have hframe : ∀ n, takeFeed f n s = discardCrc s := by
      intro n
      obtain hblocks | ⟨hroom, hcrc⟩ := hbad
      · simp [takeFeed, hblocks]
      · simp [takeFeed, hroom, hcrc]
    constructor
    · show Host.Outcome.next (told s (takeFeed f m.val s)) = _
      rw [hframe]
    · show Host.Outcome.next (told s (takeFeed f 0 s)) = _
      rw [hframe]

/-! ### Deadlines (R146, R147) -/

/-- A deadline that has come decides its line: on time where the line is complete, else late. -/
theorem actFeedDeadline_due {s : State} {c l : Nat} {tie : Bool} {j : JobRun} {p : Page}
    (hrun : s.jobs.running = some j) (hopen : j.decided.contains c = false) (hpage : pageOfLine j c = some p)
    (hline : printLineOf j.decl p c = some l) (hin : c < p.first + p.count) (hnew : j.late.contains c = false)
    (hdue : deadlinePassed s (firstReader s j.decl p c l) = true) :
    actFeedDeadline c tie s = if lineComplete s j p c then
        .next (putJob (if tie then lateWin s else s) false { j with decided := j.decided ++ [c] })
      else .next (lateLine s j p c l) := by
  unfold actFeedDeadline
  rw [hrun]
  dsimp only
  rw [hopen, hpage]
  dsimp only
  rw [hline, hnew, if_neg Bool.false_ne_true]
  dsimp only
  rw [if_neg (by simp [hdue, hin]), Bool.not_false, Bool.and_true]

/-- The job once contone line `c` has been decided late, without LATE_HALT. -/
def decidedLate (j : JobRun) (c : Nat) : JobRun := { j with decided := j.decided ++ [c], late := j.late ++ [c] }

theorem lateLine_counts {s : State} {j : JobRun} {c : Nat} (hnew : j.late.contains c = false)
    (hflags : j.decl.flags ≠ 1) (hhalt : j.halt = none) (p : Page) (l : Nat) : lateLine s j p c l
      = putJob (alarm (incFld s F.FEED_LATE) 30 [BitVec.ofNat 32 p.number, BitVec.ofNat 32 l]) false
          (decidedLate j c) := by
  unfold lateLine
  simp only [hnew, hflags, hhalt, false_and, if_false, Bool.false_eq_true, decidedLate]

theorem feedDeadline : Claims.FeedDeadline := by
  intro s c l tie j p hrun hopen hpage hline hin hnew hdue
  have hact := actFeedDeadline_due (tie := tie) hrun hopen hpage hline hin hnew hdue
  refine ⟨fun hcomplete => ?_, fun hpartial hflags hhalt hok => ?_⟩
  · rw [if_pos hcomplete] at hact
    show tells (actFeedDeadline c tie) s = _
    rw [tells, hact]
    cases tie <;> rfl
  · rw [hpartial, if_neg Bool.false_ne_true] at hact
    have hlate := lateLine_counts (s := s) hnew hflags hhalt p l
    refine ⟨told s (lateLine s j p c l), decidedLate j c, ?_, ?_, rfl, rfl, ?_, ?_⟩
    · show tells (actFeedDeadline c tie) s = _
      rw [tells, hact]
    · rw [told_jobs, hlate]; rfl
    · rw [countedUp, fld_told, hlate]
      refine Eq.trans ?_ (fld_addFld_same hok (f := F.FEED_LATE) (by decide) 1)
      simp only [fld, stnWord, putJob, alarm_stn]
      rfl
    · rw [slotGet_told, hlate]
      exact slotGet_alarm_open _ _ _

/-- Settles O44: the two claims. -/
theorem feedFramesAndDeadlines : Obligations.FeedFramesAndDeadlines := ⟨feedFrames, feedDeadline⟩

end Sys2Proof.Machine
end

section
/-! What counters and a record mark leave of the other station words, also where the store is not canonical: a read stops
at the first entry that is not below its place, and a counter that has counted is such an entry. -/
namespace Sys2Proof.Machine
open Sys2Proof

section
variable {α : Type} [DecidableEq α] {d : Nat → α} {a b c : Nat} {v w : α} {m : List (Nat × α)}

/-- The first entry of the store that is not below `b` lies at or below `a`. -/
def spStops (b a : Nat) : List (Nat × α) → Prop
  | [] => False
  | (k, _) :: t => k < b ∧ spStops b a t ∨ b ≤ k ∧ k ≤ a

/-- An entry put at `a`, other than the default, stops every read below it. -/
theorem spStops_put_ne (hv : v ≠ d a) (hb : b < a) : spStops b a (spPut d m a v) := by
  induction m with
  | nil => rw [spPut, if_neg hv]; exact .inr ⟨hb.le, le_refl a⟩
  | cons e t ih =>
    obtain ⟨k, x⟩ := e
    rw [spPut, if_neg hv]
    split
    · exact .inr ⟨hb.le, le_refl a⟩
    · next hk =>
      split
      · exact .inr ⟨hb.le, le_refl a⟩
      · by_cases hkb : k < b
        · exact .inl ⟨hkb, ih⟩
        · exact .inr ⟨by omega, by omega⟩

/-- What is put beyond the entry that stops a read is not seen by it. -/
theorem spGet_put_beyond (hstop : spStops b a m) (hba : b < a) (hac : a < c) :
    spStops b a (spPut d m c w) ∧ spGet d (spPut d m c w) b = spGet d m b := by
  induction m with
  | nil => exact hstop.elim
  | cons e t ih =>
    obtain ⟨k, x⟩ := e
    have hkc : k < c := by obtain ⟨hk, -⟩ | ⟨-, hk⟩ := hstop <;> omega
    rw [spPut, if_neg (by omega), if_neg (by omega)]
    obtain ⟨hkb, ht⟩ | ⟨hbk, hka⟩ := hstop
    · obtain ⟨hstops, hget⟩ := ih ht
      exact ⟨.inl ⟨hkb, hstops⟩, by rw [spGet, spGet, hget]⟩
    · refine ⟨.inr ⟨hbk, hka⟩, ?_⟩
      by_cases hbk' : b = k
      · rw [spGet, spGet, if_pos hbk', if_pos hbk']
      · rw [spGet, spGet, if_neg hbk', if_neg hbk', if_pos (by omega), if_pos (by omega)]

end

/-- A field within its word that reads 0 while nothing has been written. -/
abbrev CountsFromZero (f : Fld) : Prop := fldOf f (stnInit f.addr) = 0 ∧ f.lo + f.w ≤ 32 ∧ 0 < f.w

section
variable {s : State} {f : Fld} (hf : CountsFromZero f)
include hf

/-- A counter that has counted is not at its initial value. -/
theorem incFld_word_ne : fldPut f (stnWord s f.addr) (Nat.min (fld s f + 1) (2 ^ f.w - 1)) ≠ stnInit f.addr := by
  obtain ⟨hinit, hbits, hw⟩ := hf
  intro heq
  have hcount := fldOf_fldPut_same hbits (stnWord s f.addr) (Nat.min (fld s f + 1) (2 ^ f.w - 1))
  have htop : 1 < 2 ^ f.w := Nat.one_lt_two_pow (by omega)
  have hmin : Nat.min (fld s f + 1) (2 ^ f.w - 1) < 2 ^ f.w ∧ 0 < Nat.min (fld s f + 1) (2 ^ f.w - 1) := by
    simp only [Nat.min_def, Nat.min]; split <;> omega
  rw [heq, hinit, Nat.mod_eq_of_lt hmin.1] at hcount
  omega

theorem stnWord_incFld_ne {a : Nat} (ha : a ≠ f.addr) : stnWord (incFld s f) a = stnWord s a :=
  spGet_put_ne_other (incFld_word_ne hf) ha s.stn

/-- The bits beside a counter in its word stay as they are. -/
theorem fld_incFld_bits {g : Fld} (hg : g.lo + g.w ≤ 32) (haddr : g.addr = f.addr)
    (hbits : f.lo + f.w ≤ g.lo ∨ g.lo + g.w ≤ f.lo) : fld (incFld s f) g = fld s g := by
  have hword : stnWord (incFld s f) f.addr
      = fldPut f (stnWord s f.addr) (Nat.min (fld s f + 1) (2 ^ f.w - 1)) := spGet_put_ne (incFld_word_ne hf) s.stn
  rw [fld, fld, haddr, hword, fldOf_fldPut_other hg hbits]

end

/-! ### The notes of a write of DRAM -/

section
variable {s : State} {a : Nat} (ha : a < 0x4D000080)
include ha

theorem stnWord_noteCorrected (cw : Nat) : stnWord (noteCorrected s cw) a = stnWord s a := by
  have hcounter : ∀ ch < 4, CountsFromZero (F.DRAM_CE_COUNT ch) := by decide
  rw [noteCorrected, stnWord, alarm_stn]
  exact stnWord_incFld_ne (hcounter _ (Nat.mod_lt _ (by omega))) (by dsimp only; omega)

/-- An uncorrectable codeword's count stands below its address in the store, and stops a read below both. -/
theorem stnWord_noteUncorrectable (cw : Nat) : stnWord (noteUncorrectable s cw) a = stnWord s a := by
  have hcounters : ∀ ch < 4, CountsFromZero (F.DRAM_UE_COUNT ch) := by decide
  have hcounter := hcounters (dramChannel (32 * cw)) (Nat.mod_lt _ (by omega))
  have hstn : (noteUncorrectable s cw).stn = (setFld (setFld (incFld s (F.DRAM_UE_COUNT (dramChannel (32 * cw))))
      (F.DRAM_LAST_UE_LO (dramChannel (32 * cw))) (32 * cw)) (F.DRAM_LAST_UE_HI (dramChannel (32 * cw)))
      (32 * cw / 2 ^ 32)).stn := by
    rw [noteUncorrectable, alarm_stn]
    dsimp only
    split <;> rfl
  generalize dramChannel (32 * cw) = ch at hcounter hstn
  obtain ⟨hstops, hlo⟩ := spGet_put_beyond (c := (F.DRAM_LAST_UE_LO ch).addr)
    (w := fldPut (F.DRAM_LAST_UE_LO ch) (stnWord (incFld s (F.DRAM_UE_COUNT ch)) (F.DRAM_LAST_UE_LO ch).addr) (32 * cw))
    (spStops_put_ne (m := s.stn) (b := a) (incFld_word_ne (s := s) hcounter) (by dsimp only; omega))
    (by dsimp only; omega) (by dsimp only; omega)
  obtain ⟨-, hhi⟩ := spGet_put_beyond (c := (F.DRAM_LAST_UE_HI ch).addr)
    (w := fldPut (F.DRAM_LAST_UE_HI ch) (stnWord (setFld (incFld s (F.DRAM_UE_COUNT ch)) (F.DRAM_LAST_UE_LO ch) (32 * cw))
      (F.DRAM_LAST_UE_HI ch).addr) (32 * cw / 2 ^ 32)) hstops (by dsimp only; omega) (by dsimp only; omega)
  have hcount := stnWord_incFld_ne (s := s) (a := a) hcounter (by dsimp only; omega)
  rw [stnWord, hstn]
  exact (hhi.trans hlo).trans hcount

theorem stnWord_writeCheck (b n cw : Nat) : stnWord (writeCheck b n s cw) a = stnWord s a := by
  unfold writeCheck
  repeat' split
  · rfl
  · exact stnWord_noteUncorrectable ha cw
  · exact stnWord_noteCorrected ha cw
  · rfl

theorem stnWord_dramWrite (b : Nat) (bs : List Byte) : stnWord (dramWrite s b bs) a = stnWord s a :=
  foldl_keeps (fun t => stnWord t a) (writeCheck b bs.length) (fun _ cw => stnWord_writeCheck ha b bs.length cw) _ s

theorem stnWord_setMark (p r l m : Nat) : stnWord (setMark s p r l m) a = stnWord s a := by
  unfold setMark
  split
  · exact stnWord_dramWrite ha _ _
  · rfl

end

end Sys2Proof.Machine
end

section
/-! A row decides a line (R144, R147, R175, R185, R195), and a row's trigger passes (R221, R222, R278, R348). -/
namespace Sys2Proof.Machine
open Sys2Proof Sys2Proof.Claims

/-! ### What reads and writes of DRAM leave alone -/

@[simp] theorem dramWrite_plc2 (s : State) (a : Nat) (bs : List Byte) : (dramWrite s a bs).plc2 = s.plc2 := by
  obtain ⟨u, hsame, hwrite⟩ := dramWrite_law s a bs
  rw [hwrite]; exact hsame.plc2

@[simp] theorem dramClear_plc2 (s : State) (a n : Nat) : (dramClear s a n).plc2 = s.plc2 := by
  unfold dramClear
  split
  · rfl
  · exact ((writeCheck_same a n s _).trans (writeCheck_same a n _ _)).plc2

@[simp] theorem openRecord_plc2 (s : State) (l : Nat) : (openRecord s l).plc2 = s.plc2 := by
  unfold openRecord
  split
  · rfl
  · split
    · rw [dramWrite_plc2, dramClear_plc2]
    · rfl

@[simp] theorem setMark_plc2 (s : State) (p r l m : Nat) : (setMark s p r l m).plc2 = s.plc2 := by
  unfold setMark
  split
  · exact dramWrite_plc2 _ _ _
  · rfl

/-! ### The decision -/

/-- The reads of a decision keep the pods' line buffers and the rows' next lines. -/
theorem readBlock_keeps (s : State) (v : View) (b : Page × Nat × Nat) :
    (readBlock s v b).pods = s.pods ∧ (readBlock s v b).plc2 = s.plc2 := by
  have hread := dramReadEffect_same s (blockAddr v.j b.1 b.2.1 b.2.2) (blkOf v.j.decl)
  unfold readBlock
  dsimp only
  split
  · rw [alarm_pods, alarm_plc2]; exact ⟨hread.pods, hread.plc2⟩
  · exact ⟨hread.pods, hread.plc2⟩

theorem parityFault_keeps (s : State) : (parityFault s).pods = s.pods ∧ (parityFault s).plc2 = s.plc2 := by
  obtain ⟨-, -, -, -, -, -, -, -, hplc2, hpods, -⟩ := startHandover_keeps (setNotElig (alarm s 45 []) 9 true)
  exact ⟨hpods.trans (alarm_pods s 45 []), hplc2.trans (alarm_plc2 s 45 [])⟩

/-- The state in which a row decides its line: the leading row begins a line that no row has begun; any other finds its
record line, or opens it (R201, R210). -/
def decisionBegins (s : State) (j0 : JobRun) (p : Fin 24) (r : Fin 8) (l : Nat) : State :=
  if leadingRow s == some (p.val, r.val) && l == s.scr.leadLine then beginLine s l
  else if recHolds s j0.decl.jobId s.sight.recStart l then s
  else openRecord s l

/-- The blocks have been read, and parity errors found have raised their fault (R212). -/
def decisionReads (s : State) (v : View) (p : Fin 24) (r : Fin 8) : State :=
  let u := (rowBlocks s v p r).foldl (fun u b => readBlock u v b) s
  if v.parity.isEmpty && v.thr.isEmpty then u else parityFault u

theorem decisionReads_keeps (s : State) (v : View) (p : Fin 24) (r : Fin 8) :
    (decisionReads s v p r).pods = s.pods ∧ (decisionReads s v p r).plc2 = s.plc2 := by
  have hread := foldl_inv (fun u : State => u.pods = s.pods ∧ u.plc2 = s.plc2) (fun u b => readBlock u v b)
    (fun u b h => ⟨(readBlock_keeps u v b).1.trans h.1, (readBlock_keeps u v b).2.trans h.2⟩) (rowBlocks s v p r)
    ⟨rfl, rfl⟩
  unfold decisionReads
  dsimp only
  split
  · exact hread
  · exact ⟨(parityFault_keeps _).1.trans hread.1, (parityFault_keeps _).2.trans hread.2⟩

theorem decisionReads_alarms {v : View} (h : v.parity ≠ [] ∨ v.thr ≠ []) (s : State) (p : Fin 24) (r : Fin 8) :
    (slotGet (decisionReads s v p r) 45).isOpen = true := by
  have hfound : ¬ (v.parity.isEmpty && v.thr.isEmpty) = true := by
    rw [Bool.and_eq_true, List.isEmpty_iff, List.isEmpty_iff]; tauto
  unfold decisionReads
  dsimp only
  rw [if_neg hfound]
  exact faultHandover_slot 9 (slotGet_alarm_open _ 45 [])

/-- A row-line that is new and has not left enters the line buffer (R259, R222). -/
theorem findLine_bufferLine {s : State} {p : Fin 24} {r : Fin 8} {l : Nat} (hnew : findLine s p r l = none)
    (hahead : s.plc2.nextFire[rowIx p r] ≤ l) (codes : List (Nat × BitVec 4)) :
    (findLine (bufferLine s p r l codes) p r l).map (fun x => x.codes) = some codes := by
  have henters : ¬ ((findLine s p r l).isSome || decide (l < s.plc2.nextFire[rowIx p r])) = true := by
    rw [hnew]; simpa using hahead
  rw [findLine] at hnew
  rw [bufferLine, if_neg henters, findLine, List.find?_append, hnew]
  simp

/-- What follows a decision leaves the line buffers, the rows' lines and the mailbag alone. -/
structure RowsKept (s t : State) : Prop where
  pods : t.pods = s.pods
  decidedTo : t.scr.decidedTo = s.scr.decidedTo
  mbx : t.mbx = s.mbx

theorem RowsKept.trans {s t u : State} (h : RowsKept s t) (g : RowsKept t u) : RowsKept s u :=
  ⟨g.pods.trans h.pods, g.decidedTo.trans h.decidedTo, g.mbx.trans h.mbx⟩

theorem raiseHorizon_rows (s : State) (l : Nat) : RowsKept s (raiseHorizon s l) := by
  unfold raiseHorizon
  split <;> exact ⟨rfl, rfl, rfl⟩

theorem journal_rows (s : State) (x : JEntry) : RowsKept s (journal s x) := by
  obtain ⟨f, hf⟩ := journal_fill s x
  rw [hf]; exact ⟨rfl, rfl, rfl⟩

theorem putStations_rows (s : State) (sv : List (Nat × Word)) : RowsKept s (putStations s sv) :=
  foldl_inv (RowsKept s) (fun (u : State) (e : Nat × Word) => setStnWord u e.1 e.2)
    (fun _ _ h => h.trans ⟨rfl, rfl, rfl⟩) sv ⟨rfl, rfl, rfl⟩

theorem retireVersion_rows (s : State) : RowsKept s (retireVersion s) := by
  unfold retireVersion
  split
  · refine RowsKept.trans ?_ (journal_rows _ _)
    obtain ⟨hpods, hdecided, hmbx⟩ := putStations_rows _ _
    exact ⟨hpods, hdecided, hmbx⟩
  · exact ⟨rfl, rfl, rfl⟩

theorem retireAfter_rows (s : State) (p r l : Nat) : RowsKept s (retireAfter s p r l) := by
  unfold retireAfter
  split
  · split
    · exact retireVersion_rows s
    · exact ⟨rfl, rfl, rfl⟩
  · exact ⟨rfl, rfl, rfl⟩

theorem bufferLine_scr (s : State) (p : Fin 24) (r : Fin 8) (l : Nat) (codes : List (Nat × BitVec 4)) :
    (bufferLine s p r l codes).scr = s.scr ∧ (bufferLine s p r l codes).mbx = s.mbx := by
  unfold bufferLine
  split <;> exact ⟨rfl, rfl⟩

/-- The row's decision of line `l` is kept, and its codes are in the line buffer. -/
def decided (s : State) (v : View) (p : Fin 24) (r : Fin 8) (l : Nat) : State :=
  bufferLine (noteDecided (decisionReads s v p r) p r l (rowIdle s v p r (rowCodes s v p r))) p r l (rowCodes s v p r)

section
variable {s : State} {p : Fin 24} {r : Fin 8} {l : Nat} {j0 : JobRun} {parity thrs : List Nat}
  (hdrives : drives s = true) (hfitted : fitted s p = true) (hrow : r.val < rowsOf s p)
  (hnext : l = s.scr.decidedTo[rowIx p r]) (hleads : leadingRow s = some (p.val, r.val) ∨ l < s.scr.leadLine)
  (hrun : s.jobs.running = some j0)
include hdrives hfitted hrow hnext hleads hrun

theorem execRowLineDecision_waits (hwait : fetchOpen s p r l = false ∨ linesDecided s j0 l = false) :
    execRowLineDecision p r l parity thrs s = .next s := by
  have hlead : (leadingRow s == some (p.val, r.val) || decide (l < s.scr.leadLine)) = true := by simpa using hleads
  have hline : (l == s.scr.decidedTo[rowIx p r]) = true := beq_iff_eq.mpr hnext
  unfold execRowLineDecision
  dsimp only
  rw [hdrives, hfitted, decide_eq_true hrow, hline, hlead, hrun]
  obtain hshut | hlate := hwait
  · simp [follows, hshut]
  · simp only [hlate, Bool.and_false, Bool.not_false, if_true, Bool.false_eq_true, if_false, ite_self]

theorem execRowLineDecision_decides {j : JobRun} (hopen : fetchOpen s p r l = true)
    (hdecided : linesDecided s j0 l = true) (hrunning : (decisionBegins s j0 p r l).jobs.running = some j)
    (hroom : bufferRoom (decisionBegins s j0 p r l) p
      (rowCodes (decisionBegins s j0 p r l) (mkView (decisionBegins s j0 p r l) j l parity thrs) p r) = true) :
    execRowLineDecision p r l parity thrs s = .next (retireAfter (raiseHorizon (decided (decisionBegins s j0 p r l)
      (mkView (decisionBegins s j0 p r l) j l parity thrs) p r l) l) p r l) := by
  have hlead : (leadingRow s == some (p.val, r.val) || decide (l < s.scr.leadLine)) = true := by simpa using hleads
  have hline : (l == s.scr.decidedTo[rowIx p r]) = true := beq_iff_eq.mpr hnext
  unfold execRowLineDecision
  dsimp only
  rw [hdrives, hfitted, decide_eq_true hrow, hline, hlead, hrun, hopen]
  dsimp only
  rw [hdecided, ← decisionBegins, hrunning]
  dsimp only
  rw [hroom]
  rfl

end

/-- What a decision leaves: the row goes on, its codes stand in the line buffer, a parity error has raised its alarm. -/
theorem decided_law (s : State) (v : View) (p : Fin 24) (r : Fin 8) (l : Nat) :
    let t := retireAfter (raiseHorizon (decided s v p r l) l) p r l
    t.scr.decidedTo[rowIx p r] = l + 1
      ∧ (findLine s p r l = none → s.plc2.nextFire[rowIx p r] ≤ l →
          (findLine t p r l).map (fun x => x.codes) = some (rowCodes s v p r))
      ∧ (v.parity ≠ [] ∨ v.thr ≠ [] → (slotGet t 45).isOpen = true) := by
  intro t
  have hkept : RowsKept (decided s v p r l) t := (raiseHorizon_rows _ l).trans (retireAfter_rows _ p r l)
  obtain ⟨hscr, hmbx⟩ := bufferLine_scr (noteDecided (decisionReads s v p r) p r l (rowIdle s v p r (rowCodes s v p r)))
    p r l (rowCodes s v p r)
  obtain ⟨hpods, hplc2⟩ := decisionReads_keeps s v p r
  refine ⟨?_, fun hnew hahead => ?_, fun hparity => ?_⟩
  · rw [hkept.decidedTo, decided, hscr]
    simp [noteDecided]
  · rw [findLine, hkept.pods]
    refine findLine_bufferLine ?_ ?_ _
    · rw [findLine, noteDecided, hpods]; exact hnew
    · rw [noteDecided, hplc2]; exact hahead
  · rw [slotGet, hkept.mbx, decided, hmbx]
    exact decisionReads_alarms hparity s p r

theorem rowLineDecision : Claims.RowLineDecision := by
  intro s p r l parity thrs j0 j leads s1 codes hdrives hfitted hrow hnext hleads hrun
  refine ⟨execRowLineDecision_waits hdrives hfitted hrow hnext hleads hrun, fun hopen hdecided hrunning hroom => ?_⟩
  have hbegins : s1 = decisionBegins s j0 p r l := if_congr (by simp [leads]) rfl rfl
  simp only [codes] at hroom ⊢
  clear_value s1
  subst hbegins
  exact ⟨_, execRowLineDecision_decides hdrives hfitted hrow hnext hleads hrun hopen hdecided hrunning hroom,
    decided_law _ _ p r l⟩

/-! ### The trigger -/

/-- The trigger's time is logged. -/
def triggerLogged (s : State) (p : Fin 24) (r : Fin 8) (l tf : Nat) : State :=
  { s with plc2 := { s.plc2 with trig := ((rowIx p r).val, l, tf) :: s.plc2.trig } }

/-- A trigger that is issued is logged; one that trips the fire guard is counted and raises its alarm (R234). -/
theorem issueTrigger_cases (s : State) (p : Fin 24) (r : Fin 8) (l tf : Nat) :
    (issueTrigger s p r l tf).1 = triggerLogged s p r l tf
      ∨ (issueTrigger s p r l tf).1 = alarm (incFld (triggerLogged s p r l tf) F.PLC_GUARD) (98 + p) [] := by
  unfold issueTrigger
  dsimp only
  split
  · exact .inr rfl
  · exact .inl rfl

theorem issueTrigger_nextFire (s : State) (p : Fin 24) (r : Fin 8) (l tf : Nat) :
    (issueTrigger s p r l tf).1.plc2.nextFire = s.plc2.nextFire := by
  obtain h | h := issueTrigger_cases s p r l tf
  · rw [h]; rfl
  · rw [h, alarm_plc2]; rfl

theorem sendPod_plc2 (s : State) (p : Fin 24) (type : Byte) (pl : List Byte) : (sendPod s p type pl).plc2 = s.plc2 := by
  unfold sendPod
  split <;> rfl

theorem sendCancel_plc2 (s : State) (p : Fin 24) (r : Fin 8) (l t : Nat) (x : Option RowLine) :
    (sendCancel s p r l t x).plc2 = s.plc2 := by
  unfold sendCancel
  split
  · split
    · rfl
    · exact (sendPod_plc2 _ p 0x03 _).trans (sendPod_plc2 s p 0x03 _)
  · rfl

theorem settle_plc2 (s : State) (p : Fin 24) (r : Fin 8) (l t : Nat) (x : Option RowLine) (fate : Fate1) :
    (settle s p r l t x fate).plc2 = s.plc2 := by
  cases fate with
  | settled => rfl
  | foreign => exact setMark_plc2 _ _ _ _ _
  | unsendable => exact setMark_plc2 _ _ _ _ _
  | cancelled => exact (sendCancel_plc2 _ _ _ _ _ _).trans (setMark_plc2 _ _ _ _ _)
  | missed => exact (sendCancel_plc2 _ _ _ _ _ _).trans (setMark_plc2 _ _ _ _ _)

/-- The fate of a row-line that was never decided, on the active. -/
def undecidedFate (s : State) (p : Fin 24) (t : Nat) : Fate1 :=
  if beforeOurs s p t then .foreign else if !podUp s p ∨ !hvOn s p then .unsendable else .missed

/-- The row-line's trigger at `t` passes, with what is marked, counted and sent. -/
def triggerPassed (s : State) (j : JobRun) (p : Fin 24) (r : Fin 8) (l t : Nat) : State :=
  let s := if !isActive s && !recHolds s j.decl.jobId s.sight.recStart l then openRecord s l else s
  let x := findLine s p r l
  let issued := match x with | some y => y.trig.isSome | none => false
  let u := if issued || !isActive s then (s, false) else issueTrigger s p r l t
  settle u.1 p r l t x (fateOf u.1 p t x (u.2 || (match x with | some y => y.cancel | none => false)))

theorem triggerPassed_nextFire (s : State) (j : JobRun) (p : Fin 24) (r : Fin 8) (l t : Nat) :
    (triggerPassed s j p r l t).plc2.nextFire = s.plc2.nextFire := by
  have hrecord : ∀ u, u = (if !isActive s && !recHolds s j.decl.jobId s.sight.recStart l then openRecord s l else s) →
      u.plc2 = s.plc2 := by
    rintro u rfl
    split
    · exact openRecord_plc2 s l
    · rfl
  rw [triggerPassed, settle_plc2, ← hrecord _ rfl]
  generalize (if !isActive s && !recHolds s j.decl.jobId s.sight.recStart l then openRecord s l else s) = u
  generalize (match findLine u p r l with | some y => y.trig.isSome | none => false) = issued
  split
  · rfl
  · exact issueTrigger_nextFire u p r l t

section
variable {s : State} {p : Fin 24} {r : Fin 8} {l t : Nat}

/-- On the active a row-line that was never decided is marked, and counted where it was missed (R222). -/
theorem triggerPassed_undecided (hactive : isActive s = true) (hnone : findLine s p r l = none) (j : JobRun) :
    triggerPassed s j p r l t = settle (issueTrigger s p r l t).1 p r l t none
      (undecidedFate (issueTrigger s p r l t).1 p t) := by
  have hrole : isActive (issueTrigger s p r l t).1 = true := by
    obtain h | h := issueTrigger_cases s p r l t
    · rw [h]; exact hactive
    · rw [h, isActive, alarm_twin]; exact hactive
  unfold triggerPassed
  dsimp only
  rw [hactive, Bool.not_true, Bool.false_and, if_neg Bool.false_ne_true, hnone]
  dsimp only
  rw [hactive, if_neg (by decide), fateOf, hrole, if_neg (by decide)]
  rfl

theorem actRowTrigger_passes {j : JobRun} (hrun : s.jobs.running = some j) (hfitted : fitted s p = true)
    (hrow : r.val < rowsOf s p) (hfires : rowFires s j s.plc2.nextFire[rowIx p r] = true)
    (hreach : fireTarget (plcTime s t) p r s.plc2.nextFire[rowIx p r] ≤ wAt (plcTime s t) t) (hhalt : j.halt = none)
    (hlast : lastOf j = none) : actRowTrigger p r t s
      = .next (nextLine (triggerPassed (plcTime s t) j p r s.plc2.nextFire[rowIx p r] t) p r
          s.plc2.nextFire[rowIx p r]) := by
  have hend : ∀ u, endIfDone u j = u := by
    intro u
    simp [endIfDone, hhalt, hlast]
  obtain ⟨clk, wmax, below, htime⟩ := plcTime_law s t
  have hjobs : (plcTime s t).jobs = s.jobs := by rw [htime]
  have hfire : (plcTime s t).plc2.nextFire = s.plc2.nextFire := by rw [htime]
  have hcond : (fitted (plcTime s t) p && decide (r.val < rowsOf (plcTime s t) p)
      && rowFires (plcTime s t) j (plcTime s t).plc2.nextFire[rowIx p r]
      && decide (fireTarget (plcTime s t) p r (plcTime s t).plc2.nextFire[rowIx p r] ≤ wAt (plcTime s t) t)) = true := by
    rw [hfire, decide_eq_true hreach, htime]
    simp only [Bool.and_true, Bool.and_eq_true, decide_eq_true_eq]
    exact ⟨⟨hfitted, hrow⟩, hfires⟩
  unfold actRowTrigger
  dsimp only
  rw [hjobs, hrun]
  dsimp only
  rw [if_pos hcond, hfire]
  exact congrArg Host.Outcome.next (hend _)

/-- The guard's count stands beside MISSED in one word, which an issued trigger leaves as it is otherwise. -/
theorem issueTrigger_missed : fld (issueTrigger s p r l t).1 F.PLC_MISSED = fld s F.PLC_MISSED := by
  obtain h | h := issueTrigger_cases s p r l t
  · rw [h]; rfl
  · rw [h, fld, stnWord, alarm_stn]
    exact fld_incFld_bits (f := F.PLC_GUARD) (by decide) (by decide) rfl (by decide)

theorem issueTrigger_word {a : Nat} (ha : a ≠ F.PLC_GUARD.addr) : stnWord (issueTrigger s p r l t).1 a = stnWord s a := by
  obtain h | h := issueTrigger_cases s p r l t
  · rw [h]; rfl
  · rw [h, stnWord, alarm_stn]
    exact stnWord_incFld_ne (f := F.PLC_GUARD) (by decide) ha

theorem issueTrigger_ok (h : StnOk s) : StnOk (issueTrigger s p r l t).1 := by
  have hlogged : StnOk (triggerLogged s p r l t) := h
  obtain h | h := issueTrigger_cases s p r l t
  · rw [h]; exact hlogged
  · rw [h]; exact alarm_ok (setFld_ok hlogged _ _) _ _

theorem issueTrigger_before : beforeOurs (issueTrigger s p r l t).1 p t = beforeOurs s p t := by
  obtain h | h := issueTrigger_cases s p r l t
  · rw [h]; rfl
  · rw [h, beforeOurs, link, alarm_pods]; rfl

theorem triggerPassed_missed (hok : StnOk s) (hactive : isActive s = true) (hup : podUp s p = true)
    (hhv : hvOn s p = true) (hours : beforeOurs s p t = false) (hnone : findLine s p r l = none) (j : JobRun) :
    fld (triggerPassed s j p r l t) F.PLC_MISSED = min (fld s F.PLC_MISSED + 1) (2 ^ 16 - 1) := by
  have hup' : podUp (issueTrigger s p r l t).1 p = true := by
    rw [podUp, fldB, fld, issueTrigger_word (by dsimp only; omega)]; exact hup
  have hhv' : hvOn (issueTrigger s p r l t).1 p = true := by
    rw [hvOn, fld, issueTrigger_word (by decide)]; exact hhv
  have hfate : undecidedFate (issueTrigger s p r l t).1 p t = .missed := by
    rw [undecidedFate, issueTrigger_before, hours, hup', hhv']; rfl
  rw [triggerPassed_undecided hactive hnone, hfate]
  have hmark := setMark_kept (A := (· = F.PLC_MISSED.addr)) (p := p) (r := r) (l := l) (m := markNot)
    (.refl (issueTrigger_ok (p := p) (r := r) (l := l) (t := t) hok)) (by rintro _ rfl; decide)
  refine (fld_addFld_same hmark.ok (f := F.PLC_MISSED) (by decide) 1).trans ?_
  rw [hmark.fld rfl, issueTrigger_missed]

theorem triggerPassed_foreign (hactive : isActive s = true) (hours : beforeOurs s p t = true)
    (hnone : findLine s p r l = none) (j : JobRun) :
    fld (triggerPassed s j p r l t) F.PLC_MISSED = fld s F.PLC_MISSED := by
  rw [triggerPassed_undecided hactive hnone, undecidedFate, issueTrigger_before, hours, if_pos rfl]
  exact (congrArg (fldOf F.PLC_MISSED) (stnWord_setMark (by decide) _ _ _ _)).trans issueTrigger_missed

end

/-- The row's line has left the line buffer. -/
theorem findLine_nextLine (s : State) (p : Fin 24) (r : Fin 8) (l : Nat) : findLine (nextLine s p r l) p r l = none := by
  rw [findLine, nextLine, List.find?_eq_none]
  intro x hx heq
  have hstays := (List.mem_filter.mp hx).2
  rw [heq] at hstays
  exact Bool.false_ne_true hstays

theorem fld_nextLine (s : State) (p : Fin 24) (r : Fin 8) (l : Nat) (f : Fld) : fld (nextLine s p r l) f = fld s f := rfl

theorem rowTrigger : Claims.RowTrigger := by
  intro s p r now j s1 l hrun hfitted hrow hfires hreach hhalt hlast
  have hact := actRowTrigger_passes hrun hfitted hrow hfires hreach hhalt hlast
  obtain ⟨clk, wmax, below, htime⟩ := plcTime_law s now
  have hs1 := (rfl : s1 = plcTime s now).trans htime
  have hfire : (triggerPassed s1 j p r l now).plc2.nextFire = s.plc2.nextFire := by rw [triggerPassed_nextFire, hs1]
  have hstn : s1.stn = s.stn := by rw [hs1]
  have hfld : fld s1 F.PLC_MISSED = fld s F.PLC_MISSED := by rw [fld, stnWord, hstn]; rfl
  have hfind : findLine s1 p r l = findLine s p r l := by rw [hs1]; rfl
  have hrole : isActive s1 = isActive s := by rw [hs1]; rfl
  obtain ⟨twin, out, htold⟩ := told_onlyTwinLink s (nextLine (triggerPassed s1 j p r l now) p r l)
  refine ⟨told s (nextLine (triggerPassed s1 j p r l now) p r l), ?_, ?_, fun i hi => ?_, ?_,
    fun hok hactive hup hhv hours hnone => ?_, fun hactive hours hnone => ?_⟩
  · show tells (actRowTrigger p r now) s = _
    rw [tells, hact]
  · rw [htold]
    simp [nextLine, l]
  · have hne : (rowIx p r).val ≠ i.val := fun h => hi (Fin.ext h.symm)
    rw [htold]
    simp [nextLine, hfire, Vector.getElem_set_ne _ _ hne]
  · rw [htold]
    exact findLine_nextLine _ p r l
  · rw [countedUp, fld_told, fld_nextLine, ← hfld]
    refine triggerPassed_missed ?_ (hrole.trans hactive) ?_ ?_ hours (hfind.trans hnone) j
    · rw [StnOk, hstn]; exact hok
    · rw [podUp, fldB, fld, stnWord, hstn]; exact hup
    · rw [hvOn, fld, stnWord, hstn]; exact hhv
  · rw [fld_told, fld_nextLine, ← hfld]
    exact triggerPassed_foreign (hrole.trans hactive) hours (hfind.trans hnone) j

/-- Settles O46: the two claims. -/
theorem rowLines : Obligations.RowLines := ⟨rowLineDecision, rowTrigger⟩

end Sys2Proof.Machine
end

section
/-! The customer's job slot of the Packer (R162 to R171): how GO starts a job, how a job stops or ends, and what one
record of a compressing job leaves. -/
namespace Sys2Proof.Machine
open Sys2Proof Sys2Proof.Claims

/-! ### The Packer's words -/

/-- A word of the Packer's stations. -/
abbrev PkrWord (a : Nat) : Prop := a / 0x1000000 = 0x42

section
variable {A : Nat → Prop} {s t : State} (h : Kept A s t) (hA : ∀ a, A a → a / 0x1000000 ≠ 0x4D)
include h hA

theorem readCheck_kept {cw : Nat} : Kept A s (readCheck t cw) :=
  .ite (noteUncorrectable_kept h hA) (.ite (noteCorrected_kept h hA) h)

theorem dramReadEffect_kept {a n : Nat} : Kept A s (dramReadEffect t a n) :=
  h.foldl (fun _ hu _ _ => readCheck_kept hu hA)

end

theorem faultHandover_kept {A : Nat → Prop} {s t : State} (h : Kept A s t) (hA : ¬ A F.TWN_EVENTS_DECLINED.addr)
    {b : Nat} : Kept A s (faultHandover t b) := by
  have helig : Kept A s (setNotElig t b true) := h.frame
  exact .ite (.ite helig (.ite helig.frame (alarm_kept (incFld_kept helig hA)))) helig

/-- A field of one bit is that bit of its word. -/
theorem fldB_eq_getLsbD {f : Fld} (hf : f.w = 1) (s : State) : fldB s f = (stnWord s f.addr).getLsbD f.lo := by
  have hbit := fldOf_testBit f (stnWord s f.addr) 0
  have hlt : fldOf f (stnWord s f.addr) < 2 := by have := fldOf_lt f (stnWord s f.addr); rwa [hf] at this
  rw [hf, Nat.add_zero, decide_eq_true (by omega), Bool.true_and] at hbit
  rw [← hbit, fldB, fld]
  interval_cases fldOf f (stnWord s f.addr) <;> rfl

/-! ### What PKR_STAT shows -/

section
variable {s : State} (h : StnOk s)
include h

theorem fld_pkrStat_state (state result : Nat) : fld (pkrStat s state result) F.PKR_STATE = state % 4 :=
  (fld_setFld_bits (setFld_ok h _ _) _ (by decide) (by decide)).trans (fld_setFld_same h (by decide) _)

theorem fld_pkrStat_result (state result : Nat) : fld (pkrStat s state result) F.PKR_RESULT = result % 16 :=
  fld_setFld_same (setFld_ok h _ _) (by decide) _

theorem fld_pkrStat_addr (state result : Nat) {g : Fld} (hg : g.addr ≠ F.PKR_STATE.addr) :
    fld (pkrStat s state result) g = fld s g :=
  (fld_setFld_addr (f := F.PKR_RESULT) (setFld_ok h _ _) _ hg).trans (fld_setFld_addr h _ hg)

end

theorem fld_pkrRun (s : State) (j : PkrJob) (f : Fld) : fld (pkrRun s j) f = fld (pkrStat s 1 rOk) f := rfl
theorem pkrRun_dram (s : State) (j : PkrJob) : (pkrRun s j).dram = s.dram := rfl
theorem fld_pkrEnd (s : State) (result : Nat) (f : Fld) : fld (pkrEnd s result) f = fld (pkrStat s 3 result) f := rfl
theorem slotGet_pkrEnd (s : State) (result n : Nat) : slotGet (pkrEnd s result) n = slotGet s n := rfl

/-! ### GO (R165) -/

/-- GO has stored the job word `w` and dropped the stopped job. -/
def pkrStored (s : State) (w : Word) : State :=
  { setStnWord s F.PKR_DIR.addr w with pkr := { s.pkr with stopped := none } }

/-- And it has cleared the counts. -/
def pkrCleared (s : State) (w : Word) : State := setFld (setFld (pkrStored s w) F.PKR_IN_DONE 0) F.PKR_OUT_DONE 0

theorem pkrCleared_dram (s : State) (w : Word) : (pkrCleared s w).dram = s.dram := rfl

theorem pkrGo_rejects {s : State} {j : PkrJob} (hrun : s.pkr.run = some j) (v : Word) :
    pkrGo s v = setFld s F.PKR_REJECT 1 := by
  rw [pkrGo, hrun]; rfl

section
variable {s : State} (h : StnOk s) {w : Word}
include h

theorem pkrStored_ok : StnOk (pkrStored s w) := setStnWord_ok h _ _
theorem pkrCleared_ok : StnOk (pkrCleared s w) := setFld_ok (setFld_ok (pkrStored_ok h) _ _) _ _

theorem stnWord_pkrCleared {a : Nat} (hin : a ≠ F.PKR_IN_DONE.addr) (hout : a ≠ F.PKR_OUT_DONE.addr) :
    stnWord (pkrCleared s w) a = stnWord (setStnWord s F.PKR_DIR.addr w) a := by
  rw [pkrCleared, stnWord_setFld_other (setFld_ok (pkrStored_ok h) _ _) _ hout,
    stnWord_setFld_other (pkrStored_ok h) _ hin]
  rfl

/-- The job word's bits are the fields of PKR_JOB. -/
theorem fldB_pkrCleared (f : Fld) (hw : f.w = 1) (ha : f.addr = F.PKR_DIR.addr) :
    fldB (pkrCleared s w) f = w.getLsbD f.lo := by
  rw [fldB_eq_getLsbD hw, ha, stnWord_pkrCleared h (by decide) (by decide), stnWord_set_same h]

/-- The parameters stand as they were. -/
theorem fld_pkrCleared (f : Fld) (hf : f.addr ≠ F.PKR_DIR.addr ∧ f.addr ≠ F.PKR_IN_DONE.addr
    ∧ f.addr ≠ F.PKR_OUT_DONE.addr) : fld (pkrCleared s w) f = fld s f := by
  obtain ⟨hjob, hin, hout⟩ := hf
  rw [fld, stnWord_pkrCleared h hin hout, stnWord_set_other h _ hjob]; rfl

theorem pkrCleared_counts : fld (pkrCleared s w) F.PKR_IN_DONE = 0 ∧ fld (pkrCleared s w) F.PKR_OUT_DONE = 0 := by
  have hin : StnOk (setFld (pkrStored s w) F.PKR_IN_DONE 0) := setFld_ok (pkrStored_ok h) _ _
  constructor
  · exact (fld_setFld_addr hin 0 (by decide)).trans (fld_setFld_same (pkrStored_ok h) (by decide) 0)
  · exact fld_setFld_same hin (by decide) 0

section
variable {v : Word} (hrun : s.pkr.run = none) (hw : v &&& 0x3E = w) (hcont : w.getLsbD 2 = false)
  (hrestore : w.getLsbD 3 = false) (hgood : pkrBadParam (pkrCleared s w) = false)
include hrun hw hcont hrestore hgood

/-- A GO with neither CONT nor RESTORE and with good parameters starts the job on an empty history. -/
theorem pkrGo_starts : pkrGo s v = pkrRun (pkrCleared s w) (pkrLatch (pkrCleared s w) [] 0 0 false) := by
  have hcont0 : fldB (setStnWord s F.PKR_DIR.addr w) F.PKR_CONT = false := by
    rw [fldB_eq_getLsbD rfl, stnWord_set_same h]; exact hcont
  unfold pkrGo
  rw [hrun, if_neg (by decide)]
  extract_lets s1 p s2 u a bad u'
  have hu : u = pkrCleared s w := by
    simp only [u, s2, s1, hw, hcont0]
    rfl
  clear_value u
  subst hu
  rw [hgood, fldB_pkrCleared h F.PKR_RESTORE rfl rfl, hrestore, fldB_pkrCleared h F.PKR_CONT rfl rfl, hcont]
  rfl

/-- What the started job and its stations show. -/
theorem pkrGo_started : let t := pkrGo s v
    ∃ k, t.pkr.run = some k ∧ k.dir = w.getLsbD 1 ∧ k.hist = [] ∧ k.final = w.getLsbD 5
      ∧ k.src = fld s F.PKR_SRC_LO + 2 ^ 32 * fld s F.PKR_SRC_HI ∧ k.srcLen = fld s F.PKR_SRC_LEN
      ∧ k.dst = fld s F.PKR_DST_LO + 2 ^ 32 * fld s F.PKR_DST_HI ∧ k.dstLen = fld s F.PKR_DST_LEN
      ∧ fld t F.PKR_STATE = 1 ∧ fld t F.PKR_IN_DONE = 0 ∧ fld t F.PKR_OUT_DONE = 0 ∧ t.dram = s.dram := by
  intro t
  have ht : t = pkrRun (pkrCleared s w) _ := pkrGo_starts h hrun hw hcont hrestore hgood
  have hok : StnOk (pkrCleared s w) := pkrCleared_ok h
  obtain ⟨hin, hout⟩ := pkrCleared_counts h (w := w)
  rw [ht]
  simp only [fld_pkrRun, pkrRun_dram]
  have hsrc : fld64 (pkrCleared s w) F.PKR_SRC_LO F.PKR_SRC_HI = fld s F.PKR_SRC_LO + 2 ^ 32 * fld s F.PKR_SRC_HI := by
    rw [fld64, fld_pkrCleared h F.PKR_SRC_LO (by decide), fld_pkrCleared h F.PKR_SRC_HI (by decide)]
  have hdst : fld64 (pkrCleared s w) F.PKR_DST_LO F.PKR_DST_HI = fld s F.PKR_DST_LO + 2 ^ 32 * fld s F.PKR_DST_HI := by
    rw [fld64, fld_pkrCleared h F.PKR_DST_LO (by decide), fld_pkrCleared h F.PKR_DST_HI (by decide)]
  refine ⟨_, rfl, fldB_pkrCleared h F.PKR_DIR rfl rfl, rfl, fldB_pkrCleared h F.PKR_FINAL rfl rfl, hsrc,
    fld_pkrCleared h F.PKR_SRC_LEN (by decide), hdst, fld_pkrCleared h F.PKR_DST_LEN (by decide),
    fld_pkrStat_state hok 1 rOk, (fld_pkrStat_addr hok 1 rOk (by decide)).trans hin,
    (fld_pkrStat_addr hok 1 rOk (by decide)).trans hout, pkrCleared_dram s w⟩

end
end

/-! The job word of each command: the written bits, with DIR as commanded. -/

theorem compress_jobWord (v : Word) : (v &&& ~~~ 2) &&& 0x3E = (v &&& 0x3C) ||| 0 := by
  rw [BitVec.and_assoc]
  exact BitVec.or_zero.symm

theorem decompress_jobWord (v : Word) : (v ||| 2) &&& 0x3E = (v &&& 0x3C) ||| 2 := by
  apply BitVec.eq_of_getLsbD_eq
  intro i hi
  interval_cases i <;> simp

/-! ### The records of a run (R168, R171) -/

/-- A run leaves the job's SAVE as it was latched. -/
theorem pkrRecords_save (bad : List (Nat × Bool)) (fuel n : Nat) (s : State) (j : PkrJob) :
    (pkrRecords bad fuel n s j).2.1.save = j.save := by
  induction fuel generalizing n s j with
  | zero => rfl
  | succ fuel ih =>
    have ite_save : ∀ {c : Prop} {_ : Decidable c} {x y : State × PkrJob × Bool × Nat}, x.2.1.save = j.save →
        y.2.1.save = j.save → (if c then x else y).2.1.save = j.save := fun hx hy => by split <;> assumption
    unfold pkrRecords
    dsimp only
    split
    · split
      · split <;> rfl
      · split <;> rfl
      · exact ite_save rfl (ite_save rfl (ite_save rfl (ih _ _ _)))
    · exact ite_save rfl (ite_save rfl (ite_save rfl (ite_save rfl (ite_save rfl (ih _ _ _)))))

/-- With no throttle to suspend it and without SAVE, the job runs its records, and then ends, or stays stopped. -/
theorem execPkrJobStop_runs {s : State} {j : PkrJob} (hrun : s.pkr.run = some j)
    (hfree : fldB s F.PWR_STAT_THROTTLE = false) (hsave : j.save = false) (bad : List (Nat × Bool)) :
    let r := pkrRecords bad (j.srcLen + 1) 0 s j
    execPkrJobStop bad s = if r.2.2.1
      then .next { pkrStat r.1 2 r.2.2.2 with pkr := { run := none, stopped := some r.2.1 } }
      else .next (pkrEnd r.1 r.2.2.2) := by
  intro r
  have hkeep : r.2.1.save = false := (pkrRecords_save bad (j.srcLen + 1) 0 s j).trans hsave
  unfold execPkrJobStop
  rw [hrun]
  dsimp only
  rw [hfree, if_neg (by decide)]
  change (if r.2.2.1 then _ else _) = _
  rw [hkeep]
  rfl

section
variable {s : State} {j : PkrJob} {bad : List (Nat × Bool)} {n i left : Nat} (hdir : j.dir = false)
  (hin : fld s F.PKR_IN_DONE = i) (hleft : j.srcLen - i = left) (hmore : left ≠ 0) (hp : s.poison = [])
include hdir hin hleft hmore hp

/-- A record whose second encoding fails its verification too ends the run before anything is written. -/
theorem pkrRecords_verifyFault (hbad : recordVerify bad n = some true) (fuel : Nat) : pkrRecords bad (fuel + 1) n s j
    = (verifyFault (dramReadEffect s (j.src + i) (Nat.min left 256)), j, false, rVerifyFault) := by
  simp [pkrRecords, hdir, hin, hleft, hmore, dramBad_clean hp, hbad]

/-- The last record, verified and with room, is written, and the run is done. -/
theorem pkrRecords_last (hgood : recordVerify bad n = none) (hfinal : j.final = true) (hlast : left ≤ 256)
    (hs : s.single = []) (fuel : Nat) :
    let piece := dramBytes s (j.src + i) left
    let record := encodeRecord piece j.hist true
    let t := pkrAdvance s j left record (piece.foldl histPush j.hist)
    record.length ≤ j.dstLen - fld s F.PKR_OUT_DONE →
      pkrRecords bad (fuel + 1) n s j = (t.1, { t.2 with finalSeen := true }, false, rOk) := by
  intro piece record t hroom
  simp [pkrRecords, hdir, hin, hleft, hmore, dramBad_clean hp, dramReadEffect_clean hp hs, hgood, hfinal, hlast, piece,
    record, t, Nat.not_lt.mpr hroom]

end

/-- A record done: the counts take its bytes, and its output stands in DRAM where the output had reached. -/
theorem pkrAdvance_law {s : State} (h : StnOk s) (j : PkrJob) (used : Nat) (out hist : List Byte) :
    let t := (pkrAdvance s j used out hist).1
    fld t F.PKR_IN_DONE = (fld s F.PKR_IN_DONE + used) % 2 ^ 32
      ∧ fld t F.PKR_OUT_DONE = (fld s F.PKR_OUT_DONE + out.length) % 2 ^ 32
      ∧ t.dram = memStore s.dram (j.dst + fld s F.PKR_OUT_DONE) out := by
  have hwrite := dramWrite_kept (a := j.dst + fld s F.PKR_OUT_DONE) (bs := out) (Kept.refl (A := PkrWord) h)
    (fun _ ha => by omega)
  have hin : StnOk (setFld (dramWrite s (j.dst + fld s F.PKR_OUT_DONE) out) F.PKR_IN_DONE
      (fld (dramWrite s (j.dst + fld s F.PKR_OUT_DONE) out) F.PKR_IN_DONE + used)) := setFld_ok hwrite.ok _ _
  refine ⟨?_, fld_setFld_same hin (by decide) _, ?_⟩
  · refine (fld_setFld_addr hin _ (by decide)).trans ((fld_setFld_same hwrite.ok (by decide) _).trans ?_)
    rw [hwrite.fld (by decide)]
  · simp [pkrAdvance]

/-- A verification that failed twice: both counts, the alarm, and the totals as they were (R171). -/
theorem verifyFault_law {s t : State} (h : Kept PkrWord s t) :
    StnOk (verifyFault t) ∧ (slotGet (verifyFault t) 33).isOpen = true
      ∧ countedUp s (verifyFault t) F.PKR_VERIFY_FAULT 1 ∧ countedUp s (verifyFault t) F.PKR_VERIFY_RETRY 1
      ∧ fld (verifyFault t) F.PKR_IN_DONE = fld s F.PKR_IN_DONE := by
  have hretry : StnOk (incFld t F.PKR_VERIFY_RETRY) := setFld_ok h.ok _ _
  have hboth : StnOk (incFld (incFld t F.PKR_VERIFY_RETRY) F.PKR_VERIFY_FAULT) := setFld_ok hretry _ _
  have hkept : Kept PkrWord (incFld (incFld t F.PKR_VERIFY_RETRY) F.PKR_VERIFY_FAULT) (verifyFault t) :=
    faultHandover_kept (alarm_kept (.refl hboth)) (by decide)
  refine ⟨hkept.ok, faultHandover_slot 8 (slotGet_alarm_open _ 33 []), ?_, ?_, ?_⟩
  · rw [countedUp, hkept.fld (by decide)]
    refine (fld_addFld_same hretry (by decide) 1).trans ?_
    rw [incFld, addFld, fld_setFld_bits h.ok _ (by decide) (by decide), h.fld (by decide)]
  · rw [countedUp, hkept.fld (by decide)]
    refine (fld_setFld_bits hretry _ (by decide) (by decide)).trans ((fld_addFld_same h.ok (by decide) 1).trans ?_)
    rw [h.fld (by decide)]
  · rw [hkept.fld (by decide)]
    exact (fld_setFld_addr hretry _ (by decide)).trans ((fld_setFld_addr h.ok _ (by decide)).trans (h.fld (by decide)))

/-! ### The claims -/

theorem compressorSlot : Claims.CompressorSlot := by
  intro s v j hok s1 starts
  refine ⟨fun hrun hcont hrestore => ?_, fun hrun => ?_, fun hrun hfree hsave => ?_⟩
  · have hstarts : ∀ {c : Instr} {x dir : Word}, exec c s = .next (pkrGo s x) →
        x &&& 0x3E = (v &&& 0x3C) ||| dir → (dir = 0 ∨ dir = 2) → starts c dir := by
      intro c x dir hexec hx hdir hgood
      have hbits : ((v &&& 0x3C) ||| dir).getLsbD 2 = false ∧ ((v &&& 0x3C) ||| dir).getLsbD 3 = false
          ∧ ((v &&& 0x3C) ||| dir).getLsbD 1 = decide (dir = 2)
          ∧ ((v &&& 0x3C) ||| dir).getLsbD 5 = v.getLsbD 5 := by
        obtain rfl | rfl := hdir <;> simp [-BitVec.getLsbD_eq_getElem, hcont, hrestore]
      obtain ⟨hbit2, hbit3, hbit1, hbit5⟩ := hbits
      have hstarted := pkrGo_started hok hrun hx hbit2 hbit3 hgood
      rw [hbit1, hbit5] at hstarted
      obtain ⟨k, hk⟩ := hstarted
      exact ⟨_, k, hexec, hk⟩
    exact ⟨hstarts rfl (compress_jobWord v) (.inl rfl), hstarts rfl (decompress_jobWord v) (.inr rfl)⟩
  · exact ⟨congrArg Host.Outcome.next (pkrGo_rejects hrun _), congrArg Host.Outcome.next (pkrGo_rejects hrun _)⟩
  · intro r
    refine ⟨fun hends => ?_, fun hstops => ?_, fun hdir hleft hp => ?_⟩
    · exact (execPkrJobStop_runs hrun hfree hsave []).trans (if_neg (Bool.eq_false_iff.mp hends))
    · exact (execPkrJobStop_runs hrun hfree hsave []).trans (if_pos hstops)
    · have hread := dramReadEffect_kept (a := j.src + fld s F.PKR_IN_DONE)
        (n := Nat.min (j.srcLen - fld s F.PKR_IN_DONE) 256) (Kept.refl (A := PkrWord) hok) (fun _ ha => by omega)
      obtain ⟨hok', hslot, hfault, hretry, hdone⟩ := verifyFault_law hread
      have hexec := execPkrJobStop_runs hrun hfree hsave [(0, true)]
      rw [pkrRecords_verifyFault hdir rfl rfl (by omega) hp rfl] at hexec
      refine ⟨_, hexec.trans (if_neg Bool.false_ne_true), rfl, ?_⟩
      simp only [countedUp, fld_pkrEnd, slotGet_pkrEnd]
      exact ⟨fld_pkrStat_result hok' 3 rVerifyFault, fld_pkrStat_state hok' 3 rVerifyFault, hslot,
        (fld_pkrStat_addr hok' _ _ (by decide)).trans hfault, (fld_pkrStat_addr hok' _ _ (by decide)).trans hretry,
        (fld_pkrStat_addr hok' _ _ (by decide)).trans hdone⟩

theorem compressorRecord : Claims.CompressorRecord := by
  intro s j hok hmem hp hs hdir hfinal hin hout hsome hshort rec1 hroom hlen r
  obtain ⟨hdram, -⟩ := hmem
  have hr : r = _ := pkrRecords_last (bad := []) (n := 0) hdir hin rfl (by omega) hp rfl hfinal hshort hs j.srcLen
    (by rw [hout]; exact hroom)
  obtain ⟨hdone, hwritten, hstored⟩ := pkrAdvance_law hok j j.srcLen rec1
    ((dramBytes s j.src j.srcLen).foldl histPush j.hist)
  obtain ⟨hinside, houtside⟩ := overwritten_memStore hdram j.dst rec1
  rw [hin, Nat.zero_add, Nat.mod_eq_of_lt (by omega)] at hdone
  rw [hout, Nat.zero_add, Nat.mod_eq_of_lt hlen] at hwritten
  rw [hout] at hstored
  rw [hr]
  exact ⟨rfl, rfl, hdone, hwritten, fun i hi => (congrArg (memGet · _) hstored).trans (hinside i hi),
    fun a ha => (congrArg (memGet · a) hstored).trans (houtside a ha)⟩

/-- Settles O45: the two claims. -/
theorem compressorRuns : Obligations.CompressorRuns := ⟨compressorSlot, compressorRecord⟩

end Sys2Proof.Machine
end

section
/-! Web edges, index, stop and the end of extrapolation (R214 to R218, R229, R230). -/
namespace Sys2Proof.Machine
open Sys2Proof Sys2Proof.Claims

/-! ### Position and time -/

/-- W of a count speaks of NUM, DEN, SLIP and ALIGN alone (R215). -/
theorem posAt_congr {s t : State} (hnum : fld t F.PLC_NUM = fld s F.PLC_NUM) (hden : fld t F.PLC_DEN = fld s F.PLC_DEN)
    (hplc : t.plc = s.plc) (c : Int) : posAt t c = posAt s c := by
  rw [posAt, countPos, hnum, hden, hplc]; rfl

theorem followW_law (s : State) : ∃ wmax below, followW s
    = { s with plc := { s.plc with wmax := wmax }, plc2 := { s.plc2 with cmpBelow := below } } := by
  unfold followW noteBelow trackMax
  dsimp only
  repeat' split
  all_goals exact ⟨_, _, rfl⟩

/-! ### A counted edge (R214 to R216, R229) -/

/-- An edge at `t` is counted, and the illegal transitions before it enter SLIP. -/
def edgeNoted (s : State) (fwd : Bool) (t : Nat) : State :=
  let p := s.plc
  slipBy { s with plc := { p with
    count := wrap48 (p.count + (if fwd then 1 else -1)), span := t - p.times.headD 0,
    times := (t :: p.times).take 9, dirs := (fwd :: p.dirs).take 9, clean := p.clean + 1,
    afterStop := p.afterStop + 1, illegal := 0 } } p.illegal

/-- S at a counted edge, and W at the exact position again. -/
def edgeAnchored (s : State) (t : Nat) : State :=
  followW (reanchor { s with plc := { s.plc with speed := speedAt s } } t)

theorem countedEdge_eq (s : State) (fwd : Bool) (t : Nat) : countedEdge s fwd t
    = if faultHolds (edgeNoted s fwd t) then edgeNoted s fwd t
      else checkDebt (edgeAnchored (edgeNoted s fwd t) t) := rfl

theorem slipBy_law (s : State) (n : Nat) : ∃ x, slipBy s n = { s with plc := { s.plc with slip := x } } := by
  unfold slipBy
  split <;> exact ⟨_, rfl⟩

theorem edgeNoted_law (s : State) (fwd : Bool) (t : Nat) : ∃ p, edgeNoted s fwd t = { s with plc := p }
    ∧ p.a = s.plc.a ∧ p.b = s.plc.b ∧ p.count = wrap48 (s.plc.count + (if fwd then 1 else -1)) ∧ p.illegal = 0
    ∧ p.encFault = s.plc.encFault := by
  unfold edgeNoted
  dsimp only
  exact (slipBy_law _ _).elim fun _ hslip => ⟨_, hslip, rfl, rfl, rfl, rfl, rfl⟩

theorem edgeAnchored_law (s : State) (t : Nat) : ∃ p below,
    edgeAnchored s t = { s with plc := p, plc2 := { s.plc2 with cmpBelow := below } }
    ∧ p.a = s.plc.a ∧ p.b = s.plc.b ∧ p.count = s.plc.count ∧ p.illegal = s.plc.illegal
    ∧ p.refW = fix (posAt (edgeAnchored s t) p.count) ∧ p.refT = t := by
  obtain ⟨wmax, below, hfollow⟩ := followW_law (reanchor { s with plc := { s.plc with speed := speedAt s } } t)
  refine ⟨_, _, hfollow, rfl, rfl, rfl, rfl, ?_, rfl⟩
  rw [edgeAnchored, hfollow]
  rfl

theorem checkDebt_plc (s : State) : (checkDebt s).plc = s.plc := by
  unfold checkDebt
  dsimp only
  repeat' split
  · rfl
  · rw [alarm_plc]; rfl
  · rfl

theorem checkDebt_kept {A : Nat → Prop} {s t : State} (h : Kept A s t) (hA : ¬ A F.PLC_FAULT_DEBT.addr) :
    Kept A s (checkDebt t) := by
  have hset := setFld_kept (h.frame (u := { t with plc2 := { t.plc2 with debtHigh := true } })) (v := 1) hA
  exact .ite (.ite hset (alarm_kept hset)) h.frame

/-- The reverse-debt rule leaves the exact position of every count. -/
theorem posAt_checkDebt {s : State} (h : StnOk s) (c : Int) : posAt (checkDebt s) c = posAt s c := by
  have hkept := checkDebt_kept (A := (· ≠ F.PLC_FAULT_DEBT.addr)) (.refl h) (fun hne => hne rfl)
  exact posAt_congr (hkept.fld (by decide)) (hkept.fld (by decide)) (checkDebt_plc s) c

theorem countedEdge_law {s : State} (h : StnOk s) (fwd : Bool) (t : Nat) :
    let u := countedEdge s fwd t
    u.plc.a = s.plc.a ∧ u.plc.b = s.plc.b ∧ u.plc.count = wrap48 (s.plc.count + (if fwd then 1 else -1))
      ∧ u.plc.illegal = 0 ∧ (faultHolds s = false → u.plc.refW = fix (posAt u u.plc.count) ∧ u.plc.refT = t) := by
  intro u
  obtain ⟨p, hnoted, ha, hb, hcount, hillegal, hfault⟩ := edgeNoted_law s fwd t
  have hholds : faultHolds (edgeNoted s fwd t) = faultHolds s := by
    rw [hnoted, faultHolds, hfault]; rfl
  have hu : u = _ := countedEdge_eq s fwd t
  rw [hholds] at hu
  cases hf : faultHolds s with
  | true =>
    rw [hf, if_pos rfl, hnoted] at hu
    rw [hu]
    exact ⟨ha, hb, hcount, hillegal, fun hno => absurd hno Bool.true_eq_false.mp⟩
  | false =>
    rw [hf, if_neg Bool.false_ne_true] at hu
    obtain ⟨q, below, hanchored, ha', hb', hcount', hillegal', hrefW, hrefT⟩ := edgeAnchored_law (edgeNoted s fwd t) t
    have hok : StnOk (edgeAnchored (edgeNoted s fwd t) t) := by rw [hanchored, hnoted]; exact h
    have hplc : u.plc = q := by rw [hu, checkDebt_plc, hanchored]
    rw [hnoted] at ha' hb' hcount' hillegal'
    rw [hplc]
    refine ⟨ha'.trans ha, hb'.trans hb, hcount'.trans hcount, hillegal'.trans hillegal, fun _ => ⟨?_, hrefT⟩⟩
    rw [hrefW, hu, posAt_checkDebt hok]

/-! ### An illegal transition (R214, R229, R230) -/

theorem freeze_law (s : State) (t : Nat) : ∃ m w r,
    freeze s t = { s with plc := { s.plc with mode := m, refW := w, refT := r } }
      ∧ (s.plc.mode ≠ .stopped → m = .frozen) := by
  unfold freeze
  split
  case h_1 hmode => exact ⟨_, _, _, rfl, fun _ => hmode⟩
  case h_2 hmode => exact ⟨_, _, _, rfl, fun hrun => absurd hmode hrun⟩
  case h_3 => exact ⟨_, _, _, rfl, fun _ => rfl⟩

theorem sendExpress_plc (s : State) : (sendExpress s).plc = s.plc := by
  unfold sendExpress
  split
  · rfl
  · refine (foldl_keeps State.plc _ (fun t r => ?_) _ _).trans rfl
    obtain ⟨_, _, hsent⟩ := sendEnv_round t t.round.hostWest _ r.bytes
    rw [incFld_plc, sendMail, hsent]; rfl

theorem sendExpress_keptBeside {A : Nat → Prop} {s t : State} (h : Kept A s t) (hA : ¬ A F.MBG_MB_EXPRESS.addr) :
    Kept A s (sendExpress t) :=
  .ite h (h.frame.foldl (fun _ hu _ _ => incFld_kept (sendMail_kept hu) hA))

theorem faultHandover_plc (s : State) (b : Nat) : (faultHandover s b).plc = s.plc := by
  obtain ⟨-, -, -, -, -, -, -, hplc, -⟩ := startHandover_keeps (setNotElig s b true)
  exact hplc

/-- A declared encoder fault leaves its marks in the placement engine, and the rest of it as it is. -/
theorem encoderFault_plc (s : State) :
    ∃ x, (encoderFault s).plc = { s.plc with encFault := true, encAlarmed := x } := by
  unfold encoderFault
  dsimp only
  repeat' split
  · exact ⟨_, by rw [faultHandover_plc, sendExpress_plc, alarm_plc]; rfl⟩
  · exact ⟨_, rfl⟩
  · exact ⟨_, by rw [sendExpress_plc, alarm_plc]; rfl⟩

theorem encoderFault_slot {s : State} {n : Nat} (hn : n ≠ 71) (h : (slotGet s n).isOpen = true) :
    (slotGet (encoderFault s) n).isOpen = true := by
  have hsent : ∀ t : State, (slotGet t n).isOpen = true → (slotGet (sendExpress (alarm t 71 [])) n).isOpen = true :=
    fun t ht => (sendExpress_duty (.refl _)).slots n (by rw [slotGet_alarm_other _ _ hn]; exact ht)
  unfold encoderFault
  dsimp only
  repeat' split
  · exact faultHandover_slot 5 (hsent _ h)
  · exact h
  · exact hsent _ h

theorem encoderFault_kept {A : Nat → Prop} {s t : State} (h : Kept A s t) (hfault : ¬ A F.PLC_FAULT_ENC_FAULT.addr)
    (hexpress : ¬ A F.MBG_MB_EXPRESS.addr) (hdeclined : ¬ A F.TWN_EVENTS_DECLINED.addr) :
    Kept A s (encoderFault t) := by
  have hset := setFld_kept h (v := 1) hfault
  exact .ite (faultHandover_kept (sendExpress_keptBeside (alarm_kept hset.frame) hexpress) hdeclined)
    (.ite hset.frame (sendExpress_keptBeside (alarm_kept hset.frame) hexpress))

/-- An illegal transition is counted, and S frozen. -/
def illegalCounted (s : State) (t : Nat) : State :=
  let s := freeze s t
  incFld { s with plc := { s.plc with illegal := s.plc.illegal + 1, clean := 0 } } F.PLC_ILLEGAL

/-- So it is, in a job with its alarm. -/
def illegalNoted (s : State) (t : Nat) : State :=
  if jobRuns (illegalCounted s t) then alarm (illegalCounted s t) 70 [] else illegalCounted s t

theorem illegalEdge_eq (s : State) (t : Nat) : illegalEdge s t
    = if 4 ≤ (illegalNoted s t).plc.illegal ∧ !(illegalNoted s t).plc.encFault then encoderFault (illegalNoted s t)
      else illegalNoted s t := rfl

/-- `u` has the illegal transition at which S of `s` freezes counted. -/
structure IllegalAdded (s u : State) : Prop where
  ok : StnOk u
  plc : ∃ m w r, u.plc = { s.plc with mode := m, refW := w, refT := r, illegal := s.plc.illegal + 1, clean := 0 }
    ∧ (s.plc.mode ≠ .stopped → m = .frozen)
  counter : countedUp s u F.PLC_ILLEGAL 1

theorem illegalCounted_law {s : State} (h : StnOk s) (t : Nat) :
    IllegalAdded s (illegalCounted s t) ∧ jobRuns (illegalCounted s t) = jobRuns s := by
  obtain ⟨m, w, r, hfreeze, hmode⟩ := freeze_law s t
  rw [illegalCounted, hfreeze]
  exact ⟨⟨setFld_ok (by exact h) _ _, ⟨m, w, r, rfl, hmode⟩, fld_addFld_same (by exact h) (by decide) 1⟩, rfl⟩

theorem illegalNoted_law {s : State} (h : StnOk s) (t : Nat) :
    IllegalAdded s (illegalNoted s t) ∧ (jobRuns s = true → (slotGet (illegalNoted s t) 70).isOpen = true) := by
  obtain ⟨⟨hok, hplc, hcount⟩, hruns⟩ := illegalCounted_law h t
  rw [illegalNoted, hruns]
  split
  · refine ⟨⟨alarm_ok hok _ _, ?_, ?_⟩, fun _ => slotGet_alarm_open _ 70 []⟩
    · rw [alarm_plc]; exact hplc
    · rw [countedUp, fld, stnWord, alarm_stn]; exact hcount
  · next hrun => exact ⟨⟨hok, hplc, hcount⟩, fun hyes => absurd hyes hrun⟩

theorem illegalEdge_law {s : State} (h : StnOk s) (t : Nat) : let u := illegalEdge s t
    u.plc.a = s.plc.a ∧ u.plc.b = s.plc.b ∧ u.plc.count = s.plc.count ∧ u.plc.illegal = s.plc.illegal + 1
      ∧ u.plc.clean = 0 ∧ countedUp s u F.PLC_ILLEGAL 1 ∧ (s.plc.mode ≠ .stopped → u.plc.mode = .frozen)
      ∧ (jobRuns s = true → (slotGet u 70).isOpen = true) := by
  intro u
  obtain ⟨⟨hok, ⟨m, w, r, hplc, hmode⟩, hcount⟩, hslot⟩ := illegalNoted_law h t
  by_cases hfault : 4 ≤ (illegalNoted s t).plc.illegal ∧ !(illegalNoted s t).plc.encFault
  · have hu : u = encoderFault (illegalNoted s t) := (illegalEdge_eq s t).trans (if_pos hfault)
    obtain ⟨x, hencPlc⟩ := encoderFault_plc (illegalNoted s t)
    have hkept := encoderFault_kept (A := (· = F.PLC_ILLEGAL.addr)) (.refl hok) (by decide) (by decide) (by decide)
    rw [hu, hencPlc, hplc]
    refine ⟨rfl, rfl, rfl, rfl, rfl, ?_, hmode, fun hrun => encoderFault_slot (by decide) (hslot hrun)⟩
    rw [countedUp, hkept.fld rfl]
    exact hcount
  · have hu : u = illegalNoted s t := (illegalEdge_eq s t).trans (if_neg hfault)
    rw [hu, hplc]
    exact ⟨rfl, rfl, rfl, rfl, rfl, hcount, hmode, hslot⟩

/-! ### Accepted levels (R214) -/

/-- The steps in the forward order from the accepted levels to `a` and `b`: 0 none, 1 forward, 2 illegal, 3 backward. -/
def quadStep (s : State) (a b : Bool) : Nat := (quadPhase a b + 4 - quadPhase s.plc.a s.plc.b) % 4

/-- The levels `a` and `b` are accepted. -/
def withLevels (s : State) (a b : Bool) : State := { s with plc := { s.plc with a := a, b := b } }

theorem webLevels_eq (s : State) (a b : Bool) (t : Nat) : webLevels s a b t
    = if quadStep s a b = 0 then withLevels s a b
      else if quadStep s a b = 2 then illegalEdge (withLevels s a b) t
      else countedEdge (withLevels s a b) ((quadStep s a b == 1) != fldB s F.PLC_CTL_DIR_INVERT) t := rfl

/-- Levels that stay are no step. -/
theorem quadStep_same (s : State) : quadStep s s.plc.a s.plc.b = 0 := by
  rw [quadStep, Nat.add_sub_cancel_left]

/-- Both levels change at once: two steps, in neither direction. -/
theorem quadStep_both (s : State) : quadStep s (!s.plc.a) (!s.plc.b) = 2 := by
  unfold quadStep
  cases s.plc.a <;> cases s.plc.b <;> decide

theorem webLevels_counted {s : State} {a b : Bool} (hd : quadStep s a b = 1 ∨ quadStep s a b = 3) (t : Nat) :
    webLevels s a b t = countedEdge (withLevels s a b) ((quadStep s a b == 1) != fldB s F.PLC_CTL_DIR_INVERT) t := by
  rw [webLevels_eq, if_neg (by omega), if_neg (by omega)]

theorem webLevels_both (s : State) (t : Nat) :
    webLevels s (!s.plc.a) (!s.plc.b) t = illegalEdge (withLevels s (!s.plc.a) (!s.plc.b)) t := by
  rw [webLevels_eq, quadStep_both, if_neg (by decide), if_pos rfl]

/-- An edge counts forward unless exactly one of its direction and DIR_INVERT says backward. -/
theorem countsForward_iff (d : Nat) (invert : Bool) : ((d = 1) ≠ (invert = true)) ↔ ((d == 1) != invert) = true := by
  by_cases hd : d = 1 <;> cases invert <;> simp [hd]

/-! ### Edges, index and stop -/

/-- A step of one of the inputs counts, forward or not, and W stands at the exact position again. -/
theorem webLevels_counts {s : State} (h : StnOk s) (now : Nat) {a b : Bool}
    (hd : quadStep s a b = 1 ∨ quadStep s a b = 3) :
    let fwd := (quadStep s a b == 1) != fldB s F.PLC_CTL_DIR_INVERT
    let t := webLevels (plcTime s now) a b now
    t.plc.a = a ∧ t.plc.b = b ∧ t.plc.count = wrap48 (s.plc.count + (if fwd then 1 else -1)) ∧ t.plc.illegal = 0
      ∧ (faultHolds s = false → t.plc.refW = fix (posAt t t.plc.count) ∧ t.plc.refT = now) := by
  obtain ⟨clk, wmax, below, htime⟩ := plcTime_law s now
  have hcounted : webLevels (plcTime s now) a b now = countedEdge (withLevels (plcTime s now) a b)
      ((quadStep s a b == 1) != fldB s F.PLC_CTL_DIR_INVERT) now := by
    have hstep : quadStep (plcTime s now) a b = quadStep s a b := by rw [htime]; rfl
    have hinvert : fldB (plcTime s now) F.PLC_CTL_DIR_INVERT = fldB s F.PLC_CTL_DIR_INVERT := by rw [htime]; rfl
    rw [webLevels_counted (by rwa [hstep]), hstep, hinvert]
  have hlaw := countedEdge_law (s := withLevels (plcTime s now) a b) (by rw [htime]; exact h)
    ((quadStep s a b == 1) != fldB s F.PLC_CTL_DIR_INVERT) now
  rw [← hcounted] at hlaw
  obtain ⟨ha, hb, hcount, hillegal, hanchor⟩ := hlaw
  refine ⟨ha, hb, hcount.trans ?_, hillegal, fun hno => hanchor ?_⟩
  · rw [htime]; rfl
  · rw [← hno, htime]; rfl

section
variable {s : State} (halive : alive s = true) (h : StnOk s) (now : Nat)
include halive h

theorem illegalTransition_law : ∃ t, exec (.illegalTransition now) s = .next t ∧ t.plc.a = !s.plc.a ∧ t.plc.b = !s.plc.b
    ∧ t.plc.count = s.plc.count ∧ t.plc.illegal = s.plc.illegal + 1 ∧ t.plc.clean = 0
    ∧ countedUp s t F.PLC_ILLEGAL 1 ∧ (s.plc.mode ≠ .stopped → t.plc.mode = .frozen)
    ∧ (jobRuns s = true → (slotGet t 70).isOpen = true) := by
  obtain ⟨clk, wmax, below, htime⟩ := plcTime_law s now
  have hexec : exec (.illegalTransition now) s
      = .next (illegalEdge (withLevels (plcTime s now) (!s.plc.a) (!s.plc.b)) now) := by
    refine (congrArg Host.Outcome.next (if_pos halive)).trans ?_
    rw [htime]
    exact congrArg Host.Outcome.next (webLevels_both _ now)
  have hlaw := illegalEdge_law (s := withLevels (plcTime s now) (!s.plc.a) (!s.plc.b)) (by rw [htime]; exact h) now
  refine ⟨_, hexec, ?_⟩
  rw [htime] at hlaw ⊢
  exact hlaw

theorem webIndexEdge_law : ∃ t, exec (.webIndexEdge now) s = .next t
    ∧ (fld t F.PLC_INDEX_LO : Int) = s.plc.count % 2 ^ 32
    ∧ (fld t F.PLC_INDEX_HI : Int) = s.plc.count / 2 ^ 32 % 2 ^ 16 := by
  obtain ⟨clk, hadvance⟩ := advanceTo_law s now
  have hexec : exec (.webIndexEdge now) s = .next (setFldInt (setFldInt (advanceTo s now) F.PLC_INDEX_LO
      ((advanceTo s now).plc.count % 2 ^ 32)) F.PLC_INDEX_HI ((advanceTo s now).plc.count / 2 ^ 32)) :=
    congrArg Host.Outcome.next (if_pos halive)
  rw [hadvance] at hexec
  have hlo := setFldInt_ok (s := { s with clk := clk }) h F.PLC_INDEX_LO (s.plc.count % 2 ^ 32)
  refine ⟨_, hexec, ?_, fld_setFldInt_same hlo (by decide) _⟩
  rw [fld_setFldInt_addr hlo _ (by decide), fld_setFldInt_same (by exact h) (by decide)]
  exact Int.emod_emod _ _

end

theorem webStop_stops {s : State} {now : Nat} (hfault : s.plc.encFault = false) (hmoves : s.plc.mode ≠ .stopped)
    (hdue : stopDue s now = true) : exec (.webStop now) s = .next (holdW (plcTime s now) now) := by
  obtain ⟨clk, wmax, below, htime⟩ := plcTime_law s now
  have hdue' : stopDue (plcTime s now) now = true := by rw [htime]; exact hdue
  refine congrArg Host.Outcome.next (if_neg ?_)
  rw [hdue', htime]
  simp [hfault, hmoves]

theorem webEncoder : Claims.WebEncoder := by
  intro s showsA showsB heldA heldB now halive hok n a b d forward
  have hedge : exec (.webEdge showsA showsB heldA heldB now) s = .next (webLevels (plcTime s now) a b now) :=
    congrArg Host.Outcome.next (if_pos halive)
  refine ⟨fun hstep => ?_, fun hA hB => ?_, fun hnone => ?_, illegalTransition_law halive hok now,
    webIndexEdge_law halive hok now, fun hfault hmoves hdue => ⟨_, webStop_stops hfault hmoves hdue, rfl, rfl, rfl⟩⟩
  · obtain ⟨ha, hb, hcount, hillegal, hanchor⟩ := webLevels_counts hok now (a := a) (b := b) hstep
    have hforward : forward ↔ _ := countsForward_iff (quadStep s a b) (fldB s F.PLC_CTL_DIR_INVERT)
    refine ⟨_, hedge, ha, hb, fun hf => ?_, fun hback => ?_, hillegal, hanchor⟩
    · exact hcount.trans (by rw [if_pos (hforward.mp hf)])
    · exact hcount.trans (by rw [if_neg (fun hf => hback (hforward.mpr hf))]; rfl)
  · have hsameA : a = s.plc.a := if_neg (by omega)
    have hsameB : b = s.plc.b := if_neg (by omega)
    show quadStep s a b = 0
    rw [hsameA, hsameB, quadStep_same]
  · obtain ⟨clk, wmax, below, htime⟩ := plcTime_law s now
    have hstays : webLevels (plcTime s now) a b now = withLevels (plcTime s now) a b := by
      rw [htime]; exact if_pos hnone
    exact ⟨_, hedge, by rw [hstays, htime]; rfl⟩

/-! ### What the end of a job leaves alone (R224) -/

/-- The placement engine and the jobs of `t` are those of `s`. -/
structure SameWeb (s t : State) : Prop where
  plc : t.plc = s.plc
  jobs : t.jobs = s.jobs

section
variable {s t : State}

theorem SameWeb.refl : SameWeb s s := ⟨rfl, rfl⟩

/-- An update of other units. -/
theorem SameWeb.frame (h : SameWeb s t) {u : State} (hplc : u.plc = t.plc := by rfl)
    (hjobs : u.jobs = t.jobs := by rfl) :
    SameWeb s u := ⟨hplc.trans h.plc, hjobs.trans h.jobs⟩

theorem SameWeb.ite {c : Prop} {_ : Decidable c} {u : State} (ht : SameWeb s t) (hu : SameWeb s u) :
    SameWeb s (if c then t else u) := by split; exacts [ht, hu]

theorem SameWeb.foldl {α : Type} {f : State → α → State} {l : List α} (hf : ∀ u a, SameWeb s u → SameWeb s (f u a))
    (h : SameWeb s t) : SameWeb s (l.foldl f t) := foldl_inv (SameWeb s) f hf l h

variable (h : SameWeb s t)
include h

theorem setFld_web {f : Fld} {v : Nat} : SameWeb s (setFld t f v) := h.frame
theorem incFld_web {f : Fld} : SameWeb s (incFld t f) := h.frame
theorem wrapFld_web {f : Fld} : SameWeb s (wrapFld t f) := h.frame
theorem alarm_web {n : Nat} {d : List Word} : SameWeb s (alarm t n d) := h.frame (alarm_plc t n d) (alarm_jobs t n d)
theorem setEventAll_web {n : Nat} : SameWeb s (setEventAll t n) := .foldl (fun _ _ hu => hu.frame) h

theorem journal_web {x : JEntry} : SameWeb s (journal t x) := by
  obtain ⟨f, hfill⟩ := journal_fill t x
  rw [hfill]; exact h.frame

theorem startHandover_web : SameWeb s (startHandover t) := by
  obtain ⟨-, -, -, -, -, hjobs, -, hplc, -⟩ := startHandover_keeps t
  exact h.frame hplc hjobs

theorem clearPods_web : SameWeb s (clearPods t) := .foldl (fun _ _ hu => .ite hu.frame hu) h

theorem dramPut_web {a : Nat} {bs : List Byte} : SameWeb s (dramPut t a bs) := by
  obtain ⟨v, hsame, hwrite⟩ := dramWrite_law t a bs
  exact .ite (by rw [hwrite]; exact h.frame hsame.plc hsame.jobs) h

theorem changeLog_web {entry old new reason camera line frame : Nat} {gain d : Int} :
    SameWeb s (changeLog t entry old new reason gain camera line d frame) := wrapFld_web (dramPut_web h)

/-- The notes of a version's write: its counts and its change-log record. -/
theorem healthNote_web {x : Nat} {m : MapCopy} {e : LqEntry} : SameWeb s (healthNote x (t, m) e).1 := by
  unfold healthNote
  dsimp only
  split
  · split
    · refine changeLog_web (.ite ?_ (incFld_web h))
      split; exacts [incFld_web h, h]
    · exact changeLog_web (incFld_web h)
  · exact changeLog_web (dramPut_web h)
  · exact h

theorem healthNotes_web {m : MapCopy} {es : List LqEntry} {x : Nat} : SameWeb s (healthNotes t m es x) := by
  have hnotes : SameWeb s (es.foldl (healthNote x) (t, m)).1 :=
    foldl_inv (fun acc => SameWeb s acc.1) (healthNote x) (fun _ _ hacc => healthNote_web hacc) es h
  exact .ite (setFld_web (setEventAll_web hnotes)) h

theorem noteOrphans_web {old : Option MapCopy} {new : MapCopy} : SameWeb s (noteOrphans t old new) :=
  .ite (.foldl (fun _ _ hu => alarm_web hu) (setFld_web h)) (setFld_web h)

theorem putStations_web {sv : List (Nat × Word)} : SameWeb s (putStations t sv) :=
  foldl_inv (SameWeb s) (fun (u : State) (e : Nat × Word) => setStnWord u e.1 e.2) (fun _ _ hu => hu.frame) sv h

/-- Queued writes that take effect touch the map, the stations and the health unit. -/
theorem applyNow_web {es : List LqEntry} : SameWeb s (applyNow t es) := by
  have hput : ∀ {m : MapCopy} {sv : List (Nat × Word)},
      SameWeb s (putStations { t with scr := { t.scr with live := m } } sv) := putStations_web h.frame
  have hnoted : ∀ {v : State} {m m' : MapCopy} {x y : Nat}, SameWeb s v →
      SameWeb s (noteChanged (healthNotes v m es x) m m' y) := fun hv => (healthNotes_web hv).frame
  exact .foldl (fun _ _ hu => hu.frame) (.ite (hnoted hput) (noteOrphans_web (hnoted hput)))

theorem flushLq_web : SameWeb s (flushLq t) := by
  unfold flushLq
  exact applyNow_web h.frame

theorem clearJobReasons_web : SameWeb s (clearJobReasons t) := h.frame

theorem retireVersion_web : SameWeb s (retireVersion t) := by
  unfold retireVersion
  split
  · exact journal_web (setFld_web (putStations_web h.frame))
  · exact h

end

/-- An armed hand-over starts (R352). -/
def armedHandover (s : State) : State :=
  if s.tho.armed then startHandover { s with tho := { s.tho with armed := false } } else s

theorem armedHandover_web {s t : State} (h : SameWeb s t) : SameWeb s (armedHandover t) :=
  .ite (startHandover_web h.frame) h

/-- What follows the end of a job, with its reason: queued writes take effect, the pods are cleared, the standby and the
stewards hear of it (R205, R268). -/
def afterJob (s : State) (r : EndReason) : State :=
  let s := clearPods (flushLq (setFldB (clearJobReasons s) F.FEED_HALTED (r == .feedLate)))
  armedHandover (setEventAll (journal s (.jobEnd (reasonNum r))) 17)

theorem afterJob_web (s : State) (r : EndReason) : SameWeb s (afterJob s r) :=
  armedHandover_web (setEventAll_web (journal_web (clearPods_web (flushLq_web (setFld_web
    (clearJobReasons_web .refl))))))

/-- The running job ends with its reason; the web moves as it did. -/
theorem endJob_law {s : State} (hrun : jobRuns s = true) (r : EndReason) :
    (endJob s r).plc = { s.plc with wmax := none, scLine := none, encFault := false, encAlarmed := false }
      ∧ (endJob s r).jobs = { s.jobs with running := none, next := none, ended := some r } := by
  obtain ⟨j, hj⟩ := Option.isSome_iff_exists.mp hrun
  have hretired := retireVersion_web (s := s) .refl
  have hend : ∃ u, endJob s r = afterJob u r
      ∧ u.plc = { s.plc with wmax := none, scLine := none, encFault := false, encAlarmed := false }
      ∧ u.jobs = { s.jobs with running := none, next := none, ended := some r } := by
    unfold endJob
    rw [hj]
    exact ⟨_, rfl, by rw [dropTails, hretired.plc], by rw [dropTails, hretired.jobs]⟩
  obtain ⟨u, hu, hplc, hjobs⟩ := hend
  have hweb := afterJob_web u r
  rw [hu]
  exact ⟨hweb.plc.trans hplc, hweb.jobs.trans hjobs⟩

/-- The extrapolation ends: W holds where it stands, and no row fires again (R230). -/
def webHeld (s : State) (t : Nat) : State :=
  holdW { plcTime s t with plc2 := { (plcTime s t).plc2 with noFire := true } } t

theorem webHeld_keeps (s : State) (t : Nat) :
    (webHeld s t).jobs = s.jobs ∧ endsJobs (webHeld s t) = endsJobs s := by
  obtain ⟨clk, wmax, below, htime⟩ := plcTime_law s t
  rw [webHeld, htime]
  exact ⟨rfl, rfl⟩

theorem exec_extrapolationEnd {s : State} (hrun : jobRuns s = true) (hfault : s.plc.encFault = true) (t : Nat) :
    exec (.extrapolationEnd t) s
      = .next (if endsJobs s then endAndNext (webHeld s t) .encoder else webHeld s t) := by
  obtain ⟨clk, wmax, below, htime⟩ := plcTime_law s t
  have hholds : (jobRuns (plcTime s t) && (plcTime s t).plc.encFault) = true := by
    rw [htime, Bool.and_eq_true_iff]; exact ⟨hrun, hfault⟩
  rw [← (webHeld_keeps s t).2]
  exact congrArg Host.Outcome.next (if_pos hholds)

theorem extrapolationEnd : Claims.ExtrapolationEnd := by
  intro s now hrun hfault hnext
  obtain ⟨hjobs, -⟩ := webHeld_keeps s now
  have hexec := exec_extrapolationEnd hrun hfault now
  cases he : endsJobs s with
  | true =>
    have hlast : endAndNext (webHeld s now) .encoder = endJob (webHeld s now) .encoder := by
      unfold endAndNext; rw [hjobs, hnext]
    obtain ⟨hplc, hended⟩ := endJob_law (s := webHeld s now) (by rw [jobRuns, hjobs]; exact hrun) .encoder
    rw [he, if_pos rfl, hlast] at hexec
    refine ⟨_, hexec, ?_, ?_, fun _ => ?_, fun hno => absurd hno Bool.true_eq_false.mp⟩
    · rw [hplc]; rfl
    · rw [hplc]; rfl
    · rw [hended]; exact ⟨rfl, rfl⟩
  | false =>
    rw [he, if_neg Bool.false_ne_true] at hexec
    exact ⟨_, hexec, rfl, rfl, fun hno => absurd hno Bool.false_ne_true, fun _ => ⟨rfl, hjobs⟩⟩

/-- Settles O47: the two claims. -/
theorem webMotion : Obligations.WebMotion := ⟨webEncoder, extrapolationEnd⟩

end Sys2Proof.Machine
end

section
/-! The pod links: what is sent to a pod, how a bring-up begins, the loss of a port, and the stores of the PODL block
(R242, R247, R249, R275). -/
namespace Sys2Proof.Machine
open Sys2Proof Sys2Proof.Claims

/-! ### The links -/

@[simp] theorem link_setLink (s : State) (p q : Fin 24) (x : PodLink) :
    link (setLink s p x) q = if q = p then x else link s q := by
  by_cases hq : q = p
  · subst hq; simp [link, setLink]
  · have : p.val ≠ q.val := fun h => hq (Fin.ext h.symm)
    simp [link, setLink, hq, Vector.getElem_set_ne _ _ this]

@[simp] theorem link_modLink (s : State) (p q : Fin 24) (f : PodLink → PodLink) :
    link (modLink s p f) q = if q = p then f (link s p) else link s q := link_setLink s p q _

theorem modLink_modLink (s : State) (p : Fin 24) (f g : PodLink → PodLink) :
    modLink (modLink s p f) p g = modLink s p (fun x => g (f x)) := by
  simp [modLink, setLink, link]

@[simp] theorem link_alarm (s : State) (n : Nat) (d : List Word) (q : Fin 24) : link (alarm s n d) q = link s q := by
  rw [link, alarm_pods]; rfl

@[simp] theorem link_setFld (s : State) (f : Fld) (v : Nat) (q : Fin 24) : link (setFld s f v) q = link s q := rfl

@[simp] theorem fld_modLink (s : State) (p : Fin 24) (f : PodLink → PodLink) (g : Fld) :
    fld (modLink s p f) g = fld s g := rfl

/-! ### What is sent to a pod -/

/-- The state with other outputs. -/
def withOut (s : State) (out : List Out) : State := { s with out := out }

@[simp] theorem link_withOut (s : State) (out : List Out) (q : Fin 24) : link (withOut s out) q = link s q := rfl
@[simp] theorem fld_withOut (s : State) (out : List Out) (g : Fld) : fld (withOut s out) g = fld s g := rfl

/-- What is sent to a pod joins the outputs, and changes nothing else. -/
theorem sendPod_law (s : State) (p : Fin 24) (type : Byte) (pl : List Byte) :
    ∃ out, sendPod s p type pl = withOut s out := by
  unfold sendPod
  split
  · exact ⟨_, rfl⟩
  · exact ⟨s.out, rfl⟩

theorem sendPod_drives {s : State} (h : drives s = true) (p : Fin 24) (type : Byte) (pl : List Byte) :
    sendPod s p type pl = withOut s (s.out ++ [Out.pod p (podFrame type (pairEpoch s) pl)]) := if_pos h

/-- The link with an ECHO under way that left at `t` (R255). -/
def echoSent (t : Nat) (x : PodLink) : PodLink := { x with tag := x.tag + 1, echo := some (x.tag, t) }

theorem sendEcho_law (s : State) (p : Fin 24) (t : Nat) :
    ∃ out, sendEcho s p t = modLink (withOut s out) p (echoSent t) := by
  obtain ⟨out, hsent⟩ := sendPod_law s p 0x06 (leBytes 2 (link s p).tag.toNat ++ leBytes 2 0)
  refine ⟨out, ?_⟩
  simp only [sendEcho, hsent]
  rfl

/-! ### A bring-up begins (R242) -/

/-- UP and FALLBACK cleared. -/
def upCleared (s : State) (p : Fin 24) : State := setFld (setFld s (F.PODL_STAT_UP p) 0) (F.PODL_STAT_FALLBACK p) 0

/-- The link in step 1 of a bring-up at rate code `r`. -/
def atRate (quick : Bool) (r : Nat) (x : PodLink) : PodLink :=
  { x with step := .statusAtRate, quick := quick, rate := r, echo := none, meas := [] }

/-- The start of a bring-up at rate code `r`; after a change of role its first frame is an ECHO (R273). -/
def begun (s : State) (p : Fin 24) (quick : Bool) (r : Nat) : State :=
  let s := modLink (upCleared s p) p (atRate quick r)
  if quick then modLink s p (echoSent s.clk.now) else s

theorem sendIdle_begun (s : State) (p : Fin 24) (quick : Bool) :
    ∃ out, sendIdle (if quick then sendEcho s p s.clk.now else s) p
      = withOut (if quick then modLink s p (echoSent s.clk.now) else s) out := by
  cases quick with
  | false => exact sendPod_law s p 0x01 []
  | true =>
    obtain ⟨_, hecho⟩ := sendEcho_law s p s.clk.now
    obtain ⟨out, hidle⟩ := sendPod_law (sendEcho s p s.clk.now) p 0x01 []
    exact ⟨out, by rw [if_pos rfl, if_pos rfl, sendIdle, hidle, hecho]; rfl⟩

/-- A bring-up whose conditions hold begins at the rate that RATE names, and falls back where it names none. -/
theorem bringUp_begins {s : State} (h : StnOk s) {p : Fin 24} (hwants : wantsUp s p = true) (quick : Bool) :
    ∃ out, let t := withOut (begun s p quick (fld s (F.PODL_CTL_RATE p))) out
      bringUp s p quick = if rateLegal (fld s (F.PODL_CTL_RATE p)) then t else fallBack t p := by
  have hrate : fld (upCleared s p) (F.PODL_CTL_RATE p) = fld s (F.PODL_CTL_RATE p) := by
    rw [upCleared, fld_setFld_addr (setFld_ok h _ _) _ (by simp), fld_setFld_addr h _ (by simp)]
  obtain ⟨out, hidle⟩ := sendIdle_begun (modLink (upCleared s p) p
    (atRate quick (fld (upCleared s p) (F.PODL_CTL_RATE p)))) p quick
  refine ⟨out, ?_⟩
  rw [← hrate]
  unfold bringUp
  rw [if_pos hwants]
  exact congrArg (fun u => if rateLegal (fld (upCleared s p) (F.PODL_CTL_RATE p)) then u else fallBack u p) hidle

/-! ### What a bring-up leaves alone -/

/-- `t` follows `s` but for port `p`: of the stations only UP and FALLBACK have changed, and UP not to 1; of
the links only that of `p`, where the run of discarded frames goes on; no alarm slot. -/
structure PortOnly (p : Fin 24) (s t : State) : Prop where
  kept : Kept (· ≠ (F.PODL_STAT_UP p).addr) s t
  lock : fld t (F.PODL_STAT_LOCK p) = fld s (F.PODL_STAT_LOCK p)
  up : fld s (F.PODL_STAT_UP p) = 0 → fld t (F.PODL_STAT_UP p) = 0
  bad : (link t p).bad = (link s p).bad
  others : ∀ q : Fin 24, q ≠ p → link t q = link s q
  slots : ∀ n, slotGet t n = slotGet s n
  twin : t.twin = s.twin

section
variable {p : Fin 24} {s t : State}

theorem PortOnly.refl (h : StnOk s) : PortOnly p s s := ⟨.refl h, rfl, id, rfl, fun _ _ => rfl, fun _ => rfl, rfl⟩

variable (h : PortOnly p s t)
include h

theorem PortOnly.modLink {f : PodLink → PodLink} (hf : ∀ x, (f x).bad = x.bad) : PortOnly p s (modLink t p f) where
  kept := h.kept.frame
  lock := h.lock
  up := h.up
  bad := by rw [link_modLink, if_pos rfl, hf, h.bad]
  others q hq := by rw [link_modLink, if_neg hq, h.others q hq]
  slots := h.slots
  twin := h.twin

theorem PortOnly.withOut {out : List Out} : PortOnly p s (withOut t out) :=
  ⟨h.kept.frame, h.lock, h.up, h.bad, h.others, h.slots, h.twin⟩

theorem PortOnly.clearUp : PortOnly p s (setFld t (F.PODL_STAT_UP p) 0) where
  kept := setFld_kept h.kept (by simp)
  lock := (fld_setFld_bits h.kept.ok _ (by simp) (by simp)).trans h.lock
  up _ := fld_setFld_same h.kept.ok (by simp) 0
  bad := h.bad
  others := h.others
  slots := h.slots
  twin := h.twin

theorem PortOnly.fallback {v : Nat} : PortOnly p s (setFld t (F.PODL_STAT_FALLBACK p) v) where
  kept := setFld_kept h.kept (by simp)
  lock := (fld_setFld_bits h.kept.ok _ (by simp) (by simp)).trans h.lock
  up hs := (fld_setFld_bits h.kept.ok _ (by simp) (by simp)).trans (h.up hs)
  bad := h.bad
  others := h.others
  slots := h.slots
  twin := h.twin

theorem PortOnly.begun {quick : Bool} {r : Nat} : PortOnly p t (begun t p quick r) := by
  have hcleared : PortOnly p t (upCleared t p) := (PortOnly.refl h.kept.ok).clearUp.fallback
  have hatRate := hcleared.modLink (f := atRate quick r) (fun _ => rfl)
  unfold Machine.begun
  dsimp only
  split
  · exact hatRate.modLink (fun _ => rfl)
  · exact hatRate

theorem PortOnly.fallBack : PortOnly p s (fallBack t p) :=
  (h.modLink (f := fun x => { x with step := .statusAtZero, rate := 0 }) (fun _ => rfl)).fallback

end

theorem bringUp_portOnly {s : State} (h : StnOk s) (p : Fin 24) (quick : Bool) : PortOnly p s (bringUp s p quick) := by
  by_cases hwants : wantsUp s p = true
  · obtain ⟨out, hbring⟩ := bringUp_begins h hwants quick
    have hbegun := ((PortOnly.refl h).begun (p := p) (quick := quick) (r := fld s (F.PODL_CTL_RATE p))).withOut (out := out)
    rw [hbring]
    split
    · exact hbegun
    · exact hbegun.fallBack
  · rw [bringUp, if_neg hwants]; exact .refl h

/-! ### The loss of a port (R247) -/

theorem Kept.trans {A : Nat → Prop} {s t u : State} (h : Kept A s t) (g : Kept A t u) : Kept A s u :=
  ⟨g.ok, fun a ha => (g.words a ha).trans (h.words a ha), g.dieT.trans h.dieT, g.hk.trans h.hk⟩

/-- The port has gone down: UP and LOCK read 0 and pod-link-fault is open; of the stations only this word has changed, of
the links only this one, where the run of discarded frames goes on. -/
structure PortDown (p : Fin 24) (s t : State) : Prop where
  up : podUp t p = false
  lock : fld t (F.PODL_STAT_LOCK p) = 0
  alarmed : (slotGet t (196 + p.val)).isOpen = true
  kept : Kept (· ≠ (F.PODL_STAT_UP p).addr) s t
  bad : (link t p).bad = (link s p).bad
  others : ∀ q : Fin 24, q ≠ p → link t q = link s q
  twin : t.twin = s.twin

theorem portLost_down {s : State} (h : StnOk s) {p : Fin 24} (hup : podUp s p = true) : PortDown p s (portLost s p) := by
  let u := setFld (setFld s (F.PODL_STAT_LOCK p) 0) (F.PODL_STAT_UP p) 0
  have hlost : portLost s p = bringUp (alarm u (196 + p) [0]) p false := if_pos hup
  have hkept : Kept (· ≠ (F.PODL_STAT_UP p).addr) s (alarm u (196 + p) [0]) :=
    alarm_kept (setFld_kept (setFld_kept (.refl h) (by simp)) (by simp))
  have hfld (f : Fld) : fld (alarm u (196 + p) [0]) f = fld u f := by rw [fld, stnWord, alarm_stn]; rfl
  have hup0 : fld u (F.PODL_STAT_UP p) = 0 := fld_setFld_same (setFld_ok h _ _) (by simp) 0
  have hlock0 : fld u (F.PODL_STAT_LOCK p) = 0 :=
    (fld_setFld_bits (setFld_ok h _ _) _ (by simp) (by simp)).trans (fld_setFld_same h (by simp) 0)
  have honly := bringUp_portOnly hkept.ok p false
  rw [hlost]
  exact {
    up := by rw [podUp, fldB, honly.up ((hfld _).trans hup0)]; rfl
    lock := by rw [honly.lock, hfld, hlock0]
    alarmed := by rw [honly.slots]; exact slotGet_alarm_open _ _ _
    kept := hkept.trans honly.kept
    bad := by rw [honly.bad, link_alarm]; rfl
    others := fun q hq => by rw [honly.others q hq, link_alarm]; rfl
    twin := by rw [honly.twin, alarm_twin]; rfl }

/-! ### Stores to PODL -/

/-- The state in which a store has its effect: the waiting line-qualified store of the station is gone, and the store is
journaled. -/
def beforeStore (s : State) (hiw : List (Nat × Word)) (fill : List JEntry) : State :=
  { s with hiw := hiw, twin := { s.twin with fill := fill } }

/-- The state with another thermos, where a changed kept value is noted. -/
def withTherm (s : State) (therm : Therm) : State := { s with therm := therm }

@[simp] theorem fld_withTherm (s : State) (therm : Therm) (f : Fld) : fld (withTherm s therm) f = fld s f := rfl

theorem noteKept_therm (s t : State) (a : Nat) : ∃ therm, noteKept s t a = withTherm t therm := by
  unfold noteKept
  repeat' split
  all_goals exact ⟨_, rfl⟩

/-- A store outside the banked group has the effect of its block. -/
theorem storeStation_effect (s : State) (k : Option (Fin 8)) {a : Nat} (ha : a / 0x1000000 ≠ 0x4A) (v : Word) :
    ∃ hiw fill therm, storeStation s k a v = withTherm (storeEffect (beforeStore s hiw fill) a v) therm := by
  have hbanked : bankedStation a = false := Bool.eq_false_iff.mpr (fun h => ha (block_of_bankedStation h))
  let hiw := s.hiw.filter (fun e => e.1 != a)
  obtain ⟨fill, hfill⟩ := journalStore_fill { s with hiw := hiw } a v
  obtain ⟨therm, hnote⟩ := noteKept_therm { s with hiw := hiw } (storeEffect (beforeStore s hiw fill) a v) a
  refine ⟨hiw, fill, therm, ?_⟩
  rw [← hnote]
  simp only [storeStation, hbanked, Bool.false_eq_true, if_false]
  exact congrArg (fun u => noteKept { s with hiw := hiw } (storeEffect u a v) a) hfill

theorem storeEffect_podl {a : Nat} (ha : a / 0x1000000 = 0x46) (s : State) (v : Word) :
    storeEffect s a v = storePodl s a v := by
  have hblock : (a - 0x40000000) / 0x1000000 = 6 := by omega
  simp only [storeEffect, hblock]

theorem storeCmd_podl {s : State} (hready : takesStores s = true) {a : Nat} (ha : a / 0x1000000 = 0x46) (v : Word) :
    ∃ hiw fill therm, storeCmd s a v = .next (withTherm (storePodl (beforeStore s hiw fill) a v) therm) := by
  obtain ⟨hiw, fill, therm, hstore⟩ := storeStation_effect s none (a := a) (by omega) v
  exact ⟨hiw, fill, therm, by rw [storeCmd, if_pos hready, hstore, storeEffect_podl ha]⟩

end Sys2Proof.Machine
end

section
/-! Scans, lost pod links and purges (R247, R266, R267). -/
namespace Sys2Proof.Machine
open Sys2Proof Sys2Proof.Claims

/-! ### Scans (R266) -/

@[simp] theorem link_dramWrite (s : State) (a : Nat) (bs : List Byte) (q : Fin 24) :
    link (dramWrite s a bs) q = link s q := by
  obtain ⟨u, hsame, hwrite⟩ := dramWrite_law s a bs
  rw [hwrite, link, hsame.pods]; rfl

section
variable {s : State} {p : Fin 24}

theorem exec_rscanData {row : Fin 8} (hscan : (link s p).scanning = true) (hrow : row.val < rowsOf s p) (seg : Fin 256)
    (bytes : List Byte) : exec (.rscanData p row seg bytes false) s
      = .next (dramWrite (goodUpstream s p) (scanBase s + entryOf s p row (64 * seg.val))
          (bytes.take (min 64 (nprOf s p - 64 * seg.val)))) := by
  have hcond : ((link (goodUpstream s p) p).scanning && decide (row.val < rowsOf (goodUpstream s p) p)) = true := by
    rw [goodUpstream, link_modLink, if_pos rfl, hscan]
    exact decide_eq_true hrow
  exact if_pos hcond

/-- The wait for the pod is over. -/
def scanOver (s : State) (p : Fin 24) : State := modLink s p (fun x => { x with scanning := false })

theorem exec_rscanDone (s : State) (p : Fin 24) (aborted : Bool) :
    exec (.rscanDone p aborted false) s = .next (scanOver (goodUpstream s p) p) := rfl

/-- One pod of a scan that has timed out. -/
def timeOutScan (s : State) (p : Fin 24) : State :=
  if (link s p).scanning then alarm (scanOver s p) (172 + p) [] else s

theorem timeOutScan_same (s : State) (p : Fin 24) : (link (timeOutScan s p) p).scanning = false
    ∧ ((link s p).scanning = true → (slotGet (timeOutScan s p) (172 + p.val)).isOpen = true) := by
  unfold timeOutScan
  split
  · next hscan => exact ⟨by simp [scanOver], fun _ => slotGet_alarm_open _ _ _⟩
  · next hscan => exact ⟨Bool.eq_false_iff.mpr hscan, fun h => absurd h hscan⟩

theorem timeOutScan_other {q : Fin 24} (hq : q ≠ p) (s : State) : link (timeOutScan s q) p = link s p
    ∧ slotGet (timeOutScan s q) (172 + p.val) = slotGet s (172 + p.val) := by
  have hslot : 172 + p.val ≠ 172 + q.val := fun h => hq (Fin.ext (Nat.add_left_cancel h).symm)
  unfold timeOutScan
  split
  · exact ⟨by simp [scanOver, hq.symm], slotGet_alarm_other _ _ hslot⟩
  · exact ⟨rfl, rfl⟩

theorem timeOutScans_other {l : List (Fin 24)} (hl : p ∉ l) (s : State) : link (l.foldl timeOutScan s) p = link s p
    ∧ slotGet (l.foldl timeOutScan s) (172 + p.val) = slotGet s (172 + p.val) := by
  induction l generalizing s with
  | nil => exact ⟨rfl, rfl⟩
  | cons q l ih =>
    rw [List.mem_cons, not_or] at hl
    obtain ⟨hlink, hslot⟩ := timeOutScan_other (fun h => hl.1 h.symm) s
    obtain ⟨hlinks, hslots⟩ := ih hl.2 (timeOutScan s q)
    exact ⟨hlinks.trans hlink, hslots.trans hslot⟩

/-- The time-out takes every pod once: what it does for `p` is what it does at `p`. -/
theorem scanTimeout_law (s : State) (p : Fin 24) : ∃ t, exec .scanTimeout s = .next t ∧ (link t p).scanning = false
    ∧ ((link s p).scanning = true → (slotGet t (172 + p.val)).isOpen = true) := by
  obtain ⟨before, later, hsplit⟩ := List.append_of_mem (List.mem_finRange p)
  have honce := List.nodup_finRange 24
  rw [hsplit, List.nodup_middle, List.nodup_cons, List.mem_append, not_or] at honce
  obtain ⟨⟨hbefore, hlater⟩, -⟩ := honce
  let u := before.foldl timeOutScan s
  have hexec : exec .scanTimeout s = .next (later.foldl timeOutScan (timeOutScan u p)) := by
    show Host.Outcome.next ((List.finRange 24).foldl timeOutScan s) = _
    rw [hsplit, List.foldl_append, List.foldl_cons]
  obtain ⟨hlink, -⟩ := timeOutScans_other hbefore s
  obtain ⟨hover, halarm⟩ := timeOutScan_same u p
  obtain ⟨hlink', hslot'⟩ := timeOutScans_other hlater (timeOutScan u p)
  exact ⟨_, hexec, by rw [hlink', hover], fun hscan => by rw [hslot']; exact halarm (by rw [hlink, hscan])⟩

end

/-! ### Purges (R267) -/

theorem storePodl_purge (s : State) (v : Word) : storePodl s F.PODL_PURGE_GO_POD.addr v = purgeGo s v := rfl

theorem podlPurgeGo_law {s : State} (hready : takesStores s = true) (v : Word) :
    ∃ hiw fill therm, exec (.podlPurgeGo v) s = .next (withTherm (purgeGo (beforeStore s hiw fill) v) therm) := by
  obtain ⟨hiw, fill, therm, hstore⟩ := storeCmd_podl hready (a := F.PODL_PURGE_GO_POD.addr) (by decide) v
  rw [storePodl_purge] at hstore
  exact ⟨hiw, fill, therm, hstore⟩

theorem purgeGo_sends {s : State} (hdrives : drives s = true) (hjob : jobDeclared s = false) {p : Fin 24} {v : Word}
    (hp : fldOf F.PODL_PURGE_GO_POD v = p.val) : purgeGo s v = withOut s (s.out ++ [Out.pod p
      (podFrame 0x08 (pairEpoch s) ([BitVec.ofNat 8 (fldOf F.PODL_PURGE_GO_ROWS v), 0]
        ++ leBytes 2 (fld s F.PODL_PURGE_CFG_COUNT) ++ leBytes 2 (fld s F.PODL_PURGE_CFG_PERIOD_US) ++ [0, 0]))]) := by
  have hpod : (⟨fldOf F.PODL_PURGE_GO_POD v, by rw [hp]; exact p.isLt⟩ : Fin 24) = p := Fin.ext hp
  rw [purgeGo, hjob, if_neg Bool.false_ne_true]
  dsimp only
  rw [dif_pos (by rw [hp]; exact p.isLt), sendPod_drives hdrives, hpod]
  rfl

theorem purgeGo_ignored {s : State} (hjob : jobDeclared s = true) (v : Word) :
    purgeGo s v = setFld s F.PODL_GSTAT_PURGE_IGNORED 1 := if_pos hjob

/-- Settles O25: scans, then the loss of a port (`portLost_down`), then purges. -/
theorem podScanLossPurge : Obligations.PodScanLossPurge := by
  unfold Obligations.PodScanLossPurge
  intro s p row seg bytes aborted v h
  refine ⟨fun hscan hrow => ⟨_, exec_rscanData hscan hrow seg bytes, dramWrite_dram _ _ _, fun q => ?_⟩,
    ⟨_, exec_rscanDone s p aborted, ?_, fun q hq => ?_, rfl⟩, scanTimeout_law s p, fun hup => ?_,
    fun hready hpod => ⟨fun hjob hactive => ?_, fun hjob => ?_⟩⟩
  · rw [link_dramWrite, goodUpstream, link_modLink]
  · rw [scanOver, link_modLink, if_pos rfl]
  · rw [scanOver, link_modLink, if_neg hq, goodUpstream, link_modLink, if_neg hq]
  · have hdown := portLost_down h hup
    exact ⟨_, rfl, rfl, hdown.up, hdown.lock, hdown.alarmed⟩
  · obtain ⟨hiw, fill, therm, hexec⟩ := podlPurgeGo_law hready v
    have hdrives : drives (beforeStore s hiw fill) = true := Bool.and_eq_true_iff.mpr ⟨hactive, hready⟩
    exact ⟨_, hexec, by rw [purgeGo_sends hdrives hjob hpod]; rfl⟩
  · obtain ⟨hiw, fill, therm, hexec⟩ := podlPurgeGo_law hready v
    rw [purgeGo_ignored (s := beforeStore s hiw fill) hjob] at hexec
    exact ⟨_, hexec, rfl, fld_setFld_same (s := beforeStore s hiw fill) h (by decide) 1⟩

end Sys2Proof.Machine
end

section
/-! The bring-up of a pod link (R242). -/
namespace Sys2Proof.Machine
open Sys2Proof Sys2Proof.Claims

/-! ### ENABLE -/

theorem stnRow_podlCtl (p : Fin 24) : ∃ r, stnRow (F.PODL_CTL_ENABLE p).addr = some r
    ∧ (∀ i < 4, r.rw.testBit i = true) ∧ r.w1c = 0 := by
  revert p; decide

/-- Of what is written to PODL_CTL only BG is stored otherwise than written. -/
theorem podlCtlStored_getLsbD (v : Word) {i : Nat} (hi : i < 4) : (podlCtlStored v).getLsbD i = v.getLsbD i := by
  have hkeep : (~~~ (0x7800 : Word)).getLsbD i = true := by interval_cases i <;> rfl
  unfold podlCtlStored
  split
  · rw [BitVec.getLsbD_and, hkeep, Bool.and_true]
  · rfl

section
variable {s : State} (h : StnOk s) {p : Fin 24}
include h

/-- The low fields of PODL_CTL, ENABLE and RATE, are stored as written. -/
theorem fld_podlCtl_stored {f : Fld} (haddr : f.addr = (F.PODL_CTL_ENABLE p).addr) (hlow : f.lo + f.w ≤ 4) (v : Word) :
    fld (plainStore s (F.PODL_CTL_ENABLE p).addr (podlCtlStored v)) f = fldOf f v := by
  obtain ⟨r, hr, hrw, hw1c⟩ := stnRow_podlCtl p
  apply Nat.eq_of_testBit_eq
  intro i
  rw [fld, haddr, fldOf_testBit, fldOf_testBit]
  by_cases hi : i < f.w
  · rw [plainStore_getLsbD h hr _ (by omega), hrw _ (by omega), hw1c, podlCtlStored_getLsbD v (by omega)]
    simp
  · rw [decide_eq_false hi, Bool.false_and, Bool.false_and]

/-- ENABLE written as 1, the other bits as they stand. -/
def enableWritten (s : State) (p : Fin 24) : State :=
  plainStore s (F.PODL_CTL_ENABLE p).addr (podlCtlStored (stnWord s (F.PODL_CTL_ENABLE p).addr ||| 1))

theorem fldB_enableWritten : fldB (enableWritten s p) (F.PODL_CTL_ENABLE p) = true := by
  rw [fldB, enableWritten, fld_podlCtl_stored h rfl (by simp)]
  simp [fldOf]

theorem fld_enableWritten_rate : fld (enableWritten s p) (F.PODL_CTL_RATE p) = fld s (F.PODL_CTL_RATE p) := by
  rw [enableWritten, fld_podlCtl_stored h (f := F.PODL_CTL_RATE p) rfl (by simp), fld]
  apply Nat.eq_of_testBit_eq
  intro i
  rw [fldOf_testBit, fldOf_testBit, BitVec.getLsbD_or]
  simp

end

theorem enableWritten_frame (s : State) (p : Fin 24) :
    ∃ stn, enableWritten s p = { s with stn := stn } := by
  unfold enableWritten plainStore
  split
  · exact ⟨s.stn, rfl⟩
  · exact ⟨_, rfl⟩

theorem podlCtl_addr (p : Fin 24) : (F.PODL_CTL_ENABLE p).addr / 0x1000000 = 0x46
    ∧ (F.PODL_CTL_ENABLE p).addr - 0x46000000 = p * 0x100 := by
  have := p.isLt
  dsimp only
  omega

/-- A write of PODL_CTL does not reach it while a job is declared (R242). -/
theorem storePodl_ctl (s : State) (p : Fin 24) (v : Word) : storePodl s (F.PODL_CTL_ENABLE p).addr v
    = if jobDeclared s then setFldB s F.PODL_GSTAT_CFG_IGNORED true else podlCtl s p (F.PODL_CTL_ENABLE p).addr v := by
  have hp := p.isLt
  have hdiv : p.val * 0x100 / 0x100 = p.val := by omega
  have hmod : p.val * 0x100 % 0x100 = 0 := by omega
  unfold storePodl
  simp only [(podlCtl_addr p).2, hdiv, hmod, hp, dif_pos, true_or, if_true, Fin.eta]

theorem jobDeclared_beforeStore (s : State) (hiw : List (Nat × Word)) (fill : List JEntry) :
    jobDeclared (beforeStore s hiw fill) = jobDeclared s := rfl

section
variable {s : State} {p : Fin 24} (hready : takesStores s = true)
include hready

theorem podlEnable_ignored (hjob : jobDeclared s = true) : ∃ hiw fill therm, exec (.podlEnable p) s
    = .next (withTherm (setFldB (beforeStore s hiw fill) F.PODL_GSTAT_CFG_IGNORED true) therm) := by
  obtain ⟨hiw, fill, therm, hstore⟩ := storeCmd_podl hready (podlCtl_addr p).1
    (stnWord s (F.PODL_CTL_ENABLE p).addr ||| 1)
  rw [storePodl_ctl, jobDeclared_beforeStore, if_pos hjob] at hstore
  exact ⟨hiw, fill, therm, hstore⟩

theorem podlEnable_begins (hjob : jobDeclared s = false) (hactive : isActive s = true)
    (hoff : fldB s (F.PODL_CTL_ENABLE p) = false) : ∃ hiw fill therm, exec (.podlEnable p) s
      = .next (withTherm (bringUp (enableWritten (beforeStore s hiw fill) p) p false) therm) := by
  obtain ⟨hiw, fill, therm, hstore⟩ := storeCmd_podl hready (podlCtl_addr p).1
    (stnWord s (F.PODL_CTL_ENABLE p).addr ||| 1)
  refine ⟨hiw, fill, therm, ?_⟩
  have hoff' : fldB (beforeStore s hiw fill) (F.PODL_CTL_ENABLE p) = false := hoff
  obtain ⟨stn, hframe⟩ := enableWritten_frame (beforeStore s hiw fill) p
  have hactive' : isActive (enableWritten (beforeStore s hiw fill) p) = true := by rw [hframe]; exact hactive
  have hset : (stnWord s (F.PODL_CTL_ENABLE p).addr ||| 1).getLsbD 0 = true := by simp
  have hctl : podlCtl (beforeStore s hiw fill) p (F.PODL_CTL_ENABLE p).addr
      (stnWord s (F.PODL_CTL_ENABLE p).addr ||| 1) = bringUp (enableWritten (beforeStore s hiw fill) p) p false := by
    unfold podlCtl
    dsimp only
    rw [hset, hoff']
    exact if_pos hactive'
  rw [storePodl_ctl, jobDeclared_beforeStore, hjob, if_neg Bool.false_ne_true, hctl] at hstore
  exact hstore

end

/-! ### Starts, time-outs and the change of rate -/

theorem link_begun (s : State) (p : Fin 24) (quick : Bool) (r : Nat) :
    (link (begun s p quick r) p).step = .statusAtRate ∧ (link (begun s p quick r) p).rate = r := by
  unfold begun
  dsimp only
  split
  · rw [link_modLink, if_pos rfl, link_modLink, if_pos rfl]; exact ⟨rfl, rfl⟩
  · rw [link_modLink, if_pos rfl]; exact ⟨rfl, rfl⟩

theorem fld_begun (s : State) (p : Fin 24) (quick : Bool) (r : Nat) (f : Fld) :
    fld (begun s p quick r) f = fld (upCleared s p) f := by
  unfold begun
  dsimp only
  split
  · rw [fld_modLink, fld_modLink]
  · rw [fld_modLink]

/-- A bring-up begins in step 1, at the rate that RATE names. -/
theorem bringUp_legal {s : State} (h : StnOk s) {p : Fin 24} (hwants : wantsUp s p = true)
    (hrate : fld s (F.PODL_CTL_RATE p) ≤ 5) (quick : Bool) :
    let t := bringUp s p quick
    (link t p).step = .statusAtRate ∧ (link t p).rate = fld s (F.PODL_CTL_RATE p) ∧ podUp t p = false := by
  obtain ⟨out, hbring⟩ := bringUp_begins h hwants quick
  have hlegal : rateLegal (fld s (F.PODL_CTL_RATE p)) = true := decide_eq_true hrate
  obtain ⟨hstep, hbegun⟩ := link_begun s p quick (fld s (F.PODL_CTL_RATE p))
  have hcleared : fld (upCleared s p) (F.PODL_STAT_UP p) = 0 :=
    (fld_setFld_bits (setFld_ok h _ _) _ (by simp) (by simp)).trans (fld_setFld_same h (by simp) 0)
  rw [hbring, if_pos hlegal]
  exact ⟨by rw [link_withOut, hstep], by rw [link_withOut, hbegun],
    by rw [podUp, fldB, fld_withOut, fld_begun, hcleared]; rfl⟩

/-- A fault that may hand the bar back closes no alarm slot, and leaves the pods alone (R357). -/
theorem handBack_keeps (s : State) (i : Nat) : (handBack s i).pods = s.pods
    ∧ ∀ n, (slotGet s n).isOpen = true → (slotGet (handBack s i) n).isOpen = true := by
  unfold handBack
  split
  · next t0 _ =>
    split
    · dsimp only
      split
      · exact ⟨rfl, fun _ h => h⟩
      · obtain ⟨-, -, -, -, -, -, -, -, -, hpods, -⟩ :=
          startHandover_keeps (setNotElig { s with tho := { s.tho with since := none } } 13 true)
        exact ⟨hpods, fun n h => startHandover_slot (s := setNotElig _ 13 true) h⟩
    · exact ⟨rfl, fun _ h => h⟩
  · exact ⟨rfl, fun _ h => h⟩

/-- The bring-up of `p` is abandoned. -/
def abandoned (s : State) (p : Fin 24) : State := modLink s p (fun x => { x with step := .abandoned, echo := none })

section
variable {s : State} {p : Fin 24}

theorem podBringupTimeout_fallsBack (hdrives : drives s = true) (hstep : (link s p).step = .statusAtRate) :
    exec (.podBringupTimeout p) s = .next (fallBack s p) := by
  show execPodBringupTimeout p s = _
  simp only [execPodBringupTimeout, hdrives, hstep, Bool.not_true, Bool.false_eq_true, if_false]

theorem podBringupTimeout_abandons (hdrives : drives s = true) (hstep : (link s p).step = .statusAtZero
    ∨ (link s p).step = .rateWritten ∨ (link s p).step = .statusAtNew) :
    ∃ d, exec (.podBringupTimeout p) s = .next (handBack (alarm (abandoned s p) (196 + p) d) p) := by
  show ∃ d, execPodBringupTimeout p s = _
  obtain hstep | hstep | hstep := hstep
  all_goals
    simp only [execPodBringupTimeout, hdrives, hstep, Bool.not_true, Bool.false_eq_true, if_false]
    exact ⟨_, rfl⟩

theorem handedBack_abandoned (d : List Word) : let t := handBack (alarm (abandoned s p) (196 + p) d) p
    (link t p).step = .abandoned ∧ (slotGet t (196 + p.val)).isOpen = true := by
  obtain ⟨hpods, hslots⟩ := handBack_keeps (alarm (abandoned s p) (196 + p) d) p
  refine ⟨?_, hslots _ (slotGet_alarm_open _ _ _)⟩
  rw [link, hpods, alarm_pods]
  exact congrArg PodLink.step ((link_modLink s p p _).trans (if_pos rfl))

end

theorem podBringup : Claims.PodBringup := by
  intro s p h
  refine ⟨fun hready hactive hrate hoff => ⟨fun hjob => ?_, fun hjob => ?_⟩, fun hdrives hstep => ?_,
    fun hdrives hstep => ?_, fun hwants hstep hrate => ?_, fun hstep => ?_⟩
  · obtain ⟨hiw, fill, therm, hexec⟩ := podlEnable_begins hready hjob hactive hoff
    let b := beforeStore s hiw fill
    have hb : StnOk b := h
    have hok : StnOk (enableWritten b p) := plainStore_ok hb _ _
    have hon := fldB_enableWritten hb (p := p)
    have hrate' : fld (enableWritten b p) (F.PODL_CTL_RATE p) = fld s (F.PODL_CTL_RATE p) := fld_enableWritten_rate hb
    obtain ⟨stn, hframe⟩ := enableWritten_frame b p
    have hdrives : drives (enableWritten b p) = true := by
      rw [hframe]; exact Bool.and_eq_true_iff.mpr ⟨hactive, hready⟩
    obtain ⟨hstep, hnow, hup⟩ := bringUp_legal hok (Bool.and_eq_true_iff.mpr ⟨hdrives, hon⟩)
      (by rw [hrate']; exact hrate) false
    have hkept := (bringUp_portOnly hok p false).kept.fld (f := F.PODL_CTL_ENABLE p) (by simp)
    exact ⟨_, hexec, by rw [fldB, fld_withTherm, hkept]; exact hon, hstep, hnow.trans hrate', hup⟩
  · obtain ⟨hiw, fill, therm, hexec⟩ := podlEnable_ignored (p := p) hready hjob
    have hb : StnOk (beforeStore s hiw fill) := h
    refine ⟨_, hexec, ?_, fldB_setFldB_same hb (by decide) (by decide) true, rfl⟩
    rw [fldB, fld_withTherm, fld_setFldB_addr hb _ (by simp; omega)]
    exact hoff
  · refine ⟨_, podBringupTimeout_fallsBack hdrives hstep, ?_, ?_, fld_setFld_same h (by simp) 1⟩
    all_goals rw [fallBack, link_setFld, link_modLink, if_pos rfl]
  · obtain ⟨d, hexec⟩ := podBringupTimeout_abandons hdrives hstep
    exact ⟨_, hexec, handedBack_abandoned d⟩
  · obtain ⟨hbegins, -, hup⟩ := bringUp_legal h hwants hrate (link s p).quick
    exact ⟨_, congrArg Host.Outcome.next (if_pos hstep), hbegins, hup⟩
  · refine ⟨_, congrArg Host.Outcome.next (if_pos hstep), ?_, ?_, rfl⟩
    all_goals rw [link_modLink, if_pos rfl]
end Sys2Proof.Machine
end

section
/-! The pods' answers (R242, R247, R248, R250, R255). -/
namespace Sys2Proof.Machine
open Sys2Proof Sys2Proof.Claims

theorem link_goodUpstream (s : State) (p q : Fin 24) :
    link (goodUpstream s p) q = if q = p then { link s p with bad := 0 } else link s q := link_modLink s p q _

theorem modLink_ok {s : State} (h : StnOk s) {p : Fin 24} {f : PodLink → PodLink} : StnOk (modLink s p f) := h

/-! ### Fields that are set one after the other -/

/-- The fields of `l` set in order. -/
def setFlds (s : State) (l : List (Fld × Nat)) : State := l.foldl (fun s e => setFld s e.1 e.2) s

/-- Fields that share no bit. -/
def Apart (f g : Fld) : Prop := f.addr ≠ g.addr ∨ f.lo + f.w ≤ g.lo ∨ g.lo + g.w ≤ f.lo

theorem Apart.symm {f g : Fld} (h : Apart f g) : Apart g f := by
  obtain h | h | h := h
  exacts [.inl (Ne.symm h), .inr (.inr h), .inr (.inl h)]

theorem fld_setFld_apart {s : State} (h : StnOk s) {f g : Fld} (hg : g.lo + g.w ≤ 32) (ha : Apart f g) (v : Nat) :
    fld (setFld s f v) g = fld s g := by
  obtain ha | hb := ha
  · exact fld_setFld_addr h v (Ne.symm ha)
  · exact fld_setFld_bits h v hg hb

theorem setFlds_ok {s : State} (h : StnOk s) (l : List (Fld × Nat)) : StnOk (setFlds s l) :=
  foldl_inv (fun t => StnOk t) _ (fun _ _ ht => setFld_ok ht _ _) l h

/-- The state with another station file. -/
def withStn (s : State) (stn : List (Nat × Word)) : State := { s with stn := stn }

@[simp] theorem link_withStn (s : State) (stn : List (Nat × Word)) (q : Fin 24) : link (withStn s stn) q = link s q := rfl

theorem setFlds_frame (s : State) (l : List (Fld × Nat)) : ∃ stn, setFlds s l = withStn s stn := by
  refine foldl_inv (fun t => ∃ stn, t = withStn s stn) _ ?_ l ⟨s.stn, rfl⟩
  rintro _ e ⟨stn, rfl⟩
  exact ⟨_, rfl⟩

theorem fld_setFlds_apart {l : List (Fld × Nat)} {g : Fld} (hg : g.lo + g.w ≤ 32) (ha : ∀ e ∈ l, Apart e.1 g) :
    ∀ {s : State}, StnOk s → fld (setFlds s l) g = fld s g := by
  induction l with
  | nil => exact fun _ => rfl
  | cons e l ih =>
    intro s h
    rw [List.forall_mem_cons] at ha
    exact (ih ha.2 (setFld_ok h _ _)).trans (fld_setFld_apart h hg ha.1 _)

/-- Of fields that share no bit each reads what it was set to. -/
theorem fld_setFlds_mem {l : List (Fld × Nat)} {f : Fld} {v : Nat} (hf : f.lo + f.w ≤ 32) (hmem : (f, v) ∈ l)
    (hl : l.Pairwise (fun d e => Apart d.1 e.1)) : ∀ {s : State}, StnOk s → fld (setFlds s l) f = v % 2 ^ f.w := by
  induction l with
  | nil => exact absurd hmem List.not_mem_nil
  | cons e l ih =>
    intro s h
    obtain ⟨hapart, hl⟩ := List.pairwise_cons.mp hl
    obtain rfl | hmem := List.mem_cons.mp hmem
    · exact (fld_setFlds_apart hf (fun e he => (hapart e he).symm) (setFld_ok h f v)).trans (fld_setFld_same h hf v)
    · exact ih hmem hl (setFld_ok h _ _)

theorem bit_shown (b : Bool) : ((if b then 1 else 0) % 2 ^ 1 != 0) = b := by cases b <;> rfl

/-! ### The stations that a STATUS fills -/

/-- The stations that a STATUS fills, with what each takes (R250, R275). -/
def statusFlds (s : State) (p : Fin 24) (x : PodStatus) : List (Fld × Nat) :=
  [(F.PODL_EPOCH p, x.eacc.toNat), (F.PODL_STAT_FOLLOW p, x.follow.toNat), (F.PODL_STAT_LOCK p, 1),
    (F.PODL_STAT_OURS p, if followsUs s x then 1 else 0), (F.PODL_STAT_HV p, if x.hv then 1 else 0),
    (F.PODL_STAT_INHIBIT p, if x.inhibit then 1 else 0), (F.PODL_STAT_COASTING p, if x.coasting then 1 else 0),
    (F.PODL_COAST p, x.coast.toNat), (F.PODL_DROPS p, x.drops.toNat), (F.PODL_POD_CRC p, x.crcErr.toNat),
    (F.PODL_SEQ_ERR p, x.seqErr.toNat), (F.PODL_STALE p, x.stale.toNat), (F.PODL_TEMP p, x.temp.toNat)]

theorem statusStations_eq (s : State) (p : Fin 24) (x : PodStatus) :
    statusStations s p x = setFlds s (statusFlds s p x) := rfl

theorem statusFlds_apart (s : State) (p : Fin 24) (x : PodStatus) :
    (statusFlds s p x).Pairwise (fun d e => Apart d.1 e.1) := by
  simp [statusFlds, Apart]

theorem statusStations_shows {s : State} (h : StnOk s) (p : Fin 24) (x : PodStatus) :
    let t := statusStations s p x
    StnOk t ∧ fld t (F.PODL_EPOCH p) = x.eacc.toNat ∧ fld t (F.PODL_DROPS p) = x.drops.toNat
      ∧ fldB t (F.PODL_STAT_LOCK p) = true ∧ fldB t (F.PODL_STAT_HV p) = x.hv
      ∧ fldB t (F.PODL_STAT_INHIBIT p) = x.inhibit ∧ podUp t p = podUp s p := by
  have hread {f : Fld} {v : Nat} (hf : f.lo + f.w ≤ 32) (hmem : (f, v) ∈ statusFlds s p x) :
      fld (setFlds s (statusFlds s p x)) f = v % 2 ^ f.w := fld_setFlds_mem hf hmem (statusFlds_apart s p x) h
  have hup : fld (setFlds s (statusFlds s p x)) (F.PODL_STAT_UP p) = fld s (F.PODL_STAT_UP p) :=
    fld_setFlds_apart (by simp) (by simp [statusFlds, Apart]) h
  rw [statusStations_eq]
  refine ⟨setFlds_ok h _, ?_, ?_, ?_, ?_, ?_, ?_⟩
  · rw [hread (by simp) (v := x.eacc.toNat) (by simp [statusFlds])]; exact Nat.mod_eq_of_lt x.eacc.isLt
  · rw [hread (by simp) (v := x.drops.toNat) (by simp [statusFlds])]; exact Nat.mod_eq_of_lt x.drops.isLt
  · rw [fldB, hread (by simp) (v := 1) (by simp [statusFlds])]; rfl
  · rw [fldB, hread (by simp) (v := if x.hv then 1 else 0) (by simp [statusFlds])]; exact bit_shown _
  · rw [fldB, hread (by simp) (v := if x.inhibit then 1 else 0) (by simp [statusFlds])]; exact bit_shown _
  · rw [podUp, fldB, hup]; rfl

/-! ### A good STATUS on the active -/

/-- Between the stations' fill and the wait's end: the bring-up's step, ACCEPTED of the link and the epochs as they
were. -/
structure SameWait (p : Fin 24) (s t : State) : Prop where
  step : (link t p).step = (link s p).step
  accepted : (link t p).accepted = (link s p).accepted
  epoch : t.twin.epoch = s.twin.epoch
  shown : fld t (F.PODL_EPOCH p) = fld s (F.PODL_EPOCH p)

theorem SameWait.trans {p : Fin 24} {s t u : State} (h : SameWait p s t) (g : SameWait p t u) : SameWait p s u :=
  ⟨g.step.trans h.step, g.accepted.trans h.accepted, g.epoch.trans h.epoch, g.shown.trans h.shown⟩

theorem clearInhibit_wait {s : State} (h : StnOk s) (p : Fin 24) (x : PodStatus) : SameWait p s (clearInhibit s p x) := by
  unfold clearInhibit
  split
  · obtain ⟨fill, hfill⟩ := journalPower_fill
      (setFld s F.PODPWR_PZ_INHIBIT (clearBit24 (fld s F.PODPWR_PZ_INHIBIT) p.val))
    rw [hfill]
    exact ⟨rfl, rfl, rfl, fld_setFld_addr h (f := F.PODPWR_PZ_INHIBIT) (g := F.PODL_EPOCH p) _ (by simp; omega)⟩
  · exact ⟨rfl, rfl, rfl, rfl⟩

theorem podReading_wait (s : State) (p : Fin 24) (temp : Int) : SameWait p s (podReading s p temp) := by
  unfold podReading
  split <;> exact ⟨rfl, rfl, rfl, rfl⟩

theorem noteCoast_wait (s : State) (p : Fin 24) (x : PodStatus) : SameWait p s (noteCoast s p x) := by
  refine ⟨?_, ?_, rfl, rfl⟩ <;>
  · rw [noteCoast, link_modLink, if_pos rfl]
    split <;> rfl

/-- The link with identity register `k` asked for. -/
def idAsked (k : Nat) (x : PodLink) : PodLink := { x with step := .readId k, tag := x.tag + 1 }

theorem askId_law (s : State) (p : Fin 24) (k : Nat) : ∃ out, askId s p k = modLink (withOut s out) p (idAsked k) := by
  obtain ⟨out, hsent⟩ := sendPod_law s p 0x05 (leBytes 2 (link s p).tag.toNat ++ leBytes 2 (4 * k))
  refine ⟨out, ?_⟩
  simp only [askId, hsent]
  rfl

/-- The wait of step 1 or 2 ends with the question for identity register 0. -/
theorem statusWait_asks {s : State} {p : Fin 24}
    (hstep : (link s p).step = .statusAtRate ∨ (link s p).step = .statusAtZero) : statusWait s p = askId s p 0 := by
  unfold statusWait
  obtain hstep | hstep := hstep <;> rw [hstep]

theorem raiseEpoch_keeps (s : State) (p : Fin 24) (x : PodStatus) : (raiseEpoch s p x).stn = s.stn
    ∧ (link (raiseEpoch s p x) p).step = (link s p).step := by
  unfold raiseEpoch
  split
  · exact ⟨rfl, by rw [link_modLink, if_pos rfl]⟩
  · split <;> exact ⟨rfl, rfl⟩

theorem raiseEpoch_taken {s : State} {x : PodStatus} (htaken : podTaken s x = true) (p : Fin 24) :
    (raiseEpoch s p x).twin.epoch = s.twin.epoch ∧ (link (raiseEpoch s p x) p).accepted = true := by
  rw [raiseEpoch, if_pos htaken]
  exact ⟨rfl, by rw [link_modLink, if_pos rfl]⟩

theorem raiseEpoch_raises {s : State} {p : Fin 24} {x : PodStatus} (htaken : podTaken s x = false)
    (hbringing : bringing s p = true) (hfirst : (link s p).accepted = false) (hsolo : solo s = false)
    (hheld : s.twin.epoch.toNat ≤ x.eacc.toNat) : (raiseEpoch s p x).twin.epoch = x.eacc + 1 := by
  have hcond : (bringing s p && !(link s p).accepted && !solo s && decide (s.twin.epoch.toNat ≤ x.eacc.toNat)) = true := by
    rw [hbringing, hfirst, hsolo, decide_eq_true hheld]; rfl
  rw [raiseEpoch, htaken, if_neg Bool.false_ne_true, if_pos hcond]

/-- On the active a STATUS in the wait of step 1 or 2 raises the epoch where it must, and asks for the pod's identity. -/
theorem activeStatus_asks {s : State} (h : StnOk s) {p : Fin 24} {x : PodStatus} (hup : podUp s p = false)
    (hsolo : solo s = false) (hheld : (link s p).accepted = false ∨ x.eacc.toNat ≤ s.twin.epoch.toNat)
    (hstep : (link s p).step = .statusAtRate ∨ (link s p).step = .statusAtZero) :
    ∃ u out, SameWait p (raiseEpoch s p x) u ∧ activeStatus s p x = modLink (withOut u out) p (idAsked 0) := by
  have hstays : (podAccepting s p && decide (s.twin.epoch.toNat < x.eacc.toNat)) = false := by
    rw [podAccepting, hup, hsolo]
    obtain haccepted | hle := hheld
    · rw [haccepted]; rfl
    · rw [decide_eq_false (Nat.not_lt.mpr hle), Bool.and_false]
  have hpair : (bringing s p && solo s && x.eacc != 0) = false := by rw [hsolo, Bool.and_false, Bool.false_and]
  obtain ⟨hstn, hstep'⟩ := raiseEpoch_keeps s p x
  have hok : StnOk (raiseEpoch s p x) := by rw [StnOk, hstn]; exact h
  let u := noteCoast (podReading (clearInhibit (raiseEpoch s p x) p x) p x.temp.toInt) p x
  have hsame : SameWait p (raiseEpoch s p x) u :=
    ((clearInhibit_wait hok p x).trans (podReading_wait _ p _)).trans (noteCoast_wait _ p x)
  obtain ⟨out, hask⟩ := askId_law u p 0
  refine ⟨u, out, hsame, ?_⟩
  rw [← hask, ← statusWait_asks (by rw [hsame.step, hstep']; exact hstep), activeStatus, hstays, hpair]
  rfl

/-! ### READ_RESP and ECHO_RESP -/

theorem fold_writeReg_law (p : Fin 24) (addr : Nat → Nat) (v : State → Nat → Nat) (l : List Nat) (s : State) :
    ∃ out, l.foldl (fun s n => writeReg s p (addr n) (v s n)) s = withOut s out := by
  refine foldl_inv (fun t => ∃ out, t = withOut s out) _ ?_ l ⟨s.out, rfl⟩
  rintro _ n ⟨out, rfl⟩
  exact sendPod_law (withOut s out) p 0x04 _

/-- The configuration of a pod ends with the first ECHO of step 5. -/
theorem configurePod_law (s : State) (p : Fin 24) : ∃ out, configurePod s p
    = modLink (withOut s out) p (fun x => echoSent s.clk.now { x with step := .echo 0 }) := by
  have hregs : ∃ out, (if (link s p).quick then s else (List.range 14).foldl
      (fun s n => writeReg s p (0x100 + 4 * (n + 1)) (fld s (F.PODL_WAVE p (n + 1))))
      (writeReg s p 0x024 (fld s (F.PODL_CTL_BG p) + 2 ^ 16 * fld s (F.PODL_CTL_TG p)))) = withOut s out := by
    split
    · exact ⟨s.out, rfl⟩
    · obtain ⟨out, hbg⟩ := sendPod_law s p 0x04
        (leBytes 2 0x024 ++ leBytes 2 0 ++ leBytes 4 (fld s (F.PODL_CTL_BG p) + 2 ^ 16 * fld s (F.PODL_CTL_TG p)))
      rw [writeReg, hbg]
      exact fold_writeReg_law p _ (fun s n => fld s (F.PODL_WAVE p (n + 1))) _ (withOut s out)
  obtain ⟨out, hregs⟩ := hregs
  obtain ⟨out', hecho⟩ := sendEcho_law (modLink (withOut s out) p (fun x => { x with step := .echo 0 })) p s.clk.now
  refine ⟨out', ?_⟩
  rw [configurePod, hregs]
  exact hecho.trans (modLink_modLink (withOut s out') p (fun x => { x with step := .echo 0 }) (echoSent s.clk.now))

/-- What a READ_RESP that answers the question for register `k` stores. -/
def idStored (s : State) (p : Fin 24) (k : Nat) (v : Word) : State :=
  setFld (modLink (goodUpstream s p) p (fun x => { x with accepted := true })) (F.PODL_ID p k) v.toNat

theorem exec_readResp {s : State} {p : Fin 24} {k : Nat} {tag addr : BitVec 16} (hstep : (link s p).step = .readId k)
    (htag : tag + 1 = (link s p).tag) (haddr : addr.toNat % 2 ^ 15 = 4 * k) (v : Word) :
    exec (.readResp p tag addr v false) s
      = .next (if k < 6 then askId (idStored s p k v) p (k + 1) else afterIds (idStored s p k v) p) := by
  have hlink : link (goodUpstream s p) p = { link s p with bad := 0 } := by rw [link_goodUpstream, if_pos rfl]
  show execReadResp p tag addr v false s = _
  unfold execReadResp
  simp only [Bool.false_eq_true, if_false, hlink, hstep, htag, haddr, and_self, if_true]
  rfl

theorem fld_idStored {s : State} (h : StnOk s) (p : Fin 24) (k : Nat) (v : Word) :
    fld (idStored s p k v) (F.PODL_ID p k) = v.toNat := by
  rw [idStored, fld_setFld_same (s := modLink (goodUpstream s p) p _) h (by simp)]
  exact Nat.mod_eq_of_lt v.isLt

theorem link_idStored (s : State) (p : Fin 24) (k : Nat) (v : Word) :
    link (idStored s p k v) p = { link s p with bad := 0, accepted := true } := by
  rw [idStored, link_setFld, link_modLink, if_pos rfl, link_goodUpstream, if_pos rfl]

theorem idStored_ok {s : State} (h : StnOk s) (p : Fin 24) (k : Nat) (v : Word) : StnOk (idStored s p k v) :=
  setFld_ok (s := modLink (goodUpstream s p) p (fun x => { x with accepted := true })) h _ _

theorem fld_idStored_other {s : State} (h : StnOk s) {p : Fin 24} {k : Nat} {f : Fld} (hf : f.addr ≠ (F.PODL_ID p k).addr)
    (v : Word) : fld (idStored s p k v) f = fld s f :=
  fld_setFld_addr (s := modLink (goodUpstream s p) p (fun x => { x with accepted := true })) h _ hf

theorem fld_noteStored {s : State} (h : StnOk s) (p : Fin 24) {f : Fld} (hf : f.addr < 0x4F000000) :
    fld (noteStored s p) f = fld s f := fld_setFldB_addr h _ (by simp; omega)

theorem link_noteStored (s : State) (p q : Fin 24) : link (noteStored s p) q = link s q := link_setFld _ _ _ _

theorem noteStored_clk (s : State) (p : Fin 24) : (noteStored s p).clk = s.clk := rfl

/-- Without a fallback the bring-up goes on at the rate it has: with step 4 and the first ECHO of step 5. -/
theorem afterIds_law {s : State} (h : StnOk s) {p : Fin 24} (hfallback : fldB s (F.PODL_STAT_FALLBACK p) = false) :
    ∃ out, afterIds s p
      = modLink (withOut (noteStored s p) out) p (fun x => echoSent s.clk.now { x with step := .echo 0 }) := by
  have hp := p.isLt
  have hfallback' : fldB (noteStored s p) (F.PODL_STAT_FALLBACK p) = false := by
    rw [fldB, fld_noteStored h p (by simp; omega)]; exact hfallback
  obtain ⟨out, hconfig⟩ := configurePod_law (noteStored s p) p
  refine ⟨out, ?_⟩
  rw [afterIds, hfallback', Bool.false_and, if_neg Bool.false_ne_true, hconfig, noteStored_clk]

/-- The link with a measurement taken, which an ECHO sent at `t0` gave. -/
def delayTaken (m : Int) (t0 : Nat) (x : PodLink) : PodLink :=
  let x := { x with meas := (m :: x.meas).take 8 }
  { x with answered := some (x.answered.getD (t0 + delayUnits x)) }

theorem takeDelay_law {s : State} {p : Fin 24} {m : Int} (hin : delayOutlier (link s p) m = false) (t0 : Nat) :
    ∃ v, takeDelay s p m t0 = setFld (modLink s p (delayTaken m t0)) (F.PODL_DELAY p) v := by
  refine ⟨delayUnits { link s p with meas := (m :: (link s p).meas).take 8 }, ?_⟩
  rw [takeDelay, hin, if_neg Bool.false_ne_true]
  rfl

/-- The state after an answered ECHO, before the bring-up goes on. -/
def echoTaken (s : State) (p : Fin 24) (clk : Clk) (m : Int) (t0 v : Nat) : State :=
  setFld (modLink (modLink (goodUpstream { s with clk := clk } p) p
    (fun x => { x with echo := none, accepted := true })) p (delayTaken m t0)) (F.PODL_DELAY p) v

theorem link_echoTaken (s : State) (p : Fin 24) (clk : Clk) (m : Int) (t0 v : Nat) : link (echoTaken s p clk m t0 v) p
    = delayTaken m t0 { link s p with bad := 0, echo := none, accepted := true } := by
  rw [echoTaken, link_setFld, link_modLink, if_pos rfl, link_modLink, if_pos rfl, link_goodUpstream, if_pos rfl]
  rfl

theorem exec_echoResp {s : State} {p : Fin 24} {k t0 : Nat} {tag : BitVec 16} {turn : Word} {now : Nat}
    (hstep : (link s p).step = .echo k) (hecho : (link s p).echo = some (tag, t0))
    (hin : delayOutlier (link s p) ((now : Int) - t0 - turn.toNat) = false) :
    ∃ clk v, let u := echoTaken s p clk ((now : Int) - t0 - turn.toNat) t0 v
      exec (.echoResp p tag turn now false) s = .next (if 7 ≤ k
        then setFld (modLink u p (fun x => { x with step := .idle })) (F.PODL_STAT_UP p) 1
        else sendEcho (modLink u p (fun x => { x with step := .echo (k + 1) })) p now) := by
  obtain ⟨clk, hclk⟩ := advanceTo_law s now
  have hheard : (link (goodUpstream { s with clk := clk } p) p).echo = some (tag, t0) := by
    rw [link_goodUpstream, if_pos rfl]; exact hecho
  let u := modLink (goodUpstream { s with clk := clk } p) p (fun x => { x with echo := none, accepted := true })
  have hin' : delayOutlier (link u p) ((now : Int) - t0 - turn.toNat) = false := by
    rw [link_modLink, if_pos rfl, link_goodUpstream, if_pos rfl]; exact hin
  obtain ⟨v, hdelay⟩ := takeDelay_law hin' t0
  have hstep' : (link (echoTaken s p clk ((now : Int) - t0 - turn.toNat) t0 v) p).step = .echo k := by
    rw [link_echoTaken]; exact hstep
  refine ⟨clk, v, ?_⟩
  show execEchoResp p tag turn now false s = _
  unfold execEchoResp
  simp only [hclk, Bool.false_eq_true, if_false, hheard, if_true]
  rw [show takeDelay _ p _ t0 = echoTaken s p clk ((now : Int) - t0 - turn.toNat) t0 v from hdelay, hstep']
  dsimp only
  split <;> rfl

/-! ### Discarded frames -/

theorem discardUpstream_law (s : State) (p : Fin 24) : discardUpstream s p
    = if (link s p).bad = 7 then portLost (modLink (incFld s (F.PODL_RX_CRC p)) p (fun x => { x with bad := 0 })) p
      else modLink (incFld s (F.PODL_RX_CRC p)) p (fun x => { x with bad := (link s p).bad + 1 }) := by
  have hlink : link (incFld s (F.PODL_RX_CRC p)) p = link s p := link_setFld _ _ _ _
  unfold discardUpstream
  simp only [hlink, Nat.reduceEqDiff]

theorem exec_badFrame {s : State} (hready : s.boot.phase = .ready) (p : Fin 24) (st : PodStatus) (tag addr : BitVec 16)
    (v : Word) : exec (.podStatus p st true) s = .next (discardUpstream s p)
      ∧ exec (.readResp p tag addr v true) s = .next (discardUpstream s p) := by
  refine ⟨?_, rfl⟩
  show execPodStatus p st true s = _
  simp [execPodStatus, hready]

theorem exec_goodStatus {s : State} (hready : s.boot.phase = .ready) (p : Fin 24) (st : PodStatus) :
    exec (.podStatus p st false) s = .next (if isActive s
      then activeStatus (statusStations (goodUpstream s p) p st) p st else statusStations (goodUpstream s p) p st) := by
  show execPodStatus p st false s = _
  obtain ⟨stn, hframe⟩ := setFlds_frame (goodUpstream s p) (statusFlds (goodUpstream s p) p st)
  have hactive : isActive (statusStations (goodUpstream s p) p st) = isActive s := by
    rw [statusStations_eq, hframe]; rfl
  simp only [execPodStatus, hready, bne_self_eq_false, Bool.false_eq_true, if_false, hactive]

/-! ### The clauses -/

section
variable {s : State} {p : Fin 24}

theorem podStatus_standby (h : StnOk s) (hready : s.boot.phase = .ready) (hstandby : isActive s = false) (st : PodStatus) :
    ∃ t, exec (.podStatus p st false) s = .next t
      ∧ fld t (F.PODL_EPOCH p) = st.eacc.toNat ∧ fld t (F.PODL_DROPS p) = st.drops.toNat
      ∧ fldB t (F.PODL_STAT_LOCK p) = true ∧ fldB t (F.PODL_STAT_HV p) = st.hv
      ∧ fldB t (F.PODL_STAT_INHIBIT p) = st.inhibit ∧ t.twin = s.twin
      ∧ (∀ q : Fin 24, link t q = if q = p then { link s p with bad := 0 } else link s q) ∧ t.dram = s.dram := by
  obtain ⟨-, hepoch, hdrops, hlock, hhv, hinhibit, -⟩ := statusStations_shows (s := goodUpstream s p) h p st
  obtain ⟨stn, hframe⟩ := setFlds_frame (goodUpstream s p) (statusFlds (goodUpstream s p) p st)
  refine ⟨_, exec_goodStatus hready p st, ?_⟩
  rw [hstandby, if_neg Bool.false_ne_true]
  refine ⟨hepoch, hdrops, hlock, hhv, hinhibit, ?_, fun q => ?_, ?_⟩
  · rw [statusStations_eq, hframe]; rfl
  · rw [statusStations_eq, hframe, link_withStn, link_goodUpstream]
  · rw [statusStations_eq, hframe]; rfl

theorem podStatus_active (h : StnOk s) (hready : s.boot.phase = .ready) (hactive : isActive s = true)
    (hup : podUp s p = false) (hsolo : solo s = false) {st : PodStatus}
    (hheld : (link s p).accepted = false ∨ st.eacc.toNat ≤ s.twin.epoch.toNat)
    (hstep : (link s p).step = .statusAtRate ∨ (link s p).step = .statusAtZero) :
    ∃ t, exec (.podStatus p st false) s = .next t ∧ (link t p).step = .readId 0 ∧ fld t (F.PODL_EPOCH p) = st.eacc.toNat
      ∧ ((link s p).accepted = false → podTaken s st = false → s.twin.epoch.toNat ≤ st.eacc.toNat →
          t.twin.epoch = st.eacc + 1)
      ∧ (podTaken s st = true → t.twin.epoch = s.twin.epoch ∧ (link t p).accepted = true) := by
  obtain ⟨hok, hepoch, -, -, -, -, hup'⟩ := statusStations_shows (s := goodUpstream s p) h p st
  obtain ⟨stn, hframe⟩ := setFlds_frame (goodUpstream s p) (statusFlds (goodUpstream s p) p st)
  rw [← statusStations_eq] at hframe
  let f := statusStations (goodUpstream s p) p st
  have htwin : f.twin = s.twin := by rw [show f = _ from hframe]; rfl
  have hboot : f.boot = s.boot := by rw [show f = _ from hframe]; rfl
  have hlink : link f p = { link s p with bad := 0 } := by
    rw [show f = _ from hframe, link_withStn, link_goodUpstream, if_pos rfl]
  have hstep' : (link f p).step = .statusAtRate ∨ (link f p).step = .statusAtZero := by rw [hlink]; exact hstep
  have htaken : podTaken f st = podTaken s st := by rw [podTaken, podTaken, followsUs, followsUs, hboot, htwin]
  have hsolo' : solo f = false := by rw [solo, htwin]; exact hsolo
  obtain ⟨u, out, hsame, hasks⟩ := activeStatus_asks hok (hup'.trans hup) hsolo'
    (by rw [hlink, htwin]; exact hheld) hstep'
  refine ⟨_, exec_goodStatus hready p st, ?_⟩
  rw [hactive, if_pos rfl, hasks]
  refine ⟨by rw [link_modLink, if_pos rfl]; rfl, ?_, fun hfirst hnot hle => ?_, fun ht => ?_⟩
  · rw [fld_modLink, fld_withOut, hsame.shown, fld, stnWord, (raiseEpoch_keeps f p st).1]; exact hepoch
  · have hbringing : bringing f p = true := by
      rw [bringing]; obtain hs | hs := hstep' <;> rw [hs] <;> rfl
    exact hsame.epoch.trans (raiseEpoch_raises (htaken.trans hnot) hbringing (by rw [hlink]; exact hfirst) hsolo'
      (by rw [htwin]; exact hle))
  · obtain ⟨hkept, haccepted⟩ := raiseEpoch_taken (htaken.trans ht) p
    refine ⟨(hsame.epoch.trans hkept).trans (by rw [htwin]), ?_⟩
    rw [link_modLink, if_pos rfl]
    exact hsame.accepted.trans haccepted

theorem readResp_asksNext (h : StnOk s) {k : Nat} (hk : k < 6) {tag addr : BitVec 16} (hstep : (link s p).step = .readId k)
    (htag : tag + 1 = (link s p).tag) (haddr : addr = BitVec.ofNat 16 (4 * k)) (v : Word) :
    ∃ t, exec (.readResp p tag addr v false) s = .next t ∧ fld t (F.PODL_ID p k) = v.toNat
      ∧ (link t p).step = .readId (k + 1) ∧ (link t p).tag = (link s p).tag + 1 := by
  have haddr' : addr.toNat % 2 ^ 15 = 4 * k := by rw [haddr, BitVec.toNat_ofNat]; omega
  obtain ⟨out, hask⟩ := askId_law (idStored s p k v) p (k + 1)
  refine ⟨_, exec_readResp hstep htag haddr' v, ?_⟩
  rw [if_pos hk, hask, link_modLink, if_pos rfl, link_withOut, link_idStored]
  exact ⟨fld_idStored h p k v, rfl, rfl⟩

theorem readResp_last (h : StnOk s) {tag addr : BitVec 16} (hstep : (link s p).step = .readId 6)
    (htag : tag + 1 = (link s p).tag) (haddr : addr = 24) (hfallback : fldB s (F.PODL_STAT_FALLBACK p) = false) (v : Word) :
    ∃ t, exec (.readResp p tag addr v false) s = .next t ∧ fld t (F.PODL_ID p 6) = v.toNat ∧ (link t p).step = .echo 0
      ∧ (link t p).echo = some ((link s p).tag, s.clk.now) := by
  have hp := p.isLt
  have hok := idStored_ok h p 6 v
  have hfallback' : fldB (idStored s p 6 v) (F.PODL_STAT_FALLBACK p) = false := by
    rw [fldB, fld_idStored_other h (by simp; omega)]; exact hfallback
  obtain ⟨out, hafter⟩ := afterIds_law hok hfallback'
  refine ⟨_, exec_readResp hstep htag (by rw [haddr]; rfl) v, ?_⟩
  rw [if_neg (by omega), hafter, link_modLink, if_pos rfl, link_withOut, link_noteStored, link_idStored, fld_modLink,
    fld_withOut, fld_noteStored hok p (by simp; omega)]
  exact ⟨fld_idStored h p 6 v, rfl, rfl⟩

theorem echoResp_takes (h : StnOk s) {k t0 now : Nat} {tag : BitVec 16} {turn : Word}
    (hstep : (link s p).step = .echo k) (hecho : (link s p).echo = some (tag, t0))
    (hin : delayOutlier (link s p) ((now : Int) - t0 - turn.toNat) = false) :
    ∃ t, exec (.echoResp p tag turn now false) s = .next t
      ∧ (link t p).meas = (((now : Int) - t0 - turn.toNat) :: (link s p).meas).take 8
      ∧ (link t p).accepted = true ∧ (link t p).answered ≠ none
      ∧ (k < 7 → (link t p).step = .echo (k + 1)) ∧ (7 ≤ k → (link t p).step = .idle ∧ podUp t p = true) := by
  obtain ⟨clk, v, hexec⟩ := exec_echoResp hstep hecho hin
  refine ⟨_, hexec, ?_⟩
  by_cases hk : 7 ≤ k
  · have hok : StnOk (echoTaken s p clk ((now : Int) - t0 - turn.toNat) t0 v) := setFld_ok h _ _
    rw [if_pos hk, link_setFld, link_modLink, if_pos rfl, link_echoTaken]
    refine ⟨rfl, rfl, Option.some_ne_none _, fun hlt => absurd hlt (by omega), fun _ => ⟨rfl, ?_⟩⟩
    rw [podUp, fldB, fld_setFld_same (modLink_ok hok) (by simp)]
    rfl
  · obtain ⟨out, hsend⟩ := sendEcho_law (modLink (echoTaken s p clk ((now : Int) - t0 - turn.toNat) t0 v) p
      (fun x => { x with step := .echo (k + 1) })) p now
    rw [if_neg hk, hsend, link_modLink, if_pos rfl, link_withOut, link_modLink, if_pos rfl, link_echoTaken]
    exact ⟨rfl, rfl, Option.some_ne_none _, fun _ => rfl, fun hge => absurd hge hk⟩

theorem echoMeasure_sends (hdrives : drives s = true) (hup : podUp s p = true) (now : Nat) :
    ∃ t, exec (.echoMeasure p now) s = .next t ∧ (link t p).echo = some ((link s p).tag, now)
      ∧ (link t p).tag = (link s p).tag + 1 := by
  obtain ⟨clk, hclk⟩ := advanceTo_law s now
  obtain ⟨out, hsend⟩ := sendEcho_law { s with clk := clk } p now
  have hcond : (drives { s with clk := clk } && podUp { s with clk := clk } p) = true :=
    Bool.and_eq_true_iff.mpr ⟨hdrives, hup⟩
  have hexec : exec (.echoMeasure p now) s = .next (sendEcho { s with clk := clk } p now) := by
    show execEchoMeasure p now s = _
    rw [execEchoMeasure, hclk]
    exact congrArg Host.Outcome.next (if_pos hcond)
  refine ⟨_, hexec, ?_⟩
  rw [hsend, link_modLink, if_pos rfl]
  exact ⟨rfl, rfl⟩

theorem badFrame_counts (h : StnOk s) (hready : s.boot.phase = .ready) (hbad : (link s p).bad ≠ 7) (st : PodStatus)
    (tag addr : BitVec 16) (v : Word) : ∃ t, exec (.podStatus p st true) s = .next t
      ∧ exec (.readResp p tag addr v true) s = .next t ∧ (link t p).bad = (link s p).bad + 1
      ∧ countedUp s t (F.PODL_RX_CRC p) 1 ∧ (∀ q : Fin 24, q ≠ p → link t q = link s q) ∧ t.twin = s.twin := by
  obtain ⟨hstatus, hresp⟩ := exec_badFrame hready p st tag addr v
  refine ⟨_, hstatus, hresp, ?_⟩
  rw [discardUpstream_law, if_neg hbad]
  refine ⟨by rw [link_modLink, if_pos rfl], fld_addFld_same h (by simp) 1, fun q hq => ?_, rfl⟩
  rw [link_modLink, if_neg hq]
  rfl

theorem badFrame_loses (h : StnOk s) (hready : s.boot.phase = .ready) (hbad : (link s p).bad = 7) (hup : podUp s p = true)
    (st : PodStatus) (tag addr : BitVec 16) (v : Word) : ∃ t, exec (.podStatus p st true) s = .next t
      ∧ exec (.readResp p tag addr v true) s = .next t ∧ (link t p).bad = 0 ∧ podUp t p = false
      ∧ fld t (F.PODL_STAT_LOCK p) = 0 ∧ countedUp s t (F.PODL_RX_CRC p) 1
      ∧ (slotGet t (196 + p.val)).isOpen = true := by
  obtain ⟨hstatus, hresp⟩ := exec_badFrame hready p st tag addr v
  let u := modLink (incFld s (F.PODL_RX_CRC p)) p (fun x => { x with bad := 0 })
  have hup' : podUp u p = true := by
    rw [podUp, fldB, fld_modLink, incFld, addFld, fld_setFld_addr h _ (by simp)]; exact hup
  have hdown := portLost_down (s := u) (setFld_ok h _ _) hup'
  refine ⟨_, hstatus, hresp, ?_⟩
  rw [discardUpstream_law, if_pos hbad]
  refine ⟨?_, hdown.up, hdown.lock, ?_, hdown.alarmed⟩
  · rw [hdown.bad, link_modLink, if_pos rfl]
  · exact (hdown.kept.fld (by simp)).trans (fld_addFld_same h (by simp) 1)

end

theorem podAnswers : Claims.PodAnswers := by
  unfold Claims.PodAnswers
  intro s p st addr tag v turn k now t0 h
  exact ⟨fun hready hstandby => podStatus_standby h hready hstandby st,
    fun hready hactive hup hsolo hheld hstep => podStatus_active h hready hactive hup hsolo hheld hstep,
    fun hk hstep htag haddr => readResp_asksNext h hk hstep htag haddr v,
    fun hstep htag haddr hfallback => readResp_last h hstep htag haddr hfallback v,
    fun hstep hecho hin => echoResp_takes h hstep hecho hin,
    fun hdrives hup => echoMeasure_sends hdrives hup now,
    fun hready hbad => badFrame_counts h hready hbad st tag addr v,
    fun hready hbad hup => badFrame_loses h hready hbad hup st tag addr v⟩

/-- Settles O57: the bring-up, then the pods' answers. -/
theorem podLinkCommands : Obligations.PodLinkCommands := ⟨podBringup, podAnswers⟩

end Sys2Proof.Machine
end

section
/-! The frames of a row-line: LINE_DATA, FIRE and the underrun, in the order of the triggers (R251 to R254, R259, R347). -/
namespace Sys2Proof.Machine
open Sys2Proof Sys2Proof.Claims

/-! ### The row-lines in the buffers -/

/-- The row-line of row `r` of pod `p` on line `l`. -/
def isRow (p : Fin 24) (r : Fin 8) (l : Nat) (x : RowLine) : Bool := x.p == p && x.r == r && x.l == l

theorem isRow_iff {p : Fin 24} {r : Fin 8} {l : Nat} {x : RowLine} :
    isRow p r l x = true ↔ x.p = p ∧ x.r = r ∧ x.l = l := by
  simp [isRow, and_assoc]

@[simp] theorem findLine_modLink (s : State) (q : Fin 24) (f : PodLink → PodLink) (p : Fin 24) (r : Fin 8) (l : Nat) :
    findLine (modLink s q f) p r l = findLine s p r l := rfl

@[simp] theorem findLine_withOut (s : State) (out : List Out) (p : Fin 24) (r : Fin 8) (l : Nat) :
    findLine (withOut s out) p r l = findLine s p r l := rfl

theorem findLine_congr {s t : State} (h : t.pods = s.pods) (p : Fin 24) (r : Fin 8) (l : Nat) :
    findLine t p r l = findLine s p r l := by rw [findLine, h]; rfl

section
variable {s : State} {p : Fin 24} {r : Fin 8} {l : Nat} {x : RowLine}

theorem findLine_at (hfind : findLine s p r l = some x) : x.p = p ∧ x.r = r ∧ x.l = l :=
  isRow_iff.mp (List.find?_some (p := isRow p r l) hfind)

/-- A row-line that is written over is found as written. -/
theorem findLine_setLine (hfind : findLine s p r l = some x) {y : RowLine}
    (hy : y.p = x.p ∧ y.r = x.r ∧ y.l = x.l) : findLine (setLine s y) p r l = some y := by
  obtain ⟨rfl, rfl, rfl⟩ := findLine_at hfind
  obtain ⟨hp, hr, hl⟩ := hy
  rw [← hp, ← hr, ← hl] at hfind ⊢
  have hat : isRow y.p y.r y.l y = true := isRow_iff.mpr ⟨rfl, rfl, rfl⟩
  have hkey : (isRow y.p y.r y.l ∘ fun z => if isRow y.p y.r y.l z then y else z) = isRow y.p y.r y.l := by
    funext z
    rw [Function.comp_apply]
    split
    · next hz => rw [hat, hz]
    · rfl
  show (s.pods.lines.map (fun z => if isRow y.p y.r y.l z then y else z)).find? (isRow y.p y.r y.l) = some y
  have hfound : s.pods.lines.find? (isRow y.p y.r y.l) = some x := hfind
  rw [List.find?_map, hkey, hfound, Option.map_some, if_pos (List.find?_some hfound)]

theorem findLine_sent (hfind : findLine s p r l = some x) (out : List Out) {y : RowLine}
    (hy : y.p = x.p ∧ y.r = x.r ∧ y.l = x.l) : findLine (setLine (withOut s out) y) p r l = some y :=
  findLine_setLine ((findLine_withOut s out p r l).trans hfind) hy

end

/-! ### LINE_DATA -/

/-- The row-line after a segment whose parity fails: none of its segments is left to send, and it is cancelled. -/
def parityCancelled (x : RowLine) : RowLine := { x with sentSegs := (segments x).length, cancel := true }

theorem allSent_parityCancelled (x : RowLine) : allSent (parityCancelled x) = true :=
  congrArg List.isEmpty (List.drop_length (l := segments x))

/-- What is sent to a pod, in order. -/
theorem foldl_sendPod {s : State} (hdrives : drives s = true) (p : Fin 24) (type : Byte) (pls : List (List Byte)) :
    pls.foldl (fun s pl => sendPod s p type pl) s
      = withOut s (s.out ++ pls.map (fun pl => Out.pod p (podFrame type (pairEpoch s) pl))) := by
  induction pls generalizing s with
  | nil => rw [List.foldl_nil, List.map_nil, List.append_nil]; rfl
  | cons pl pls ih =>
    have hrest := ih (s := withOut s (s.out ++ [Out.pod p (podFrame type (pairEpoch s) pl)])) hdrives
    rw [List.foldl_cons, sendPod_drives hdrives, hrest, List.map_cons]
    exact congrArg (withOut s) (List.append_cons s.out _ _).symm

theorem canSend_drives {s : State} {p : Fin 24} (h : canSend s p = true) : drives s = true := by
  rw [canSend, Bool.and_eq_true, Bool.and_eq_true] at h
  obtain ⟨⟨hdrives, -⟩, -⟩ := h
  exact hdrives

section
variable {s : State} {p : Fin 24} {r : Fin 8} {l n : Nat} {x : RowLine} (hfind : findLine s p r l = some x)
include hfind

theorem lineDataSend_waits (hturn : dataTurn s x = false) : exec (.lineDataSend p r l n none) s = .next s := by
  show execLineDataSend p r l n none s = _
  unfold execLineDataSend
  rw [hfind]
  dsimp only
  rw [hturn, Bool.and_false, if_neg Bool.false_ne_true]

section
variable (hwaits : allSent x = false) (hdone : x.done = false) (hsend : canSend s p = true)
  (hfree : registerFree s x = true) (hturn : dataTurn s x = true)
include hwaits hdone hsend hfree hturn

theorem lineDataSend_sends : exec (.lineDataSend p r l n none) s = .next (setLine
    (withOut s (s.out ++ (lineDataFrames x ((unsent x).take n)).map (fun pl => Out.pod p (podFrame 0x02 (pairEpoch s) pl))))
    { x with sentSegs := x.sentSegs + ((unsent x).take n).length }) := by
  show execLineDataSend p r l n none s = _
  unfold execLineDataSend
  simp only [hfind, hwaits, hdone, hsend, hfree, hturn, Bool.not_false, Bool.and_self, if_true, Bool.false_eq_true,
    if_false]
  rw [foldl_sendPod (canSend_drives hsend)]

theorem lineDataSend_parity {b : Nat} (hb : b ∈ (unsent x).take n) : exec (.lineDataSend p r l n (some b)) s
    = .next (alarm (setLine (withOut s (s.out ++ (lineDataFrames x (((unsent x).take n).takeWhile (fun g => g != b))).map
        (fun pl => Out.pod p (podFrame 0x02 (pairEpoch s) pl))))
      (parityCancelled x)) (46 + p) [BitVec.ofNat 32 r.val, BitVec.ofNat 32 l]) := by
  have hbad : ((unsent x).take n).contains b = true := List.contains_iff_mem.mpr hb
  have hsame : (fun g => some g != some b) = (fun g => g != b) := rfl
  show execLineDataSend p r l n (some b) s = _
  unfold execLineDataSend
  simp only [hfind, hwaits, hdone, hsend, hfree, hturn, hbad, hsame, Bool.not_false, Bool.and_self, if_true]
  rw [foldl_sendPod (canSend_drives hsend), parityCancelled, hdone]

end
end

/-! ### What a trigger and the marks of a row-line leave alone -/

/-- `t` sends as `s` does, and has sent no more. -/
structure SameSender (s t : State) : Prop where
  twin : t.twin = s.twin
  boot : t.boot = s.boot
  out : t.out = s.out

theorem SameSender.trans {s t u : State} (h : SameSender s t) (g : SameSender t u) : SameSender s u :=
  ⟨g.twin.trans h.twin, g.boot.trans h.boot, g.out.trans h.out⟩

theorem SameSender.drives {s t : State} (h : SameSender s t) : Machine.drives t = Machine.drives s := by
  rw [Machine.drives, Machine.drives, isActive, isActive, h.twin, h.boot]

theorem SameSender.pairEpoch {s t : State} (h : SameSender s t) : Machine.pairEpoch t = Machine.pairEpoch s := by
  rw [Machine.pairEpoch, h.twin]; rfl

theorem plcTime_keeps (s : State) (t : Nat) : SameSender s (plcTime s t) ∧ (plcTime s t).pods = s.pods
    ∧ (plcTime s t).stn = s.stn := by
  obtain ⟨clk, wmax, below, htime⟩ := plcTime_law s t
  rw [htime]
  exact ⟨⟨rfl, rfl, rfl⟩, rfl, rfl⟩

theorem issueTrigger_keeps (s : State) (p : Fin 24) (r : Fin 8) (l tf : Nat) :
    SameSender s (issueTrigger s p r l tf).1 ∧ (issueTrigger s p r l tf).1.pods = s.pods := by
  obtain h | h := issueTrigger_cases s p r l tf
  · rw [h]; exact ⟨⟨rfl, rfl, rfl⟩, rfl⟩
  · rw [h]; exact ⟨⟨alarm_twin _ _ _, alarm_boot _ _ _, alarm_out _ _ _⟩, alarm_pods _ _ _⟩

/-- The row-line with its trigger at `tf`, cancelled where the guard trips. -/
def withTrig (x : RowLine) (tf : Nat) (trips : Bool) : RowLine := { x with trig := some tf, cancel := x.cancel || trips }

section
variable {s : State} {p : Fin 24} {r : Fin 8} {l : Nat} {x : RowLine} (hfind : findLine s p r l = some x) (tf : Nat)
include hfind

/-- The row-line stands in the buffer as the trigger leaves it. -/
theorem triggered_keeps : SameSender s (triggered s x tf).1
    ∧ findLine (triggered s x tf).1 p r l = some (triggered s x tf).2 := by
  unfold triggered
  split
  · exact ⟨⟨rfl, rfl, rfl⟩, hfind⟩
  · obtain ⟨hsame, hpods⟩ := issueTrigger_keeps s x.p x.r x.l tf
    exact ⟨hsame.trans ⟨rfl, rfl, rfl⟩, findLine_setLine ((findLine_congr hpods p r l).trans hfind)
      (y := withTrig x tf (issueTrigger s x.p x.r x.l tf).2) ⟨rfl, rfl, rfl⟩⟩

end

theorem triggered_stn {s : State} (h : StnOk s) (x : RowLine) (tf : Nat) {a : Nat} (ha : a ≠ F.PLC_GUARD.addr) :
    StnOk (triggered s x tf).1 ∧ stnWord (triggered s x tf).1 a = stnWord s a := by
  unfold triggered
  split
  · exact ⟨h, rfl⟩
  · exact ⟨issueTrigger_ok h, issueTrigger_word ha⟩

/-- `t` follows `s` in the buffers, in what has been sent, and in the alarms that are open. -/
structure SameRows (s t : State) : Prop where
  pods : t.pods = s.pods
  out : t.out = s.out
  duty : SameDuty s t

theorem SameRows.refl (s : State) : SameRows s s := ⟨rfl, rfl, .refl s⟩

section
variable {s t : State} (h : SameRows s t)
include h

theorem SameRows.setFld {f : Fld} {v : Nat} : SameRows s (setFld t f v) := ⟨h.pods, h.out, setFld_duty h.duty⟩

theorem SameRows.dramWrite {a : Nat} {bs : List Byte} : SameRows s (dramWrite t a bs) := by
  obtain ⟨u, hsame, hwrite⟩ := dramWrite_law t a bs
  refine ⟨?_, ?_, .frame (.foldl (fun _ _ hu => writeCheck_duty hu) h.duty)⟩
  · rw [hwrite]; exact hsame.pods.trans h.pods
  · rw [hwrite]; exact hsame.out.trans h.out

theorem SameRows.setMark {p r l m : Nat} : SameRows s (setMark t p r l m) := by
  unfold Machine.setMark
  split
  · exact h.dramWrite
  · exact h

theorem SameRows.setCode {start l : Nat} {c : Nat × Nat} : SameRows s (setCode start l t c) := by
  unfold Machine.setCode
  dsimp only
  split
  · exact h.dramWrite
  · exact h

theorem SameRows.recordCodes {p r l : Nat} {codes : List (Nat × BitVec 4)} : SameRows s (recordCodes t p r l codes) := by
  unfold Machine.recordCodes
  split
  · exact foldl_inv (SameRows s) _ (fun _ _ hu => hu.setCode) _ h
  · exact h

end

theorem recordCodes_kept {A : Nat → Prop} {s t : State} (h : Kept A s t) (hA : ∀ a, A a → a / 0x1000000 ≠ 0x4D)
    {p r l : Nat} {codes : List (Nat × BitVec 4)} : Kept A s (recordCodes t p r l codes) :=
  .ite (h.foldl (fun _ hu _ _ => .ite (dramWrite_kept hu hA) hu)) h

/-! ### FIRE -/

/-- The link after a FIRE whose trigger is at `tf`. -/
def fireNoted (r : Fin 8) (l tf : Nat) (x : PodLink) : PodLink := { x with
  firedOnce := true, fired := (2 * r.val + l % 2, tf) :: x.fired.filter (fun e => e.1 != 2 * r.val + l % 2) }

/-- A FIRE copy whose D is `d`. -/
def fireCopy (s : State) (p : Fin 24) (r : Fin 8) (l : Nat) (cancel : Bool) (fill : Nat) (d : Int) : Out :=
  Out.pod p (podFrame 0x03 (pairEpoch s) (firePayload s r l cancel fill (clampD d)))

/-- Two copies leave, each with its own D; of the state besides only the link has changed. -/
theorem sendFire_law {s : State} (hdrives : drives s = true) (p : Fin 24) (r : Fin 8) (l : Nat) (cancel : Bool)
    (fill tf t : Nat) : let ds := fireDs s p r l cancel fill tf t
    sendFire s p r l cancel fill tf t = modLink (withOut s (s.out ++
      [fireCopy s p r l cancel fill ds.1, fireCopy s p r l cancel fill ds.2])) p (fireNoted r l tf) := by
  intro ds
  have hsent := foldl_sendPod hdrives p 0x03
    [firePayload s r l cancel fill (clampD ds.1), firePayload s r l cancel fill (clampD ds.2)]
  have hfirst := sendPod_drives hdrives p 0x03 (firePayload s r l cancel fill (clampD ds.1))
  have hpayload : firePayload (sendPod s p 0x03 (firePayload s r l cancel fill (clampD ds.1))) r l cancel fill
      (clampD ds.2) = firePayload s r l cancel fill (clampD ds.2) := by rw [hfirst]; rfl
  unfold sendFire
  dsimp only
  rw [hpayload]
  exact congrArg (fun u => modLink u p (fireNoted r l tf)) hsent

/-- What is recorded of a row-line that fires `codes`. -/
def rowFired (s : State) (p : Fin 24) (r : Fin 8) (l : Nat) (codes : List (Nat × BitVec 4)) : State :=
  recordCodes (setMark (addFld s F.SCR_SPITS (codes.filter (fun c => c.2 == 13)).length) p r l markFired) p r l codes

theorem SameRows.rowFired {s t : State} (h : SameRows s t) {p : Fin 24} {r : Fin 8} {l : Nat}
    {codes : List (Nat × BitVec 4)} : SameRows s (rowFired t p r l codes) := h.setFld.setMark.recordCodes

/-- What is marked and recorded of a row-line whose FIRE has left. -/
def fireMarked (s : State) (p : Fin 24) (r : Fin 8) (l : Nat) (x : RowLine) (late : Bool) : State :=
  if x.cancel then setMark s p r l markCancelled
  else if late then incFld (setMark s p r l markNot) F.PLC_MISSED
  else rowFired s p r l x.codes

theorem fireMarked_rows (s : State) (p : Fin 24) (r : Fin 8) (l : Nat) (x : RowLine) (late : Bool) :
    SameRows s (fireMarked s p r l x late) := by
  unfold fireMarked
  split
  · exact (SameRows.refl s).setMark
  · split
    · exact (SameRows.refl s).setMark.setFld
    · exact (SameRows.refl s).rowFired

/-- The second copy of a FIRE that left at `t` would come too late. -/
def fireLate (s : State) (p : Fin 24) (r : Fin 8) (l tf t : Nat) : Bool :=
  decide ((fireDs s p r l false (segCount s p) tf t).2 < 256)

/-- The FIRE of a row-line with its trigger leaves at `t`. -/
def fireSent (s : State) (p : Fin 24) (r : Fin 8) (l : Nat) (x : RowLine) (tf t : Nat) : State :=
  let cancel := x.cancel || fireLate s p r l tf t
  fireMarked (setLine (sendFire s p r l cancel (segCount s p) tf t) { x with done := true, cancel := cancel })
    p r l x (fireLate s p r l tf t)

section
variable {s : State} {p : Fin 24} {r : Fin 8} {l now tf : Nat} {x : RowLine}

theorem exec_fireSend (hfind : findLine s p r l = some x) (hwaits : fireWaits (plcTime s now) x = true)
    (htrig : triggerOf (plcTime s now) x = some tf) : exec (.fireSend p r l now) s
      = .next (if fireTurn (plcTime s now) x = false ∨ now + fireAhead < tf then plcTime s now
          else fireSent (triggered (plcTime s now) x tf).1 p r l (triggered (plcTime s now) x tf).2 tf now) := by
  have hfind' : findLine (plcTime s now) p r l = some x := (findLine_congr (plcTime_keeps s now).2.1 p r l).trans hfind
  show execFireSend p r l now s = _
  unfold execFireSend
  dsimp only
  rw [hfind']
  dsimp only
  rw [hwaits, Bool.true_and]
  by_cases hturn : fireTurn (plcTime s now) x = true
  · rw [if_pos hturn, htrig]
    dsimp only
    by_cases hahead : now + fireAhead < tf
    · rw [if_pos hahead, if_pos (.inr hahead)]
    · have hgo : ¬ (fireTurn (plcTime s now) x = false ∨ now + fireAhead < tf) := by
        rw [hturn, Bool.true_eq_false]; exact not_or_intro not_false hahead
      rw [if_neg hahead, if_neg hgo]
      generalize triggered (plcTime s now) x tf = two
      obtain ⟨u, y⟩ := two
      unfold fireSent fireMarked fireLate
      dsimp only
      split
      · rfl
      · split <;> rfl
  · rw [if_neg hturn, if_pos (.inl (Bool.eq_false_iff.mpr hturn))]

theorem fireSent_law (hdrives : drives s = true) (hfind : findLine s p r l = some x) :
    let cancel := x.cancel || fireLate s p r l tf now
    let ds := fireDs s p r l cancel (segCount s p) tf now
    (fireSent s p r l x tf now).out = s.out ++ [fireCopy s p r l cancel (segCount s p) ds.1,
        fireCopy s p r l cancel (segCount s p) ds.2]
      ∧ findLine (fireSent s p r l x tf now) p r l = some { x with done := true, cancel := cancel } := by
  intro cancel ds
  have hlaw := sendFire_law hdrives p r l cancel (segCount s p) tf now
  have hrows := fireMarked_rows (setLine (sendFire s p r l cancel (segCount s p) tf now)
    { x with done := true, cancel := cancel }) p r l x (fireLate s p r l tf now)
  have hfound : findLine (sendFire s p r l cancel (segCount s p) tf now) p r l = some x := by
    rw [hlaw, findLine_modLink, findLine_withOut, hfind]
  refine ⟨hrows.out.trans ?_, (findLine_congr hrows.pods p r l).trans (findLine_setLine hfound ⟨rfl, rfl, rfl⟩)⟩
  rw [setLine_out, hlaw]
  rfl

end

/-! ### POD_UNDERRUN -/

/-- The row-line as its trigger finds it: empty where none was decided. -/
def underX (s : State) (p : Fin 24) (r : Fin 8) (l : Nat) : RowLine :=
  (findLine s p r l).getD ⟨p, r, l, [], 0, none, false, false⟩

/-- The row-line stands in the buffer. -/
def entered (s : State) (p : Fin 24) (r : Fin 8) (l : Nat) : State :=
  if (findLine s p r l).isSome then s
  else { s with pods := { s.pods with lines := s.pods.lines ++ [underX s p r l] } }

/-- The FIRE of a row-line whose data is missing from segment `fill` on leaves at `t`; the underrun is counted and raises
its alarm. -/
def underran (s : State) (p : Fin 24) (r : Fin 8) (l : Nat) (x : RowLine) (fill tf t : Nat) : State :=
  alarm (incFld (setLine (sendFire s p r l x.cancel fill tf t) { x with done := true, codes := [] }) (F.PODL_UNDERRUN p))
    (148 + p) [BitVec.ofNat 32 r.val, BitVec.ofNat 32 l]

/-- What is marked and recorded of it. -/
def underMarked (s : State) (p : Fin 24) (r : Fin 8) (l : Nat) (x : RowLine) (codes : List (Nat × BitVec 4)) : State :=
  if x.cancel then setMark s p r l markCancelled else rowFired s p r l codes

/-- The underrun of a row-line with its trigger. -/
def underSent (s : State) (p : Fin 24) (r : Fin 8) (l : Nat) (x : RowLine) (fill tf t : Nat) : State :=
  underMarked (underran s p r l x fill tf t) p r l x
    (filledCodes (sendFire s p r l x.cancel fill tf t) p x.codes fill)

theorem underMarked_rows (s : State) (p : Fin 24) (r : Fin 8) (l : Nat) (x : RowLine) (codes : List (Nat × BitVec 4)) :
    SameRows s (underMarked s p r l x codes) := by
  unfold underMarked
  split
  · exact (SameRows.refl s).setMark
  · exact (SameRows.refl s).rowFired

theorem underMarked_kept {A : Nat → Prop} {s : State} (h : StnOk s) (hA : ∀ a, A a → a / 0x1000000 ≠ 0x4D)
    (hspits : ¬ A F.SCR_SPITS.addr) {p : Fin 24} {r : Fin 8} {l : Nat} {x : RowLine} {codes : List (Nat × BitVec 4)} :
    Kept A s (underMarked s p r l x codes) :=
  .ite (setMark_kept (.refl h) hA) (recordCodes_kept (setMark_kept (setFld_kept (.refl h) hspits) hA) hA)

section
variable {s : State} {p : Fin 24} {r : Fin 8} {l now tf fill : Nat} {x : RowLine}

theorem entered_keeps (s : State) (p : Fin 24) (r : Fin 8) (l : Nat) :
    SameSender s (entered s p r l) ∧ (entered s p r l).stn = s.stn := by
  unfold entered
  split <;> exact ⟨⟨rfl, rfl, rfl⟩, rfl⟩

theorem findLine_entered (s : State) (p : Fin 24) (r : Fin 8) (l : Nat) :
    findLine (entered s p r l) p r l = some (underX s p r l) := by
  unfold entered underX
  cases hfind : findLine s p r l with
  | some x => exact hfind
  | none =>
    have hnone : s.pods.lines.find? (isRow p r l) = none := hfind
    have hat : isRow p r l ⟨p, r, l, [], 0, none, false, false⟩ = true := isRow_iff.mpr ⟨rfl, rfl, rfl⟩
    show (s.pods.lines ++ [_]).find? (isRow p r l) = _
    rw [List.find?_append, hnone, Option.none_or, List.find?_singleton]
    exact if_pos hat

theorem exec_podUnderrun (hx : underX s p r l = x) (hmissing : dataMissing (plcTime s now) p r l = true)
    (hfire : mayFire (plcTime s now) p r l = true) (hfitted : fitted s p = true) (hrow : r.val < rowsOf s p)
    (htrig : triggerOf (plcTime s now) x = some tf) (hfence : beforeFence (plcTime s now) p tf = false) :
    exec (.podUnderrun p r l now) s
      = .next (if lastDeparture (plcTime s now) p r l x.cancel ((unsent x).headD 0) tf now = true
          then underSent (triggered (entered (plcTime s now) p r l) x tf).1 p r l
            (triggered (entered (plcTime s now) p r l) x tf).2 ((unsent x).headD 0) tf now
          else plcTime s now) := by
  obtain ⟨-, hpods, -⟩ := plcTime_keeps s now
  obtain ⟨clk, wmax, below, htime⟩ := plcTime_law s now
  have hx' : (findLine (plcTime s now) p r l).getD ⟨p, r, l, [], 0, none, false, false⟩ = x := by
    rw [findLine_congr hpods, ← hx]; rfl
  have hentered : (if (findLine (plcTime s now) p r l).isSome then plcTime s now
      else { plcTime s now with pods := { (plcTime s now).pods with lines := (plcTime s now).pods.lines ++ [x] } })
        = entered (plcTime s now) p r l := by rw [← hx']; rfl
  have hfitted' : fitted (plcTime s now) p = true := by rw [htime]; exact hfitted
  have hrow' : r.val < rowsOf (plcTime s now) p := by rw [htime]; exact hrow
  show execPodUnderrun p r l now s = _
  unfold execPodUnderrun
  dsimp only
  rw [hmissing, hfire, hfitted', decide_eq_true hrow', if_pos (by rfl), hx', htrig]
  dsimp only
  rw [hfence, hentered]
  by_cases hlast : lastDeparture (plcTime s now) p r l x.cancel ((unsent x).headD 0) tf now = true
  · have hgo : ¬ (false = true ∨ true = false) := by decide
    rw [hlast, if_neg hgo, if_pos rfl]
    generalize triggered (entered (plcTime s now) p r l) x tf = two
    obtain ⟨u, y⟩ := two
    dsimp only
    unfold underSent underMarked
    split <;> rfl
  · rw [if_pos (.inr (Bool.eq_false_iff.mpr hlast)), if_neg hlast]

/-- The outputs, the buffer, the alarm and the count of an underrun. -/
theorem underran_law (hdrives : drives s = true) (hfind : findLine s p r l = some x) :
    let t := underSent s p r l x fill tf now
    t.out.length = s.out.length + 2 ∧ findLine t p r l = some { x with done := true, codes := [] }
      ∧ (slotGet t (148 + p.val)).isOpen = true
      ∧ (StnOk s → fld t (F.PODL_UNDERRUN p) = min (fld s (F.PODL_UNDERRUN p) + 1) (2 ^ 16 - 1)) := by
  intro t
  have hlaw := sendFire_law hdrives p r l x.cancel fill tf now
  have hrows : SameRows (underran s p r l x fill tf now) t := underMarked_rows _ p r l x _
  have hfound : findLine (sendFire s p r l x.cancel fill tf now) p r l = some x := by
    rw [hlaw, findLine_modLink, findLine_withOut, hfind]
  have hp := p.isLt
  refine ⟨?_, ?_, hrows.duty.slots _ (slotGet_alarm_open _ _ _), fun hok => ?_⟩
  · rw [hrows.out, underran, alarm_out, hlaw]
    exact List.length_append
  · refine (findLine_congr hrows.pods p r l).trans ((findLine_congr (alarm_pods _ _ _) p r l).trans ?_)
    exact findLine_setLine hfound ⟨rfl, rfl, rfl⟩
  · have hstn : (sendFire s p r l x.cancel fill tf now).stn = s.stn := by rw [hlaw]; rfl
    have hok' : StnOk (setLine (sendFire s p r l x.cancel fill tf now) { x with done := true, codes := [] }) := by
      rw [StnOk, setLine_stn, hstn]; exact hok
    have hkept : Kept (· = (F.PODL_UNDERRUN p).addr) (underran s p r l x fill tf now) t :=
      underMarked_kept (alarm_ok (setFld_ok hok' _ _) _ _) (by rintro _ rfl; simp; omega) (by simp; omega)
    rw [hkept.fld rfl, underran, fld, stnWord, alarm_stn]
    refine (fld_addFld_same hok' (by simp) 1).trans ?_
    rw [fld, stnWord, setLine_stn, hstn]
    rfl

end

/-! ### The clauses -/

theorem mayFire_drives {s : State} {p : Fin 24} {r : Fin 8} {l : Nat} (h : mayFire s p r l = true) : drives s = true := by
  simp only [mayFire, Bool.and_eq_true] at h
  obtain ⟨⟨⟨⟨⟨hsend, -⟩, -⟩, -⟩, -⟩, -⟩ := h
  exact canSend_drives hsend

theorem fireWaits_drives {s : State} {x : RowLine} (h : fireWaits s x = true) : drives s = true := by
  simp only [fireWaits, Bool.and_eq_true] at h
  obtain ⟨⟨-, hfire⟩, -⟩ := h
  exact mayFire_drives hfire

section
variable {s : State} {p : Fin 24} {r : Fin 8} {l now tf : Nat} {x : RowLine}

theorem fireSend_waits (hfind : findLine s p r l = some x) (hwaits : fireWaits (plcTime s now) x = true)
    (htrig : triggerOf (plcTime s now) x = some tf)
    (hearly : fireTurn (plcTime s now) x = false ∨ now + fireAhead < tf) :
    exec (.fireSend p r l now) s = .next (plcTime s now) := by
  rw [exec_fireSend hfind hwaits htrig, if_pos hearly]

theorem fireSend_sends (hfind : findLine s p r l = some x) (hwaits : fireWaits (plcTime s now) x = true)
    (htrig : triggerOf (plcTime s now) x = some tf) (hturn : fireTurn (plcTime s now) x = true)
    (hdue : tf ≤ now + fireAhead) :
    let two := triggered (plcTime s now) x tf
    let cancel := two.2.cancel || fireLate two.1 p r l tf now
    let ds := fireDs two.1 p r l cancel (segCount two.1 p) tf now
    let sent := fun d => Out.pod p (podFrame 0x03 (pairEpoch s) (firePayload two.1 r l cancel (segCount two.1 p) (clampD d)))
    ∃ t, exec (.fireSend p r l now) s = .next t ∧ t.out = s.out ++ [sent ds.1, sent ds.2]
      ∧ (findLine t p r l).map (fun y => (y.done, y.cancel)) = some (true, cancel) := by
  intro two cancel ds sent
  obtain ⟨htime, hpods, -⟩ := plcTime_keeps s now
  obtain ⟨hsame, hfound⟩ := triggered_keeps ((findLine_congr hpods p r l).trans hfind) tf
  have hgo : ¬ (fireTurn (plcTime s now) x = false ∨ now + fireAhead < tf) := by
    rw [hturn, Bool.true_eq_false]; exact not_or_intro not_false (Nat.not_lt.mpr hdue)
  obtain ⟨hout, hfired⟩ := fireSent_law (now := now) (tf := tf) (hsame.drives.trans (fireWaits_drives hwaits)) hfound
  refine ⟨_, exec_fireSend hfind hwaits htrig, ?_⟩
  rw [if_neg hgo, hout, hfired, hsame.out, htime.out, fireCopy, fireCopy, hsame.pairEpoch, htime.pairEpoch]
  exact ⟨rfl, rfl⟩

theorem podUnderrun_sends (hx : underX s p r l = x) (hmissing : dataMissing (plcTime s now) p r l = true)
    (hfire : mayFire (plcTime s now) p r l = true) (hfitted : fitted s p = true) (hrow : r.val < rowsOf s p)
    (htrig : triggerOf (plcTime s now) x = some tf) (hfence : beforeFence (plcTime s now) p tf = false)
    (hlast : lastDeparture (plcTime s now) p r l x.cancel ((unsent x).headD 0) tf now = true) :
    ∃ t, exec (.podUnderrun p r l now) s = .next t ∧ t.out.length = s.out.length + 2
      ∧ (findLine t p r l).map (fun y => (y.done, y.codes)) = some (true, []) ∧ (slotGet t (148 + p.val)).isOpen = true
      ∧ (StnOk s → countedUp s t (F.PODL_UNDERRUN p) 1) := by
  have hp := p.isLt
  obtain ⟨htime, hpods, hstn⟩ := plcTime_keeps s now
  obtain ⟨hentered, hstn'⟩ := entered_keeps (plcTime s now) p r l
  have hfind : findLine (entered (plcTime s now) p r l) p r l = some x := by
    rw [findLine_entered, underX, findLine_congr hpods, ← hx]; rfl
  obtain ⟨hsame, hfound⟩ := triggered_keeps hfind tf
  have hsender := hentered.trans hsame
  obtain ⟨hout, hfired, halarm, hcount⟩ := underran_law (now := now) (tf := tf) (fill := (unsent x).headD 0)
    (hsender.drives.trans (mayFire_drives hfire)) hfound
  refine ⟨_, exec_podUnderrun hx hmissing hfire hfitted hrow htrig hfence, ?_⟩
  rw [if_pos hlast, hout, hfired, hsender.out, htime.out]
  refine ⟨rfl, rfl, halarm, fun hok => ?_⟩
  obtain ⟨hok', hword⟩ := triggered_stn (s := entered (plcTime s now) p r l) (by rw [StnOk, hstn', hstn]; exact hok)
    x tf (a := (F.PODL_UNDERRUN p).addr) (by simp; omega)
  have hkept : fld (triggered (entered (plcTime s now) p r l) x tf).1 (F.PODL_UNDERRUN p) = fld s (F.PODL_UNDERRUN p) := by
    rw [fld, hword, stnWord, hstn', hstn]; rfl
  exact (hcount hok').trans (by rw [hkept])

end

/-- Settles O24: the segments' frames, then FIRE, then the underrun. -/
theorem podLineFrames : Obligations.PodLineFrames := by
  unfold Obligations.PodLineFrames
  intro s p r l n b now tf x
  refine ⟨fun hfind hwaits hdone hsend hfree hturn => ⟨?_, fun hb => ?_⟩, fun hfind hturn => lineDataSend_waits hfind hturn,
    fun hfind hwaits htrig => ⟨fireSend_waits hfind hwaits htrig, fireSend_sends hfind hwaits htrig⟩,
    fun hx hmissing hfire hfitted hrow htrig hfence => ⟨podUnderrun_sends hx.symm hmissing hfire hfitted hrow htrig hfence,
      fun hlast => ?_⟩⟩
  · exact ⟨_, lineDataSend_sends hfind hwaits hdone hsend hfree hturn, rfl,
      findLine_sent hfind _ ⟨rfl, rfl, rfl⟩, rfl⟩
  · refine ⟨_, lineDataSend_parity hfind hwaits hdone hsend hfree hturn hb, ?_, ?_, slotGet_alarm_open _ _ _⟩
    · rw [alarm_out, setLine_out]; rfl
    · dsimp only
      rw [findLine_congr (alarm_pods _ _ _), findLine_sent hfind _ (y := parityCancelled x) ⟨rfl, rfl, rfl⟩,
        Option.map_some, allSent_parityCancelled]
      rfl
  · rw [exec_podUnderrun hx.symm hmissing hfire hfitted hrow htrig hfence, if_neg hlast]

end Sys2Proof.Machine
end

section
/-! The control of a camera: one camera of the four, its outstanding command, and how its bring-up goes on (R280, R282,
R284, R299, R303). -/
namespace Sys2Proof.Machine
open Sys2Proof Sys2Proof.Claims

/-! ### One camera of the four -/

theorem cam_congr {s t : State} (h : t.sight = s.sight) (n : Fin 4) : cam t n = cam s n := by rw [cam, h]; rfl

@[simp] theorem cam_setCam (s : State) (n m : Fin 4) (c : Camera) :
    cam (setCam s n c) m = if m = n then c else cam s m := by
  by_cases hm : m = n
  · subst hm; simp [cam, setCam]
  · have : n.val ≠ m.val := fun h => hm (Fin.ext h.symm)
    simp [cam, setCam, hm, Vector.getElem_set_ne _ _ this]

@[simp] theorem cam_modCam (s : State) (n m : Fin 4) (f : Camera → Camera) :
    cam (modCam s n f) m = if m = n then f (cam s n) else cam s m := cam_setCam s n m _

@[simp] theorem cam_setFld (s : State) (f : Fld) (v : Nat) (n : Fin 4) : cam (setFld s f v) n = cam s n := rfl
@[simp] theorem cam_incFld (s : State) (f : Fld) (n : Fin 4) : cam (incFld s f) n = cam s n := rfl
@[simp] theorem cam_emit (s : State) (o : Out) (n : Fin 4) : cam (emit s o) n = cam s n := rfl
@[simp] theorem cam_withOut (s : State) (out : List Out) (n : Fin 4) : cam (withOut s out) n = cam s n := rfl
@[simp] theorem cam_withTherm (s : State) (therm : Therm) (n : Fin 4) : cam (withTherm s therm) n = cam s n := rfl
@[simp] theorem cam_alarm (s : State) (k : Nat) (d : List Word) (n : Fin 4) : cam (alarm s k d) n = cam s n :=
  cam_congr (alarm_sight s k d) n

theorem setCam_self (s : State) (n : Fin 4) : setCam s n (cam s n) = s := by simp [setCam, cam]

@[simp] theorem fld_modCam (s : State) (n : Fin 4) (f : Camera → Camera) (g : Fld) : fld (modCam s n f) g = fld s g := rfl
@[simp] theorem out_modCam (s : State) (n : Fin 4) (f : Camera → Camera) : (modCam s n f).out = s.out := rfl

/-! ### The outstanding command -/

/-- The words of a command speak of the stations, and of the sets accepted and being written. -/
theorem opWords_congr {s t : State} (hstn : t.stn = s.stn) {n : Fin 4} (hnewest : (cam t n).newest = (cam s n).newest)
    (hwriting : (cam t n).writing = (cam s n).writing) (op : CamOp) : opWords t n op = opWords s n op := by
  have hfld (f : Fld) : fld t f = fld s f := by rw [fld, stnWord, hstn]; rfl
  have hset : bringSet t n = bringSet s n := by simp only [bringSet, hfld, hnewest]
  have hexp (e : ExpSet) : expValue t n e = expValue s n e := by
    rw [expValue, expValue, fldB, fldB, hfld, hfld]
  cases op <;> simp only [opWords, hfld, hset, hexp, hwriting]

theorem sendHead_nil {s : State} {n : Fin 4} (h : (cam s n).ctl = []) : sendHead s n = s := by
  unfold sendHead; rw [h]

theorem sendHead_cons {s : State} {n : Fin 4} {op : CamOp} {rest : List CamOp} (h : (cam s n).ctl = op :: rest) :
    sendHead s n = emit s (.camCtl n op (opWords s n op).1 (opWords s n op).2) := by
  unfold sendHead; rw [h]

/-- What leaves to a camera joins the outputs, and changes nothing else. -/
theorem sendHead_law (s : State) (n : Fin 4) : ∃ out, sendHead s n = withOut s out := by
  unfold sendHead
  split
  · exact ⟨s.out, rfl⟩
  · exact ⟨_, rfl⟩

/-- The camera with its outstanding command answered. -/
def answered (c : Camera) : Camera := { c with ctl := c.ctl.drop 1 }

theorem popOp_law (s : State) (n : Fin 4) : ∃ out, popOp s n = withOut (modCam s n answered) out :=
  sendHead_law (modCam s n answered) n

/-- A command of the device's own, of a bring-up or an exposure write: no caller's routine. -/
def ownOp (op : CamOp) : Bool :=
  match op with
  | .routine _ _ _ => false
  | _ => true

theorem setupOps_own (s : State) (n : Fin 4) : ∀ op ∈ setupOps s n, ownOp op = true := by
  intro op hop
  simp only [setupOps, List.mem_append, List.mem_map] at hop
  obtain (⟨e, -, rfl⟩ | hexp) | hgain := hop
  · rfl
  · split at hexp <;> simp_all [ownOp]
  · split at hgain <;> simp_all [ownOp]

/-! ### A bring-up goes on -/

section
variable {s : State} {n : Fin 4}

theorem bringStep_eq (s : State) (n : Fin 4) : bringStep s n
    = if (cam (modCam s n answered) n).ctl.any ownOp then sendHead (modCam s n answered) n
      else sendHead (camUp (modCam s n answered) n) n := rfl

/-- While the bring-up has a command left, its acknowledgement sends the next one. -/
theorem bringStep_sends {x op : CamOp} {rest : List CamOp} (h : (cam s n).ctl = x :: op :: rest) (hop : ownOp op = true) :
    bringStep s n = emit (modCam s n answered) (.camCtl n op (opWords s n op).1 (opWords s n op).2) := by
  have hctl : (cam (modCam s n answered) n).ctl = op :: rest := by simp [answered, h]
  have hwords : opWords (modCam s n answered) n op = opWords s n op :=
    opWords_congr (s := s) (t := modCam s n answered) (n := n) rfl (by simp [answered]) (by simp [answered]) op
  have hmore : (cam (modCam s n answered) n).ctl.any ownOp = true := by rw [hctl, List.any_cons, hop, Bool.true_or]
  rw [bringStep_eq, if_pos hmore, sendHead_cons hctl, hwords]

/-- The last acknowledgement brings the camera up. -/
theorem bringStep_last {x : CamOp} (h : (cam s n).ctl = [x]) : bringStep s n = camUp (modCam s n answered) n := by
  have hctl : (cam (modCam s n answered) n).ctl = [] := by simp [answered, h]
  have hnone : ¬ (cam (modCam s n answered) n).ctl.any ownOp = true := by rw [hctl]; simp
  have hup : (cam (camUp (modCam s n answered) n) n).ctl = [] := by simp [camUp, expAcked, answered, h]
  rw [bringStep_eq, if_neg hnone, sendHead_nil hup]

/-- A camera that is up: the set that was written is in force, and its link reads 2. -/
theorem camUp_up (hok : StnOk s) : fld (camUp s n) (F.SIGHT_CAM_STAT_LINK n) = 2
    ∧ (cam (camUp s n) n).acked = some ((cam s n).writing.getD (bringSet s n))
    ∧ (cam (camUp s n) n).ctl = (cam s n).ctl := by
  refine ⟨?_, by simp [camUp, expAcked], by simp [camUp, expAcked]⟩
  rw [camUp, fld_modCam]
  exact fld_setFld_same (setFld_ok hok _ _) (by simp) 2

/-- The answer to a command of the device's own is the camera's alone. -/
theorem camControlAck_own {op : CamOp} {rest : List CamOp} (h : (cam s n).ctl = op :: rest) (hop : ownOp op = true)
    (ok : Bool) (v : Word) : exec (.camControlAck n ok v) s = .next (camAck s n ok v) := by
  change execCamControlAck n ok v s = _
  unfold execCamControlAck
  rw [h]
  cases op with
  | routine => exact absurd hop Bool.false_ne_true
  | _ => rfl

variable {rest : List CamOp} {v : Word}

theorem camAck_discover (h : (cam s n).ctl = .discover :: rest) : camAck s n true v
    = bringStep (modCam s n (fun c => { c with ctl := .discover :: .config :: c.ctl.drop 1 })) n := by
  unfold camAck; rw [h]; rfl

theorem camAck_config (h : (cam s n).ctl = .config :: rest) : camAck s n true v
    = bringStep (modCam s n (fun c => { c with ctl := .config :: .retrain :: c.ctl.drop 1 })) n := by
  unfold camAck; rw [h]; rfl

theorem camAck_retrain (h : (cam s n).ctl = .retrain :: rest) : camAck s n true v
    = bringStep (modCam s n (fun c => { c with
        ctl := .retrain :: setupOps s n ++ c.ctl.drop 1, writing := some (bringSet s n), toWrite := none })) n := by
  unfold camAck; rw [h]; rfl

theorem camAck_setup {e : Nat} (h : (cam s n).ctl = .setup e :: rest) : camAck s n true v = bringStep s n := by
  unfold camAck; rw [h]; rfl

theorem camAck_upGain (h : (cam s n).ctl = .upGain :: rest) : camAck s n true v = bringStep s n := by
  unfold camAck; rw [h]; rfl

theorem camAck_setup_refused {e : Nat} (h : (cam s n).ctl = .setup e :: rest) :
    camAck s n false v = bringRefused s n (BitVec.ofNat 32 e) := by
  unfold camAck; rw [h]; rfl

theorem camAck_routine {read : Bool} {a w : Word} (h : (cam s n).ctl = .routine read a w :: rest) {ok : Bool} :
    camAck s n ok v = popOp s n := by
  unfold camAck; rw [h]

end

/-! ### A bring-up that is abandoned (R282, R357) -/

theorem startHandover_sight (s : State) : (startHandover s).sight = s.sight := by
  obtain ⟨-, -, -, -, -, -, -, -, -, -, hsight, -⟩ := startHandover_keeps s
  exact hsight

theorem handBack_sight (s : State) (i : Nat) : (handBack s i).sight = s.sight := by
  unfold handBack
  split
  · dsimp only
    repeat' split
    exacts [rfl, startHandover_sight _, rfl]
  · rfl

theorem handBack_slot {s : State} {k : Nat} (i : Nat) (h : (slotGet s k).isOpen = true) :
    (slotGet (handBack s i) k).isOpen = true := by
  unfold handBack
  split
  · dsimp only
    repeat' split
    exacts [h, faultHandover_slot (s := { s with tho := { s.tho with since := none } }) 13 h, h]
  · exact h

theorem handBack_kept {A : Nat → Prop} {s t : State} (h : Kept A s t) (hA : ¬ A F.TWN_EVENTS_DECLINED.addr) {i : Nat} :
    Kept A s (handBack t i) := by
  unfold handBack
  split
  · have hdue {tho} : Kept A s (faultHandover { t with tho := tho } 13) := faultHandover_kept h.frame hA
    exact .ite (.ite h.frame hdue.frame) h
  · exact h

theorem bringRefused_leaves {s : State} (h : StnOk s) (n : Fin 4) (entry : Word) :
    (cam (bringRefused s n entry) n).ctl = [] ∧ fld (bringRefused s n entry) (F.SIGHT_CAM_STAT_LINK n) = 0
      ∧ (slotGet (bringRefused s n entry) (220 + n.val)).isOpen = true := by
  let u := setFld (modCam (alarm s (220 + n) [entry]) n (fun c => { c with ctl := [], writing := none }))
    (F.SIGHT_CAM_STAT_LINK n) 0
  have hbelow : StnOk (alarm s (220 + n) [entry]) := by rw [StnOk, alarm_stn]; exact h
  have hother : ∀ m : Fin 4, F.TWN_EVENTS_DECLINED.addr ≠ (F.SIGHT_CAM_STAT_LINK m).addr := by decide
  have hu : StnOk u := setFld_ok hbelow _ _
  have hkept : Kept (· = (F.SIGHT_CAM_STAT_LINK n).addr) u (handBack u (28 + n)) :=
    handBack_kept (.refl hu) (hother n)
  have hlink : fld u (F.SIGHT_CAM_STAT_LINK n) = 0 := fld_setFld_same hbelow (by simp) 0
  have hctl : (cam u n).ctl = [] := by simp [u]
  exact ⟨by rw [← hctl]; exact congrArg Camera.ctl (cam_congr (handBack_sight u _) n), (hkept.fld rfl).trans hlink,
    handBack_slot _ (slotGet_alarm_open s _ _)⟩

/-! ### A routine of a caller (R284) -/

/-- A call that ends well leaves the waiting ones, and its letter's stream moves on. -/
theorem settleCall_done (s : State) (c : Env × Nat × List Word) {a : Ans} (hdone : a.code = 0) :
    (settleCall s c a).sight = s.sight ∧ (settleCall s c a).round.calls = s.round.calls.erase c
      ∧ (streamOf (settleCall s c a) c.1).expected = c.1.seq + 1 := by
  let u := { s with round := { s.round with calls := s.round.calls.erase c } }
  obtain ⟨hstream, -⟩ := settleLetter_leaves u c.1 (callBytes c.2.1 c.2.2) a
  obtain ⟨f, p, q, hs, hsettled, -⟩ := settleLetter_law u c.1 (callBytes c.2.1 c.2.2) a
  rw [if_pos hdone] at hsettled
  refine ⟨?_, ?_, ?_⟩
  · rw [settleCall, hsettled]; rfl
  · rw [settleCall, hsettled]; rfl
  · rw [settleCall, hstream]; rfl

theorem camControlAck_routine {s : State} {n : Fin 4} {read : Bool} {a w v : Word} {rest : List CamOp}
    {c : Env × Nat × List Word} (h : (cam s n).ctl = .routine read a w :: rest) (hcall : camCall s n = some c) :
    exec (.camControlAck n true v) s
      = .next (settleCall (popOp s n) c (resultWords (if read then [v] else []))) := by
  obtain ⟨out, hpop⟩ := popOp_law s n
  have hcall' : camCall (popOp s n) n = some c := by rw [hpop]; exact hcall
  change execCamControlAck n true v s = _
  unfold execCamControlAck
  rw [h]
  simp only [camAck_routine h, hcall']
  rfl

/-! ### A bring-up begins -/

theorem pushOps_idle {s : State} {n : Fin 4} (h : (cam s n).ctl = []) (ops : List CamOp) :
    pushOps s n ops = sendHead (modCam s n (fun c => { c with ctl := c.ctl ++ ops })) n := by
  unfold pushOps; rw [h]; rfl

/-- A bring-up begins with discovery; of the stations only CAM_STAT.LINK is written. -/
theorem camBringUp_begins {s : State} {n : Fin 4} (hdrives : drives s = true)
    (hon : fldB s (F.SIGHT_CAM_CTL_ENABLE n) = true) :
    ∃ f : Camera → Camera, camBringUp s n
      = emit (modCam (setFld s (F.SIGHT_CAM_STAT_LINK n) 1) n f) (.camCtl n .discover 0 0)
        ∧ (f (cam s n)).ctl = [.discover] := by
  let u := modCam (setFld s (F.SIGHT_CAM_STAT_LINK n) 1) n (fun c => { c with ctl := [], writing := none })
  refine ⟨fun c => { c with ctl := [.discover], writing := none }, ?_, rfl⟩
  have hidle : (cam u n).ctl = [] := by simp [u]
  have hhead : (cam (modCam u n (fun c => { c with ctl := c.ctl ++ [CamOp.discover] })) n).ctl = [.discover] := by
    simp [u]
  have hbegins : camBringUp s n = pushOps u n [.discover] := if_pos (by rw [hdrives, hon]; rfl)
  rw [hbegins, pushOps_idle hidle, sendHead_cons hhead]
  simp [u, modCam, setCam, cam, opWords]

/-! ### Stores to SIGHT -/

theorem storeEffect_sight {a : Nat} (ha : a / 0x1000000 = 0x47) (s : State) (v : Word) :
    storeEffect s a v = storeSight s a v := by
  have hblock : (a - 0x40000000) / 0x1000000 = 7 := by omega
  simp only [storeEffect, hblock]

theorem storeCmd_sight {s : State} (hready : takesStores s = true) {a : Nat} (ha : a / 0x1000000 = 0x47) (v : Word) :
    ∃ hiw fill therm, storeCmd s a v = .next (withTherm (storeSight (beforeStore s hiw fill) a v) therm) := by
  obtain ⟨hiw, fill, therm, hstore⟩ := storeStation_effect s none (a := a) (by omega) v
  exact ⟨hiw, fill, therm, by rw [storeCmd, if_pos hready, hstore, storeEffect_sight ha]⟩

theorem plainStore_frame (s : State) (a : Nat) (v : Word) : ∃ stn, plainStore s a v = { s with stn := stn } := by
  unfold plainStore
  split
  · exact ⟨s.stn, rfl⟩
  · exact ⟨_, rfl⟩

theorem storeSight_camCtl (s : State) (n : Fin 4) (v : Word) :
    storeSight s (F.SIGHT_CAM_CTL_ENABLE n).addr v = camCtl s n (F.SIGHT_CAM_CTL_ENABLE n).addr v := by
  have hn := n.isLt
  have hcamera : Fin.ofNat 4 ((0x47000400 + n.val * 0x400 - 0x47000400) / 0x400) = n := Fin.ext (by simp)
  have hoffset : (0x47000400 + n.val * 0x400 - 0x47000400) % 0x400 = 0 := by omega
  unfold storeSight
  rw [if_neg (by dsimp only; omega), if_pos (by dsimp only; omega)]
  dsimp only
  rw [hcamera, if_pos hoffset]

theorem stnRow_camCtl (n : Fin 4) : ∃ r, stnRow (F.SIGHT_CAM_CTL_ENABLE n).addr = some r
    ∧ r.rw.testBit 0 = true ∧ r.w1c = 0 := by
  revert n; decide

/-- ENABLE written as 1, the other bits as they stand. -/
def camEnabled (s : State) (n : Fin 4) : State :=
  plainStore s (F.SIGHT_CAM_CTL_ENABLE n).addr (stnWord s (F.SIGHT_CAM_CTL_ENABLE n).addr ||| 1)

theorem fldB_camEnabled {s : State} (h : StnOk s) (n : Fin 4) :
    fldB (camEnabled s n) (F.SIGHT_CAM_CTL_ENABLE n) = true := by
  obtain ⟨r, hr, hrw, hw1c⟩ := stnRow_camCtl n
  rw [fldB_eq_getLsbD rfl, camEnabled, plainStore_getLsbD h hr _ (by dsimp only; omega), hrw, hw1c]
  simp

/-- Only ENABLE changes, which a write reaches at any time (R304). -/
theorem camCtl_enables {s : State} {n : Fin 4} (hoff : fldB s (F.SIGHT_CAM_CTL_ENABLE n) = false) :
    camCtl s n (F.SIGHT_CAM_CTL_ENABLE n).addr (stnWord s (F.SIGHT_CAM_CTL_ENABLE n).addr ||| 1)
      = camBringUp (camEnabled s n) n := by
  have hsame : ((stnWord s (F.SIGHT_CAM_CTL_ENABLE n).addr ^^^ (stnWord s (F.SIGHT_CAM_CTL_ENABLE n).addr ||| 1))
      &&& 0xFFFFFFFE) = 0 := by
    generalize stnWord s (F.SIGHT_CAM_CTL_ENABLE n).addr = w
    ext i hi
    simp only [BitVec.getElem_and, BitVec.getElem_xor, BitVec.getElem_or]
    obtain rfl | hpos := Nat.eq_zero_or_pos i
    · simp
    · have : (1#32)[i] = false := by simp; omega
      simp [this]
  have hset : (stnWord s (F.SIGHT_CAM_CTL_ENABLE n).addr ||| 1).getLsbD 0 = true := by simp
  unfold camCtl
  dsimp only
  rw [hsame, hset, hoff]
  simp [camEnabled]

/-- Enabling a camera on the active begins its bring-up. -/
theorem camEnable_begins {s : State} (h : StnOk s) {n : Fin 4} (hready : takesStores s = true)
    (hactive : isActive s = true) (hoff : fldB s (F.SIGHT_CAM_CTL_ENABLE n) = false) :
    ∃ t, exec (.camEnable n) s = .next t ∧ fldB t (F.SIGHT_CAM_CTL_ENABLE n) = true
      ∧ fld t (F.SIGHT_CAM_STAT_LINK n) = 1 ∧ (cam t n).ctl = [.discover]
      ∧ t.out = s.out ++ [Out.camCtl n .discover 0 0] := by
  have hn := n.isLt
  obtain ⟨hiw, fill, therm, hstore⟩ := storeCmd_sight hready (a := (F.SIGHT_CAM_CTL_ENABLE n).addr)
    (by dsimp only; omega) (stnWord s (F.SIGHT_CAM_CTL_ENABLE n).addr ||| 1)
  let b := beforeStore s hiw fill
  have hb : StnOk b := h
  have hon := fldB_camEnabled hb n
  obtain ⟨stn, hframe⟩ := plainStore_frame b (F.SIGHT_CAM_CTL_ENABLE n).addr
    (stnWord b (F.SIGHT_CAM_CTL_ENABLE n).addr ||| 1)
  have hdrives : drives (camEnabled b n) = true := by
    rw [camEnabled, hframe]
    exact Bool.and_eq_true_iff.mpr ⟨hactive, hready⟩
  obtain ⟨f, hbegins, hctl⟩ := camBringUp_begins hdrives hon
  have hwritten : StnOk (camEnabled b n) := plainStore_ok hb _ _
  rw [storeSight_camCtl] at hstore
  have heffect : camCtl b n (F.SIGHT_CAM_CTL_ENABLE n).addr (stnWord s (F.SIGHT_CAM_CTL_ENABLE n).addr ||| 1)
      = camBringUp (camEnabled b n) n := camCtl_enables (s := b) hoff
  rw [heffect, hbegins] at hstore
  refine ⟨_, hstore, ?_, fld_setFld_same hwritten (by simp) 1, by simpa using hctl, ?_⟩
  · rw [← hon]
    exact congrArg (· != 0) (fld_setFld_addr hwritten 1 (by dsimp only; omega))
  · change (camEnabled b n).out ++ _ = _
    rw [camEnabled, hframe]; rfl

/-- A retry while the link is down begins the bring-up again. -/
theorem camBringupRetry_begins {s : State} (h : StnOk s) {n : Fin 4} (hdrives : drives s = true)
    (hon : fldB s (F.SIGHT_CAM_CTL_ENABLE n) = true) (hdown : fld s (F.SIGHT_CAM_STAT_LINK n) = 0) :
    ∃ t, exec (.camBringupRetry n) s = .next t ∧ fld t (F.SIGHT_CAM_STAT_LINK n) = 1 ∧ (cam t n).ctl = [.discover]
      ∧ t.out = s.out ++ [Out.camCtl n .discover 0 0] := by
  obtain ⟨f, hbegins, hctl⟩ := camBringUp_begins hdrives hon
  have hretry : exec (.camBringupRetry n) s = .next (camBringUp s n) := congrArg Host.Outcome.next (if_pos hdown)
  rw [hbegins] at hretry
  exact ⟨_, hretry, fld_setFld_same h (by simp) 1, by simpa using hctl, rfl⟩

theorem cameraControl : CameraControl := by
  intro s n e op rest v c read a w h
  refine ⟨fun hready hactive hoff => camEnable_begins h hready hactive hoff,
    fun hdrives hon hdown => camBringupRetry_begins h hdrives hon hdown,
    fun hup => congrArg Host.Outcome.next (if_neg hup), fun hctl => ?discover, fun hctl => ?config, fun hctl hops => ?retrain,
    fun hctl hop => ?setup, fun hctl => ?last, fun hctl => ?refused, fun hctl hcall => ?routine⟩
  case discover =>
    let u := modCam s n (fun c => { c with ctl := .discover :: .config :: c.ctl.drop 1 })
    have hu : (cam u n).ctl = .discover :: .config :: rest := by simp [u, hctl]
    rw [camControlAck_own hctl rfl, camAck_discover hctl, bringStep_sends hu rfl]
    exact ⟨_, rfl, by simp [answered, hu], rfl⟩
  case config =>
    let u := modCam s n (fun c => { c with ctl := .config :: .retrain :: c.ctl.drop 1 })
    have hu : (cam u n).ctl = .config :: .retrain :: rest := by simp [u, hctl]
    rw [camControlAck_own hctl rfl, camAck_config hctl, bringStep_sends hu rfl]
    exact ⟨_, rfl, by simp [answered, hu], rfl⟩
  case retrain =>
    obtain ⟨op, ops, hops⟩ := List.exists_cons_of_ne_nil hops
    let u := modCam s n (fun c => { c with
      ctl := .retrain :: setupOps s n ++ c.ctl.drop 1, writing := some (bringSet s n), toWrite := none })
    have hu : (cam u n).ctl = .retrain :: op :: (ops ++ rest) := by simp [u, hctl, hops]
    have hown : ownOp op = true := setupOps_own s n op (by simp [hops])
    rw [camControlAck_own hctl rfl, camAck_retrain hctl, bringStep_sends hu hown, hops]
    exact ⟨_, rfl, by simp [answered, hu], by simp [answered, u]⟩
  case setup =>
    have hown : ownOp op = true := by obtain rfl | rfl := hop <;> rfl
    rw [camControlAck_own hctl rfl, camAck_setup hctl, bringStep_sends hctl hown]
    exact ⟨_, rfl, by simp [answered, hctl], rfl⟩
  case last =>
    have hbelow : StnOk (modCam s n answered) := h
    obtain ⟨hlink, hacked, hempty⟩ := camUp_up (n := n) hbelow
    rw [camControlAck_own hctl rfl, camAck_upGain hctl, bringStep_last hctl]
    refine ⟨_, rfl, by rw [hempty]; simp [answered, hctl], hlink, ?_⟩
    rw [hacked]
    simp [bringSet, answered]
  case refused =>
    rw [camControlAck_own hctl rfl, camAck_setup_refused hctl]
    exact ⟨_, rfl, bringRefused_leaves h n _⟩
  case routine =>
    obtain ⟨out, hpop⟩ := popOp_law s n
    obtain ⟨hsight, hcalls, hstream⟩ := settleCall_done (popOp s n) c (a := resultWords (if read then [v] else [])) rfl
    refine ⟨_, camControlAck_routine hctl hcall, ?_, ?_, hstream⟩
    · rw [cam_congr hsight, hpop]; simp [answered, hctl]
    · rw [hcalls, hpop]; rfl

end Sys2Proof.Machine
end

section
/-! The frames of a camera: the slots on which it triggers, the lines that come, and how its frames close (R285 to R287,
R293, R299). -/
namespace Sys2Proof.Machine
open Sys2Proof Sys2Proof.Claims

/-! ### What the control of a camera leaves of its frames -/

/-- `t` follows `s` but for camera `n`'s control: its commands, its exposure sets and CAM_STAT; its frames and slots are
as they were. -/
structure ControlOnly (n : Fin 4) (s t : State) : Prop where
  kept : Kept (· ≠ (F.SIGHT_CAM_STAT_EXP_UNKNOWN n).addr) s t
  cur : (cam t n).cur = (cam s n).cur
  closed : (cam t n).closed = (cam s n).closed
  nextSlot : (cam t n).nextSlot = (cam s n).nextSlot

section
variable {n : Fin 4} {s t : State}

theorem ControlOnly.refl (h : StnOk s) : ControlOnly n s s := ⟨.refl h, rfl, rfl, rfl⟩

variable (h : ControlOnly n s t)
include h

theorem ControlOnly.modCam {f : Camera → Camera} (hcur : ∀ c, (f c).cur = c.cur := by intro; rfl)
    (hclosed : ∀ c, (f c).closed = c.closed := by intro; rfl)
    (hnext : ∀ c, (f c).nextSlot = c.nextSlot := by intro; rfl) : ControlOnly n s (modCam t n f) where
  kept := h.kept.frame
  cur := by rw [cam_modCam, if_pos rfl, hcur, h.cur]
  closed := by rw [cam_modCam, if_pos rfl, hclosed, h.closed]
  nextSlot := by rw [cam_modCam, if_pos rfl, hnext, h.nextSlot]

theorem ControlOnly.ite {c : Prop} {_ : Decidable c} {u : State} (hu : ControlOnly n s u) :
    ControlOnly n s (if c then t else u) := by split <;> assumption

theorem sendHead_control : ControlOnly n s (sendHead t n) := by
  obtain ⟨out, hsent⟩ := sendHead_law t n
  rw [hsent]
  exact ⟨h.kept.frame, h.cur, h.closed, h.nextSlot⟩

theorem pushOps_control {ops : List CamOp} : ControlOnly n s (pushOps t n ops) :=
  .ite (sendHead_control h.modCam) h.modCam

theorem expAcked_control {e : ExpSet} : ControlOnly n s (expAcked t n e) := by
  have hacked := h.modCam (f := fun c => { c with
    acked := some e, writing := none, failed := false, back := [], unknown := false,
    ackedExp := some (expValue t n e), ackedGain := some e.gain })
  exact ⟨setFld_kept hacked.kept (by simp), hacked.cur, hacked.closed, hacked.nextSlot⟩

theorem readBack_control : ControlOnly n s (readBack t n) := pushOps_control h.modCam

theorem writeSet_control {e : ExpSet} : ControlOnly n s (writeSet t n e) := by
  have hforgot : ControlOnly n s (if (cam t n).writing.isSome then
      Machine.modCam t n (fun c => { c with ackedExp := none, ackedGain := none }) else t) := .ite h.modCam h
  exact .ite (expAcked_control hforgot.modCam) (pushOps_control hforgot.modCam)

theorem openGap_control : ControlOnly n s (openGap t n) := by
  have hopen := h.modCam (f := fun c => { c with gapOpen := true })
  refine .ite hopen (.ite (readBack_control hopen) ?_)
  split
  · exact writeSet_control hopen
  · exact hopen

theorem gapEnds_control : ControlOnly n s (gapEnds t n) := .ite (readBack_control h.modCam) h.modCam

end

/-! ### Frames close (R287) -/

section
variable {s : State} {n : Fin 4} {f : CamFrame}

/-- A frame that was neither dropped nor discarded enters the closed ones. -/
theorem shut_enters (hdropped : f.dropped = false) (hclose : f.close ≠ .discarded) {how : Close} (hhow : how ≠ .discarded) :
    shut s n f how = modCam s n (fun c => { c with closed := c.closed ++ [{ f with close := how }] }) := by
  have hkept : (f.close == .discarded) = false := beq_eq_false_iff_ne.mpr hclose
  have hhow' : (how == .discarded) = false := beq_eq_false_iff_ne.mpr hhow
  simp only [shut, hdropped, hkept, hhow', Bool.or_false, Bool.false_and, Bool.false_eq_true, if_false]

/-- A frame that a bad line has discarded is gone, and has been counted. -/
theorem shut_discarded (hclose : f.close = .discarded) :
    shut s n f .discarded = s := by
  have hsame : shut s n f .discarded = setCam s n (cam s n) := by simp [shut, hclose, modCam]
  rw [hsame, setCam_self]

theorem closeFrame_running (hcur : (cam s n).cur = some f) (how : Close) :
    closeFrame s n how = openGap (shut (modCam s n (fun c => { c with cur := none })) n f how) n := by
  unfold closeFrame; rw [hcur]

/-- The running frame closes: it enters the closed ones, and none runs. -/
theorem closeFrame_enters (h : StnOk s) (hcur : (cam s n).cur = some f) (hdropped : f.dropped = false)
    (hclose : f.close ≠ .discarded) {how : Close} (hhow : how ≠ .discarded) :
    (cam (closeFrame s n how) n).cur = none
      ∧ (cam (closeFrame s n how) n).closed = (cam s n).closed ++ [{ f with close := how }] := by
  let u := modCam (modCam s n (fun c => { c with cur := none })) n
    (fun c => { c with closed := c.closed ++ [{ f with close := how }] })
  have hu : StnOk u := h
  have hgap : ControlOnly n u (closeFrame s n how) := by
    rw [closeFrame_running hcur, shut_enters hdropped hclose hhow]
    exact openGap_control (.refl hu)
  exact ⟨by rw [hgap.cur]; simp [u], by rw [hgap.closed]; simp [u]⟩

/-- A discarded frame ends without a trace but its count. -/
theorem closeFrame_discards (h : StnOk s) (hcur : (cam s n).cur = some f) (hclose : f.close = .discarded) :
    (cam (closeFrame s n .discarded) n).closed = (cam s n).closed
      ∧ fld (closeFrame s n .discarded) (F.SIGHT_DISCARDED n) = fld s (F.SIGHT_DISCARDED n) := by
  let u := modCam s n (fun c => { c with cur := none })
  have hu : StnOk u := h
  have hgap : ControlOnly n u (closeFrame s n .discarded) := by
    rw [closeFrame_running hcur, shut_discarded hclose]
    exact openGap_control (.refl hu)
  exact ⟨by rw [hgap.closed]; simp [u], hgap.kept.fld (by dsimp only; omega)⟩

end

/-! ### A line joins a frame (R287, R293, R298) -/

/-- A word of the cameras, not of their contexts. -/
abbrev CameraWord (a : Nat) : Prop := 0x47000000 ≤ a ∧ a < 0x47002000

theorem spooled_congr {s t : State} (h : fld t F.SIGHT_CFG_MODE = fld s F.SIGHT_CFG_MODE) (n : Fin 4) :
    spooled t n = spooled s n := by
  rw [spooled, sharedMode, fldB, h]; rfl

theorem camFrameLines_congr {s t : State} {n : Nat} (h : fld t (F.SIGHT_FRAME_LINES n) = fld s (F.SIGHT_FRAME_LINES n)) :
    camFrameLines t n = camFrameLines s n := congrArg (atLeast 1) h

theorem dramPut_kept {A : Nat → Prop} {s t : State} (h : Kept A s t) (hA : ∀ a, A a → a / 0x1000000 ≠ 0x4D) {a : Nat}
    {bs : List Byte} : Kept A s (dramPut t a bs) := .ite (dramWrite_kept h hA) h

theorem dramWrite_sight (s : State) (a : Nat) (bs : List Byte) : (dramWrite s a bs).sight = s.sight := by
  obtain ⟨u, hsame, hwrite⟩ := dramWrite_law s a bs
  rw [hwrite]; exact hsame.sight

theorem dramPut_sight (s : State) (a : Nat) (bs : List Byte) : (dramPut s a bs).sight = s.sight := by
  unfold dramPut
  split
  · exact dramWrite_sight s a bs
  · rfl

/-- The context of an in-line frame whose pixel comes: its own, else the one that comes into force. -/
def ctxMet (s : State) (n : Fin 4) (f : CamFrame) : Option CtxSet × State :=
  if f.ctx.isNone then (some (takeCtx s n).1, (takeCtx s n).2) else (f.ctx, s)

section
variable {s : State} {n : Fin 4}

theorem takeCtx_kept (h : StnOk s) : Kept CameraWord s (takeCtx s n).2 :=
  setFld_kept (Kept.refl h).frame (by dsimp only; omega)

theorem takeCtx_closed : (cam (takeCtx s n).2 n).closed = (cam s n).closed := by simp [takeCtx]

theorem ctxMet_kept (h : StnOk s) (f : CamFrame) : Kept CameraWord s (ctxMet s n f).2 := by
  unfold ctxMet
  split
  · exact takeCtx_kept h
  · exact .refl h

theorem ctxMet_closed (f : CamFrame) : (cam (ctxMet s n f).2 n).closed = (cam s n).closed := by
  unfold ctxMet
  split
  · exact takeCtx_closed
  · rfl

variable {f : CamFrame} {ln : CamLine} (hdropped : f.dropped = false) (hclose : f.close ≠ .discarded)
include hdropped hclose

/-- A good line of an in-line frame joins it. -/
theorem joinLine_inline (hgood : ln.good = true) (hwidth : ln.pixels.length = camWidth s n) (hspooled : spooled s n = false)
    (h : StnOk s) : joinLine s n f ln = ((ctxMet s n f).2, { f with lines := f.lines ++ [ln.pixels], ctx := (ctxMet s n f).1 }) := by
  have hkept : (f.close == .discarded) = false := beq_eq_false_iff_ne.mpr hclose
  have hstill : spooled (ctxMet s n f).2 n = false := by
    rw [spooled_congr ((ctxMet_kept h f).fld (by decide)), hspooled]
  cases hctx : f.ctx.isNone with
  | true =>
    have hmet : ctxMet s n f = (some (takeCtx s n).1, (takeCtx s n).2) := if_pos hctx
    rw [hmet] at hstill ⊢
    simp [joinLine, hgood, hwidth, hdropped, hkept, hspooled, hctx, hstill]
  | false =>
    have hmet : ctxMet s n f = (f.ctx, s) := if_neg (by rw [hctx]; exact Bool.false_ne_true)
    rw [hmet]
    simp [joinLine, hgood, hwidth, hdropped, hkept, hspooled, hctx]

/-- A good line of a spooled frame goes into its slot. -/
theorem joinLine_spools (hgood : ln.good = true) (hwidth : ln.pixels.length = camWidth s n) (hspooled : spooled s n = true)
    (h : StnOk s) : joinLine s n f ln
      = (dramPut s (spoolAddr s n f.slot f.lines.length) (packLine (camBits s n) ln.pixels),
        { f with lines := f.lines ++ [[]] }) := by
  have hkept : (f.close == .discarded) = false := beq_eq_false_iff_ne.mpr hclose
  have hstill (a : Nat) (bs : List Byte) : spooled (dramPut s a bs) n = true := by
    have hput : Kept CameraWord s (dramPut s a bs) := dramPut_kept (.refl h) (fun _ ha => by omega)
    rw [spooled_congr (hput.fld (by decide)), hspooled]
  simp [joinLine, hgood, hwidth, hdropped, hkept, hspooled, hstill]

/-- A bad line discards the frame, and counts it. -/
theorem joinLine_bad (hbad : ¬ (ln.good = true ∧ ln.pixels.length = camWidth s n)) : joinLine s n f ln
    = (incFld s (F.SIGHT_DISCARDED n), { f with lines := f.lines ++ [[]], close := .discarded }) := by
  have hkept : (f.close == .discarded) = false := beq_eq_false_iff_ne.mpr hclose
  have hbad' : (ln.good && ln.pixels.length == camWidth s n) = false := by simpa using hbad
  simp [joinLine, hbad', hdropped, hkept]

end

/-! ### A line comes -/

/-- The frame with the line that has joined it goes on, or ends with its last line. -/
def lineTaken (s : State) (n : Fin 4) (f : CamFrame) : State :=
  let u := modCam s n (fun c => { c with cur := some f })
  if camFrameLines u n ≤ f.lines.length then closeFrame u n (if f.close == .discarded then .discarded else .complete) else u

section
variable {s : State} {n : Fin 4} {f : CamFrame}

theorem takeLine_running {ln : CamLine} (hlate : (cam s n).late = []) (hcur : (cam s n).cur = some f)
    (hdue : f.lines.length < f.trigs.length) :
    takeLine s n ln = lineTaken (joinLine s n f ln).1 n (joinLine s n f ln).2 := by
  unfold takeLine
  rw [hlate, hcur]
  exact if_neg (by omega)

theorem lineTaken_goesOn (hmore : f.lines.length < camFrameLines s n) :
    lineTaken s n f = modCam s n (fun c => { c with cur := some f }) := if_neg (Nat.not_le.mpr hmore)

theorem lineTaken_completes (h : StnOk s) (hdropped : f.dropped = false) (hclose : f.close ≠ .discarded)
    (hlast : camFrameLines s n ≤ f.lines.length) : (cam (lineTaken s n f) n).cur = none
      ∧ (cam (lineTaken s n f) n).closed = (cam s n).closed ++ [{ f with close := .complete }] := by
  let u := modCam s n (fun c => { c with cur := some f })
  have hu : StnOk u := h
  have hkept : (f.close == .discarded) = false := beq_eq_false_iff_ne.mpr hclose
  have htaken : lineTaken s n f = closeFrame u n .complete := by
    rw [lineTaken, hkept]; exact if_pos hlast
  obtain ⟨hnone, hclosed⟩ := closeFrame_enters (n := n) (how := .complete) hu (by simp [u]) hdropped hclose (by decide)
  rw [htaken, hclosed]
  exact ⟨hnone, by simp [u]⟩

/-- A discarded frame never enters the closed ones, and is not counted again. -/
theorem lineTaken_discards (h : StnOk s) (hclose : f.close = .discarded) :
    (cam (lineTaken s n f) n).closed = (cam s n).closed
      ∧ fld (lineTaken s n f) (F.SIGHT_DISCARDED n) = fld s (F.SIGHT_DISCARDED n) := by
  let u := modCam s n (fun c => { c with cur := some f })
  have hu : StnOk u := h
  by_cases hlast : camFrameLines s n ≤ f.lines.length
  · have htaken : lineTaken s n f = closeFrame u n .discarded := by
      rw [lineTaken, hclose]; exact if_pos hlast
    obtain ⟨hclosed, hcount⟩ := closeFrame_discards (n := n) hu (by simp [u]) hclose
    rw [htaken, hclosed, hcount]
    exact ⟨by simp [u], rfl⟩
  · rw [lineTaken_goesOn (by omega)]
    exact ⟨by simp, rfl⟩

end

/-- A line of camera `n` comes for the running frame `f`, which has a line due and is not lost. -/
structure LineDue (s : State) (n : Fin 4) (ln : CamLine) (f : CamFrame) : Prop where
  ok : StnOk s
  runs : camRuns s n = true
  stream : ln.stream.toNat = fld s (F.SIGHT_CAM_CTL_STREAM_ID n)
  late : (cam s n).late = []
  cur : (cam s n).cur = some f
  due : f.lines.length < f.trigs.length
  dropped : f.dropped = false
  close : f.close ≠ .discarded

section
variable {s : State} {n : Fin 4} {ln : CamLine} {f : CamFrame} (d : LineDue s n ln f)
include d

theorem LineDue.exec_cameraLine : exec (.cameraLine n ln) s = .next (lineTaken (joinLine s n f ln).1 n (joinLine s n f ln).2) := by
  have htaken : exec (.cameraLine n ln) s = .next (takeLine s n ln) :=
    congrArg Host.Outcome.next (if_pos (by rw [d.runs, d.stream]; simp))
  rw [htaken, takeLine_running d.late d.cur d.due]

/-- A good line joins the frame, and the closed frames are as they were. -/
theorem LineDue.joins (hgood : ln.good = true ∧ ln.pixels.length = camWidth s n) :
    ∃ ctx, (joinLine s n f ln).2 = { f with lines := f.lines ++ [if spooled s n then [] else ln.pixels], ctx := ctx }
      ∧ Kept CameraWord s (joinLine s n f ln).1 ∧ (cam (joinLine s n f ln).1 n).closed = (cam s n).closed := by
  obtain ⟨hgood, hwidth⟩ := hgood
  by_cases hspooled : spooled s n = true
  · rw [joinLine_spools d.dropped d.close hgood hwidth hspooled d.ok, if_pos hspooled]
    exact ⟨f.ctx, rfl, dramPut_kept (.refl d.ok) (fun _ ha => by omega),
      congrArg Camera.closed (cam_congr (dramPut_sight _ _ _) n)⟩
  · rw [joinLine_inline d.dropped d.close hgood hwidth (Bool.eq_false_iff.mpr hspooled) d.ok, if_neg hspooled]
    exact ⟨_, rfl, ctxMet_kept d.ok f, ctxMet_closed f⟩

theorem LineDue.goesOn (hgood : ln.good = true ∧ ln.pixels.length = camWidth s n)
    (hmore : f.lines.length + 1 < camFrameLines s n) : ∃ t g, exec (.cameraLine n ln) s = .next t
      ∧ (cam t n).cur = some g ∧ g.lines = f.lines ++ [if spooled s n then [] else ln.pixels]
      ∧ (cam t n).closed = (cam s n).closed
      ∧ (spooled s n = true → t.dram
          = (dramPut s (spoolAddr s n f.slot f.lines.length) (packLine (camBits s n) ln.pixels)).dram) := by
  obtain ⟨ctx, hframe, hkept, hclosed⟩ := d.joins hgood
  have hfew : (joinLine s n f ln).2.lines.length < camFrameLines (joinLine s n f ln).1 n := by
    rw [camFrameLines_congr (hkept.fld (by dsimp only; omega)), hframe]; simpa using hmore
  rw [d.exec_cameraLine, lineTaken_goesOn hfew]
  refine ⟨_, _, rfl, by simp; rfl, by rw [hframe], by simpa using hclosed, fun hspooled => ?_⟩
  rw [joinLine_spools d.dropped d.close hgood.1 hgood.2 hspooled d.ok]; rfl

theorem LineDue.completes (hgood : ln.good = true ∧ ln.pixels.length = camWidth s n)
    (hlast : camFrameLines s n ≤ f.lines.length + 1) : ∃ t g, exec (.cameraLine n ln) s = .next t
      ∧ (cam t n).cur = none ∧ (cam t n).closed = (cam s n).closed ++ [g] ∧ g.close = .complete
      ∧ g.lines = f.lines ++ [if spooled s n then [] else ln.pixels] := by
  obtain ⟨ctx, hframe, hkept, hclosed⟩ := d.joins hgood
  have hall : camFrameLines (joinLine s n f ln).1 n ≤ (joinLine s n f ln).2.lines.length := by
    rw [camFrameLines_congr (hkept.fld (by dsimp only; omega)), hframe]; simpa using hlast
  obtain ⟨hnone, hentered⟩ := lineTaken_completes hkept.ok (by rw [hframe]; exact d.dropped)
    (by rw [hframe]; exact d.close) hall
  rw [d.exec_cameraLine]
  exact ⟨_, _, rfl, hnone, by rw [hentered, hclosed], rfl, by rw [hframe]⟩

theorem LineDue.discards (hbad : ¬ (ln.good = true ∧ ln.pixels.length = camWidth s n)) :
    ∃ t, exec (.cameraLine n ln) s = .next t ∧ countedUp s t (F.SIGHT_DISCARDED n) 1
      ∧ (cam t n).closed = (cam s n).closed := by
  rw [d.exec_cameraLine, joinLine_bad d.dropped d.close hbad]
  obtain ⟨hclosed, hcount⟩ := lineTaken_discards (s := incFld s (F.SIGHT_DISCARDED n)) (n := n)
    (f := { f with lines := f.lines ++ [[]], close := .discarded }) (setFld_ok d.ok _ _) rfl
  exact ⟨_, rfl, hcount.trans (fld_addFld_same d.ok (by simp) 1), hclosed⟩

end

end Sys2Proof.Machine
end

section
/-! The triggers of a camera, and the time-out of its frames (R285 to R287, R295, R367). -/
namespace Sys2Proof.Machine
open Sys2Proof Sys2Proof.Claims

/-! ### A trigger packet leaves -/

section
variable {s : State} {n : Fin 4}

/-- A frame starts; the slots that have passed stay passed. -/
theorem startFrame_begins (h : StnOk s) (job jobId recStart : Nat) (byCompare : Bool) :
    (cam (startFrame s n job jobId recStart byCompare) n).cur.isSome = true
      ∧ (cam (startFrame s n job jobId recStart byCompare) n).nextSlot = (cam s n).nextSlot := by
  have hnext : (cam (gapEnds (modCam s n (fun c => { c with cur := none, late := c.late ++ c.cur.toList })) n) n).nextSlot
      = (cam s n).nextSlot := by
    have hbelow : StnOk (modCam s n (fun c => { c with cur := none, late := c.late ++ c.cur.toList })) := h
    have hgap := gapEnds_control (n := n) (.refl hbelow)
    rw [hgap.nextSlot]; simp
  unfold startFrame
  generalize gapEnds (modCam s n (fun c => { c with cur := none, late := c.late ++ c.cur.toList })) n = w at hnext ⊢
  dsimp only
  split
  · rw [cam_alarm, cam_incFld, cam_modCam, if_pos rfl]
    exact ⟨rfl, hnext⟩
  · rw [cam_modCam, if_pos rfl]
    exact ⟨rfl, hnext⟩

/-- The state whose running frame takes the next trigger: one that has all of its own gives way (R286). -/
def trigFrame (s : State) (n : Fin 4) (job jobId recStart : Nat) (byCompare : Bool) : State :=
  if (match (cam s n).cur with
      | none => true
      | some f => decide (camFrameLines s n ≤ f.trigs.length)) then startFrame s n job jobId recStart byCompare else s

/-- The camera whose running frame takes a trigger of line `l` at `t`. -/
def takesTrig (s : State) (n : Fin 4) (l t : Nat) (c : Camera) : Camera :=
  match c.cur with
  | none => c
  | some f => { c with
      cur := some { f with trigs := f.trigs ++ [l] }, lastTrig := some t,
      gap := if camFrameLines s n ≤ f.trigs.length + 1 then camGapLines s n else 0 }

theorem issueTrig_eq (s : State) (n : Fin 4) (job jobId recStart l : Nat) (byCompare : Bool) (t : Nat) :
    let u := emit (trigFrame s n job jobId recStart byCompare) (.camTrig n t)
    issueTrig s n job jobId recStart l byCompare t = modCam u n (takesTrig u n l t) := rfl

theorem takesTrig_running {c : Camera} {g : CamFrame} (h : c.cur = some g) (l t : Nat) :
    (takesTrig s n l t c).cur = some { g with trigs := g.trigs ++ [l] } ∧ (takesTrig s n l t c).lastTrig = some t
      ∧ (takesTrig s n l t c).nextSlot = c.nextSlot := by
  unfold takesTrig
  rw [h]
  exact ⟨rfl, rfl, rfl⟩

theorem trigFrame_runs (h : StnOk s) (job jobId recStart : Nat) (byCompare : Bool) :
    (cam (trigFrame s n job jobId recStart byCompare) n).cur.isSome = true
      ∧ (cam (trigFrame s n job jobId recStart byCompare) n).nextSlot = (cam s n).nextSlot := by
  have hbegins := startFrame_begins (n := n) h job jobId recStart byCompare
  unfold trigFrame
  cases hcur : (cam s n).cur with
  | none => exact hbegins
  | some f =>
    dsimp only
    split
    · exact hbegins
    · exact ⟨by rw [hcur]; rfl, rfl⟩

theorem issueTrig_triggers (h : StnOk s) (job jobId recStart l : Nat) (byCompare : Bool) (at' : Nat) :
    let t := issueTrig s n job jobId recStart l byCompare at'
    Out.camTrig n at' ∈ t.out ∧ (∃ g, (cam t n).cur = some g ∧ g.trigs.getLast? = some l)
      ∧ (cam t n).lastTrig = some at' ∧ (cam t n).nextSlot = (cam s n).nextSlot := by
  obtain ⟨hruns, hpassed⟩ := trigFrame_runs (n := n) h job jobId recStart byCompare
  obtain ⟨g, hg⟩ := Option.isSome_iff_exists.mp hruns
  let u := emit (trigFrame s n job jobId recStart byCompare) (.camTrig n at')
  obtain ⟨hcur, hlast, hnext⟩ := takesTrig_running (s := u) (n := n) hg l at'
  rw [issueTrig_eq]
  dsimp only
  rw [cam_modCam, if_pos rfl, cam_emit]
  exact ⟨by simp [emit], ⟨_, hcur, List.getLast?_concat⟩, hlast, hnext.trans hpassed⟩

end

/-! ### A slot comes (R285, R286) -/

/-- A slot of line `l` that is due at `now`, for a camera that runs on the grid of job `j`. -/
structure SlotComes (s : State) (n : Fin 4) (j : SightJob) (l now : Nat) : Prop where
  ok : StnOk s
  runs : camRuns s n = true
  cool : dieThrottle s = false
  web : camCompare s n = none
  job : camJob s n = some j
  onJob : (cam s n).onJob = j.no
  due : slotDue (plcTime s now) n (slotAt (plcTime s now) n j l) = true
  ahead : (cam s n).fromW ≤ slotAt (plcTime s now) n j l
  next : (cam s n).nextSlot ≤ l
  grid : l % camYb s n = camPhase s n

/-- Line `l` passes as a slot of the job: a gap's, one too soon after the last trigger, or one that triggers. -/
def slotPasses (s : State) (n : Fin 4) (j : SightJob) (l t : Nat) : State :=
  let s := modCam s n (fun c => { c with nextSlot := l + 1 })
  if 0 < (cam s n).gap then modCam s n (fun c => { c with gap := c.gap - 1 })
  else
    let soon := match (cam s n).lastTrig with
      | some t0 => decide ((t - t0) * fld s (F.SIGHT_LMAX n) < 3200000000) && fld s (F.SIGHT_LMAX n) != 0
      | none => false
    if soon then incFld s (F.SIGHT_TRIG_SKIP n) else issueTrig s n j.no j.jobId j.recStart l false t

/-- What time that passes leaves of the cameras. -/
theorem plcTime_cameras (s : State) (t : Nat) : (plcTime s t).stn = s.stn ∧ (∀ n, cam (plcTime s t) n = cam s n)
    ∧ (plcTime s t).out = s.out := by
  obtain ⟨clk, wmax, below, htime⟩ := plcTime_law s t
  rw [htime]
  exact ⟨rfl, fun _ => rfl, rfl⟩

section
variable {s : State} {n : Fin 4} {j : SightJob} {l now : Nat} (d : SlotComes s n j l now)
include d

theorem SlotComes.exec_triggerSlot : exec (.triggerSlot n l now) s
    = .next (if j.last < l then dropTails (camOnJob (plcTime s now) n (j.no + 1)) else slotPasses (plcTime s now) n j l now) := by
  obtain ⟨clk, wmax, below, htime⟩ := plcTime_law s now
  obtain ⟨-, hcam, -⟩ := plcTime_cameras s now
  have hslots : (onSlots (plcTime s now) n && !dieThrottle (plcTime s now)) = true := by
    rw [htime]
    change (camRuns s n && (camCompare s n).isNone && !dieThrottle s) = true
    rw [d.runs, d.web, d.cool]; rfl
  have hjob : camJob (plcTime s now) n = some j := by rw [htime]; exact d.job
  have hgrid : l % camYb (plcTime s now) n = camPhase (plcTime s now) n := by rw [htime]; exact d.grid
  have hstays : camOnJob (plcTime s now) n j.no = plcTime s now := if_pos (by rw [hcam, d.onJob])
  have hpasses : ¬ (l < (cam (plcTime s now) n).nextSlot ∨ l % camYb (plcTime s now) n ≠ camPhase (plcTime s now) n
      ∨ slotAt (plcTime s now) n j l < (cam (plcTime s now) n).fromW
      ∨ ¬ slotDue (plcTime s now) n (slotAt (plcTime s now) n j l) = true) := by
    have hnext := d.next
    have hahead := d.ahead
    rw [hcam]
    simp only [d.due, hgrid, not_true_eq_false, ne_eq, or_false, false_or]
    omega
  change execTriggerSlot n l now s = _
  unfold execTriggerSlot
  dsimp only
  rw [if_pos hslots, hjob]
  dsimp only
  rw [hstays, if_neg hpasses]
  simp only [slotPasses, apply_ite Host.Outcome.next] <;> rfl

theorem SlotComes.pastLast (hlast : j.last < l) : ∃ t, exec (.triggerSlot n l now) s = .next t
    ∧ (cam t n).onJob = j.no + 1 ∧ (cam t n).frameNo = 0 ∧ (cam t n).nextSlot = 0 := by
  have hother : (cam (plcTime s now) n).onJob ≠ j.no + 1 := by rw [(plcTime_cameras s now).2.1, d.onJob]; omega
  have hmoves : camOnJob (plcTime s now) n (j.no + 1) = modCam (closeShort (plcTime s now) n) n
      (fun c => { c with onJob := j.no + 1, nextSlot := 0, frameNo := 0, gap := 0 }) := if_neg hother
  have hforgets (u : State) : cam (dropTails u) n = cam u n := rfl
  rw [d.exec_triggerSlot, if_pos hlast, hmoves]
  exact ⟨_, rfl, by simp [hforgets], by simp [hforgets], by simp [hforgets]⟩

theorem SlotComes.inGap (hjob : l ≤ j.last) (hgap : 0 < (cam s n).gap) : ∃ t, exec (.triggerSlot n l now) s = .next t
    ∧ (cam t n).gap = (cam s n).gap - 1 ∧ (cam t n).cur = (cam s n).cur ∧ t.out = s.out := by
  obtain ⟨-, hcam, hout⟩ := plcTime_cameras s now
  have hpasses : slotPasses (plcTime s now) n j l now
      = modCam (modCam (plcTime s now) n (fun c => { c with nextSlot := l + 1 })) n (fun c => { c with gap := c.gap - 1 }) :=
    if_pos (by simpa [hcam] using hgap)
  rw [d.exec_triggerSlot, if_neg (by omega), hpasses]
  exact ⟨_, rfl, by simp [hcam], by simp [hcam], hout⟩

theorem SlotComes.triggers (hjob : l ≤ j.last) (hgap : (cam s n).gap = 0) (hfirst : (cam s n).lastTrig = none) :
    ∃ t g, exec (.triggerSlot n l now) s = .next t ∧ Out.camTrig n now ∈ t.out ∧ (cam t n).cur = some g
      ∧ g.trigs.getLast? = some l ∧ (cam t n).lastTrig = some now ∧ (cam t n).nextSlot = l + 1 := by
  obtain ⟨hstn, hcam, -⟩ := plcTime_cameras s now
  let u := modCam (plcTime s now) n (fun c => { c with nextSlot := l + 1 })
  have hu : StnOk u := by change spWf stnInit (plcTime s now).stn = true; rw [hstn]; exact d.ok
  have hpasses : slotPasses (plcTime s now) n j l now = issueTrig u n j.no j.jobId j.recStart l false now := by
    have hnogap : ¬ 0 < (cam u n).gap := by simp [u, hcam, hgap]
    have hlast : (cam u n).lastTrig = none := by simp [u, hcam, hfirst]
    unfold slotPasses
    dsimp only
    rw [if_neg hnogap, hlast]; rfl
  obtain ⟨hleaves, ⟨g, hcur, htrig⟩, hlast, hnext⟩ := issueTrig_triggers (n := n) hu j.no j.jobId j.recStart l false now
  rw [d.exec_triggerSlot, if_neg (by omega), hpasses]
  exact ⟨_, g, rfl, hleaves, hcur, htrig, hlast, by rw [hnext]; simp [u]⟩

theorem SlotComes.skips {t0 : Nat} (hjob : l ≤ j.last) (hgap : (cam s n).gap = 0) (htrig : (cam s n).lastTrig = some t0)
    (hlimit : fld s (F.SIGHT_LMAX n) ≠ 0) (hsoon : (now - t0) * fld s (F.SIGHT_LMAX n) < 3200000000) :
    ∃ t, exec (.triggerSlot n l now) s = .next t ∧ countedUp s t (F.SIGHT_TRIG_SKIP n) 1
      ∧ (cam t n).cur = (cam s n).cur ∧ t.out = s.out := by
  obtain ⟨hstn, hcam, hout⟩ := plcTime_cameras s now
  let u := modCam (plcTime s now) n (fun c => { c with nextSlot := l + 1 })
  have hu : StnOk u := by change spWf stnInit (plcTime s now).stn = true; rw [hstn]; exact d.ok
  have hfld (f : Fld) : fld u f = fld s f := by
    change fldOf f (spGet stnInit (plcTime s now).stn f.addr) = _; rw [hstn]; rfl
  have hpasses : slotPasses (plcTime s now) n j l now = incFld u (F.SIGHT_TRIG_SKIP n) := by
    have hnogap : ¬ 0 < (cam u n).gap := by simp [u, hcam, hgap]
    have hlast : (cam u n).lastTrig = some t0 := by simp [u, hcam, htrig]
    unfold slotPasses
    dsimp only
    rw [if_neg hnogap, hlast]
    exact if_pos (by rw [hfld]; simp [hsoon, hlimit])
  rw [d.exec_triggerSlot, if_neg (by omega), hpasses]
  refine ⟨_, rfl, ?_, by simp [u, hcam], hout⟩
  have hcount := fld_addFld_same hu (f := F.SIGHT_TRIG_SKIP n) (by simp) 1
  rwa [hfld] at hcount

end

/-! ### The time-out (R287, R367) -/

section
variable {s : State} {n : Fin 4} {f : CamFrame} (hdropped : f.dropped = false) (hclose : f.close ≠ .discarded)
include hdropped hclose

theorem frameTimeout_running (h : StnOk s) (hlate : (cam s n).late = []) (hcur : (cam s n).cur = some f)
    (hall : camFrameLines s n ≤ f.trigs.length) : ∃ t, exec (.frameTimeout n) s = .next t ∧ (cam t n).cur = none
      ∧ (cam t n).closed = (cam s n).closed ++ [{ f with close := .incomplete }] := by
  have hkept : (f.close == .discarded) = false := beq_eq_false_iff_ne.mpr hclose
  have hcloses : exec (.frameTimeout n) s = .next (closeFrame s n .incomplete) := by
    change execFrameTimeout n s = _
    unfold execFrameTimeout
    rw [hlate, hcur]
    dsimp only
    rw [if_neg (by omega), hkept]; rfl
  exact ⟨_, hcloses, closeFrame_enters h hcur hdropped hclose (by decide)⟩

theorem frameTimeout_late {rest : List CamFrame} (hlate : (cam s n).late = f :: rest) :
    ∃ t, exec (.frameTimeout n) s = .next t ∧ (cam t n).cur = (cam s n).cur ∧ (cam t n).late = rest
      ∧ (cam t n).closed = (cam s n).closed ++ [{ f with close := .incomplete }] := by
  have hkept : (f.close == .discarded) = false := beq_eq_false_iff_ne.mpr hclose
  have hcloses : exec (.frameTimeout n) s
      = .next (shut (modCam s n (fun c => { c with late := rest })) n f .incomplete) := by
    change execFrameTimeout n s = _
    unfold execFrameTimeout closeOldest
    rw [hlate]
    dsimp only
    rw [hkept]; rfl
  rw [shut_enters hdropped hclose (by decide)] at hcloses
  exact ⟨_, hcloses, by simp, by simp, by simp⟩

end

theorem frameTimeout_none {s : State} {n : Fin 4} (hlate : (cam s n).late = []) (hcur : (cam s n).cur = none) :
    exec (.frameTimeout n) s = .next (lateWin s) := by
  change execFrameTimeout n s = _
  unfold execFrameTimeout
  rw [hlate, hcur]

theorem cameraLine_otherStream {s : State} {n : Fin 4} {ln : CamLine}
    (hother : ln.stream.toNat ≠ fld s (F.SIGHT_CAM_CTL_STREAM_ID n)) : exec (.cameraLine n ln) s = .next s :=
  congrArg Host.Outcome.next (if_neg (by simp [hother]))

/-! ### The clauses -/

theorem cameraFrames : CameraFrames := by
  intro s n l now j ln f rest h
  refine ⟨fun hruns hcool hweb hjob honJob hdue hahead hnext hgrid => ?_,
    fun hruns hstream hlate hcur hdue hdropped hclose => ?_, cameraLine_otherStream,
    fun hlate hcur hall hdropped hclose => frameTimeout_running hdropped hclose h hlate hcur hall,
    fun hlate hdropped hclose => frameTimeout_late hdropped hclose hlate, frameTimeout_none⟩
  · have d : SlotComes s n j l now := ⟨h, hruns, hcool, hweb, hjob, honJob, hdue, hahead, hnext, hgrid⟩
    exact ⟨d.pastLast, d.inGap, d.triggers, fun t0 => d.skips⟩
  · have d : LineDue s n ln f := ⟨h, hruns, hstream, hlate, hcur, hdue, hdropped, hclose⟩
    exact ⟨d.goesOn, d.completes, d.discards⟩

/-- Settles O58: the control of a camera, then its triggers, lines and time-outs. -/
theorem cameras : Obligations.Cameras := ⟨cameraControl, cameraFrames⟩

end Sys2Proof.Machine
end

section
/-! The pipelines: spooled frames, processed frames, context commits and exposure sets (R283, R293, R294, R298, R299,
R301, R365). -/
namespace Sys2Proof.Machine
open Sys2Proof Sys2Proof.Claims

/-! ### A spooled frame is taken (R293, R294) -/

/-- Pipeline 1 is free on the active, and `f` of camera `n` is the earliest spooled frame, and has closed. -/
structure FrameSpooled (s : State) (n : Fin 4) (f : CamFrame) : Prop where
  ok : StnOk s
  shared : sharedMode s = true
  free : s.sight.pipe1 = none
  driven : drives s = true
  cool : dieThrottle s = false
  earliest : nextSpooled s = some (n, f)
  closed : f.close ≠ .running

/-- The state with another frame in pipeline 1. -/
def withPipe1 (s : State) (x : Option (Fin 4 × CamFrame)) : State := { s with sight := { s.sight with pipe1 := x } }

@[simp] theorem cam_withPipe1 (s : State) (x : Option (Fin 4 × CamFrame)) (n : Fin 4) : cam (withPipe1 s x) n = cam s n := rfl

/-- The frame read from its slot, which it leaves. -/
def slotLeft (s : State) (n : Fin 4) (f : CamFrame) : State :=
  modCam (dramReadEffect s (spoolAddr s n f.slot 0) (f.lines.length * spoolLineBytes s n)) n
    (fun c => { c with closed := c.closed.drop 1 })

/-- The frame's slot holds an uncorrectable codeword. -/
def slotBad (s : State) (n : Fin 4) (f : CamFrame) : Bool :=
  dramBad s (spoolAddr s n f.slot 0) (f.lines.length * spoolLineBytes s n)

section
variable {s : State} {n : Fin 4} {f : CamFrame}

theorem slotLeft_closed : (cam (slotLeft s n f) n).closed = (cam s n).closed.drop 1 := by
  rw [slotLeft, cam_modCam, if_pos rfl, cam_congr (dramReadEffect_same s _ _).sight]

theorem slotLeft_kept (h : StnOk s) : Kept CameraWord s (slotLeft s n f) :=
  (dramReadEffect_kept (.refl h) (fun _ ha => by omega)).frame

theorem slotLeft_pipe1 : (slotLeft s n f).sight.pipe1 = s.sight.pipe1 := by
  have hread := congrArg Sight.pipe1
    (dramReadEffect_same s (spoolAddr s n f.slot 0) (f.lines.length * spoolLineBytes s n)).sight
  exact hread

variable (d : FrameSpooled s n f)
include d

theorem FrameSpooled.exec_spoolFrameStart : exec .spoolFrameStart s
    = .next (if slotBad s n f then incFld (slotLeft s n f) (F.SIGHT_DISCARDED n)
        else withPipe1 (takeCtx (slotLeft s n f) n).2
          (some (n, { readSpool s n f with ctx := some (takeCtx (slotLeft s n f) n).1 }))) := by
  have hstarts : (sharedMode s && s.sight.pipe1.isNone && drives s && !dieThrottle s) = true := by
    rw [d.shared, d.free, d.driven, d.cool]; rfl
  have hclosed : ¬ (f.close == .running) = true := by simpa using d.closed
  change execSpoolFrameStart s = _
  unfold execSpoolFrameStart
  rw [if_pos hstarts, d.earliest]
  dsimp only
  rw [if_neg hclosed]
  exact (apply_ite Host.Outcome.next _ _ _).symm

theorem FrameSpooled.enters (hgood : slotBad s n f = false) : ∃ t g, exec .spoolFrameStart s = .next t
    ∧ t.sight.pipe1 = some (n, g) ∧ g.number = f.number ∧ g.lines = (readSpool s n f).lines
    ∧ (cam t n).closed = (cam s n).closed.drop 1 := by
  rw [d.exec_spoolFrameStart, if_neg (by rw [hgood]; exact Bool.false_ne_true)]
  exact ⟨_, _, rfl, rfl, rfl, rfl, by rw [cam_withPipe1, takeCtx_closed, slotLeft_closed]⟩

theorem FrameSpooled.discarded (hbad : slotBad s n f = true) : ∃ t, exec .spoolFrameStart s = .next t
    ∧ t.sight.pipe1 = none ∧ countedUp s t (F.SIGHT_DISCARDED n) 1 ∧ (cam t n).closed = (cam s n).closed.drop 1 := by
  have hkept : Kept CameraWord s (slotLeft s n f) := slotLeft_kept d.ok
  have hcount := fld_addFld_same hkept.ok (f := F.SIGHT_DISCARDED n) (by simp) 1
  rw [hkept.fld (by dsimp only; omega)] at hcount
  rw [d.exec_spoolFrameStart, if_pos hbad]
  exact ⟨_, rfl, slotLeft_pipe1.trans d.free, hcount, slotLeft_closed⟩

end

/-! ### A frame is processed (R283, R301) -/

/-- The closed frames, the frame in pipeline 1 and the frames that wait to be scored are as they were. -/
structure SameFrames (s t : State) : Prop where
  closed : ∀ m, (cam t m).closed = (cam s m).closed
  pipe1 : t.sight.pipe1 = s.sight.pipe1
  hlt : t.hlt = s.hlt

section
variable {s t : State}

theorem SameFrames.refl : SameFrames s s := ⟨fun _ => rfl, rfl, rfl⟩

variable (h : SameFrames s t)
include h

theorem SameFrames.frame {u : State} (hsight : u.sight = t.sight := by rfl) (hhlt : u.hlt = t.hlt := by rfl) :
    SameFrames s u where
  closed m := by rw [cam_congr hsight, h.closed]
  pipe1 := by rw [hsight, h.pipe1]
  hlt := hhlt.trans h.hlt

theorem SameFrames.ite {c : Prop} {_ : Decidable c} {u : State} (hu : SameFrames s u) :
    SameFrames s (if c then t else u) := by split <;> assumption

theorem setFld_frames {f : Fld} {v : Nat} : SameFrames s (setFld t f v) := h.frame
theorem setFldB_frames {f : Fld} {b : Bool} : SameFrames s (setFldB t f b) := h.frame
theorem addFld_frames {f : Fld} {k : Nat} : SameFrames s (addFld t f k) := h.frame

theorem dramPut_frames {a : Nat} {bs : List Byte} : SameFrames s (dramPut t a bs) := by
  obtain ⟨u, hsame, hwrite⟩ := dramWrite_law t a bs
  have hwritten : SameFrames s (dramWrite t a bs) := by
    rw [hwrite]
    exact h.frame hsame.sight hsame.hlt
  exact .ite hwritten h

theorem readRecords_frames {f : CamFrame} : SameFrames s (readRecords t f) :=
  .ite h (foldl_inv (SameFrames s) _ (fun _ _ hu => .ite
    (hu.frame (dramReadEffect_same _ _ _).sight (dramReadEffect_same _ _ _).hlt) hu) _ h)

theorem profNext_frames {n : Fin 4} : SameFrames s (modCam t n (fun c => { c with profNext := c.profNext + 1 })) where
  closed m := by
    rw [cam_modCam]
    split
    · next hm => rw [hm]; exact h.closed n
    · exact h.closed m
  pipe1 := h.pipe1
  hlt := h.hlt

theorem writeParts_frames {f : CamFrame} {g : Px} {parts : List (Nat × List Nat)} :
    SameFrames s (writeParts t f g parts).1 :=
  foldl_inv (fun x : State × List HltPart => SameFrames s x.1) _
    (fun _ _ hu => profNext_frames (dramPut_frames hu)) parts h

end

/-- A processed frame: what its pipeline writes leaves the frames as they were; then it waits to be scored, event 12 is
set and its camera's request line asserted. -/
theorem processFrame_law (s : State) (n : Fin 4) (f : CamFrame) : ∃ v h fresh, SameFrames s v ∧ h.camera = n
    ∧ h.number = f.number ∧ processFrame s n f
      = dmaLine (setEventAll { v with fresh := fresh, hlt := { v.hlt with frames := v.hlt.frames ++ [h] } } 12) (9 + n) := by
  refine ⟨_, _, _, ?_, ?_, ?_, rfl⟩
  rotate_left
  · rfl
  · rfl
  · exact setFldB_frames (setFld_frames (addFld_frames (addFld_frames
      (dramPut_frames (writeParts_frames (readRecords_frames .refl))))))

/-- A camera's request line lies among the thirteen (R455). -/
theorem dmaLine_camera (s : State) (n : Fin 4) : (dmaLine s (9 + n)).dma.lines.getLsbD (9 + n.val) = true := by
  have hbit : ∀ m : Fin 4, (1#13 <<< (9 + m.val)).getLsbD (9 + m.val) = true := by decide
  change (s.dma.lines ||| (1#13 <<< (9 + n.val))).getLsbD (9 + n.val) = true
  rw [BitVec.getLsbD_or, hbit n, Bool.or_true]

/-- What a processed frame leaves. -/
structure Processed (s : State) (n : Fin 4) (f : CamFrame) (t : State) (h : HltFrame) : Prop where
  closed : ∀ m, (cam t m).closed = (cam s m).closed
  pipe1 : t.sight.pipe1 = s.sight.pipe1
  frames : t.hlt.frames = s.hlt.frames ++ [h]
  camera : h.camera = n
  number : h.number = f.number
  events : ∀ k : Fin 8, (stw t k).evpend.getLsbD 12 = true
  line : t.dma.lines.getLsbD (9 + n.val) = true

theorem processFrame_leaves (s : State) (n : Fin 4) (f : CamFrame) : ∃ h, Processed s n f (processFrame s n f) h := by
  obtain ⟨v, h, fresh, hsame, hcamera, hnumber, hprocessed⟩ := processFrame_law s n f
  let u := { v with fresh := fresh, hlt := { v.hlt with frames := v.hlt.frames ++ [h] } }
  have hsight : (dmaLine (setEventAll u 12) (9 + n)).sight = v.sight :=
    foldl_keeps State.sight (setEvent 12) (fun _ _ => rfl) _ u
  have hhlt : (dmaLine (setEventAll u 12) (9 + n)).hlt = u.hlt :=
    foldl_keeps State.hlt (setEvent 12) (fun _ _ => rfl) _ u
  have hevents (k : Fin 8) : (stw (setEventAll u 12) k).evpend.getLsbD 12 = true :=
    setEvents_raise (s := u) (n := 12) (by omega) (List.mem_finRange k)
  rw [hprocessed]
  exact ⟨h, {
    closed := fun m => by rw [cam_congr hsight, hsame.closed]
    pipe1 := by rw [hsight, hsame.pipe1]
    frames := by rw [hhlt, ← hsame.hlt]
    camera := hcamera
    number := hnumber
    events := hevents
    line := dmaLine_camera _ n }⟩

section
variable {s : State} {n : Fin 4} {f : CamFrame}

theorem frameProcessed_standby (hidle : drives s = false) : exec (.frameProcessed n) s = .next s :=
  if_pos (by rw [hidle]; rfl)

theorem frameProcessed_inline {rest : List CamFrame} (hdrives : drives s = true) (hinline : spooled s n = false)
    (hclosed : (cam s n).closed = f :: rest) : exec (.frameProcessed n) s
      = .next (processFrame (modCam s n (fun c => { c with closed := c.closed.drop 1 })) n f) := by
  change execFrameProcessed n s = _
  unfold execFrameProcessed
  rw [hdrives, hinline, hclosed]
  rfl

theorem frameProcessed_spooled (hdrives : drives s = true) (hspooled : spooled s n = true)
    (hpipe : s.sight.pipe1 = some (n, f)) : exec (.frameProcessed n) s
      = .next (processFrame (withPipe1 s none) n f) := by
  change execFrameProcessed n s = _
  unfold execFrameProcessed
  rw [hdrives, hspooled, hpipe]
  exact congrArg Host.Outcome.next (if_pos rfl)

end

/-! ### Contexts and exposure sets (R298, R299) -/

theorem storeSight_ctxCommit {s : State} (hactive : isActive s = true) (n : Fin 4) :
    storeSight s (F.SIGHT_CTX_COMMIT n).addr 1 = ctxCommit s n := by
  have hn := n.isLt
  have hcamera : Fin.ofNat 4 ((0x47002078 + n.val * 0x100 - 0x47002000) / 0x100) = n :=
    Fin.ext (by simp only [Fin.ofNat]; omega)
  unfold storeSight
  rw [if_neg (by dsimp only; omega), if_neg (by dsimp only; omega), if_pos (by dsimp only; omega), hactive, hcamera]
  rfl

theorem storeSight_expGo {s : State} (hactive : isActive s = true) (n : Fin 4) :
    storeSight s (F.SIGHT_EXP_GO n).addr 1 = expGo s n := by
  have hn := n.isLt
  have hcamera : Fin.ofNat 4 ((0x47000448 + n.val * 0x400 - 0x47000400) / 0x400) = n :=
    Fin.ext (by simp only [Fin.ofNat]; omega)
  have hoffset : (0x47000448 + n.val * 0x400 - 0x47000400) % 0x400 = 0x48 := by omega
  unfold storeSight
  rw [if_neg (by dsimp only; omega), if_pos (by dsimp only; omega)]
  dsimp only
  rw [hcamera, hoffset, hactive]
  rfl

/-- The state with other entries in the hamper that is filling. -/
def withFill (s : State) (fill : List JEntry) : State := { s with twin := { s.twin with fill := fill } }

@[simp] theorem cam_withFill (s : State) (fill : List JEntry) (n : Fin 4) : cam (withFill s fill) n = cam s n := rfl

section
variable {s : State} (h : StnOk s) (n : Fin 4)
include h

theorem ctxCommit_takes (hgood : ctxBad (ctxSnapshot s n (nextTag (fld s (F.SIGHT_CTX_TAG_COMMITTED n)))) n = false) :
    (cam (ctxCommit s n) n).pendCtx.map (fun c => c.tag) = some (nextTag (fld s (F.SIGHT_CTX_TAG_COMMITTED n)))
      ∧ fld (ctxCommit s n) (F.SIGHT_CTX_TAG_COMMITTED n) = (nextTag (fld s (F.SIGHT_CTX_TAG_COMMITTED n))).toNat
      ∧ ∀ i : Fin 4, i ≠ n → cam (ctxCommit s n) i = cam s i := by
  let tag := nextTag (fld s (F.SIGHT_CTX_TAG_COMMITTED n))
  let u := modCam s n (fun x => { x with pendCtx := some (ctxSnapshot s n tag) })
  have hu : StnOk u := h
  obtain ⟨fill, hfill⟩ := journal_fill (setFld u (F.SIGHT_CTX_TAG_COMMITTED n) tag.toNat) (.ctxCommit n tag)
  have htaken : ctxCommit s n = withFill (setFld u (F.SIGHT_CTX_TAG_COMMITTED n) tag.toNat) fill :=
    (if_neg (by rw [hgood]; exact Bool.false_ne_true)).trans hfill
  rw [htaken]
  refine ⟨by simp [u, ctxSnapshot, tag], ?_, fun i hi => by simp [u, hi]⟩
  exact (fld_setFld_same hu (by simp) tag.toNat).trans (Nat.mod_eq_of_lt tag.isLt)

theorem ctxCommit_refuses (hbad : ctxBad (ctxSnapshot s n (nextTag (fld s (F.SIGHT_CTX_TAG_COMMITTED n)))) n = true) :
    cam (ctxCommit s n) n = cam s n ∧ fld (ctxCommit s n) (F.SIGHT_CTX_REFUSED n) = 1
      ∧ fld (ctxCommit s n) (F.SIGHT_CTX_TAG_COMMITTED n) = fld s (F.SIGHT_CTX_TAG_COMMITTED n) := by
  have hrefused : ctxCommit s n = setFld s (F.SIGHT_CTX_REFUSED n) 1 := if_pos hbad
  rw [hrefused]
  exact ⟨rfl, fld_setFld_same h (by simp) 1, fld_setFld_addr h 1 (by dsimp only; omega)⟩

end

/-- The set that EXP_GO accepts (R299). -/
def expAccepted (s : State) (n : Fin 4) : ExpSet :=
  ⟨fld s (F.SIGHT_EXP_NS n), BitVec.ofNat 32 (fld s (F.SIGHT_GAIN n)), nextTag (fld s (F.SIGHT_EXP_TAG_ACCEPTED n))⟩

theorem expGo_accepts {s : State} (h : StnOk s) (n : Fin 4) : (cam (expGo s n) n).newest = some (expAccepted s n)
    ∧ (cam (expGo s n) n).toWrite = some (expAccepted s n)
    ∧ fld (expGo s n) (F.SIGHT_EXP_TAG_ACCEPTED n) = (expAccepted s n).tag.toNat := by
  let e := expAccepted s n
  let u := modCam s n (fun c => { c with newest := some e, toWrite := some e })
  have hu : StnOk u := h
  obtain ⟨fill, hfill⟩ := journal_fill (setFld u (F.SIGHT_EXP_TAG_ACCEPTED n) e.tag.toNat) (.expGo n e.tag)
  have haccepted : expGo s n = withFill (setFld u (F.SIGHT_EXP_TAG_ACCEPTED n) e.tag.toNat) fill := hfill
  rw [haccepted]
  refine ⟨by simp [u, e], by simp [u, e], ?_⟩
  exact (fld_setFld_same hu (by simp) e.tag.toNat).trans (Nat.mod_eq_of_lt e.tag.isLt)

/-- Settles O26: a spooled frame, a processed one in-line and spooled, a commit and an exposure set. -/
theorem sightPipelines : Obligations.SightPipelines := by
  unfold Obligations.SightPipelines
  intro s n m f rest h
  refine ⟨fun hshared hfree hdrives hcool hnext hclosed => ?spool, frameProcessed_standby,
    fun hdrives hinline hclosed => ?inline, fun hdrives hspooled hpipe => ?spooled, fun hready hactive => ?commit,
    fun hready hactive => ?exposure⟩
  case spool =>
    have d : FrameSpooled s n f := ⟨h, hshared, hfree, hdrives, hcool, hnext, hclosed⟩
    exact ⟨d.enters, d.discarded⟩
  case inline =>
    obtain ⟨g, hleaves⟩ := processFrame_leaves (modCam s n (fun c => { c with closed := c.closed.drop 1 })) n f
    refine ⟨_, g, frameProcessed_inline hdrives hinline hclosed, ?_, hleaves.frames, hleaves.camera, hleaves.number,
      hleaves.events, hleaves.line⟩
    rw [hleaves.closed]; simp [hclosed]
  case spooled =>
    obtain ⟨g, hleaves⟩ := processFrame_leaves (withPipe1 s none) n f
    exact ⟨_, g, frameProcessed_spooled hdrives hspooled hpipe, hleaves.pipe1, hleaves.frames, hleaves.number⟩
  case commit =>
    obtain ⟨hiw, fill, therm, hstore⟩ := storeCmd_sight hready (a := (F.SIGHT_CTX_COMMIT n).addr) (by dsimp only; omega) 1
    let b := beforeStore s hiw fill
    have hb : StnOk b := h
    have hcommit : exec (.ctxCommit n) s = .next (withTherm (ctxCommit b n) therm) := by
      rw [← storeSight_ctxCommit (s := b) hactive]; exact hstore
    exact ⟨fun hgood => ⟨_, hcommit, ctxCommit_takes hb n hgood⟩, fun hbad => ⟨_, hcommit, ctxCommit_refuses hb n hbad⟩⟩
  case exposure =>
    obtain ⟨hiw, fill, therm, hstore⟩ := storeCmd_sight hready (a := (F.SIGHT_EXP_GO m).addr) (by dsimp only; omega) 1
    let b := beforeStore s hiw fill
    have hb : StnOk b := h
    have hgo : exec (.expGo m) s = .next (withTherm (expGo b m) therm) := by
      rw [← storeSight_expGo (s := b) hactive]; exact hstore
    exact ⟨_, hgo, expGo_accepts hb m⟩

end Sys2Proof.Machine
end
